-- ==== Sys2Proof/Word.lean ====
section
/-! DEFINITION. The word types of the model and the two sparse containers: byte memory and keyed maps. -/

namespace Sys2Proof

/-- A byte; every in-memory structure is a little-endian sequence of bytes (R5). -/
abbrev Byte := BitVec 8

/-- A 64-bit word: fence values (R111), core registers (R145), global addresses (R299). -/
abbrev Word := BitVec 64

/-- Byte memory: (address, byte) pairs in one canonical form, addresses strictly rising, no zero byte listed.
An unlisted address reads as zero (DESIGN CHOICE, log entry 2). -/
abbrev Memory := List (Nat × Byte)

/-- A keyed map: (key, value) pairs, keys strictly rising. -/
abbrev FMap (α : Type) := List (Nat × α)

end Sys2Proof
end

