-- ==== Sys2Proof/Syntax.lean ====
section
/-! DEFINITION. The commands: one constructor per row of spec/opcode_table.json, with the operands that the row's rule
needs from outside the block. Whatever Scehione reads from its surroundings at a step (a value a read returns, an engine
report, a message, a register or dictionary access) is an operand of that step's command (log entry 3). -/

namespace Sys2Proof

/-- The origin ID of an access (R384): port, function and the two privilege bits. -/
structure Origin where
  port : Nat
  fn   : Nat
  priv : Nat
  deriving DecidableEq, Repr

/-- The path of an access, with the codes that R418 gives them. -/
inductive Path
  | view      -- 0: a host port's register view, the dictionary window included
  | i3c       -- 1
  | vdm       -- 2: PCIe vendor-defined message
  | secure    -- 3: secure path, secure view and mailbox
  | internal  -- 4
  | dbg       -- 5: debug/trace port
  deriving DecidableEq, Repr

/-- A doorbell write as it arrives at a register view (R77): offset in the view, width in bytes, data. -/
structure DbWrite where
  org   : Origin
  path  : Path
  off   : Nat
  width : Nat
  data  : Word
  deriving DecidableEq, Repr

/-- A write to a register view that is no doorbell (R391): offset in the view, width in bytes, data. -/
structure RegAcc where
  org   : Origin
  path  : Path
  off   : Nat
  width : Nat
  data  : Word
  deriving DecidableEq, Repr

/-- A dictionary operation (R407). `len` is the length in bytes that a WRITE carries; `value` is little-endian. -/
structure DictAcc where
  path  : Path
  org   : Origin
  tag   : Nat
  idx   : Nat
  sub   : Nat
  len   : Nat
  value : Nat
  deriving DecidableEq, Repr

/-- A submission queue (or the admin SQ of a port); also a completion queue (or the admin CQ of a port). -/
inductive QRef
  | q  (id : Nat)
  | aq (port : Nat)
  deriving DecidableEq, Repr

/-- The generation tags that every read carries (R87). -/
structure Tags where
  rgen : BitVec 6
  fgen : BitVec 8
  deriving DecidableEq, Repr

/-- What the beats of a reply carry beside their data: the generation tags, the host port that owns the read, and how many beats
delivered it (R87). -/
structure ReadTag where
  t     : Tags
  port  : Nat
  beats : Nat
  deriving DecidableEq, Repr

/-- A reply to a read of a heat, or of a TABLE_UPDATE work item: the submission entry that it serves, by SQ and ordinal. -/
structure HeatRead where
  sq  : Nat
  ord : Nat
  g   : ReadTag
  deriving DecidableEq, Repr

/-- A read that can reach the fetch timeout (R88, R201, R227, R285). -/
inductive ReadRef
  | producer   (q : QRef)
  | ring       (q : QRef)
  | cqConsumer (q : QRef)
  | program    (c : Nat)
  | fragTable  (tag : Nat)
  | beDesc     (tag : Nat)
  | expander   (c : Nat)
  | updBlock   (tag : Nat)
  deriving DecidableEq, Repr

/-- What an admin command takes from outside at its step: its source (0 to 3 AQ0 to AQ3, 4 the secure mailbox, as R336
numbers them) and bit `ACT_FUNCTION` of the port's function-present vector, sampled at the step (R99, R449). -/
structure AdminIn where
  src       : Nat
  presented : Bool
  deriving DecidableEq, Repr

/-- What ends a parameter read of an admin command (R104). -/
inductive ParamRead
  | members (l : List (BitVec 32))
  | image   (l : List Byte)
  | written
  | failed
  deriving DecidableEq, Repr

/-- The header of a Grizin message as it arrives on a link port (R311). -/
structure GzHdr where
  port  : Nat
  src   : Nat
  dst   : Nat
  gen   : BitVec 6
  seq   : BitVec 32
  tree  : Bool
  hops  : Nat
  detoured : Bool
  deriving DecidableEq, Repr

/-- Contents of TIME_ANNOUNCE (R252, R313). -/
structure Announce where
  nextFsync : Nat
  origin    : Nat
  length    : Nat
  pending   : Nat
  changeAt  : Nat
  corr      : Int
  deriving DecidableEq, Repr

/-- Contents of EPOCH_SEAL (R286, R313). -/
structure Seal where
  liveId : Nat
  epoch  : BitVec 32
  frame  : Nat
  count  : Nat
  units  : Nat
  crc    : BitVec 32
  deriving DecidableEq, Repr

/-- One update record (R284): a row number and the row's bytes. -/
structure UpdRec where
  row  : Word
  data : List Byte
  deriving DecidableEq, Repr

/-- A Grizin message (R313). The last field of a beacon and of its reply is the instant of its arrival; 0 on the way out. -/
inductive GzMsg
  | fenceSignal (addr value : Word) (ctx : BitVec 24)
  | fenceApplied (seq : BitVec 32) (outcome : Nat)
  | fenceWatch (addr value : Word)
  | fenceReached (addr value : Word)
  | fenceBusy (addr : Word)
  | fenceUnwatch (addr value : Word)
  | announce (a : Announce)
  | beacon (t1 t2 : Nat)
  | beaconReply (t1 t2 t3 t4 : Nat)
  | lateFrame (frame chip cause flags : Nat)
  | lengthRequest (len : Nat)
  | tideLeave (chip : Nat) (rack : Bool) (cause : Nat)
  | tideJoin (chip : Nat)
  | tideJoinAccept (frame : Nat)
  | updateData (live : Nat) (add : Bool) (recs : List UpdRec)
  | epochSeal (e : Seal)
  | sourceSuspend (live frame : Nat)
  | sourceResume (live : Nat) (epoch : BitVec 32) (frame : Nat)
  | peerAbort (chip part : Nat) (num : BitVec 32)
  | linkState (chip : Nat) (version : BitVec 32) (mask : BitVec 6)
  | linkIdent (w : Word)
  | heartbeat (count : BitVec 32)
  | testCtl (pattern : Nat) (start : Bool)
  | transit (type : BitVec 8) (payload : List Byte)
  deriving DecidableEq, Repr

/-- A message on its way out: originator and its generation, destination, whether it is a tree message, the hops taken and
whether one was a detour, sequence number, content (R311). -/
structure GzOut where
  src  : Nat
  gen  : BitVec 6
  dst  : Nat
  tree : Bool
  hops : Nat
  detoured : Bool
  seq  : BitVec 32
  msg  : GzMsg
  deriving DecidableEq, Repr

/-- The fields of a control slot but for `OP` (R155). -/
structure SlotFields where
  d    : BitVec 5
  a    : BitVec 5
  b    : BitVec 5
  i    : Bool
  func : BitVec 8
  imm  : BitVec 32
  deriving DecidableEq, Repr

/-- What a remote wait of R134 is: a core's control-slot wait, or an accepted L baton. -/
inductive RemoteWaitRef
  | core  (c : Nat)
  | baton (c : Nat) (id : Nat)
  deriving DecidableEq, Repr

/-- What an expander read brings back (R199 to R205, R217). -/
inductive XRead
  | block   (d : BitVec 512)
  | total   (n : Int)
  | feature (w : BitVec 32)
  | dir     (w : BitVec 256)
  | offsets (l : List Int)
  | bag     (idx : List Int) (weights : List (BitVec 32))
  deriving DecidableEq, Repr

/-- The end of a service operation of a nano word (R370, R372), with the value a read returns. -/
inductive SvcReply
  | none
  | ok      (v : Word)
  | timeout
  deriving DecidableEq, Repr

/-- What the symbol code has found in a word of SRAM (R326): one bad symbol, corrected, or where an uncorrectable word lies. -/
inductive SramWord
  | corrected
  | copy (what : Nat) (key : Nat)
  | heatState (c : Nat) (code : Nat)
  | other (unit : Nat)
  deriving DecidableEq, Repr

/-- The access whose dump time limit is reached (R332). -/
inductive DumpAccess
  | read  (unit : Nat)
  | write (port : Nat)
  deriving DecidableEq, Repr

/-- The commands, in the order of spec/opcode_table.json. -/
inductive Instr
  | ring (w : DbWrite)
  | holdInvalidate (w : DbWrite)
  | consumed (w : DbWrite)
  | pollExpiry (sq : Nat)
  | producerReadReturn (q : QRef) (t : Tags) (value : BitVec 32)
  | entryFetchIssue (q : QRef)
  | fetchBeatReturn (q : QRef) (t : Tags) (idx : BitVec 32) (data : List (BitVec 512))
  | fetchTimeout (r : ReadRef)
  | heat (sq : Nat)
  | barrier (sq : Nat)
  | tableUpdate (sq : Nat)
  | customerSubmission (sq : Nat)
  | reservedSubmissionOpcode (sq : Nat)
  | cqFullReread (cq : QRef)
  | cqConsumerReturn (cq : QRef) (t : Tags) (value : BitVec 32)
  | completionWrite (cq : Nat)
  | coalesceTimerExpiry (cq : Nat)
  | interruptRequest (port : Nat)
  | aqEnable (a : DictAcc) (port : Nat)
  | aqEnableReadComplete (port : Nat) (ok : Bool) (producer consumer : BitVec 32)
  | adminSqRing (w : DbWrite)
  | adminSqHoldInvalidate (w : DbWrite)
  | adminCqConsumed (w : DbWrite)
  | smbSubmit (r : RegAcc)
  | adminNop (x : AdminIn)
  | sqCreate (x : AdminIn) (producer : BitVec 32)
  | sqDestroy (x : AdminIn)
  | sqDestroyComplete (sq : Nat)
  | cqCreate (x : AdminIn) (consumer : BitVec 32)
  | cqDestroy (x : AdminIn)
  | contextCreate (x : AdminIn)
  | contextDestroy (x : AdminIn)
  | contextDestroyComplete (ctx : Nat)
  | contextQuery (x : AdminIn)
  | partitionCreate (x : AdminIn)
  | partitionDestroy (x : AdminIn)
  | groupDefine (x : AdminIn)
  | groupDelete (x : AdminIn)
  | adminParameterReadReturn (g : ReadTag) (r : ParamRead)
  | map (x : AdminIn)
  | unmap (x : AdminIn)
  | unmapFenceReached (src : Nat) (tag : BitVec 16)
  | residencyPreload (x : AdminIn)
  | residencyRelease (x : AdminIn)
  | yieldHint (x : AdminIn)
  | microcodeLoad (x : AdminIn)
  | microcodeChecksPassed
  | microcodeInstall
  | dumpBuffer (x : AdminIn)
  | customerAdmin (x : AdminIn)
  | reservedAdminOpcode (x : AdminIn)
  | fenceMissReadReturn (addr value : Word)
  | fenceWriteAck (addr : Word)
  | fenceSignal (h : GzHdr) (addr value : Word) (ctx : BitVec 24)
  | fenceApplied (h : GzHdr) (seq : BitVec 32) (outcome : BitVec 2)
  | fenceWatch (h : GzHdr) (addr value : Word)
  | fenceReached (h : GzHdr) (addr value : Word)
  | fenceBusy (h : GzHdr) (addr : Word)
  | fenceUnwatch (h : GzHdr) (addr value : Word)
  | remoteWatchRetry (addr value : Word)
  | remoteWaitDeadline (r : RemoteWaitRef)
  | scoreboardStall (part : Option Nat)
  | walkerPass
  | walkerPassEnd
  | slwIssue (c : Nat)
  | drainRelease (c : Nat)
  | pushQueueRoom (c : Nat)
  | syncRelease (c : Nat)
  | programLineReturn (c : Nat) (h : HeatRead) (va : Word) (words : List Word)
  | translationWalkReturn (ctx : BitVec 24) (va : Word) (write : Bool)
  | nop (c : Nat) (f : SlotFields)
  | halt (c : Nat) (f : SlotFields)
  | brk (c : Nat) (f : SlotFields)
  | info (c : Nat) (f : SlotFields)
  | add (c : Nat) (f : SlotFields)
  | sub (c : Nat) (f : SlotFields)
  | and (c : Nat) (f : SlotFields)
  | or (c : Nat) (f : SlotFields)
  | xor (c : Nat) (f : SlotFields)
  | shl (c : Nat) (f : SlotFields)
  | shr (c : Nat) (f : SlotFields)
  | sra (c : Nat) (f : SlotFields)
  | mul (c : Nat) (f : SlotFields)
  | minu (c : Nat) (f : SlotFields)
  | maxu (c : Nat) (f : SlotFields)
  | sltu (c : Nat) (f : SlotFields)
  | slt (c : Nat) (f : SlotFields)
  | seq (c : Nat) (f : SlotFields)
  | li (c : Nat) (f : SlotFields)
  | lih (c : Nat) (f : SlotFields)
  | aadd (c : Nat) (f : SlotFields)
  | amov (c : Nat) (f : SlotFields)
  | smov (c : Nat) (f : SlotFields)
  | ali (c : Nat) (f : SlotFields)
  | alih (c : Nat) (f : SlotFields)
  | ld64 (c : Nat) (f : SlotFields)
  | ld32 (c : Nat) (f : SlotFields)
  | st64 (c : Nat) (f : SlotFields)
  | st32 (c : Nat) (f : SlotFields)
  | lda (c : Nat) (f : SlotFields)
  | sta (c : Nat) (f : SlotFields)
  | br (c : Nat) (f : SlotFields)
  | beq (c : Nat) (f : SlotFields)
  | bne (c : Nat) (f : SlotFields)
  | bltu (c : Nat) (f : SlotFields)
  | bgeu (c : Nat) (f : SlotFields)
  | blt (c : Nat) (f : SlotFields)
  | bge (c : Nat) (f : SlotFields)
  | loop (c : Nat) (f : SlotFields)
  | arm (c : Nat) (f : SlotFields)
  | call (c : Nat) (f : SlotFields)
  | ret (c : Nat) (f : SlotFields)
  | fwait (c : Nat) (f : SlotFields)
  | fsignal (c : Nat) (f : SlotFields)
  | cdecl (c : Nat) (f : SlotFields)
  | fread (c : Nat) (f : SlotFields)
  | gsend (c : Nat) (f : SlotFields)
  | fdepth (c : Nat) (f : SlotFields)
  | xcall (c : Nat) (f : SlotFields)
  | reservedOpcode (c : Nat) (op : BitVec 8) (f : SlotFields)
  | heldSignalApply (c : Nat)
  | batonHandshake (c : Nat)
  | breakwaterRelease (c : Nat)
  | capRelease (c : Nat)
  | capStateTimeout
  | batonEnd (c : Nat) (report writeCrc : BitVec 32)
  | depthReport (c pos : Nat) (report : BitVec 32)
  | corePartEnd (c : Nat)
  | xcallAccept (c : Nat)
  | expanderReadReturn (c : Nat) (h : HeatRead) (d : XRead)
  | windowTurnover (c : Nat)
  | poolIssue (c : Nat)
  | xcallEnd (c : Nat)
  | occurrenceBegin (part res : Nat)
  | clusterRelease (run : Nat)
  | beDescriptorReadReturn (tag : Nat) (h : HeatRead) (d : BitVec 256)
  | bePlace (part : Nat)
  | beStarve (tag : Nat)
  | chunkStart (tag : Nat)
  | slotAssign (part : Nat)
  | hctRecordReadReturn (ctx : Nat)
  | eviction (part : Nat)
  | fsync (cycles width : Nat)
  | fsyncMissed
  | timeAnnounceSend
  | timeAnnounce (h : GzHdr) (a : Announce)
  | timeBeacon (h : GzHdr) (t1 t2 : Nat)
  | timeBeaconReply (h : GzHdr) (t1 t2 t3 t4 : Nat)
  | frameBegin
  | deadline (tag : Nat)
  | lateFrame (h : GzHdr) (frame chip cause flags : Nat)
  | frameLengthRequest (h : GzHdr) (len : Nat)
  | tideLeave (h : GzHdr) (chip : Nat) (rack : Bool) (cause : Nat)
  | tideJoin (h : GzHdr) (chip : Nat)
  | tideJoinAccept (h : GzHdr) (frame : Nat)
  | refLoss
  | refLossHoldExpiry
  | refReturn (stopNs : Nat)
  | sheetInstall (a : DictAcc) (part : Nat)
  | sheetReadReturn (part : Nat) (bytes : Option (List Byte))
  | sheetRemove (a : DictAcc) (part : Nat)
  | frameLengthNs (a : DictAcc)
  | frameChangeAt (a : DictAcc)
  | frameOriginNs (a : DictAcc)
  | timeSetNs (a : DictAcc)
  | updateHeaderReadReturn (tag : Nat) (h : HeatRead) (hdr : BitVec 256) (recs : List UpdRec)
  | updateData (h : GzHdr) (liveId : Nat) (additive : Bool) (recs : List UpdRec)
  | epochSeal (h : GzHdr) (e : Seal)
  | sourceSuspend (h : GzHdr) (liveId frame : Nat)
  | sourceResume (h : GzHdr) (liveId : Nat) (epoch : BitVec 32) (frame : Nat)
  | windowBegin (liveId : Nat)
  | tblApply (liveId : Nat)
  | applyEnd (liveId : Nat)
  | tblHold (a : DictAcc)
  | tblRelease (a : DictAcc)
  | resync (a : DictAcc) (reg dir : BitVec 256)
  | liveRegistryBase (a : DictAcc)
  | contextTableBase (a : DictAcc)
  | linkTrained (port : Nat)
  | linkIdent (port : Nat) (w : Word)
  | linkState (h : GzHdr) (chip : Nat) (version : BitVec 32) (mask : BitVec 6)
  | routeRecompute
  | linkHeartbeat (port : Nat) (count : BitVec 32)
  | heartbeatTimer (port : Nat)
  | linkDead (port : Nat)
  | linkDown (port : Nat)
  | crcErr (port : Nat)
  | retryReturn (port : Nat) (msgs : List GzOut) (packets : List Nat)
  | grizinForward (h : GzHdr) (type : BitVec 8) (payload : List Byte)
  | gapTimeout (src : Nat) (tree : Bool)
  | peerAbort (h : GzHdr) (chip part : Nat) (num : BitVec 32)
  | linkTestCtl (port : Nat) (pattern : Nat) (start : Bool)
  | linkTestStart (a : DictAcc) (port : Nat)
  | linkTestStop (a : DictAcc) (port : Nat)
  | testDurationExpiry (port : Nat)
  | planInstall (a : DictAcc)
  | planReadReturn (bytes : Option (List Byte))
  | linkOverride (a : DictAcc) (port : Nat)
  | chipNumber (a : DictAcc)
  | bypassDrive (axis : Nat)
  | unitProgressWatchdog (unit : Nat)
  | coreWaitWatchdog (c : Nat)
  | batonWatchdog (c id : Nat)
  | dispatchPortWatchdog (c : Nat)
  | writeAckWatchdog (addr : Word) (issued : Option Nat)
  | destructionWatchdog (ctx : Nat)
  | sramUncorrectable (x : SramWord)
  | recoveryStart (a : DictAcc)
  | fenceComplete
  | drainComplete
  | drainDeadline
  | dumpAccessLimit (x : DumpAccess)
  | dumpBudgetExpiry
  | dumpComplete
  | propagateComplete
  | resetReqTimer
  | resetGeneration (a : DictAcc)
  | chipResetAssert
  | chipResetRelease (fuses : BitVec 896) (supplyMv : Nat)
  | selftestEnd (pass : Bool)
  | shadowStart (run : Nat)
  | shadowStartTimeout (run : Nat)
  | arbitrationStart (run : Nat)
  | corpusCapture (run : Nat)
  | testDue (unit : Nat)
  | structuralTestStart (unit : Nat)
  | testSignatureReturn (unit : Nat) (sig : Word) (corpus : List (List (Nat × BitVec 32)))
  | testBudgetExpiry (unit : Nat)
  | testCmd (a : DictAcc)
  | unitState (a : DictAcc) (unit : Nat)
  | scanBase (a : DictAcc) (bytes : List Byte)
  | microword (m : Nat) (r : SvcReply)
  | completeEntry (m : Nat)
  | admitAs (m : Nat)
  | adminFinal (m : Nat)
  | pendOnFence (m : Nat)
  | pendResume (src : Nat) (tag : BitVec 16)
  | stepLimit (m : Nat)
  | bootLoad (a : DictAcc)
  | bootLoadComplete (bytes : Option (List Byte))
  | customerKeyHash (a : DictAcc)
  | snapshot (r : RegAcc)
  | cfgcrcCommit (r : RegAcc)
  | wideCommit (r : RegAcc)
  | crcPass
  | registerWrite (r : RegAcc)
  | dictRead (a : DictAcc)
  | dictWrite (a : DictAcc)
  | dictInfo (a : DictAcc)
  | calWrite (a : DictAcc)
  | setEndpointId (path : Path) (op eid : Nat)
  | getEndpointId (path : Path)
  | getMctpVersionSupport (path : Path) (type : Nat)
  | getMessageTypeSupport (path : Path)
  | errorUnsupportedCmd (path : Path) (cmd : Nat)
  | brownoutHold (mv : Nat)
  | holdRelease (mv : Nat)
  | supplyReset (mv : Nat)
  | monitorPass (periods : List (Nat × Nat))
  | clusterIdle (c : Nat)
  | clusterOff (c : Nat)
  | clusterWake (c : Nat)
  | powerStateReport (c st : Nat)
  | dbgContinue (r : RegAcc)
  | dbgStep (r : RegAcc)
  | haltReq (r : RegAcc)
  | brkTimeout (c : Nat)
  | grizinCrcDrop (port : Nat) (type : BitVec 8) (crcOk : Bool)
  | dictBadRequest (a : DictAcc)
  | inBandInterruptRead
  | supplyAboveResetLevel (mv : Nat)
  | resetAssertionMinimum
  deriving DecidableEq, Repr

end Sys2Proof
end

