-- ==== Sys2Proof/Config.lean ====
section
/-! DEFINITION. What the implementation fixes or the spec leaves open: constants with no body, so that no proof sees
their value. -/

namespace Sys2Proof

/-- The draw of the 16-bit linear-feedback generator (R347) by partition, class (true: LC) and number of the draw. The
spec gives neither polynomial nor seed (log entry 10). -/
opaque Config.shadowDraw : Nat → Bool → Nat → BitVec 16

/-- The Prihorn public key held in the block (R380), x and y (log entry 11). -/
opaque Config.prihornKey : Nat × Nat

/-- Which refusal `CTL_RESULT` names after a reserved `CTL_CMD`, less one, modulo 4 (R294; log entry 73). -/
opaque Config.ctlRefused : Nat → Nat

/-- Byte `i` of the 240 bytes of unit-private state of a dumped unit (R335: layout not specified; log entry 12). -/
opaque Config.unitPrivate : Nat → Nat → Byte

/-- The items that have been written to a port's buffer when the dump budget expires or a write to it reaches its limit (R332;
log entry 12). -/
opaque Config.dumpItems : Nat → Nat

/-- The carry of an ALU operation of customer code whose carry the spec does not state: operation code and operands (R370,
R372; log entry 13). -/
opaque Config.aluCarry : Nat → Word → Word → Bool

/-- The result of an ALU operation of customer code on operands for which the spec states none: operation code and operands
(R372: a shift by 64 or more, INSERT and CMP_FENCE, a range of more than 8 bytes; log entry 13). -/
opaque Config.aluResult : Nat → Word → Word → Word

/-- The `WRITE_CRC` that counts for a slot without a report of its own kind: an expander scratchpad write (R345, R346;
log entry 14). -/
opaque Config.scratchCrc : Nat → List Byte → BitVec 32

/-- The value of a fence that another chip holds, where a record names it (R140: the waiting chip holds no copy, R131; log
entry 15). -/
opaque Config.remoteFence : Word → Word

/-- The factor of a margin-advisory generation newer than any this chip has issued, by generation: the spec states none (R428,
R429; log entry 26). -/
opaque Config.laterFactor : Nat → Nat

/-- The private bytes of a context record (0x40 to 0xFF, R33: content not specified) as the write-through of a change of the
execution-slot state leaves them: number of the write, byte (R37; log entry 59). -/
opaque Config.ctxPrivate : Nat → Nat → Byte

/-- The bits that the checker of a port receives on the control channel during a link test: port, instant at which the test began, number
of the bit (R320: what the neighbour and the line send; log entry 69). -/
opaque Config.testLine : Nat → Nat → Nat → Bool

/-- The bits that a control channel carries in each direction in a microsecond (R302: up to 25 GB/s; log entry 69). -/
opaque Config.testRate : Nat

/-- 256 trace records are staged and not yet written to the ring when the record of this number arrives (R445: how fast the ring is
written is timing; log entry 77). -/
opaque Config.traceFull : Nat → Bool

/-- The version entries that an MCTP message type is answered with (R412 names no version; log entry 34). -/
opaque Config.mctpVersions : Nat → List Nat

/-- The instant of start that a LATE_START record names for a heat that ended, or went on to another occurrence, before it
started: the spec states none (R277; log entry 38). By the occurrence's beginning. -/
opaque Config.noStart : Nat → Nat

end Sys2Proof
end

