-- ==== Sys2Proof/Machine/Bits.lean ====
section
/-! DEFINITION. Bit fields, byte order, sparse maps, sparse byte memory and CRC-32C: the helpers that every unit uses. -/

namespace Sys2Proof.Machine

open Sys2Proof

/-! ## Bit fields (R5: bit 0 is the least significant) -/

/-- Field of `w` bits from bit `lo` of a bit vector, as a number. -/
def field {n : Nat} (x : BitVec n) (lo w : Nat) : Nat := (x.extractLsb' lo w).toNat

/-- Bit `i` of a bit vector. -/
def bitAt {n : Nat} (x : BitVec n) (i : Nat) : Bool := x.getLsbD i

/-- Field of `w` bits from bit `lo` of a number. -/
def nfield (x lo w : Nat) : Nat := (x >>> lo) % 2 ^ w

/-- A Bool as a one-bit number. -/
def b2n (b : Bool) : Nat := if b then 1 else 0

/-- Fields (position, width, value) packed into one number; a value wider than its field is cut. -/
def packFields : List (Nat × Nat × Nat) → Nat
  | [] => 0
  | (lo, w, v) :: fs => ((v % 2 ^ w) <<< lo) ||| packFields fs

/-- `n` little-endian bytes of a number (R5). -/
def leBytes : Nat → Nat → List Byte
  | 0, _ => []
  | n + 1, v => BitVec.ofNat 8 v :: leBytes n (v / 256)

/-- The number that little-endian bytes spell (R5). -/
def leValue : List Byte → Nat
  | [] => 0
  | b :: bs => b.toNat + 256 * leValue bs

/-- A little-endian field of `n` bytes at an offset of a byte string. -/
def bytesField (bs : List Byte) (off n : Nat) : Nat := leValue ((bs.drop off).take n)

/-- A number rounded up to a multiple of `m`. -/
def roundUp (x m : Nat) : Nat := (x + m - 1) / m * m

/-- `x + 1`, held at `2^n - 1` (a saturating count). -/
def satInc (n x : Nat) : Nat := if x + 1 < 2 ^ n then x + 1 else 2 ^ n - 1

/-- `x + k`, held at `2^n - 1`. -/
def satAdd (n x k : Nat) : Nat := if x + k < 2 ^ n then x + k else 2 ^ n - 1

/-- Sign extension of a 32-bit immediate to 64 bits (R155). -/
def sext32 (x : BitVec 32) : Word := x.signExtend 64

/-- The smallest number of at least `start` that the list lacks, searching at most `fuel` numbers. -/
def lowestFree (used : List Nat) : Nat → Nat → Option Nat
  | _, 0 => none
  | start, fuel + 1 => if used.contains start then lowestFree used (start + 1) fuel else some start

/-- Number of set bits among the low `n` bits. -/
def popCount (x : Nat) : Nat → Nat
  | 0 => 0
  | n + 1 => (if x.testBit n then 1 else 0) + popCount x n

/-- The positions of the set bits among the low `n` bits, ascending. -/
def setBits (x n : Nat) : List Nat := (List.range n).filter x.testBit

/-! ## Keyed maps -/

/-- The value at a key, if the key is listed. -/
def fmGet? {α : Type} (m : FMap α) (k : Nat) : Option α :=
  match m with
  | [] => none
  | (j, v) :: t => if j = k then some v else fmGet? t k

/-- The value at a key, or the value that an unlisted key stands for. -/
def fmGet {α : Type} (m : FMap α) (k : Nat) (d : α) : α := (fmGet? m k).getD d

/-- Is the key listed? -/
def fmHas {α : Type} (m : FMap α) (k : Nat) : Bool := (fmGet? m k).isSome

/-- The map with a value at a key; keys stay rising. -/
def fmSet {α : Type} (m : FMap α) (k : Nat) (v : α) : FMap α :=
  match m with
  | [] => [(k, v)]
  | (j, w) :: t => if k < j then (k, v) :: (j, w) :: t else if j = k then (k, v) :: t else (j, w) :: fmSet t k v

/-- The map without a key. -/
def fmErase {α : Type} (m : FMap α) (k : Nat) : FMap α := m.filter (fun p => p.1 ≠ k)

/-- The map with a function applied to the value at a key, if the key is listed. -/
def fmMod {α : Type} (m : FMap α) (k : Nat) (f : α → α) : FMap α :=
  m.map (fun p => if p.1 = k then (p.1, f p.2) else p)

/-- The keys listed. -/
def fmKeys {α : Type} (m : FMap α) : List Nat := m.map Prod.fst

/-! ## Byte memory in canonical form: addresses strictly rising, no zero byte listed -/

/-- The canonical form holds. -/
def Memory.wf : Memory → Bool
  | [] => true
  | (_, v) :: [] => v != 0
  | (a, v) :: (a', v') :: t => v != 0 && decide (a < a') && Memory.wf ((a', v') :: t)

/-- One byte; an unlisted address reads as zero (DESIGN CHOICE, log entry 2). -/
def memRead (m : Memory) (a : Nat) : Byte :=
  match m with
  | [] => 0
  | (j, v) :: t => if j = a then v else memRead t a

/-- A byte listed at its place. -/
def memPut (m : Memory) (a : Nat) (v : Byte) : Memory :=
  match m with
  | [] => [(a, v)]
  | (j, w) :: t => if a < j then (a, v) :: (j, w) :: t else if j = a then (a, v) :: t else (j, w) :: memPut t a v

/-- One byte written; writing zero unlists the address. -/
def memWrite (m : Memory) (a : Nat) (v : Byte) : Memory :=
  if v = 0 then m.filter (fun x => decide (x.1 ≠ a)) else memPut m a v

/-- Bytes written from an address upwards. -/
def memWriteBytes (m : Memory) (a : Nat) : List Byte → Memory
  | [] => m
  | b :: bs => memWriteBytes (memWrite m a b) (a + 1) bs

/-- `n` bytes read from an address upwards. -/
def memReadBytes (m : Memory) (a : Nat) : Nat → List Byte
  | 0 => []
  | n + 1 => memRead m a :: memReadBytes m (a + 1) n

/-- A little-endian number of `n` bytes read from memory. -/
def memReadLE (m : Memory) (a n : Nat) : Nat := leValue (memReadBytes m a n)

/-- A little-endian number of `n` bytes written to memory. -/
def memWriteLE (m : Memory) (a n v : Nat) : Memory := memWriteBytes m a (leBytes n v)

/-! ## CRC-32C (R400: initial value and final exclusive-or 0xFFFF_FFFF; PRESUMED, log entry 57: the reflected Castagnoli polynomial) -/

/-- One bit of the CRC. -/
def crcBit (c : BitVec 32) : BitVec 32 :=
  if c.getLsbD 0 then (c >>> 1) ^^^ 0x82F63B78#32 else c >>> 1

/-- One byte of the CRC. -/
def crcByte (c : BitVec 32) (b : Byte) : BitVec 32 :=
  crcBit (crcBit (crcBit (crcBit (crcBit (crcBit (crcBit (crcBit (c ^^^ b.zeroExtend 32))))))))

/-- CRC-32C of bytes. -/
def crc32c (bs : List Byte) : BitVec 32 := bs.foldl crcByte 0xFFFFFFFF#32 ^^^ 0xFFFFFFFF#32

end Sys2Proof.Machine
end

