-- ==== Sys2Proof/Machine/State.lean ====
section
/-! DEFINITION. The state of the block: every register, queue, buffer, counter, mode and pin that the spec gives it, as
plain data, the queue of waiting commands, and the state after reset. -/

namespace Sys2Proof.Machine

open Sys2Proof

/-! ## Contexts, partitions, mappings and groups (spec/02_objects.md) -/

/-- The `STATE` of a context (R34), with its codes. -/
inductive CtxState
  | free | created | resident | blocked | lost | destroying
  deriving DecidableEq, Repr

/-- A context record that is not Free (R33), with the residency arbiter's private state of it (R37, R237 to R240). -/
structure Ctx where
  handle     : BitVec 24
  state      : CtxState
  ownerPort  : Nat
  ownerFn    : Nat
  part       : Nat
  lostCause  : Nat
  ptRoot     : Nat
  span       : Nat
  lostTime   : Nat
  completed  : Nat
  aborted    : Nat
  replayed   : Nat
  created    : Nat
  slot       : Option Nat
  yielding   : Bool
  slotWait   : Option Nat
  blockedAt  : Nat
  evictAt    : Nat
  idleAt     : Nat
  destroyBy  : Nat
  deriving DecidableEq, Repr

/-- A partition (R47); ranges are (base, length) in 2 MiB units. -/
structure Partition where
  clusters  : BitVec 64
  ranges    : List (Nat × Nat)
  slots     : Nat
  portMask  : Nat
  remoteMap : Bool
  deriving DecidableEq, Repr

/-- A group (R58, R59): its members (kind code, value) and the flattened set (clusters of a local group, chips of a
domain group). -/
structure Group where
  members : List (Nat × Nat)
  flat    : List Nat
  deriving DecidableEq, Repr

/-- An entry of the translation cache (R50, R56). -/
structure TlbEnt where
  ctx      : BitVec 24
  vbase    : Nat
  size     : Nat
  gbase    : Nat
  writable : Bool
  deriving DecidableEq, Repr

/-- Contexts, partitions, groups and the translation cache; `slotWrites` counts the write-throughs of execution-slot state (the
model's own, R37). Free IDs at or above `fresh` have never been used; `freed`
holds the IDs freed since, the longest free first (R31). -/
structure Objects where
  ctxs   : FMap Ctx
  incs   : FMap Nat
  fresh  : Nat
  freed  : List Nat
  hct    : List Nat
  parts  : FMap Partition
  groups : FMap Group
  tlb    : List TlbEnt
  slotWrites : Nat
  deriving DecidableEq, Repr

/-! ## Submission and completion queues (spec/03_queues.md) -/

/-- `STATE` of an SQ QCB (R66). -/
inductive SqState
  | active | held | halted
  deriving DecidableEq, Repr

/-- A read of a queue's driver index (R80): wanted and not issued, or in flight since an instant, with whether a
further read follows it. -/
inductive IdxRead
  | idle
  | wanted
  | flying (issued : Nat) (again : Bool)
  deriving DecidableEq, Repr

/-- A fetch request in flight (R83): the entries not yet received, those of them that a backward `PRODUCER` has withdrawn (R70),
and the instant of issue. -/
structure Fetch where
  missing : List (BitVec 32)
  drop    : List (BitVec 32)
  issued  : Nat
  deriving DecidableEq, Repr

/-- What is known of the flagged entry of a batch (R92). -/
structure BatchEnd where
  tag   : BitVec 16
  ctx   : BitVec 24
  cls   : Nat
  frame : Nat
  sbTag : Option Nat
  deriving DecidableEq, Repr

/-- A batch of an SQ that has not been reported (R92): its first entry's ordinal, its entries so far, how many have
ended, how many with a status other than DONE, the first of these in ring order with its status, and the tags of those whose
completion still waits for memory (R14). -/
structure Batch where
  first   : Nat
  waits   : List Nat
  count   : Nat
  closed  : Bool
  ended   : Nat
  nonDone : Nat
  worst   : Option (Nat × Nat)
  lastEnd : Nat
  tail    : Option BatchEnd
  deriving DecidableEq, Repr

/-- A submission queue, or the admin SQ of a port (R62, R63, R66, R97). `holdReq` is a HOLD_INVALIDATE that waits for the
entry under check (R86 step 1); `pinHeld` and `bwHeld` are holds already counted (R122, R244). `hostPort` is the port of its
accesses to host memory (R64, R98), `homeGone` says that the home context's destruction has completed (R63), `rung` that a
doorbell causes the read that waits (R81), and `probe` are the fences that its next entry waits on as far as they have been read
while every cached fence is pinned (R122). -/
structure Sq where
  ownerPort : Nat
  ownerFn   : Nat
  hostPort  : Nat
  cq        : Nat
  home      : BitVec 24
  homeGone  : Bool
  rung      : Bool
  probe     : List (Word × Option Word)
  part      : Nat
  high      : Bool
  pollUs    : Nat
  nextPoll  : Nat
  log2      : Nat
  ringHost  : Bool
  qcbHost   : Bool
  ringAddr  : Nat
  qcbAddr   : Nat
  consumer  : BitVec 32
  producer  : BitVec 32
  fetchPtr  : BitVec 32
  gen       : BitVec 8
  st        : SqState
  rejected  : Nat
  lastEvent : Nat
  rd        : IdxRead
  fetches   : List Fetch
  cache     : List (BitVec 32 × BitVec 512)
  sinceWb   : Nat
  ordinal   : Nat
  batches   : List Batch
  dying     : Bool
  abortAll  : Bool
  holdReq   : Bool
  pinHeld   : Bool
  bwHeld    : Bool
  deriving DecidableEq, Repr

/-- `KIND` of a completion entry (R89). -/
inductive CqKind
  | item | batch | event
  deriving DecidableEq, Repr

/-- A completion that waits to be written to its CQ (R89, R93); `first` is a batch's first ordinal, `sbTag` is the scoreboard tag it keeps (R125), and
`waits` are the tags of the work items it reports whose fences are not in memory yet (R14, R330). -/
structure CqEnt where
  tag      : BitVec 16
  status   : Nat
  kind     : CqKind
  sq       : Nat
  nonDone  : Nat
  entries  : Nat
  event    : Nat
  time     : Nat
  ctx      : BitVec 24
  cls      : Nat
  frame    : Nat
  sbTag    : Option Nat
  waits    : List Nat
  first    : Nat
  deriving DecidableEq, Repr

/-- A completion of an admin command that waits to be written (R101), with the command's `ACT_FUNCTION`. -/
structure AdminCompl where
  tag    : BitVec 16
  status : Nat
  event  : Bool
  opcode : Nat
  detail : Nat
  code   : Nat
  time   : Nat
  result : Nat
  fn     : Nat
  deriving DecidableEq, Repr

/-- A completion queue, or the admin CQ of a port (R62, R67, R93, R94). -/
structure Cq where
  ownerPort  : Nat
  ownerFn    : Nat
  hostPort   : Nat
  log2       : Nat
  ringHost   : Bool
  qcbHost    : Bool
  ringAddr   : Nat
  qcbAddr    : Nat
  producer   : BitVec 32
  consumer   : BitVec 32
  full       : Bool
  fullEvents : Nat
  gen        : BitVec 8
  rd         : IdxRead
  lastRead   : Nat
  bad        : Bool
  hold       : List CqEnt
  aHold      : List AdminCompl
  unreported : Nat
  oldest     : Option Nat
  vector     : Nat
  count      : Nat
  timeUs     : Nat
  lcImm      : Bool
  intEn      : Bool
  deriving DecidableEq, Repr

/-- An admin queue pair (R95, R96): whether it takes entries, whether the reads of R96 are outstanding with the write
they answer, and the two rings. -/
structure Aq where
  enabled  : Bool
  enabling : Option DictAcc
  sq       : Sq
  cq       : Cq
  deriving DecidableEq, Repr

/-- An interrupt request towards a host-port controller (R94, R101, R450). -/
structure IntReq where
  fn     : Nat
  vector : Nat
  deriving DecidableEq, Repr

/-- A fetch request that its queue has given up and whose replies are still to come: it counts against the limits of R83 until
they have arrived or its timeout has passed. `host` says that it went to host memory, on the port `port`; `owner` is the port of
the queue's owner (R87), and `gone` says that the queue is no more. -/
structure LateFetch where
  q       : QRef
  gone    : Bool
  host    : Bool
  port    : Nat
  owner   : Nat
  gen     : BitVec 8
  missing : List (BitVec 32)
  issued  : Nat
  deriving DecidableEq, Repr

/-- Queues, the fetch requests given up, and the interrupt requests that wait at each host port. -/
structure Queues where
  late : List LateFetch
  sqs  : FMap Sq
  cqs  : FMap Cq
  aqs  : FMap Aq
  ints : FMap (List IntReq)
  rr   : FMap Nat
  deriving DecidableEq, Repr

/-! ## Admin commands (spec/04_admin_commands.md) -/

/-- Why the executor waits for a read or write outside (R104). -/
inductive ParamWait
  | members (group : Nat) (count : Nat)
  | image
  | query (st : Nat) (bytes : List Byte)
  deriving DecidableEq, Repr

/-- The command that the executor has taken and not finished (R105): its source, entry, what it waits for, and the generation that
its reads carry (R87). -/
structure AdminBusy where
  src   : Nat
  entry : BitVec 512
  wait  : ParamWait
  gen   : BitVec 8
  deriving DecidableEq, Repr

/-- For whom a customer handler runs (R376). -/
inductive HandlerFor
  | sub (sq : Nat)
  | admin (src : Nat) (tag : BitVec 16) (opcode port : Nat)
  deriving DecidableEq, Repr

/-- A microsequencer (R365, R373) with the customer invocation it runs: micro address, working registers, loop counter,
microwords counted and their limit, whether PEND_ON_FENCE has been used, last reply, ALU result with its carry, last
fence comparison. -/
structure MicroSeq where
  who    : Option HandlerFor
  entry  : BitVec 512
  ctx    : Option (BitVec 24)
  pc     : Nat
  regs   : FMap Word
  count  : Nat
  steps  : Nat
  limit  : Nat
  pend   : Bool
  reply  : Nat
  result : Word
  carry  : Bool
  fence  : Nat
  deriving DecidableEq, Repr

/-- The remaining work of a command that has written ADMIN_PENDING (R105). -/
inductive PendKind
  | sqDestroy (sq : Nat)
  | ctxDestroy (handle : BitVec 24)
  | unmap (handle : BitVec 24) (va : Nat) (big : Bool) (fence value : Word)
  | microcode
  | customer (ms : MicroSeq) (fence value : Word)
  deriving DecidableEq, Repr

/-- A pending admin command; `no` tells it from every other (R105). -/
structure Pend where
  no     : Nat
  src    : Nat
  tag    : BitVec 16
  opcode : Nat
  fn     : Nat
  port   : Nat
  kind   : PendKind
  deriving DecidableEq, Repr

/-- The admin executor, the number of the next pending command, the mailbox (R397) and the registered dump buffers (R110: address and
length by port); `held` says that the breakwater holds the read of an SQ_CREATE and the hold has been counted (R244). -/
structure Admin where
  held     : Bool
  busy     : Option AdminBusy
  pend     : List Pend
  pendNo   : Nat
  mbEntry  : Option (BitVec 512)
  mbBusy   : Bool
  mbDone   : Bool
  mbRegs   : FMap Nat
  mbCompl  : BitVec 256
  dumpBufs : FMap (Nat × Nat)
  everEnabled : Bool
  deriving DecidableEq, Repr

/-! ## Fences and the scoreboard (spec/05_fences_dependencies.md) -/

/-- Who waits on a fence; a pending command is named by its number. -/
inductive Waiter
  | item (tag : Nat) (second : Bool)
  | core (c : Nat) (credit : Bool)
  | chip (n : Nat)
  | unmap (no : Nat)
  | handler (no : Nat)
  deriving DecidableEq, Repr

/-- A registered wait or a remote watch (R119, R131). -/
structure FWaitRec where
  addr  : Word
  value : Word
  who   : Waiter
  deriving DecidableEq, Repr

/-- A cached fence (R122): its value, its age in the order of use, and whether its page has left the mappings (R124). -/
structure FenceEnt where
  value : Word
  used  : Nat
  drop  : Bool
  deriving DecidableEq, Repr

/-- What follows the acknowledgement of a fence write-through (R123), or the FENCE_APPLIED of a remote signal (R132). -/
inductive AfterSignal
  | nothing
  | itemDone (tag : Nat)
  | heldDone (c : Nat)
  | applied (chip : Nat) (seq : BitVec 32) (outcome : Nat)
  | reached (chip : Nat) (addr value : Word)
  deriving DecidableEq, Repr

/-- A write-through whose acknowledgement is outstanding: when its watchdog expires (R323), and the write-throughs (address,
value) that must be acknowledged before it is issued (R330). -/
structure FWrite where
  addr  : Word
  value : Word
  due   : Nat
  deps  : List (Word × Word)
  after : List AfterSignal
  deriving DecidableEq, Repr

/-- Who signals a fence (R116, R140): chip, context, scoreboard tag and partition, the write-throughs that its own must
follow (R330), and what follows the signal. -/
structure SigBy where
  chip  : Nat
  ctx   : BitVec 24
  tag   : Nat
  part  : Nat
  deps  : List (Word × Word)
  after : AfterSignal
  deriving DecidableEq, Repr

/-- An operation on a fence (R116): a wait or remote watch, a core's FREAD, the starter's read for an SQ whose next entry waits
while every cached fence is pinned (R122), a signal. -/
inductive FOp
  | wait (w : Waiter) (value : Word)
  | read (c : Nat)
  | probe (sq : Nat)
  | signal (value : Word) (who : SigBy)
  deriving DecidableEq, Repr

/-- An operation that waits for the read of its fence after a cache miss (R119, R163): whether the page has left the mappings
meanwhile (R124), and whether a hold for want of an unpinned fence has been counted (R122). -/
structure FMiss where
  addr : Word
  op   : FOp
  drop : Bool
  held : Bool
  deriving DecidableEq, Repr

/-- What the acknowledgement of other write-throughs holds back (R330): the completion of a work item, or a signal to another
chip's fence. -/
inductive AckThen
  | done (tag : Nat)
  | remote (addr value : Word) (who : SigBy)
  deriving DecidableEq, Repr

/-- Something that follows write-throughs (address, value) of the fences that released a work item. -/
structure AckWait where
  deps : List (Word × Word)
  next : AckThen
  deriving DecidableEq, Repr

/-- A watch sent to another chip (R131): the pair, and the retry instant after FENCE_BUSY (R133). -/
structure RWatch where
  addr  : Word
  value : Word
  sent  : Bool
  retry : Option Nat
  deriving DecidableEq, Repr

/-- A signal sent to another chip whose FENCE_APPLIED is outstanding (R132). -/
structure RSignal where
  seq   : BitVec 32
  chip  : Nat
  after : AfterSignal
  deriving DecidableEq, Repr

/-- The fence cache, the waits, the writes and the fence traffic with other chips. -/
structure Fences where
  cache   : FMap FenceEnt
  clock   : Nat
  waits   : List FWaitRec
  writes  : List FWrite
  misses  : List FMiss
  acks    : List AckWait
  watches : List RWatch
  signals : List RSignal
  supp    : FMap (Nat × Nat)
  deriving DecidableEq, Repr

/-- What a work item does (R72). -/
inductive ItemKind
  | heat | barrier | tableUpdate
  deriving DecidableEq, Repr

/-- Where a work item stands. -/
inductive ItemStage
  | waiting | composer | running | signalling | updating | ended
  deriving DecidableEq, Repr

/-- A wait of a work item (R119). -/
inductive ItemWait
  | done
  | missing (addr value : Word)
  | registered (addr value : Word)
  deriving DecidableEq, Repr

/-- The chunks of a document (R233, R234): its tokens, the chunk length, the chunks in flight at once, the number of chunks,
the next chunk, those that became pending again, those in flight, and what the ended ones leave. -/
structure Doc where
  tokens   : Nat
  len      : Nat
  par      : Nat
  total    : Nat
  next     : Nat
  again    : List Nat
  flying   : Nat
  failed   : Option Nat
  skips    : Bool
  replayed : Bool
  deriving DecidableEq, Repr

/-- A work item of the scoreboard (R125); `freed` are the fences, with their values, that released its waits (R330);
`descRd` is the read of its BE heat descriptor (R227), `starveBy` when it has waited too long (R232); `fgen` is the generation
that its heat's reads carry (R87), and `kept` says that a completion keeps its tag (R125). -/
structure Item where
  sq      : Nat
  ord     : Nat
  fgen    : BitVec 8
  kept    : Bool
  entry   : BitVec 512
  ctx     : BitVec 24
  part    : Nat
  kind    : ItemKind
  w0      : ItemWait
  w1      : ItemWait
  freed   : List (Word × Word)
  stage   : ItemStage
  readyNo : Nat
  descRd  : IdxRead
  desc    : Option (BitVec 256)
  starveBy : Nat
  starved : Bool
  doc     : Option Doc
  frame   : Nat
  started : Bool
  stop    : Option Nat
  status   : Nat
  endAt    : Option Nat
  startAt  : Nat
  replayed : Bool
  deriving DecidableEq, Repr

/-- The scoreboard, with since when it, or a partition's quota, has been full, and the report period of that stall (R126 to R128,
R143). -/
structure Scoreboard where
  items     : FMap Item
  full      : Bool
  fullSince : Option (Nat × Nat)
  quota     : FMap (Nat × Nat)
  readySeq  : Nat
  deriving DecidableEq, Repr

/-- A cycle that a walker pass found (R137): its heats, the credit values at the pass's start, and its youngest waiter with the core
that waits and since when. -/
structure CreditSet where
  runs   : List Nat
  values : List (Word × Word)
  young  : Nat
  core   : Nat
  since  : Nat
  deriving DecidableEq, Repr

/-- The wait-cycle walker (R137, R138): the cycles of the pass under way and of the pass before, and how the last ended signaller
of each credit ended (true: by abort). -/
structure Walker where
  due    : Nat
  pass   : Option (List CreditSet)
  prev   : List CreditSet
  enders : FMap Bool
  deriving DecidableEq, Repr

/-! ## Control cores (spec/06_long_words.md) -/

/-- A fragment of an indirect program (R75): its offset in the whole stream, address, length and memory. -/
structure Frag where
  start : Nat
  va    : Nat
  len   : Nat
  host  : Bool
  deriving DecidableEq, Repr

/-- A stream (R162): its fragments (one for a direct program and for an armed stream), and, for an indirect program
whose table has not all arrived, the fragments still to read and the table's address. -/
structure Stream where
  frags : List Frag
  len   : Nat
  table : Option (Nat × Nat)
  deriving DecidableEq, Repr

/-- A call level (R162): its stream, and the offset at which its caller resumes. -/
structure Level where
  stream : Stream
  ret    : Nat
  deriving DecidableEq, Repr

/-- A loop of the loop stack (R160): body start and end, passes left, iteration register, iteration number, level. -/
structure LoopRec where
  first : Nat
  last  : Nat
  count : Nat
  reg   : Nat
  iter  : Nat
  level : Nat
  deriving DecidableEq, Repr

/-- A change of control flow that takes effect at the end of an SLW (R152 step 5). -/
inductive Flow
  | seq
  | goto (off : Nat)
  | loop (skip : Bool) (first last count reg : Nat)
  | arm (va len : Nat)
  | call (va len : Nat)
  | ret
  | stop
  deriving DecidableEq, Repr

/-- Why a core holds (R152, R153, R163, R166). `pend` is a hold whose cause has ended. -/
inductive Hold
  | none
  | drain
  | pushQueue
  | localFence (addr value : Word) (credit : Bool)
  | remoteFence (addr value : Word) (deadline : Nat) (credit : Bool)
  | fenceRead (addr : Word)
  | remoteRead (addr : Word) (deadline : Nat)
  | pinned (addr value : Word) (credit : Bool)
  | walk (va : Nat) (write : Bool)
  | calls
  | sync
  | line (va : Nat) (host issued : Bool)
  | table (va count : Nat) (issued : Bool)
  deriving DecidableEq, Repr

/-- The step of R152 at which an SLW stands. -/
inductive SlwStage
  | drain | c0 | c1 | engines | flow
  deriving DecidableEq, Repr

/-- An SLW in progress on a core: its offset, header and slots, its length, where it stands, the next engine position, the
change of flow, the SYNC calls it made. `value` holds what a hold brought back for the slot
that held. -/
structure Slw where
  off   : Nat
  hdr   : Word
  c0    : Option Word
  c1    : Option Word
  eng   : List (Nat × BitVec 256)
  len   : Nat
  stage : SlwStage
  engAt : Nat
  flow  : Flow
  value : Option Word
  sync  : List Nat
  deriving DecidableEq, Repr

/-- A patched engine slot in a push queue, or an expander baton queued at a port: everything R188 says the baton
carries but its ID, what R242 charges it: (bucket, bytes), and its sequence number among its source's slots at the position
(R346). -/
structure PushEnt where
  pos    : Nat
  slot   : BitVec 256
  gA     : Word
  gB     : Word
  split  : Nat
  idxAddr : Nat
  idxType : Nat
  idxLimit : Nat
  idxFirst : Nat
  charge : List (Nat × Nat)
  num    : Nat
  deriving DecidableEq, Repr

/-- A held control-slot signal or GSEND (R117, R164): the fences, each by the virtual address that is translated when the signal
is applied (R120) and, for a domain group, the member chip; the value, how many batons the core had pushed when it was issued, and the
expander calls then outstanding. -/
structure HeldSig where
  fences : List (Nat × Option Nat)
  value  : Word
  after  : Nat
  calls  : List Nat
  deriving DecidableEq, Repr

/-- A line of the program window (R148): context, virtual address, memory, and its 64-bit words. -/
structure Line where
  ctx   : BitVec 24
  va    : Nat
  host  : Bool
  words : List Word
  deriving DecidableEq, Repr

/-- Why a stopped core stopped (R440). -/
inductive StopCause
  | brk | haltReq | step
  deriving DecidableEq, Repr

/-- A stop of a core (R438 to R441): its cause, code, and since when. -/
structure Stop where
  cause : StopCause
  code  : Nat
  since : Nat
  deriving DecidableEq, Repr

/-- A control core: `bound` says that its last hold left its SLW at a boundary (R170), `waitBy` is when the core-wait watchdog of its hold expires (R323), `wipe` says that its data window is to be
cleared before its next run (R326). -/
structure CoreSt where
  run      : Option Nat
  s        : FMap Word
  a        : FMap Word
  data     : Memory
  lastCtx  : Option (BitVec 24)
  lines    : List Line
  levels   : List Level
  loops    : List LoopRec
  off      : Nat
  ended    : Bool
  slw      : Option Slw
  hold     : Hold
  holdFrom : Nat
  bound    : Bool
  waitBy   : Nat
  wipe     : Bool
  pushQ    : List PushEnt
  lastSlot : FMap (BitVec 256)
  skips    : Nat
  held     : List HeldSig
  sending  : Nat
  credits  : List Word
  pushed   : Nat
  calls    : List Nat
  syncCall : List Nat
  haltReq  : Bool
  stepping : Bool
  brkStop  : Option Stop
  slwCnt   : Nat
  batonCnt : Nat
  holdNs   : Nat
  heatSeq  : Nat
  deriving DecidableEq, Repr

/-! ## Engine slots, batons and cluster ports (spec/07_engine_slots.md) -/

/-- An accepted baton that has not ended (R188): its ID, the entry it came from, the run it belongs to, its order among
the core's batons, the expander call it belongs to, when it was accepted, and when its watchdog or, on an L engine, its remote wait
expires (R134, R323); `copy`
marks a COPY of a capture (R355), and `cancelled` an L baton for which a cancel has gone out, whose status infers no fault (R316). -/
structure Baton where
  id       : Nat
  ent      : PushEnt
  run      : Nat
  order    : Nat
  call     : Option Nat
  slots    : List Nat
  bag      : Option Nat
  since    : Nat
  deadline : Nat
  copy     : Bool
  cancelled : Bool
  deriving DecidableEq, Repr

/-- What the expander queues at a cluster port (R212, R213, R215). -/
inductive XWork
  | gather (e : PushEnt) (slots : List Nat)
  | pool (e : PushEnt) (bag : Nat)
  | write (addr : Nat) (bytes : List Byte) (bag : Option Nat)
  deriving DecidableEq, Repr

/-- Work of an expander call at its cluster port. -/
structure XEnt where
  call : Nat
  run  : Nat
  work : XWork
  deriving DecidableEq, Repr

/-- Why the head of a source is held at its port, so that each hold is counted once (R192, R244, R246); `cap` has the class
of a baton that the power cap holds (true: LC). -/
structure HeldMark where
  credit : Bool
  bucket : Bool
  cap    : Option Bool
  deriving DecidableEq, Repr

/-- A cluster port: credits and last reported free entries by position (an unlisted position has 64), the batons that
have not ended, the expander's queue, and which source went last (R17); `capX` says for the head of which source (true: the
expander's) the inputs are being captured, and `copies` are the COPY batons still to hand over (R355). -/
structure CPort where
  credit : FMap Nat
  free   : FMap Nat
  out    : List Baton
  xq     : List XEnt
  lastX  : Bool
  coreHeld : HeldMark
  xHeld    : HeldMark
  scratch  : Memory
  capX     : Option Bool
  copies   : List PushEnt
  deriving DecidableEq, Repr

/-! ## Sparse lookup expander (spec/08_lookup_expander.md) -/

/-- Where an expander call stands: not yet accepted, reading its block, the index count, a feature-list entry, a directory
entry, the offsets or a bag, waiting for dedup store or for a turnover, or with every bag admitted. -/
inductive XPhase
  | accept | block | total | storeWait | feature | dir | offsets | bag | turnover | issued
  deriving DecidableEq, Repr

/-- A bag whose POOL baton has not been issued (R213). -/
structure BagRec where
  bag   : Nat
  first : Nat
  len   : Nat
  dir   : BitVec 256
  col   : Nat
  sample : Nat
  slots : List Nat
  deriving DecidableEq, Repr

/-- A group of keys, admitted one after another, that one GATHER brings (R212): table, first row, rows, first slot. -/
structure GatherRun where
  table : Nat
  row   : Nat
  count : Nat
  slot  : Nat
  deriving DecidableEq, Repr

/-- An expander call (R199 to R216): the slot that made it, for a skip record, its phase with the read it has issued and
when, its block, the index count, the feature and sample it has come to, the feature's list entry and clamped offsets, the
position it has come to, cached directory entries, the bag it has read, the last group of keys admitted, whose GATHER may still grow,
and the bags not yet pooled. -/
structure XCall where
  core    : Nat
  run     : Nat
  va      : Nat
  slot    : Word
  slotNo  : Nat
  off     : Nat
  streamVa : Nat
  phase   : XPhase
  issued  : Bool
  since   : Nat
  blk     : BitVec 512
  n       : Nat
  f       : Nat
  b       : Nat
  entry   : BitVec 32
  dirs    : FMap (BitVec 256)
  offs    : List Nat
  prev    : Nat
  bagIdx  : List Int
  bagWt   : List (BitVec 32)
  deadBags : Bool
  last    : Option GatherRun
  bags    : List BagRec
  vRot    : Nat
  deriving DecidableEq, Repr

/-- The dedup window of a run on a cluster (R206, R207): the row buffer it serves and its keys (table, row) in slot
order; `ready` are the slots whose gather has ended. -/
structure XWindow where
  run   : Nat
  addr  : Nat
  rows  : Nat
  pitch : Nat
  cap   : Nat
  keys  : List (Nat × Nat)
  ready : List Nat
  deriving DecidableEq, Repr

/-- The expander: its calls, its windows by cluster and the keys each run has reserved of the dedup store (R210). -/
structure Expander where
  calls   : FMap XCall
  nextId  : Nat
  windows : FMap XWindow
  store   : FMap Nat
  deriving DecidableEq, Repr

/-! ## Heats, placement and breakwaters (spec/09_heats_scheduling.md) -/

/-- What a run of a heat is for (R436). -/
inductive RunKind
  | primary | shadow | replay | arbitration | capture | test
  deriving DecidableEq, Repr

/-- A run of a heat on its clusters; `start` is when it started, as a timestamp, and `from_` in the count of intervals, `frame` is the
frame in which it started, `occ` that of its occurrence; `deadline` is the deadline of R263 and `due` the same in the count of
intervals (R3). `results` are the `RESULT` contributions of an arbitration run (R355), `credits` what the parts that have ended had
declared (R136). -/
structure Run where
  kind     : RunKind
  tag      : Nat
  ctx      : BitVec 24
  part     : Nat
  lc       : Bool
  res      : Nat
  clusters : List Nat
  start    : Nat
  from_    : Nat
  frame    : Nat
  occ      : Nat
  deadline : Option Nat
  due      : Nat
  late     : Bool
  chunk    : Option (Nat × Nat × Nat)
  bound    : Option Nat
  partsEnded : List Nat
  skips    : Bool
  faulted  : Bool
  abort    : Option Nat
  attempts : Nat
  digest   : FMap (BitVec 64)
  results  : FMap (BitVec 32)
  sample   : Option Nat
  credits  : List Word
  overrun  : Bool
  released : Bool
  remote   : Bool
  endedAt  : Option Nat
  done     : Bool
  deriving DecidableEq, Repr

/-- A token bucket of a breakwater (R244): its level in thousandths of a byte at the instant of its last refill. -/
structure Bucket where
  level : Int
  at_   : Nat
  deriving DecidableEq, Repr

/-- The power cap (R246): its level in thousandths of a baton, and the last instants at which it held a baton. -/
structure Cap where
  level : Int
  at_   : Nat
  heldBe : Option Nat
  heldLc : Option Nat
  deriving DecidableEq, Repr

/-! ## Tide frames (spec/10_tide_determinism.md) -/

/-- A reservation record of a heat sheet (R257). -/
structure Reservation where
  ref     : Nat
  perLog2 : Nat
  mixing  : Bool
  phase   : Nat
  offset  : Nat
  budget  : Nat
  mask    : BitVec 64
  deriving DecidableEq, Repr

/-- An occurrence whose heat waits for held clusters (R226): the reservation as its sheet gave it, and whether the heat's deadline
has passed while it waited (R267). -/
structure LateOcc where
  tag   : Nat
  part  : Nat
  res   : Reservation
  begun : Nat
  due   : Nat
  frame : Nat
  overrun : Bool
  deriving DecidableEq, Repr

/-- The composer: the runs, the next run's number, the occurrences that wait for held clusters, and the frame (plus 1)
in which each reservation's occurrence last began (key: partition × 65536 + reference). -/
structure Composer where
  runs     : FMap Run
  nextRun  : Nat
  lateWait : List LateOcc
  occ      : FMap Nat
  deriving DecidableEq, Repr

/-- A window record of a heat sheet (R258). -/
structure Window where
  live    : Nat
  perLog2 : Nat
  phase   : Nat
  offset  : Nat
  length  : Nat
  deriving DecidableEq, Repr

/-- A heat sheet (R256). -/
structure Sheet where
  id       : Nat
  planVer  : Nat
  frameLen : Nat
  advGen   : Nat
  total    : Nat
  crc      : Nat
  res      : List Reservation
  wins     : List Window
  deriving DecidableEq, Repr

/-- The sheets of a partition (R259 to R262). `loading` is the command whose read is outstanding; `covered` is the
`SHEET_ID` and `CRC` that the configuration CRC covers (R400). -/
structure SheetSlot where
  active    : Option Sheet
  staged    : Option (Sheet × Nat)
  removeAt  : Option Nat
  status    : Nat
  loading   : Option (DictAcc × Nat × Nat × Nat)
  suspended : Bool
  covered   : Option (Nat × Nat)
  stale     : Bool
  deriving DecidableEq, Repr

/-- A declaration of a late frame (R267, R269). -/
structure LateDecl where
  frame : Nat
  chip  : Nat
  cause : Nat
  deriving DecidableEq, Repr

/-- The tide unit. Frame `baseFrame` begins at `baseTime`, and later frames follow it by the active length; `edges` counts
reference edges since the last FSYNC, at which the time was `pulseAt`; `slew` is the correction of this period; `clock` is the
count of nanoseconds by which intervals are measured, on the local oscillator while reference time does not run (R3, R274). `copied`
is the time master's announce that the rack leader copies, `exch` the leader's exchange of this period (0 none, 1 sent, 2 completed;
R271, R272), and `missed` counts the occurrences that the next DISCONTINUITY record of R274 reports. -/
structure Tide where
  time       : Nat
  clock      : Nat
  stampFloor : Nat
  refOn      : Bool
  cycles     : Nat
  edges      : Nat
  pulseAt    : Nat
  locked     : Bool
  fsyncOk    : Bool
  timeHold   : Bool
  freeRun    : Bool
  good       : Nat
  bad        : Nat
  faults     : Nat
  stable     : Nat
  announced  : Bool
  announce   : Option Announce
  timeSet    : Option Nat
  origin     : Nat
  newOrigin  : Option Nat
  length     : Nat
  baseFrame  : Nat
  baseTime   : Nat
  frame      : Nat
  inFrames   : Bool
  pendLen    : Option (Nat × Nat)
  floor      : Nat
  myFloor    : Nat
  maxFloor   : Nat
  member     : Bool
  joinAt     : Option Nat
  joinSent   : Bool
  rackOut    : Bool
  decls      : List LateDecl
  seen       : List (Nat × Nat)
  settled    : Option Nat
  holdFrames : List Nat
  capFrames  : List Nat
  corr       : Int
  slew       : Int
  thetas     : List Int
  alignOver  : Nat
  alignLost  : Nat
  alignGood  : Nat
  copied     : Option Announce
  exch       : Nat
  stopAt     : Option Nat
  missed     : Nat
  sheets     : FMap SheetSlot
  seq        : Nat
  deriving DecidableEq, Repr

/-! ## Live tables (spec/11_table_updates.md) -/

/-- A staged update record (R284, R296): `pos` is where its row lies in the staging ring, `tag` the work item that brought it
to the source, and `uid` its block's `UPDATE_ID`. -/
structure StagedRec where
  uid  : Nat
  pos  : Nat
  row  : Nat
  data : List Byte
  add  : Bool
  tag  : Option Nat
  deriving DecidableEq, Repr

/-- An apply (R291): the records still to write, the first of which has 0 no baton issued, 1 its COPY outstanding, 2 its
SCATTER outstanding; and the work items of the records written. -/
structure Apply where
  frame   : Nat
  epoch   : BitVec 32
  started : Bool
  recs    : List StagedRec
  flying  : Nat
  tags    : List Nat
  deriving DecidableEq, Repr

/-- Frames of a table for which its source sealed nothing (R287, R293): the last window frame sealed before them, and the epoch and the
window frame with which it resumed. -/
structure SealGap where
  last  : Nat
  epoch : BitVec 32
  frame : Nat
  deriving DecidableEq, Repr

/-- A live-table registry entry (R280) with the state of its update path; `served` is the frame whose window began last, and
`first` the window frame of the first seal kept since RESYNC (R294); `suspend` is the last window frame sealed before a suspension
that goes on, and `gaps` are those that ended. -/
structure Live where
  source    : Nat
  part      : Nat
  cluster   : Nat
  ctx       : BitVec 24
  dirVa     : Nat
  spad      : Nat
  dir       : BitVec 256
  inService : Bool
  applying  : Bool
  held      : Bool
  missed    : Bool
  epoch     : BitVec 32
  frame     : Nat
  lastSeal  : BitVec 32
  lastFrame : Option Nat
  served    : Option Nat
  first     : Option Nat
  queue     : List StagedRec
  recs      : List StagedRec
  seals     : List Seal
  suspend   : Option Nat
  gaps      : List SealGap
  apply     : Option Apply
  deriving DecidableEq, Repr

/-- A TABLE_UPDATE work item on the update path: the applies its records wait for (R288). -/
structure UpdItem where
  left  : Nat
  skips : Bool
  deriving DecidableEq, Repr

/-! ## The fabric (spec/12_fabric.md) -/

/-- A sequence space of an originator (R312): its generation, the next number expected, the messages held ahead of it,
and since when there is a gap. -/
structure RxSpace where
  gen   : BitVec 6
  next  : BitVec 32
  held  : List (BitVec 32 × GzMsg × GzHdr)
  gap   : Option Nat
  deriving DecidableEq, Repr

/-- A link port (R301, R305 to R308, R315, R319, R320). `state` is the code of `LINK_STATE`; `ident` the last LINK_IDENT payload received,
and `heardId` says that it came since the link last trained; `passed` says that the port's last check under this plan admitted it;
`packets` are the destinations of the L-engine packets that the controller has returned and that wait for new routes (R315). -/
structure LinkPort where
  trained  : Bool
  state    : Nat
  result   : Nat
  ident    : Word
  heardId  : Bool
  lower    : Bool
  admitted : Bool
  passed   : Bool
  lastRx   : Nat
  lastTx   : Nat
  lastHb   : Nat
  rxCount  : BitVec 32
  txCount  : BitVec 32
  copies   : List (BitVec 32 × GzOut)
  waiting  : List GzOut
  packets  : List Nat
  downs    : List Nat
  pattern  : Nat
  testFrom : Nat
  bits     : Nat
  errors   : Nat
  sync     : Bool
  deriving DecidableEq, Repr

/-- A chip record of the plan (R303). -/
structure PlanChip where
  chip   : Nat
  member : Bool
  rack   : Nat
  parent : Nat
  reach  : Nat
  deriving DecidableEq, Repr

/-- The installation plan (R303). -/
structure Plan where
  version    : Nat
  twoRack    : Bool
  compat     : Bool
  timeMaster : Nat
  rackLeader : Nat
  crc        : Nat
  chips      : List PlanChip
  groups     : FMap Group
  deriving DecidableEq, Repr

/-- Links, plan, routes, sequence spaces and propagation. `graph` has the generation, version and mask of the latest LINK_STATE
of each other chip, `cause` the LINK_STATE that the next recomputation follows, `routes` maps a chip to its next port and hop
count, and `resend` are the messages that wait for new routes (R315). -/
structure Fabric where
  ports    : FMap LinkPort
  plan     : Option Plan
  loading  : Option (DictAcc × Nat × Nat)
  status   : Nat
  graph    : FMap (BitVec 6 × BitVec 32 × BitVec 6)
  version  : BitVec 32
  cause    : Nat × BitVec 32
  resend   : List GzOut
  routes   : FMap (Nat × Nat)
  stale    : Bool
  txSeq    : FMap (BitVec 32)
  treeSeq  : BitVec 32
  rx       : FMap RxSpace
  abortNum : BitVec 32
  aborts   : List (Nat × BitVec 32)
  flood    : Nat
  seq      : Nat
  deriving DecidableEq, Repr

/-! ## Recovery (spec/13_recovery.md) -/

/-- The steps of the recovery sequence (R328). -/
inductive RecStage
  | idle | fence | drain | dump | propagate | done
  deriving DecidableEq, Repr

/-- An access of Scehione's that was outstanding when a recovery sequence began, by what its reply answers (R331): a read of R88, an
entry of a fetch, a fence, a page walk, an admin parameter, a context record, a sheet, a plan, the reads that enable an admin queue
pair. -/
inductive Access
  | read (r : ReadRef)
  | entry (q : QRef) (idx : BitVec 32)
  | fence (addr : Word)
  | walk (ctx : BitVec 24) (va : Nat) (write : Bool)
  | param
  | hct (ctx : Nat)
  | sheet (part : Nat)
  | plan
  | enable (port : Nat)
  deriving DecidableEq, Repr

/-- The last step that a unit completed (R324, R335): its instant in the count of intervals, its TIME64, and when the watchdog of
what it then went on to wait with expires (R343). -/
structure UnitStep where
  clock : Nat
  time  : Nat
  due   : Nat
  deriving DecidableEq, Repr

/-- The recovery sequence, T0 as a timestamp and (`from_`) in the count of intervals, the accesses that it waits for (R331), the last
step of every unit of R335 that has completed one, the earlier values of `WRITE_ACK_WD_US` with the instants of their changes, oldest
first (R343), and the chip reset generation (R340). -/
structure Recovery where
  stage     : RecStage
  cause     : Nat
  detail    : Nat
  t0        : Nat
  from_     : Nat
  frame     : Nat
  secondary : List Nat
  secCount  : Nat
  buffers   : FMap (Nat × Nat)
  remote    : List (Nat × List Nat)
  fenceAt   : Nat
  dumpAt    : Nat
  drainExp  : Bool
  badUnits  : List Nat
  badPorts  : List Nat
  expired   : Bool
  lost      : List (Nat × Word)
  hungTag   : Option Nat
  access    : List Access
  prog      : FMap UnitStep
  ackWas    : List (Nat × Nat)
  resetGen  : BitVec 6
  genWritten : Bool
  deriving DecidableEq, Repr

/-! ## Reliability (spec/14_silent_errors.md) -/

/-- Observation state of a unit (R358) with what clears or quarantines it. -/
structure UnitRec where
  state     : Nat
  events    : List Nat
  passes    : Nat
  structOk  : Bool
  agreed    : Nat
  lastTest  : Nat
  due       : Bool
  testing   : Option Nat
  deriving DecidableEq, Repr

/-- Where a sample stands (R348 to R355): the two runs, arbitration, capture with the status that the heat then takes. -/
inductive SampleStage
  | runs | arbitrate | capture (status : Nat)
  deriving DecidableEq, Repr

/-- A captured baton (R355): its patched slot, the offset in the record of each operand it reads, its source, and the
winning run's `RESULT` contribution. -/
structure CapSlot where
  ent    : PushEnt
  offs   : List Nat
  xp     : Bool
  result : BitVec 32
  deriving DecidableEq, Repr

/-- A corpus record (R355): the unit, where it begins in the ring, the slots for which it has room, the bytes used, its limit,
the captured slots, and whether it is truncated. -/
structure Corpus where
  unit  : Nat
  base  : Nat
  room  : Nat
  used  : Nat
  limit : Nat
  slots : List CapSlot
  cut   : Bool
  deriving DecidableEq, Repr

/-- A sampled heat (R347 to R355), by its primary run: the shadow, third and capture runs, the budget of the primary, the
mismatch instant as a timestamp and (`since`) in the count of intervals, the attempts of R352, the unit whose inputs are captured with its rank and position, the losers whose inputs are captured after it, and
the record under capture. -/
structure Sample where
  shadow   : Option Nat
  third    : Option Nat
  captureRun : Option Nat
  budget   : Nat
  since    : Nat
  mismatch : Nat
  stage    : SampleStage
  attempts : Nat
  unit     : Option (Nat × Nat × Nat)
  more     : List (Nat × Nat × Nat)
  corpus   : Option Corpus
  deriving DecidableEq, Repr

/-- Units, samples, the scan pattern set (kind records: offset, length, budget, signature), corpora and history. -/
structure Reliab where
  units   : FMap UnitRec
  draws   : FMap Nat
  samples : FMap Sample
  scan    : Option (List (Nat × Nat × Nat × Nat))
  corpora : FMap Corpus
  corpusSeq : Nat
  corpusPos : Nat
  histSeq : Nat
  deriving DecidableEq, Repr

/-! ## Microsequencers (spec/15_microcode.md) -/

/-- An image under load (R381): its bytes, who loads it, and whether its checks have passed (R109). -/
structure ImageLoad where
  src    : Nat
  tag    : BitVec 16
  bytes  : List Byte
  passed : Bool
  deriving DecidableEq, Repr

/-- The control store (R366, R374, R375, R379) and its loading. -/
structure Micro where
  micro    : FMap (BitVec 32)
  nano     : FMap (BitVec 256)
  desc     : FMap (BitVec 64)
  vendorV  : Nat
  custV    : Nat
  keyHash  : Option Nat
  status   : Nat
  selftest : Nat
  image    : Option ImageLoad
  seqs     : FMap MicroSeq
  deriving DecidableEq, Repr

/-! ## Registers, dictionary, audit, power, debug, management (spec/16 to spec/20) -/

/-- What a view holds of its own (R394, R398, R437): staged parts, the snapshot holding set, the fields of the last
snapshot. Views 0 to 3 are the host ports', 4 the secure view, 5 the debug/trace port's. -/
structure View where
  refLo    : Nat
  refHi    : Nat
  refGen   : Nat
  hold     : FMap Nat
  snapSeq  : Nat
  snapTime : Nat
  seen     : Bool
  coreSeen : BitVec 64
  deriving DecidableEq, Repr

/-- A dictionary window state (R410). -/
structure DictWin where
  index  : Nat
  sub    : Nat
  len    : Nat
  data   : Nat
  status : Nat
  deriving DecidableEq, Repr

/-- An operation at the dictionary arbiter: READ, WRITE, INFO, a malformed request, and the writes that bring what their action reads. -/
inductive DictOp
  | read | write | info | bad
  | scan (bytes : List Byte)
  | resync (reg dir : BitVec 256)
  deriving DecidableEq, Repr

/-- An operation that waits for its turn at the dictionary arbiter (R408). -/
structure DictWait where
  op  : DictOp
  acc : DictAcc
  deriving DecidableEq, Repr

/-- The register views and what they configure (R396, R400 to R403, R440); `passOk` says that the configuration CRC pass under way
began with comparison in force. -/
structure Regs where
  views     : FMap View
  wins      : FMap DictWin
  dictQ     : List DictWait
  crcOn     : Bool
  refActive : Nat
  refGen    : Nat
  refValid  : Bool
  refused   : Bool
  wgen      : Nat
  crcNow    : Nat
  passOk    : Bool
  brkEnable : BitVec 64
  coreSel   : Nat
  page      : Nat
  deriving DecidableEq, Repr

/-- The audit ring (R418, R419): records by slot, the number of the next, and for each limited source the millisecond
of its last record and the events withheld since. -/
structure Audit where
  ring    : FMap (BitVec 512)
  seq     : Nat
  overrun : Nat
  limits  : FMap (Nat × Nat)
  deriving DecidableEq, Repr

/-- The management port (R412, R414, R454): endpoint IDs by path, NOTIFY messages waiting for the in-band interrupt
read (kind, sequence number), and the next number. -/
structure Mgt where
  eids   : FMap Nat
  notify : List (Nat × Nat)
  seq    : Nat
  deriving DecidableEq, Repr

/-- Power state of a cluster (R430, R452): the reported state, the ordered state, since when it is unused, since when
it is IDLE. -/
structure PwrRec where
  state  : Nat
  order  : Nat
  unused : Nat
  idle   : Nat
  late   : Option Nat
  deriving DecidableEq, Repr

/-- Supply, monitors and cluster power (spec/18_power.md). `holdCount` counts the frames that the hold in force has touched, and `monAt` is
the instant of the last pass of the delay monitors, in the count of intervals. -/
structure Power where
  nowMv     : Nat
  minMv     : Nat
  hold      : Bool
  holdFrom  : Nat
  holdMin   : Nat
  holdFrame : Nat
  holdCount : Nat
  monAt     : Nat
  aboveFrom : Nat
  ratios    : FMap (List Nat)
  ageing    : Nat
  gen       : Nat
  factors   : List Nat
  clusters  : FMap PwrRec
  calDone   : List Nat
  calLoaded : Bool
  calMod    : Bool
  seq       : Nat
  deriving DecidableEq, Repr

/-- A dictionary entry (R405): type code (R400), access code, default, range, alignment, one further value allowed
beside the range, BLOB length, and whether it is a calibration entry. -/
structure Desc where
  type   : Nat
  access : Nat
  dflt   : Nat
  lo     : Int
  hi     : Int
  align  : Nat
  also   : Option Nat
  blob   : Nat
  cal    : Bool
  deriving DecidableEq, Repr

/-- What Scehione drives towards its surroundings, in order (the newest first). -/
inductive OutEvent
  | baton (c : Nat) (w : BitVec 544)
  | scratch (c addr : Nat) (bytes : List Byte)
  | gz (port : Nat) (bytes : List Byte)
  | prbs (port pattern : Nat)
  | packetPort (port peer newPort : Nat)
  | cancel (peer channel : Nat)
  | routes (port : Nat)
  | reach (port cls : Nat)
  | msix (port fn vector : Nat)
  | dict (path : Path) (org : Origin) (tag result : Nat) (value : List Byte)
  | info (path : Path) (org : Origin) (tag type access flags len value : Nat)
  | notify (kind seq : Nat)
  | inBand
  | secEvent
  | mctp (path : Path) (cmd code : Nat) (data : List Nat)
  | power (c order : Nat)
  | scan (c pos len : Nat)
  | test (c : Nat) (e : PushEnt)
  | hostWrite (port addr : Nat) (bytes : List Byte)
  | host (port fn addr len : Nat) (write : Bool)
  deriving DecidableEq, Repr

/-- Everything of the block but its level signals and the waiting commands. `stagePos` is where the staging ring goes on
(R296); `fuse` is the sampled ENG_PRESENT vector (R457). -/
structure Block where
  obj   : Objects
  q     : Queues
  adm   : Admin
  fen   : Fences
  sb    : Scoreboard
  walk  : Walker
  cores : FMap CoreSt
  ports : FMap CPort
  xp    : Expander
  comp  : Composer
  bkt   : FMap Bucket
  cap   : Cap
  tide  : Tide
  live  : FMap Live
  upd   : FMap UpdItem
  stagePos : Nat
  fab   : Fabric
  rcv   : Recovery
  rel   : Reliab
  mic   : Micro
  regs  : Regs
  aud   : Audit
  mgt   : Mgt
  pwr   : Power
  dict  : FMap Nat
  ctr   : FMap Nat
  skipSeq  : Nat
  traceSeq : Nat
  tableGen : Nat
  fuse  : BitVec 896
  mem   : Memory
  out   : List OutEvent
  deriving DecidableEq, Repr

/-- The level signals of the block (R456 to R461): `rst` is CHIP_RST_N asserted, `long` that the assertion has lasted
1 µs of LOSC, `release` a release that is held with the fuse vector it brought, `low` that it is held for the core supply, `stopped` that every unit has stopped
(R422, R459), then RESET_REQ and the bypass outputs X, Y, Z (true: driven low). -/
structure Pins where
  rst      : Bool
  long     : Bool
  release  : Option (BitVec 896)
  low      : Bool
  stopped  : Bool
  resetReq : Bool
  bypX     : Bool
  bypY     : Bool
  bypZ     : Bool
  deriving DecidableEq, Repr

/-- The state of the block: the commands that wait (first in, first out), the level signals, and the rest. -/
structure State where
  pending : List Instr
  pin     : Pins
  blk     : Block
  deriving DecidableEq, Repr

/-- No command of this model faults: a command whose enabling condition fails changes nothing (log entry 1). The type
is kept closed with one constructor that no meaning raises. -/
inductive Fault
  /-- Raised by no meaning; safe. -/
  | none
  deriving DecidableEq, Repr

/-- Why a command is refused by the model. -/
inductive Refusal
  /-- A row that has no meaning yet, raised by its arm of the dispatch; safe. -/
  | notModelled (mnemonic : String)
  deriving DecidableEq, Repr

/-! ## Reset (R9, R147, R192, R244, R250, R277, R339, R382, R398, R461; the values the spec does not state: log entry 4) -/

/-- A control core after chip reset. -/
def CoreSt.fresh : CoreSt where
  run := none
  s := []
  a := []
  data := []
  lastCtx := none
  lines := []
  levels := []
  loops := []
  off := 0
  ended := false
  slw := none
  hold := .none
  bound := false
  holdFrom := 0
  waitBy := 0
  wipe := false
  pushQ := []
  lastSlot := []
  skips := 0
  held := []
  sending := 0
  credits := []
  pushed := 0
  calls := []
  syncCall := []
  haltReq := false
  stepping := false
  brkStop := none
  slwCnt := 0
  batonCnt := 0
  holdNs := 0
  heatSeq := 0

/-- Nothing held. -/
def HeldMark.clear : HeldMark := { credit := false, bucket := false, cap := none }

/-- A cluster port after chip reset: every credit 64 (R192), nothing outstanding. -/
def CPort.fresh : CPort where
  credit := []
  free := []
  out := []
  xq := []
  lastX := true
  coreHeld := HeldMark.clear
  xHeld := HeldMark.clear
  scratch := []
  capX := none
  copies := []

/-- A link port after chip reset: DOWN. -/
def LinkPort.fresh : LinkPort where
  trained := false
  state := 0
  result := 0
  ident := 0
  heardId := false
  lower := false
  admitted := false
  passed := false
  lastRx := 0
  lastTx := 0
  lastHb := 0
  rxCount := 0
  txCount := 0
  copies := []
  waiting := []
  packets := []
  downs := []
  pattern := 0
  testFrom := 0
  bits := 0
  errors := 0
  sync := false

/-- A partition's sheets after chip reset: none. -/
def SheetSlot.fresh : SheetSlot where
  active := none
  staged := none
  removeAt := none
  status := 0
  loading := none
  suspended := false
  covered := none
  stale := false

/-- A unit after chip reset: Healthy (R360). -/
def UnitRec.fresh : UnitRec where
  state := 0
  events := []
  passes := 0
  structOk := false
  agreed := 0
  lastTest := 0
  due := false
  testing := none

/-- A view after chip reset. -/
def View.fresh : View where
  refLo := 0
  refHi := 0
  refGen := 0
  hold := []
  snapSeq := 0
  snapTime := 0
  seen := false
  coreSeen := 0

/-- A dictionary window after chip reset. -/
def DictWin.fresh : DictWin where
  index := 0
  sub := 0
  len := 0
  data := 0
  status := 0

/-- A microsequencer after chip reset: no invocation. -/
def MicroSeq.fresh : MicroSeq where
  who := none
  entry := 0
  ctx := none
  pc := 0
  regs := []
  count := 0
  steps := 0
  limit := 0
  pend := false
  reply := 0
  result := 0
  carry := false
  fence := 0

/-- A cluster's power after chip reset: ordered OFF (R461). -/
def PwrRec.fresh : PwrRec where
  state := 0
  order := 0
  unused := 0
  idle := 0
  late := none

/-- Reference time and frames after chip reset (R250). -/
def Tide.fresh : Tide where
  time := 0
  clock := 0
  stampFloor := 0
  refOn := true
  cycles := 0
  edges := 0
  pulseAt := 0
  locked := false
  fsyncOk := false
  timeHold := false
  freeRun := false
  good := 0
  bad := 0
  faults := 0
  stable := 0
  announced := false
  announce := none
  timeSet := none
  origin := 0
  newOrigin := none
  length := 50000
  baseFrame := 0
  baseTime := 0
  frame := 0
  inFrames := false
  pendLen := none
  floor := 0
  myFloor := 0
  maxFloor := 0
  member := false
  joinAt := none
  joinSent := false
  rackOut := false
  decls := []
  seen := []
  settled := none
  holdFrames := []
  capFrames := []
  corr := 0
  slew := 0
  thetas := []
  alignOver := 0
  alignLost := 0
  alignGood := 0
  copied := none
  exch := 0
  stopAt := none
  missed := 0
  sheets := []
  seq := 0

/-- The fabric after chip reset: no plan, every link DOWN (R300, R339). -/
def Fabric.fresh : Fabric where
  ports := []
  plan := none
  loading := none
  status := 0
  graph := []
  version := 0
  cause := (0, 0)
  resend := []
  routes := []
  stale := false
  txSeq := []
  treeSeq := 0
  rx := []
  abortNum := 0
  aborts := []
  flood := 0
  seq := 0

/-- No recovery sequence; the reset generation not yet written (R340). -/
def Recovery.fresh : Recovery where
  stage := .idle
  cause := 0
  detail := 0
  t0 := 0
  from_ := 0
  frame := 0
  secondary := []
  secCount := 0
  buffers := []
  remote := []
  fenceAt := 0
  dumpAt := 0
  drainExp := false
  badUnits := []
  badPorts := []
  expired := false
  lost := []
  hungTag := none
  access := []
  prog := []
  ackWas := []
  resetGen := 0
  genWritten := false

/-- The registers of every view after chip reset. -/
def Regs.fresh : Regs where
  views := []
  wins := []
  dictQ := []
  crcOn := false
  refActive := 0
  refGen := 0
  refValid := false
  refused := false
  wgen := 0
  crcNow := 0
  passOk := false
  brkEnable := 0
  coreSel := 0
  page := 0

/-- Supply, monitors and cluster power after chip reset. -/
def Power.fresh : Power where
  nowMv := 0
  minMv := 0xFFFF
  hold := false
  holdFrom := 0
  holdMin := 0
  holdFrame := 0
  holdCount := 0
  monAt := 0
  aboveFrom := 0
  ratios := []
  ageing := 1024
  gen := 0
  factors := [1024]
  clusters := []
  calDone := []
  calLoaded := false
  calMod := false
  seq := 0

/-- Contexts, partitions and groups after chip reset: none (R339). -/
def Objects.empty : Objects where
  ctxs := []
  incs := []
  fresh := 0
  freed := []
  hct := []
  parts := []
  groups := []
  tlb := []
  slotWrites := 0

/-- The admin executor after chip reset. -/
def Admin.fresh : Admin where
  held := false
  busy := none
  pend := []
  pendNo := 0
  mbEntry := none
  mbBusy := false
  mbDone := false
  mbRegs := []
  mbCompl := 0
  dumpBufs := []
  everEnabled := false

/-- The fence logic after chip reset. -/
def Fences.fresh : Fences where
  cache := []
  clock := 0
  waits := []
  writes := []
  misses := []
  acks := []
  watches := []
  signals := []
  supp := []

/-- The block after chip reset. Memory is not the block's, and a chip reset leaves it (`Block.afterReset`); this is the
block of a chip whose memory holds no non-zero byte. -/
def Block.fresh : Block where
  obj := Objects.empty
  q := { late := [], sqs := [], cqs := [], aqs := [], ints := [], rr := [] }
  adm := Admin.fresh
  fen := Fences.fresh
  sb := { items := [], full := false, fullSince := none, quota := [], readySeq := 0 }
  walk := { due := 0, pass := none, prev := [], enders := [] }
  cores := []
  ports := []
  xp := { calls := [], nextId := 0, windows := [], store := [] }
  comp := { runs := [], nextRun := 0, lateWait := [], occ := [] }
  bkt := []
  cap := { level := 65536000, at_ := 0, heldBe := none, heldLc := none }
  tide := Tide.fresh
  live := []
  upd := []
  stagePos := 0
  fab := Fabric.fresh
  rcv := Recovery.fresh
  rel := { units := [], draws := [], samples := [], scan := none, corpora := [], corpusSeq := 0, corpusPos := 0, histSeq := 0 }
  mic := { micro := [], nano := [], desc := [], vendorV := 0, custV := 0, keyHash := none, status := 0, selftest := 0,
           image := none, seqs := [] }
  regs := Regs.fresh
  aud := { ring := [], seq := 0, overrun := 0, limits := [] }
  mgt := { eids := [], notify := [], seq := 0 }
  pwr := Power.fresh
  dict := []
  ctr := []
  skipSeq := 0
  traceSeq := 0
  tableGen := 0
  fuse := 0
  mem := []
  out := []

/-- The level signals while CHIP_RST_N is asserted (R461). -/
def Pins.inReset : Pins where
  rst := true
  long := false
  release := none
  low := false
  stopped := false
  resetReq := false
  bypX := false
  bypY := false
  bypZ := false

/-- The machine right after reset: CHIP_RST_N still asserted, no command waiting. -/
def State.reset : State where
  pending := []
  pin := Pins.inReset
  blk := Block.fresh

end Sys2Proof.Machine
end

