-- ==== Sys2Proof/Machine/DictTab.lean ====
section
/-! DEFINITION. The dictionary entries: type, access, default and range of each, as the owning chapters give them. -/

namespace Sys2Proof.Machine

open Sys2Proof

/-- Key of an entry in the maps of the state. -/
def dkey (idx sub : Nat) : Nat := idx * 256 + sub

/-- Length in bytes of a scalar type (R400). -/
def typeLen (t : Nat) : Nat :=
  if t = 0 ∨ t = 1 ∨ t = 6 then 1 else if t = 2 ∨ t = 10 then 2 else if t = 3 ∨ t = 5 then 4 else 8

/-- An entry with a range. -/
def dEnt (type access dflt : Nat) (lo hi : Int) : Desc :=
  { type := type, access := access, dflt := dflt, lo := lo, hi := hi, align := 1, also := none, blob := 0, cal := false }

/-- A base address: U64, RWP, default 0, aligned. -/
def dBase (align : Nat) : Desc := { dEnt 4 2 0 0 (2 ^ 64 - 1) with align := align }

/-- A read-only entry. -/
def dRo (type dflt : Nat) : Desc := dEnt type 0 dflt 0 0

/-- U32, RWP. -/
def dU32 (dflt : Nat) (lo hi : Int) : Desc := dEnt 3 2 dflt lo hi

/-- A read-only BLOB. -/
def dBlob (len access : Nat) : Desc := { dEnt 9 access 0 0 0 with blob := len }

/-- Entries 0x1000 to 0x1011 (R415, R417). -/
def desc1 (idx sub : Nat) : Option Desc :=
  if idx = 0x1000 then
    (if sub = 1 then some (dRo 2 0x0640) else if sub = 2 then some (dRo 2 0x0100) else none)
  else if idx = 0x1001 then some (dBlob 64 0)
  else if idx = 0x1010 then
    (if 1 ≤ sub ∧ sub ≤ 7 then some (dEnt 3 3 0 0 1000000)
     else if sub = 8 then some (dEnt 2 3 0 0 65535)
     else if sub = 9 then some (dEnt 3 3 0 0 (2 ^ 32 - 1))
     else if 0x10 ≤ sub ∧ sub ≤ 0x1F then some (dEnt 1 3 0 0 128) else none)
  else if idx = 0x1011 then (if 1 ≤ sub ∧ sub ≤ 0x40 then some (dEnt 1 3 0 0 15) else none)
  else none

/-- Entries 0x2000 to 0x2043 (R32, R40, R88, R93, R95, R143, R385). -/
def desc2 (idx sub : Nat) : Option Desc :=
  if idx = 0x2000 then (if 0x11 ≤ sub ∧ sub ≤ 0x14 then some (dEnt 6 3 0 0 2) else none)
  else if idx = 0x2010 then
    (match sub with
     | 1 => some (dBase 0x200000)
     | 2 => some (dU32 16384 1 1048576)
     | _ => none)
  else if idx = 0x2020 then
    (match sub with
     | 1 => some (dU32 50000 1000 1000000)
     | 2 => some (dEnt 2 2 256 16 4096)
     | _ => none)
  else if idx = 0x2030 then
    (match sub with
     | 1 => some (dU32 5000 100 1000000)
     | 2 => some (dU32 1000 100 100000)
     | 3 => some (dU32 131072 1024 131072)
     | 4 => some (dU32 100 1 10000)
     | 5 => some (dEnt 2 2 10 1 1000)
     | _ => none)
  else if 0x2040 ≤ idx ∧ idx ≤ 0x2043 then
    (match sub with
     | 1 => some (dBase 4096)
     | 2 => some (dBase 4096)
     | 3 => some (dBase 64)
     | 4 => some (dBase 64)
     | 5 => some (dEnt 1 2 6 4 12)
     | 6 => some (dEnt 1 2 6 4 12)
     | 7 => some (dEnt 2 2 0 0 2047)
     | 8 => some (dEnt 0 2 0 0 1)
     | _ => none)
  else none

/-- Entries 0x3010 to 0x311F (R245, R246, R247, R297). -/
def desc3 (idx sub : Nat) : Option Desc :=
  if idx = 0x3010 then
    (match sub with
     | 1 => some (dU32 200 10 100000)
     | 2 => some (dEnt 2 2 2048 64 65535)
     | 3 => some (dU32 1000 100 1000000)
     | 4 => some (dEnt 1 2 37 30 46)
     | 5 => some (dEnt 1 2 4 1 64)
     | _ => none)
  else if idx = 0x3030 then
    (match sub with
     | 1 => some { dU32 0xFFFFFFFF 1000 40000 with also := some 0xFFFFFFFF }
     | 2 => some (dU32 65536 1024 1048576)
     | 3 => some (dU32 16384 0 1048575)
     | 4 => some (dRo 6 0)
     | _ => none)
  else if idx = 0x3040 then
    (match sub with
     | 1 => some (dBase 4096)
     | 2 => some (dEnt 1 2 4 2 64)
     | 3 => some (dBase 0x200000)
     | 4 => some (dEnt 1 2 27 21 34)
     | _ => none)
  else if idx = 0x3041 then
    (match sub with
     | 1 => some (dEnt 2 2 0 0 4095)
     | 2 => some (dU32 0 0 (2 ^ 32 - 1))
     | 3 => some (dEnt 6 2 0 0 3)
     | 4 => some (dRo 6 0)
     | _ => none)
  else if 0x3100 ≤ idx ∧ idx ≤ 0x311F then
    (if 1 ≤ sub ∧ sub ≤ 0x0E then some (dU32 0xFFFFFFFF 1 0xFFFFFFFF)
     else if 0x11 ≤ sub ∧ sub ≤ 0x1E then some (dU32 16384 4 4194304)
     else if 0x21 ≤ sub ∧ sub ≤ 0x2E then some (dU32 0 0 4194303)
     else if 0x31 ≤ sub ∧ sub ≤ 0x3E then some (dRo 5 262144) else none)
  else none

/-- Entries 0x4000 to 0x411F (R259, R278). -/
def desc4 (idx sub : Nat) : Option Desc :=
  if idx = 0x4000 then
    (match sub with
     | 1 => some (dU32 1000 100 10000)
     | 2 => some (dU32 1000 100 10000)
     | 3 => some (dBase 1)
     | 4 => some (dRo 7 0)
     | _ => none)
  else if idx = 0x4010 then
    (match sub with
     | 1 => some (dBase 1)
     | 2 => some (dU32 50000 0 (2 ^ 32 - 1))
     | 3 => some (dEnt 4 2 0 0 (2 ^ 48 - 1))
     | 4 => some (dRo 4 0)
     | 5 => some (dRo 3 50000)
     | 6 => some (dRo 3 0)
     | _ => none)
  else if idx = 0x4020 then
    (match sub with
     | 1 => some (dU32 1000 0 1000000)
     | 2 => some (dU32 500 50 100000)
     | 3 => some (dU32 200 10 10000)
     | 4 => some (dRo 5 0)
     | 5 => some (dEnt 2 2 16 1 1024)
     | 6 => some (dRo 3 0)
     | 7 => some (dEnt 5 2 0 (-100000) 100000)
     | _ => none)
  else if idx = 0x4030 then
    (match sub with
     | 1 => some (dBase 4096)
     | 2 => some (dEnt 1 2 10 6 20)
     | 3 => some (dRo 3 0)
     | _ => none)
  else if 0x4100 ≤ idx ∧ idx ≤ 0x411F then
    (match sub with
     | 1 => some (dBase 64)
     | 2 => some (dU32 0 64 4194304)
     | 3 => some (dEnt 4 2 0 0 (2 ^ 48 - 1))
     | 4 => some (dEnt 6 2 0 0 2)
     | 5 => some (dRo 6 0)
     | 6 => some (dRo 3 0xFFFFFFFF)
     | 7 => some (dRo 3 0xFFFFFFFF)
     | 8 => some (dRo 0 0)
     | _ => none)
  else none

/-- Entries 0x5000 to 0x5030 (R322). -/
def desc5 (idx sub : Nat) : Option Desc :=
  if idx = 0x5000 then
    (match sub with
     | 1 => some (dBase 64)
     | 2 => some (dU32 0 0 (2 ^ 32 - 1))
     | 3 => some (dEnt 6 2 0 0 1)
     | 4 => some (dRo 6 0)
     | 5 => some (dRo 3 0)
     | 7 => some (dEnt 2 2 0 0 4095)
     | _ => none)
  else if 0x5010 ≤ idx ∧ idx ≤ 0x5015 then
    (match sub with
     | 1 => some (dRo 6 0)
     | 2 => some (dRo 6 0)
     | 3 => some (dRo 4 0)
     | 4 => some (dEnt 0 2 0 0 1)
     | 5 => some (dRo 6 0)
     | 6 => some (dEnt 6 2 2 0 2)
     | 7 => some (dEnt 6 2 0 0 2)
     | 8 => some (dRo 4 0)
     | 9 => some (dRo 3 0)
     | 10 => some (dRo 0 0)
     | _ => none)
  else if idx = 0x5020 then
    (match sub with
     | 1 => some (dEnt 2 2 10 2 1000)
     | 2 => some (dU32 100 10 100000)
     | 3 => some (dU32 1000 1 3600000)
     | _ => none)
  else if idx = 0x5030 then
    (match sub with
     | 1 => some (dBase 4096)
     | 2 => some (dEnt 1 2 10 6 20)
     | _ => none)
  else none

/-- Entries 0x6000 to 0x6140 (R343, R347, R360, R364). -/
def desc6 (idx sub : Nat) : Option Desc :=
  if idx = 0x6000 then
    (match sub with
     | 1 => some (dU32 1000 100 100000)
     | 2 => some (dU32 20000 1000 1000000)
     | 3 => some (dU32 20000 1000 1000000)
     | 4 => some (dU32 1000 100 100000)
     | 5 => some (dU32 50000 1000 1000000)
     | 6 => some (dU32 2000 100 100000)
     | 7 => some (dEnt 2 2 20 5 1000)
     | 8 => some (dEnt 2 2 100 10 1000)
     | 9 => some (dEnt 6 2 0 0 1)
     | 10 => some (dEnt 1 2 0 0 63)
     | _ => none)
  else if idx = 0x6010 then
    (match sub with
     | 1 => some (dEnt 1 2 2 0 8)
     | 2 => some (dU32 200 10 100000)
     | 3 => some (dU32 8192 0 65536)
     | 4 => some (dBase 4096)
     | 5 => some (dEnt 1 2 26 22 34)
     | 6 => some (dBase 4096)
     | 7 => some (dEnt 1 2 10 6 20)
     | 8 => some { dU32 0xFF0000 0 (2 ^ 24 - 65536) with align := 4 }
     | 9 => some (dU32 4096 64 65536)
     | _ => none)
  else if 0x6020 ≤ idx ∧ idx ≤ 0x603F then
    (match sub with
     | 1 => some (dU32 64 0 65536)
     | 2 => some (dU32 0 0 65536)
     | 3 => some { dEnt 1 2 0xFF 0 31 with also := some 0xFF }
     | 4 => some (dBase 0x200000)
     | _ => none)
  else if idx = 0x6040 then
    (match sub with
     | 1 => some (dBase 64)
     | 2 => some (dU32 0 0 (2 ^ 32 - 1))
     | 3 => some (dU32 3600 60 604800)
     | 4 => some (dU32 60 1 3600)
     | 5 => some (dU32 4096 0 1000000)
     | 6 => some (dEnt 2 2 16 1 1024)
     | 7 => some (dEnt 1 2 2 2 16)
     | 8 => some (dU32 86400 60 31536000)
     | 9 => some (dEnt 2 2 0 0 65535)
     | _ => none)
  else if 0x6100 ≤ idx ∧ idx ≤ 0x613F then
    (if 1 ≤ sub ∧ sub ≤ 0x0F then some (dEnt 6 2 0 0 2) else none)
  else if idx = 0x6140 then (if sub = 1 then some (dEnt 6 2 0 0 1) else none)
  else none

/-- Entries 0x7000 to 0x7030 (R421, R429, R431, R434). -/
def desc7 (idx sub : Nat) : Option Desc :=
  if idx = 0x7000 then
    (match sub with
     | 1 => some { dEnt 2 2 630 590 720 with cal := true }
     | 2 => some { dEnt 2 2 570 540 600 with cal := true }
     | 3 => some (dEnt 1 2 10 5 50)
     | 4 => some (dEnt 2 2 20 5 1000)
     | 5 => some (dRo 2 0)
     | 6 => some (dRo 2 0xFFFF)
     | 7 => some (dRo 0 0)
     | _ => none)
  else if idx = 0x7001 then
    (if 1 ≤ sub ∧ sub ≤ 8 then some { dEnt 1 2 128 0 255 with cal := true } else none)
  else if idx = 0x7002 then
    (if 1 ≤ sub ∧ sub ≤ 0x20 then some { dEnt 10 2 0 (-4096) 4095 with cal := true } else none)
  else if idx = 0x7010 then
    (match sub with
     | 1 => some (dEnt 2 2 2 1 10000)
     | 2 => some { dU32 1000 10 10000000 with also := some 0xFFFFFFFF }
     | 3 => some (dEnt 3 3 0 0 1000000)
     | 4 => some (dEnt 3 3 0 0 10000000)
     | 5 => some (dU32 500 0 100000)
     | _ => none)
  else if idx = 0x7020 then
    (match sub with
     | 1 => some (dRo 3 1024)
     | 2 => some (dRo 3 0)
     | 3 => some (dRo 3 1024)
     | 4 => some (dEnt 2 2 992 512 1024)
     | 5 => some (dEnt 2 2 31 0 256)
     | 6 => some (dEnt 2 2 1024 1024 2048)
     | 7 => some (dU32 100 10 60000)
     | 8 => some (dEnt 0 2 1 0 1)
     | _ => none)
  else if idx = 0x7030 then
    (match sub with
     | 1 => some (dBase 4096)
     | 2 => some (dEnt 1 2 8 6 20)
     | 3 => some (dRo 3 0)
     | _ => none)
  else none

/-- Entries 0x8000 to 0xA000 (R175, R382, R419, R441, R443, R455, R462). -/
def desc8 (idx sub : Nat) : Option Desc :=
  if idx = 0x8000 then
    (match sub with
     | 1 => some (dBase 4096)
     | 2 => some (dEnt 1 2 12 6 20)
     | 3 => some (dRo 3 0)
     | 4 => some (dEnt 1 2 7 0 15)
     | 5 => some (dU32 0 0 (2 ^ 32 - 1))
     | _ => none)
  else if idx = 0x8010 then
    (match sub with
     | 1 => some (dU32 100000 100 10000000)
     | 2 => some (dEnt 0 3 0 0 1)
     | _ => none)
  else if idx = 0x8020 then
    (match sub with
     | 1 => some (dBase 4096)
     | 2 => some (dEnt 1 2 12 6 20)
     | 3 => some (dRo 3 0)
     | _ => none)
  else if idx = 0x9000 then
    (match sub with
     | 1 => some (dRo 3 0)
     | 2 => some (dU32 0 0 (2 ^ 32 - 1))
     | 3 => some (dBlob 64 0)
     | 4 => some (dU32 0 0 (2 ^ 32 - 1))
     | 5 => some (dRo 3 0)
     | 6 => some (dBase 4096)
     | _ => none)
  else if idx = 0xA000 then
    (match sub with
     | 1 => some (dRo 3 0)
     | 2 => some (dRo 3 0)
     | 3 => some (dBlob 48 3)
     | 4 => some { dBase 64 with access := 3 }
     | 5 => some { dEnt 3 3 0 147616 199040 with also := none }
     | 6 => some (dEnt 6 3 0 0 1)
     | 7 => some (dRo 6 0)
     | 8 => some (dRo 6 0)
     | _ => none)
  else none

/-- The entry at an index and subindex, if it is defined (R404). -/
def dictDesc (idx sub : Nat) : Option Desc :=
  if idx < 0x2000 then desc1 idx sub
  else if idx < 0x3000 then desc2 idx sub
  else if idx < 0x4000 then desc3 idx sub
  else if idx < 0x5000 then desc4 idx sub
  else if idx < 0x6000 then desc5 idx sub
  else if idx < 0x7000 then desc6 idx sub
  else if idx < 0x8000 then desc7 idx sub
  else desc8 idx sub

/-- Length in bytes of an entry's value (R405). -/
def Desc.bytes (d : Desc) : Nat := if d.type = 9 then d.blob else typeLen d.type

/-- A stored value as a signed or unsigned number, by the type. -/
def Desc.asInt (d : Desc) (v : Nat) : Int :=
  if d.type = 5 then (BitVec.ofNat 32 v).toInt
  else if d.type = 10 then (BitVec.ofNat 16 v).toInt
  else (v : Int)

/-- The value lies within the entry's range (R407 step 6). BOOT_IMAGE_LEN takes two values only (R382). -/
def Desc.inRange (d : Desc) (idx sub v : Nat) : Bool :=
  if d.type = 9 then true
  else if idx = 0xA000 ∧ sub = 5 then v = 147616 || v = 199040
  else d.also = some v || (decide (d.lo ≤ d.asInt v) && decide (d.asInt v ≤ d.hi) && v % d.align = 0)

/-- An index of the entry of a command that reads 0 and is named `*_CMD` (R259, R294, R322, R343, R364, R382). -/
def isCmdEntry (idx sub : Nat) : Bool :=
  (0x4100 ≤ idx && idx ≤ 0x411F && sub = 4) || (idx = 0x5000 && sub = 3) || (0x5010 ≤ idx && idx ≤ 0x5015 && sub = 7)
    || (idx = 0x6000 && sub = 9) || (idx = 0x6040 && sub = 9) || (idx = 0x3041 && sub = 3) || (idx = 0xA000 && sub = 6)

/-- The entry lies inside the configuration CRC (R400). -/
def isCovered (d : Desc) (idx sub : Nat) : Bool :=
  (d.access = 2 || d.access = 3) && !isCmdEntry idx sub && !(idx = 0x3041) && !(0x6100 ≤ idx && idx ≤ 0x6140)
    && !(0x9000 ≤ idx && idx ≤ 0x9FFF) && !(idx = 0xA000)

end Sys2Proof.Machine
end

