-- ==== Sys2Proof/Machine/Ops.lean ====
section
/-! DEFINITION. Operations over the whole block: when a command acts at all, time, counters, dictionary values, the audit
log, record rings, the trace ring, outgoing messages, translation and memory ranges. -/

namespace Sys2Proof.Machine

open Sys2Proof

/-! ## When a command acts -/

/-- The block is out of reset and its units run (R458, R459, R422). -/
def alive (s : State) : Bool := !s.pin.rst && !s.pin.stopped

/-! ## Time (R3, R250, R276) -/

/-- The TIME64 that a record written now carries: reference time, never below one already written (R276). -/
def stamp (b : Block) : Nat := max b.tide.time b.tide.stampFloor

/-- A timestamp has been written; the highest is kept (R276). -/
def noteStamp (b : Block) (t : Nat) : Block := { b with tide := { b.tide with stampFloor := max b.tide.stampFloor t } }

/-- Reference time advances: on REF once the unit is locked, or in free run on the local oscillator (R250, R274). -/
def timeRuns (b : Block) : Bool := (b.tide.locked && b.tide.refOn) || b.tide.freeRun

/-- The count of intervals brought to the instant at which a timed event falls due; it never runs back. Reference time goes on
with it while it runs; where it does not, before the first lock and while it is held, the local oscillator alone measures the
interval (R3, R20, R250, R274; log entry 5). -/
def passTo (b : Block) (t : Nat) : Block :=
  { b with tide := { b.tide with
      clock := max b.tide.clock t,
      time := if timeRuns b then (b.tide.time + (t - b.tide.clock)) % 2 ^ 64 else b.tide.time } }

/-- The instant, in the count of intervals, at which reference time reaches `t`: now, if it has (R3). -/
def clockAt (b : Block) (t : Nat) : Nat := b.tide.clock + (t - b.tide.time)

/-- Reference time brought to the instant at which an event of the plan falls due (R250): a frame, an occurrence, a pulse. -/
def passRef (b : Block) (t : Nat) : Block := if timeRuns b then passTo b (clockAt b t) else b

/-- The millisecond of the limits of one record per millisecond (R78, R140, R407): of reference time, and where that does not run
of the local oscillator (R3). -/
def msNow (b : Block) : Nat := if timeRuns b then 2 * (b.tide.time / 1000000) else 2 * (b.tide.clock / 1000000) + 1

/-- The 32-bit frame number that completions and records carry. -/
def frameLo (b : Block) : Nat := b.tide.frame % 2 ^ 32

/-! ## Counters (R398, R399: keys are offsets in the snapshot window; a per-port counter adds 0x1000 × (port + 1)) -/

/-- A counter raised by `k`, saturating at 2^32 − 1. -/
def cntAdd (b : Block) (key k : Nat) : Block := { b with ctr := fmSet b.ctr key (satAdd 32 (fmGet b.ctr key 0) k) }

/-- A counter raised by one. -/
def cnt (b : Block) (key : Nat) : Block := cntAdd b key 1

/-- The key of a per-port counter. -/
def portKey (off port : Nat) : Nat := off + 0x1000 * (port + 1)

def cAccessDrop : Nat := 0x020
def cDbDrop : Nat := 0x040
def cPollLate : Nat := 0x044
def cStaleBeat : Nat := 0x048
def cFenceSignal : Nat := 0x080
def cFenceRegress : Nat := 0x084
def cFenceMiss : Nat := 0x088
def cFencePinStall : Nat := 0x08C
def cSbFull : Nat := 0x090
def cWatchBusy : Nat := 0x094
def cCreditCycle : Nat := 0x098
def cSkip : Nat := 0x0C0
def cSkipSuppressed : Nat := 0x0C4
def cBatonPush : Nat := 0x100
def cCreditHold : Nat := 0x104
def cIndexRange : Nat := 0x108
def cEngineFault : Nat := 0x10C
def cBatonProtocol : Nat := 0x110
def cXpIndex : Nat := 0x140
def cXpKey : Nat := 0x144
def cXpTurnover : Nat := 0x148
def cXpUnplaced : Nat := 0x14C
def cXpClamp : Nat := 0x150
def cXpStoreWait : Nat := 0x154
def cXpCallSkip : Nat := 0x158
def cStartLc : Nat := 0x180
def cStartBe : Nat := 0x184
def cChunkBind : Nat := 0x188
def cBeOverrun : Nat := 0x18C
def cBeStarve : Nat := 0x190
def cSlotWait : Nat := 0x194
def cSlotEvict : Nat := 0x198
def cBwHold : Nat := 0x19C
def cCapHoldBe : Nat := 0x1A0
def cCapHoldLc : Nat := 0x1A4
def cFrameLate : Nat := 0x1C0
def cOverrun : Nat := 0x1C4
def cLateStart : Nat := 0x1C8
def cOccMissed : Nat := 0x1CC
def cFsyncFault : Nat := 0x1D0
def cLateAfterSettle : Nat := 0x1D4
def cDiscontinuity : Nat := 0x1D8
def cUpdStaged : Nat := 0x200
def cUpdApplied : Nat := 0x204
def cUpdEpoch : Nat := 0x208
def cUpdMissed : Nat := 0x20C
def cUpdRowSkip : Nat := 0x210
def cUpdBlockBad : Nat := 0x214
def cGzTx : Nat := 0x240
def cGzCrcDrop : Nat := 0x244
def cGzDup : Nat := 0x248
def cGzStaleGen : Nat := 0x24C
def cGzHop : Nat := 0x250
def cGzNoRoute : Nat := 0x254
def cGzGap : Nat := 0x258
def cLinkDown : Nat := 0x25C
def cRouteChange : Nat := 0x260
def cPeerAbort : Nat := 0x264
def cCoreWaitHang : Nat := 0x280
def cSramCorrected : Nat := 0x284
def cSramRefetch : Nat := 0x288
def cGzRecoveryDrop : Nat := 0x28C
def cShadowRun : Nat := 0x2C0
def cShadowAbandon : Nat := 0x2C4
def cShadowMismatch : Nat := 0x2C8
def cReplayRun : Nat := 0x2CC
def cCorpusCapture : Nat := 0x2D0
def cStructTest : Nat := 0x2D4
def cStructFail : Nat := 0x2D8
def cUcodeLoad : Nat := 0x300
def cUcodeStepLimit : Nat := 0x304
def cUcodeBadStatus : Nat := 0x308
def cHold : Nat := 0x340
def cHoldTime : Nat := 0x344
def cAdvisory : Nat := 0x348
def cLengthen : Nat := 0x34C
def cWake : Nat := 0x350
def cWakeLate : Nat := 0x354
def cMonitorFault : Nat := 0x358
def cTraceRecord : Nat := 0x380
def cTraceDrop : Nat := 0x384
def cBrkStop : Nat := 0x388
def cBrkTimeout : Nat := 0x38C

/-! ## Dictionary values -/

/-- The stored value of an entry, or its default (R9). -/
def dget (b : Block) (idx sub : Nat) : Nat :=
  match fmGet? b.dict (dkey idx sub) with
  | some v => v
  | none => match dictDesc idx sub with
    | some d => d.dflt
    | none => 0

/-- The value of an entry replaced. -/
def dput (b : Block) (idx sub v : Nat) : Block := { b with dict := fmSet b.dict (dkey idx sub) v }

/-- This chip's number (R300). -/
def chipNo (b : Block) : Nat := dget b 0x5000 7

/-! ## The steps of units (R324, R335) -/

/-- What unit `u` of R335 holds is the same in two blocks: the queues for the starter, a microsequencer, the waits, fences and
scoreboard for the dependency engine, and so on in the order of R335. -/
def unitSame (a b : Block) (u : Nat) : Bool :=
  match u with
  | 0x00 => decide (a.q = b.q)
  | 0x05 => decide (a.fen = b.fen) && decide (a.sb = b.sb) && decide (a.walk = b.walk)
  | 0x06 => decide (a.comp = b.comp)
  | 0x07 => decide ({ a.obj with tlb := [] } = { b.obj with tlb := [] })
  | 0x08 => decide ({ a.tide with time := 0, clock := 0, stampFloor := 0, cycles := 0, edges := 0 } =
      { b.tide with time := 0, clock := 0, stampFloor := 0, cycles := 0, edges := 0 })
  | 0x09 => decide (a.xp = b.xp)
  | 0x0A => decide (a.live = b.live) && decide (a.upd = b.upd) && decide (a.stagePos = b.stagePos)
  | 0x0B => decide (a.ports = b.ports)
  | 0x0C => decide (a.obj.tlb = b.obj.tlb)
  | 0x0D => decide (a.bkt = b.bkt) && decide (a.cap = b.cap)
  | 0x0E => decide (a.adm = b.adm) && decide (a.regs = b.regs) && decide (a.dict = b.dict) && decide (a.mgt = b.mgt) &&
      decide (a.aud = b.aud)
  | 0x0F => decide (a.rel = b.rel) && decide (a.traceSeq = b.traceSeq)
  | _ => if u < 0x10 then decide (fmGet? a.mic.seqs (u - 1) = fmGet? b.mic.seqs (u - 1))
      else if u < 0x50 then decide (fmGet? a.cores (u - 0x10) = fmGet? b.cores (u - 0x10))
      else
        let head (x : Block) : Option PushEnt := (fmGet? x.cores (u - 0x50)).bind (fun k => k.pushQ.head?)
        decide (fmGet? a.ports (u - 0x50) = fmGet? b.ports (u - 0x50)) && decide (head a = head b)

/-- The 80 units of R335, and from 0x50 on, the cluster ports with the batons at their push queues' heads (R323). -/
def unitIds : List Nat := List.range 0x90

/-- The last step of a unit that has completed one in this command: its watchdog, or above 0x4F the port's, has the interval now in
force (R343). -/
def unitStepNow (b : Block) (u : Nat) : UnitStep :=
  { clock := b.tide.clock, time := stamp b, due := b.tide.clock + dget b 0x6000 (if u < 0x50 then 1 else 4) * 1000 }

/-- A command took the block from `old` to `b`: every unit that holds something else than before has retired a handshake, a microword
or a queued operation, which is a step of R324 (DEDUCED; log entry 72), and a changed `WRITE_ACK_WD_US` leaves its earlier value to
the writes issued before (R343). -/
def noteSteps (old b : Block) : Block :=
  { b with rcv := { b.rcv with
      prog := (unitIds.filter (fun n => !unitSame old b n)).foldl (fun m n => fmSet m n (unitStepNow b n)) b.rcv.prog,
      ackWas := if dget b 0x6000 5 = dget old 0x6000 5 then b.rcv.ackWas
        else b.rcv.ackWas ++ [(b.tide.clock, dget old 0x6000 5)] } }

/-! ## What a command does -/

/-- The outcome that a change of the block gives: none while the chip is held in reset or every unit has stopped. -/
def lift (f : Block → Block) (s : State) : Host.Outcome State Fault Refusal :=
  .next (if alive s then { s with blk := noteSteps s.blk (f s.blk) } else s)

/-- The microsequencers issue steps (R382). -/
def ready (b : Block) : Bool := b.mic.status = 2

/-- As `lift`, for what the microsequencers run (R365, R382). -/
def liftU (f : Block → Block) (s : State) : Host.Outcome State Fault Refusal :=
  lift (fun b => if ready b then f b else b) s

/-- As `liftU`, for what the fence step of a recovery sequence ends (R329). -/
def liftR (f : Block → Block) (s : State) : Host.Outcome State Fault Refusal :=
  lift (fun b => if ready b && decide (b.rcv.stage = .idle) then f b else b) s

/-- An access has completed: a recovery sequence no longer waits for it (R331). -/
def retire (b : Block) (l : List Access) : Block :=
  { b with rcv := { b.rcv with access := b.rcv.access.filter (fun x => !l.contains x) } }

/-- As `liftR`, for the reply to accesses: in a recovery sequence the reply is dropped and the accesses retired (R329, R331). -/
def liftReply (l : List Access) (f : Block → Block) (s : State) : Host.Outcome State Fault Refusal :=
  lift (fun b => if ready b then (if b.rcv.stage = .idle then f b else retire b l) else b) s

/-! ## Outputs -/

/-- Something driven towards the surroundings. -/
def emit (b : Block) (e : OutEvent) : Block := { b with out := e :: b.out }

/-- NOTIFY queued: Scehione raises the I3C in-band interrupt and sends it when that is read (R414, R454). -/
def notify (b : Block) (kind seq : Nat) : Block :=
  emit { b with mgt := { b.mgt with notify := b.mgt.notify ++ [(kind, seq)] } } .inBand

/-- `TABLE_GEN` raised: some byte of the capability table changed in this step (R415). -/
def tableChanged (b : Block) : Block := { b with tableGen := (b.tableGen + 1) % 2 ^ 32 }

/-! ## Memory in the surroundings -/

/-- The key of a byte of host memory of port `p` in the block's memory; a device byte's key is its global address. -/
def hostKey (p a : Nat) : Nat := 2 ^ 64 * (p + 1) + a % 2 ^ 64

/-- The key of an address in host memory of a port, or in device memory. -/
def memKey (host : Bool) (p a : Nat) : Nat := if host then hostKey p a else a % 2 ^ 64

/-- Bytes written at a key. -/
def wr (b : Block) (key : Nat) (bs : List Byte) : Block := { b with mem := memWriteBytes b.mem key bs }

/-- Chip number of a global address (R299). -/
def gchip (g : Nat) : Nat := (g >>> 52) % 4096

/-- The address is in this chip's device memory. -/
def isLocal (b : Block) (g : Nat) : Bool := gchip g = chipNo b

/-- Bytes of one of Scehione's own structures written at a device address: its accesses reach local device memory only (R12, R468),
so nothing is written where a base entry names another chip (log entry 75). -/
def wrOwn (b : Block) (g : Nat) (bs : List Byte) : Block := if isLocal b g then wr b g bs else b

/-- A little-endian field written at a key. -/
def wrLE (b : Block) (key n v : Nat) : Block := wr b key (leBytes n v)

/-- A little-endian field read at a key. -/
def rdLE (b : Block) (key n : Nat) : Nat := memReadLE b.mem key n

/-- An access of a queue to host memory, on a port and with its owner's function as requester (R64); none to device memory. -/
def hostAcc (b : Block) (host : Bool) (port fn addr len : Nat) (write : Bool) : Block :=
  if host then emit b (.host port fn addr len write) else b

/-- A record with timestamp `t` written into slot `seq mod 2^log2` of a ring of records (R174); a base of 0 disables records. -/
def ringPut (b : Block) (base log2 size seq t : Nat) (bs : List Byte) : Block :=
  if base = 0 then b else noteStamp (wrOwn b (base + seq % 2 ^ log2 * size) bs) t

/-! ## Audit log (R418, R419) -/

/-- The 12-bit origin ID (R384). -/
def originId (o : Origin) : Nat := o.port % 4 * 1024 + o.fn % 256 * 4 + o.priv % 4

/-- Privilege bits as R384 takes them on a host port: 0b10 and 0b11 count as `USER`. -/
def privOf (o : Origin) : Nat := if o.priv % 4 = 1 then 1 else 0

/-- The path code of R418. -/
def pathCode : Path → Nat
  | .view => 0
  | .i3c => 1
  | .vdm => 2
  | .secure => 3
  | .internal => 4
  | .dbg => 5

/-- The origin that an audit record carries: 0 for I3C, internal and the debug/trace port, and on the secure path port 0, function 0
and `SECURE` (R386, R418). -/
def auditOrigin (p : Path) (o : Origin) : Nat :=
  match p with
  | .i3c => 0
  | .internal => 0
  | .dbg => 0
  | .secure => 3
  | _ => originId { o with priv := privOf o }

/-- What an audit record says. -/
structure AuditEv where
  type   : Nat
  result : Nat := 0
  path   : Path := .internal
  org    : Origin := { port := 0, fn := 0, priv := 0 }
  idx    : Nat := 0
  sub    : Nat := 0
  old    : Nat := 0
  new    : Nat := 0
  detail : Nat := 0
  trunc  : Bool := false
  cal    : Bool := false

/-- The 64 bytes of an audit record, CRC included. -/
def auditRecord (e : AuditEv) (count seq time : Nat) : BitVec 512 :=
  let body := packFields [(0, 8, e.type), (8, 8, e.result), (16, 8, pathCode e.path), (24, 1, b2n e.trunc),
    (25, 1, b2n e.cal), (32, 12, auditOrigin e.path e.org), (48, 8, e.sub), (64, 16, e.idx), (80, 16, min count 65535),
    (96, 32, seq), (128, 64, time), (192, 64, e.old), (256, 64, e.new), (320, 64, e.detail)]
  BitVec.ofNat 512 (body + (crc32c (leBytes 64 body)).toNat * 2 ^ 480)

/-- An audit record appended: in the ring, in its mirror, with NOTIFY kind 1 (R414, R418, R419). -/
def auditN (b : Block) (e : AuditEv) (count : Nat) : Block :=
  let a := b.aud
  let r := auditRecord e count a.seq (stamp b)
  let old := (a.seq % 2 ^ 32 + 2 ^ 32 - dget b 0x9000 4) % 2 ^ 32
  let lost := decide (4096 ≤ old) && decide (old < 2 ^ 31)
  let b := { b with aud := { a with ring := fmSet a.ring (a.seq % 4096) r, seq := a.seq + 1,
                                    overrun := if lost then satInc 32 a.overrun else a.overrun } }
  notify (ringPut (noteStamp b (stamp b)) (dget b 0x9000 6) 12 64 a.seq (stamp b) (leBytes 64 r.toNat)) 1 a.seq

/-- An audit record that no limit governs. -/
def audit (b : Block) (e : AuditEv) : Block := auditN b e 1

/-- An audit record limited to one per millisecond for a key (R78, R390, R393, R407, R418): the first
event of a millisecond is written, with the events withheld since the last record. -/
def auditLim (b : Block) (key : Nat) (e : AuditEv) : Block :=
  let ms := msNow b
  match fmGet? b.aud.limits key with
  | some (last, held) =>
    if last = ms then { b with aud := { b.aud with limits := fmSet b.aud.limits key (last, held + 1) } }
    else
      let b := auditN b e (1 + held)
      { b with aud := { b.aud with limits := fmSet b.aud.limits key (ms, 0) } }
  | none =>
    let b := auditN b e 1
    { b with aud := { b.aud with limits := fmSet b.aud.limits key (ms, 0) } }

/-- The key of a limit: record type, then the port or the path and origin. -/
def limitKey (type who : Nat) : Nat := type * 0x100000 + who

/-! ## Trace (R443 to R445) -/

/-- A trace record of an event at time `t`: taken only while its enable bit is set; dropped and counted while
`TRACE_BASE` is 0 or the staging is full, which is a free value; in a recovery sequence it is staged and lost (R445; log entry 77). -/
def traceAt (b : Block) (t kind bit : Nat) (cluster : Option Nat) (payload : List (Nat × Nat × Nat)) : Block :=
  if (dget b 0x8000 4).testBit bit then
    let seq := b.traceSeq
    let head := [(0, 8, kind), (8, 6, cluster.getD 0), (14, 1, b2n cluster.isSome), (32, 32, seq), (64, 64, t)]
    let body := packFields (head ++ payload.map (fun p => (p.1 + 128, p.2.1, p.2.2)))
    let b1 := { b with traceSeq := (seq + 1) % 2 ^ 32 }
    if b.rcv.stage ≠ .idle then b1
    else if dget b 0x8000 1 = 0 || Config.traceFull seq then cnt b1 cTraceDrop
    else cnt (ringPut b1 (dget b 0x8000 1) (dget b 0x8000 2) 64 seq t (leBytes 64 body)) cTraceRecord
  else b

/-- A trace record of an event now. -/
def trace (b : Block) (kind bit : Nat) (cluster : Option Nat) (payload : List (Nat × Nat × Nat)) : Block :=
  traceAt b (stamp b) kind bit cluster payload

/-! ## Address space (R299, R49, R50, R56, R468) -/

/-- Offset of a global address within its chip. -/
def goff (g : Nat) : Nat := g % 2 ^ 52

/-- A partition, if it exists. -/
def partOf (b : Block) (p : Nat) : Option Partition := fmGet? b.obj.parts p

/-- The partition of a cluster. -/
def clusterPart (b : Block) (c : Nat) : Option Nat := (b.obj.parts.find? (fun p => p.2.clusters.getLsbD c)).map Prod.fst

/-- `len` bytes from a local global address lie within one range of the partition. -/
def inPart (b : Block) (p g len : Nat) : Bool :=
  match partOf b p with
  | none => false
  | some q => isLocal b g && q.ranges.any (fun r =>
      decide (r.1 * 0x200000 ≤ goff g) && decide (goff g + len ≤ (r.1 + r.2) * 0x200000))

/-- The context that a handle names now (R30, R39 test 1). -/
def ctxOf (b : Block) (h : BitVec 24) : Option Ctx :=
  match fmGet? b.obj.ctxs (field h 0 20) with
  | some c => if c.handle = h then some c else none
  | none => none

/-- A level-2 entry reached by a walk of the context's tables in device memory (R49, R50). -/
def walkL2 (b : Block) (c : Ctx) (va : Nat) : Option Nat :=
  if va ≥ 2 ^ (30 + c.span) then none
  else
    let e1 := rdLE b (c.ptRoot + 8 * (va >>> 30)) 8
    if e1 % 2 = 0 then none
    else
      let e2 := rdLE b (e1 / 0x20000 * 0x20000 + 8 * (va >>> 16 % 16384)) 8
      if e2 % 2 = 0 then none else some e2

/-- A translation: page base, page size, writable. -/
def walkPage (b : Block) (c : Ctx) (va : Nat) : Option TlbEnt :=
  match walkL2 b c va with
  | none => none
  | some e =>
    let size := if e.testBit 2 then 0x200000 else 0x10000
    some { ctx := c.handle, vbase := va / size * size, size := size, gbase := e / size * size, writable := e.testBit 1 }

/-- Translation under R56: the global address, or a fault. -/
def translate (b : Block) (h : BitVec 24) (va : Nat) (write : Bool) : Option Nat :=
  match ctxOf b h with
  | none => none
  | some c =>
    match b.obj.tlb.find? (fun t => t.ctx = h && decide (t.vbase ≤ va) && decide (va < t.vbase + t.size)) with
    | some t => if write && !t.writable then none else some (t.gbase + (va - t.vbase))
    | none =>
      match walkPage b c va with
      | none => none
      | some t => if write && !t.writable then none else some (t.gbase + (va - t.vbase))

/-- The translation cache holds the page of an address. -/
def tlbHit (b : Block) (h : BitVec 24) (va : Nat) : Bool :=
  b.obj.tlb.any (fun t => t.ctx = h && decide (t.vbase ≤ va) && decide (va < t.vbase + t.size))

/-- A translation of one of Scehione's own accesses, which reach local device memory only (R468). -/
def translateOwn (b : Block) (h : BitVec 24) (va : Nat) (write : Bool) : Option Nat :=
  match translate b h va write with
  | some g => if isLocal b g then some g else none
  | none => none

/-- The page of an address brought into the translation cache of 16,384 entries (R22), the oldest leaving. -/
def tlbFill (b : Block) (h : BitVec 24) (va : Nat) : Block :=
  match ctxOf b h with
  | none => b
  | some c =>
    match walkPage b c va with
    | none => b
    | some t => { b with obj := { b.obj with tlb := (t :: b.obj.tlb).take 16384 } }

/-- Every cached translation of a context's addresses from `va`, `len` bytes, dropped. -/
def tlbDrop (b : Block) (h : BitVec 24) (va len : Nat) : Block :=
  { b with obj := { b.obj with tlb := b.obj.tlb.filter (fun t => !(t.ctx = h && decide (t.vbase < va + len)
      && decide (va < t.vbase + t.size))) } }

/-! ## Context records (R33, R35) -/

/-- The code of a state (R34). -/
def ctxCode : CtxState → Nat
  | .free => 0
  | .created => 1
  | .resident => 2
  | .blocked => 3
  | .lost => 4
  | .destroying => 5

/-- Bytes 0x00 to 0x3F of a context record. -/
def ctxBytes (c : Ctx) : List Byte :=
  leBytes 64 (packFields [(0, 24, c.handle.toNat), (24, 3, ctxCode c.state), (32, 10, c.ownerPort * 256 + c.ownerFn),
    (48, 5, c.part), (56, 8, c.lostCause), (64, 64, c.ptRoot), (128, 5, c.span), (192, 64, c.lostTime),
    (256, 64, c.completed), (320, 64, c.aborted), (384, 64, c.replayed), (448, 64, c.created)])

/-- The execution-slot state of a context (R37): the slot it holds, whether it yields, the slot it waits for. -/
def slotState (c : Ctx) : Option Nat × Bool × Option Nat := (c.slot, c.yielding, c.slotWait)

/-- Execution-slot state written through to the private area of a record (R37). Its content is not specified (R33): free bytes, in
all of 0x40 to 0xFF (log entry 59). A write-through of the record alone leaves these bytes as they are. -/
def slotThrough (b : Block) (id : Nat) : Block :=
  wrOwn { b with obj := { b.obj with slotWrites := b.obj.slotWrites + 1 } } (dget b 0x2010 1 + 256 * id + 0x40)
    ((List.range 192).map (Config.ctxPrivate b.obj.slotWrites))

/-- A context written back, with its record written through to memory (R35), and its execution-slot state at every change of it
(R37). -/
def putCtx (b : Block) (c : Ctx) : Block :=
  let id := field c.handle 0 20
  let old := (fmGet? b.obj.ctxs id).map slotState
  let b := wrOwn { b with obj := { b.obj with ctxs := fmSet b.obj.ctxs id c } } (dget b 0x2010 1 + 256 * id) (ctxBytes c)
  let b := noteStamp b (max c.created c.lostTime)
  if old.getD (none, false, none) = slotState c then b else slotThrough b id

/-! ## Accessors -/

/-- A control core. -/
def coreOf (b : Block) (c : Nat) : CoreSt := (fmGet? b.cores c).getD CoreSt.fresh

/-- A control core replaced. -/
def putCore (b : Block) (c : Nat) (k : CoreSt) : Block := { b with cores := fmSet b.cores c k }

/-- The time that a core has been held until now in step 1, 2 or 4 of R152 (R436); a hold for a program line, and one in step 3, do
not count. -/
def heldTime (k : CoreSt) (now : Nat) : Nat :=
  match k.hold, k.slw with
  | .none, _ => 0
  | _, some w => if w.stage = .c1 then 0 else now - k.holdFrom
  | _, none => 0

/-- A core held like this is at an SLW boundary (R170). -/
def Hold.atBoundary : Hold → Bool
  | .drain | .pushQueue | .localFence _ _ _ | .pinned _ _ _ | .calls => true
  | .none | .remoteFence _ _ _ _ | .fenceRead _ | .remoteRead _ _ | .walk _ _ | .sync | .line _ _ _ | .table _ _ _ => false

/-- The core is at an SLW boundary (R170): no SLW has begun, its SLW stands where R170 puts a boundary, or it is stopped (R441). -/
def atSlwBoundary (k : CoreSt) : Bool :=
  k.brkStop.isSome || (match k.slw with
    | none => true
    | some w => decide (w.stage = .drain) || k.hold.atBoundary || (decide (k.hold = .none) && k.bound))

/-- A core whose hold ends now: none, and the time counted (R436). -/
def holdClosed (k : CoreSt) (now : Nat) : CoreSt :=
  { k with hold := .none, bound := k.hold.atBoundary, holdNs := satAdd 32 k.holdNs (heldTime k now) }

/-- A cluster port. -/
def portOf (b : Block) (c : Nat) : CPort := (fmGet? b.ports c).getD CPort.fresh

/-- A cluster port replaced. -/
def putPort (b : Block) (c : Nat) (p : CPort) : Block := { b with ports := fmSet b.ports c p }

/-- A run, if its number is in use. -/
def runOf (b : Block) (r : Nat) : Option Run := fmGet? b.comp.runs r

/-- A run replaced. -/
def putRun (b : Block) (r : Nat) (x : Run) : Block := { b with comp := { b.comp with runs := fmSet b.comp.runs r x } }

/-- A work item, if its tag is allocated. -/
def itemOf (b : Block) (t : Nat) : Option Item := fmGet? b.sb.items t

/-- A work item replaced. -/
def putItem (b : Block) (t : Nat) (i : Item) : Block := { b with sb := { b.sb with items := fmSet b.sb.items t i } }

/-- Power of a cluster. -/
def pwrOf (b : Block) (c : Nat) : PwrRec := (fmGet? b.pwr.clusters c).getD PwrRec.fresh

/-- A cluster ordered into a power state; an order away from `OFF` wakes it (R430, R431, R452). -/
def orderPower (b : Block) (c st : Nat) : Block :=
  let x := pwrOf b c
  if x.order = st then b
  else
    let b := if x.order = 0 then cnt b cWake else b
    emit { b with pwr := { b.pwr with clusters := fmSet b.pwr.clusters c { x with order := st } } } (.power c st)

/-- A cluster of no partition is ordered `OFF` once no baton of it is outstanding (R430). -/
def offIfLoose (b : Block) (c : Nat) : Block :=
  if (portOf b c).out.isEmpty && b.obj.parts.all (fun p => !p.2.clusters.getLsbD c) then orderPower b c 0 else b

/-- Clusters of a mask in ascending order. -/
def maskClusters (m : BitVec 64) : List Nat := (List.range 64).filter (fun c => m.getLsbD c)

/-- A unit's observation record. -/
def unitOf (b : Block) (u : Nat) : UnitRec := (fmGet? b.rel.units u).getD UnitRec.fresh

/-- The unit number of an engine or core (R357: cluster [5:0], position [9:6]). -/
def unitNo (c pos : Nat) : Nat := c + 64 * pos

/-- The fuse vector marks an engine position present (R457). -/
def fusePresent (b : Block) (c pos : Nat) : Bool := b.fuse.getLsbD (14 * c + pos)

/-- A cluster is withdrawn: its control core is Quarantined (R359). -/
def withdrawn (b : Block) (c : Nat) : Bool := decide ((unitOf b (unitNo c 15)).state = 2)

/-- A position is present: fused present, not Quarantined and not of a withdrawn cluster (R195, R416). -/
def present (b : Block) (c pos : Nat) : Bool :=
  fusePresent b c pos && decide ((unitOf b (unitNo c pos)).state ≠ 2) && !withdrawn b c

/-- The unit number of the expander (R357). -/
def unitXp : Nat := 0x0380

end Sys2Proof.Machine
end

