-- ==== Sys2Proof/Machine/Flags.lean ====
section
/-! DEFINITION. The encodings that many rules share: status codes (R8), skip reasons (R173), tide causes and record types
(R277), fabric, power and history record types, recovery causes (R333). -/

namespace Sys2Proof.Machine

/-! ## Status codes (R8) -/

def stDone : Nat := 0x00
def stSkips : Nat := 0x01
def stReplayed : Nat := 0x02
def stLate : Nat := 0x03
def stPageFault : Nat := 0x10
def stCtxLost : Nat := 0x11
def stFetchTimeout : Nat := 0x12
def stRemoteWait : Nat := 0x13
def stCreditCycle : Nat := 0x14
def stDestroyed : Nat := 0x15
def stPeerFault : Nat := 0x16
def stReplayExhausted : Nat := 0x17
def stHang : Nat := 0x18
def stChipReset : Nat := 0x19
def stNotOwner : Nat := 0x20
def stNoResource : Nat := 0x21
def stBadState : Nat := 0x22
def stAdminOk : Nat := 0x30
def stAdminPending : Nat := 0x31
def stAdminFailed : Nat := 0x3F

/-- An abort status (R8). -/
def isAbort (s : Nat) : Bool := decide (0x10 ≤ s) && decide (s ≤ 0x19)

/-- A completed status (R8). -/
def isCompleted (s : Nat) : Bool := decide (s ≤ 0x03)

/-! ## `DETAIL` of an admin completion (R102) -/

def dtNone : Nat := 0x00
def dtRange : Nat := 0x01
def dtAlign : Nat := 0x02
def dtReserved : Nat := 0x03
def dtNoObject : Nat := 0x04
def dtInUse : Nat := 0x05
def dtLimit : Nat := 0x06
def dtOutside : Nat := 0x07
def dtRights : Nat := 0x08
def dtState : Nat := 0x09
def dtSignature : Nat := 0x0A
def dtImageFormat : Nat := 0x0B
def dtReadError : Nat := 0x0C
def dtFenceFault : Nat := 0x0D
def dtSuperseded : Nat := 0x0E

/-! ## Skip reasons (R173) -/

def skReservedOpcode : Nat := 0x01
def skReservedField : Nat := 0x02
def skReservedHeader : Nat := 0x03
def skAbsentEngine : Nat := 0x04
def skRepeatNoPrevious : Nat := 0x05
def skRepeatConflict : Nat := 0x06
def skLocalRange : Nat := 0x07
def skAlignment : Nat := 0x08
def skBranchRange : Nat := 0x09
def skFlowConflict : Nat := 0x0A
def skLoopDepth : Nat := 0x0B
def skLoopBodyEnd : Nat := 0x0C
def skStreamDepth : Nat := 0x0D
def skTruncated : Nat := 0x0E
def skCreditLimit : Nat := 0x0F
def skGroupScope : Nat := 0x10
def skEngineSlot : Nat := 0x11
def skSummary : Nat := 0x12

/-! ## Dictionary results (R409) -/

def drOk : Nat := 0x00
def drNoEntry : Nat := 0x01
def drNoRights : Nat := 0x02
def drReadOnly : Nat := 0x03
def drRange : Nat := 0x04
def drState : Nat := 0x05
def drTypeLength : Nat := 0x06
def drUnavailable : Nat := 0x07
def drBusy : Nat := 0x08
def drBadRequest : Nat := 0x09

/-! ## Audit record types (R418) -/

def auDictWrite : Nat := 0x01
def auDictRefused : Nat := 0x02
def auRegWrite : Nat := 0x03
def auRegDrop : Nat := 0x04
def auDoorbellDrop : Nat := 0x05
def auMailboxDrop : Nat := 0x06
def auCqInconsistent : Nat := 0x07
def auCfgCommit : Nat := 0x08
def auIntegrity : Nat := 0x09
def auLinkOverride : Nat := 0x0A
def auSheetStale : Nat := 0x0B
def auActionRefused : Nat := 0x0C

/-! ## Recovery causes (R333) -/

def rcUnitHang : Nat := 0x01
def rcBatonHang : Nat := 0x02
def rcPortHang : Nat := 0x03
def rcWriteAck : Nat := 0x04
def rcDestroyTimeout : Nat := 0x05
def rcSram : Nat := 0x06
def rcConfigCrc : Nat := 0x07
def rcOperator : Nat := 0x08

/-! ## Comparison of fence values, frames and epochs (R114, R253, R286) -/

/-- Value `a` has reached value `b` (R114). -/
def reached (a b : Word) : Bool := decide ((a - b).toNat < 2 ^ 63)

/-- Frame `a` is at or after frame `b` (R253). -/
def frameReached (a b : Nat) : Bool := decide ((a + 2 ^ 48 - b % 2 ^ 48) % 2 ^ 48 < 2 ^ 47)

/-- What a signal of value `v` does to a fence of value `c` (R115): 0 advanced, 1 equal, 2 regressive (R313). -/
def signalOutcome (v c : Word) : Nat := if v = c then 1 else if reached v c then 0 else 2

/-- The completed status of a heat that ends without abort, in the order of R171. -/
def completedStatus (late replayed skips : Bool) : Nat :=
  if late then stLate else if replayed then stReplayed else if skips then stSkips else stDone

end Sys2Proof.Machine
end

