-- ==== Sys2Proof/Machine/Buckets.lean ====
section
/-! DEFINITION. Breakwater buckets and the power cap: refill, pass conditions and charging (R241 to R246). -/

namespace Sys2Proof.Machine

open Sys2Proof

/-- `RATE` of a bucket in bytes per microsecond; 0xFFFF_FFFF means unlimited (R245). -/
def bktRate (b : Block) (p k : Nat) : Nat := dget b (0x3100 + p) (0x01 + k)

/-- `BURST` of a bucket in bytes. -/
def bktBurst (b : Block) (p k : Nat) : Nat := dget b (0x3100 + p) (0x11 + k) * 1024

/-- `BE_RESERVE` of a bucket in bytes. -/
def bktReserve (b : Block) (p k : Nat) : Nat := dget b (0x3100 + p) (0x21 + k) * 1024

/-- The level of a bucket now, in thousandths of a byte: refilled at `RATE` up to `BURST` (R244); a bucket that nothing
has charged is full. -/
def bktLevel (b : Block) (p k : Nat) : Int :=
  let full : Int := (bktBurst b p k : Int) * 1000
  match fmGet? b.bkt (p * 16 + k) with
  | none => full
  | some x => min full (x.level + (bktRate b p k : Int) * ((b.tide.clock : Int) - x.at_))

/-- A bucket never holds while its rate is unlimited. -/
def bktFree (b : Block) (p k : Nat) : Bool := bktRate b p k = 0xFFFFFFFF

/-- A charge of `n` bytes passes bucket `k` of partition `p` (R244). -/
def bktPass (b : Block) (p k n : Nat) (lc : Bool) : Bool :=
  if bktFree b p k then true
  else
    let lvl := bktLevel b p k
    if lc then decide (lvl > 0)
    else if n ≤ bktBurst b p k - bktReserve b p k then
      decide (lvl - (n : Int) * 1000 ≥ (bktReserve b p k : Int) * 1000)
    else decide (lvl ≥ (bktBurst b p k : Int) * 1000)

/-- Every charge of a list passes. -/
def bktPassAll (b : Block) (p : Nat) (lc : Bool) (l : List (Nat × Nat)) : Bool := l.all (fun c => bktPass b p c.1 c.2 lc)

/-- A charge taken. -/
def bktTake (b : Block) (p k n : Nat) : Block :=
  let lvl := bktLevel b p k - (n : Int) * 1000
  { b with bkt := fmSet b.bkt (p * 16 + k) { level := lvl, at_ := b.tide.clock } }

/-- Every charge of a list taken. -/
def bktTakeAll (b : Block) (p : Nat) (l : List (Nat × Nat)) : Block := l.foldl (fun b c => bktTake b p c.1 c.2) b

/-- Every bucket of a partition full (R244, at creation). -/
def bktFill (b : Block) (p : Nat) : Block := { b with bkt := b.bkt.filter (fun x => decide (x.1 / 16 ≠ p)) }

/-- Bytes rounded up to the charging unit (R242). -/
def chargeBytes (n : Nat) : Nat := roundUp n 64

/-- The memory-fabric bucket of a local global address (R241, R242). -/
def stackBucket (b : Block) (g : Nat) : Nat := goff g / 2 ^ dget b 0x3010 4 % 16 / 4

/-- The charge of one of Scehione's own reads: host memory through a port, or device memory of a stack (R242). -/
def ownCharge (b : Block) (host : Bool) (port g n : Nat) : List (Nat × Nat) :=
  [(if host then 10 + port % 4 else stackBucket b g, chargeBytes n)]

/-- `CAP_BATON_RATE_M`; 0xFFFF_FFFF means no cap (R246). -/
def capRate (b : Block) : Nat := dget b 0x3030 1

/-- The cap bucket's level now, in thousandths of a baton. -/
def capLevel (b : Block) : Int :=
  min ((dget b 0x3030 2 : Int) * 1000) (b.cap.level + (capRate b : Int) * ((b.tide.clock : Int) - b.cap.at_))

/-- A baton passes the power cap (R246). -/
def capPass (b : Block) (lc : Bool) : Bool :=
  if capRate b = 0xFFFFFFFF then true
  else if lc then decide (capLevel b > 0) else decide (capLevel b > (dget b 0x3030 3 : Int) * 1000)

/-- One token taken from the cap bucket. -/
def capTake (b : Block) : Block := { b with cap := { b.cap with level := capLevel b - 1000, at_ := b.tide.clock } }

/-- A baton is held by the cap now: noted for `CAP_STATE` (R246). -/
def capNote (b : Block) (lc : Bool) : Block :=
  if lc then { b with cap := { b.cap with heldLc := some b.tide.clock },
                      tide := { b.tide with capFrames := b.tide.frame :: b.tide.capFrames.filter (· ≠ b.tide.frame) } }
  else { b with cap := { b.cap with heldBe := some b.tide.clock } }

/-- The cap holds a baton of a class at some port. -/
def capHolding (b : Block) (lc : Bool) : Bool :=
  b.ports.any (fun p => decide (p.2.coreHeld.cap = some lc) || decide (p.2.xHeld.cap = some lc))

/-- A baton of a class is held by the cap, or was within the last 10 µs (R246). -/
def capRecent (b : Block) (lc : Bool) : Bool :=
  capHolding b lc || (match if lc then b.cap.heldLc else b.cap.heldBe with
    | none => false
    | some t => decide (b.tide.clock < t + 10000))

/-- `CAP_STATE` (R246): 2 LC_THROTTLED, 1 BE_THROTTLED, 0 NONE. -/
def capState (b : Block) : Nat := if capRecent b true then 2 else if capRecent b false then 1 else 0

end Sys2Proof.Machine
end

