-- ==== Sys2Proof/Machine/Grizin.lean ====
section
/-! DEFINITION. Sending Grizin messages, routes and fabric log records (R309 to R316, R321). -/

namespace Sys2Proof.Machine

open Sys2Proof

/-- A link port. -/
def linkOf (b : Block) (p : Nat) : LinkPort := (fmGet? b.fab.ports p).getD LinkPort.fresh

/-- A link port replaced. -/
def putLink (b : Block) (p : Nat) (l : LinkPort) : Block := { b with fab := { b.fab with ports := fmSet b.fab.ports p l } }

/-- A fabric record (R321). -/
def fabRec (b : Block) (type port peer result a v count : Nat) : Block :=
  let seq := b.fab.seq
  let bs := leBytes 48 (packFields [(0, 8, type), (8, 3, port), (16, 12, peer), (32, 8, result), (64, 64, stamp b),
    (128, 64, a), (192, 64, v), (256, 32, seq), (288, 32, count)])
  if dget b 0x5030 1 = 0 then b
  else ringPut { b with fab := { b.fab with seq := (seq + 1) % 2 ^ 32 } } (dget b 0x5030 1) (dget b 0x5030 2) 48 seq (stamp b) bs

/-- The plan's record of a chip. -/
def planChip (b : Block) (c : Nat) : Option PlanChip :=
  match b.fab.plan with
  | none => none
  | some p => p.chips.find? (fun x => x.chip = c)

/-- Reach class of this chip's port under the plan; 0 when none (R301). -/
def reachOf (b : Block) (p : Nat) : Nat :=
  match planChip b (chipNo b) with
  | none => 0
  | some x => nfield x.reach (3 * p) 3

/-- A chip has a route from here (R309, R468). -/
def routed (b : Block) (c : Nat) : Bool := c = chipNo b || fmHas b.fab.routes c

/-- The next port towards a chip. -/
def nextPort (b : Block) (c : Nat) : Option Nat := (fmGet? b.fab.routes c).map Prod.fst

/-- The tree neighbours of this chip: its parent and its children among the members (R314). -/
def treeNeighbours (b : Block) : List Nat :=
  match b.fab.plan with
  | none => []
  | some p =>
    let me := chipNo b
    match p.chips.find? (fun x => x.chip = me) with
    | none => []
    | some x =>
      if x.member then
        (if x.parent = me then [] else [x.parent]) ++
          (p.chips.filter (fun y => y.member && y.parent = me && decide (y.chip ≠ me))).map (·.chip)
      else []

/-! ## Routes on the plan's fault-free mesh (R299, R301, R309) -/

/-- A coordinate of a chip number: 0 X, 1 Y, 2 Z (R299). -/
def coord (c a : Nat) : Nat := (c >>> (8 - 4 * a)) % 16

/-- The chip `k` steps from a chip out of a port, in a mesh without wrap-around. -/
def meshStep (c p k : Nat) : Option Nat :=
  let a := p / 2
  let w := 2 ^ (8 - 4 * a)
  if p % 2 = 1 then (if coord c a + k ≤ 15 then some (c + k * w) else none)
  else if k ≤ coord c a then some (c - k * w) else none

/-- The port of a neighbour that faces back. -/
def facing (p : Nat) : Nat := if p % 2 = 0 then p + 1 else p - 1

/-- The six ports. -/
def sixPorts : List Nat := [0, 1, 2, 3, 4, 5]

/-- The order in which ports are tried: productive ones on X, Y, Z, then all (R309). -/
def portOrder (c d : Nat) : List Nat :=
  ([0, 1, 2].filter (fun a => decide (coord c a ≠ coord d a))).map (fun a => 2 * a + b2n (decide (coord c a < coord d a))) ++ sixPorts

/-- Shortest hop counts from a set of chips on. -/
def bfs (next : Nat → List Nat) : Nat → List Nat → Nat → FMap Nat → FMap Nat
  | 0, _, _, m => m
  | fuel + 1, front, k, m =>
    let new := ((front.flatMap next).eraseDups).filter (fun c => !fmHas m c)
    if new.isEmpty then m else bfs next fuel new (k + 1) (new.foldl (fun m c => fmSet m c k) m)

/-- Hop counts towards a chip in a graph, given the chip at the end of each port. -/
def distIn (link : Nat → Nat → Option Nat) (d : Nat) : FMap Nat := bfs (fun c => sixPorts.filterMap (link c)) 4096 [d] 1 [(d, 0)]

/-- The next hop of a chip towards `d` in a graph: port and neighbour (R309). -/
def hopIn (link : Nat → Nat → Option Nat) (dist : FMap Nat) (c d : Nat) : Option (Nat × Nat) :=
  match fmGet? dist c with
  | none => none
  | some k => (portOrder c d).findSome? (fun p => match link c p with
    | some n => if fmGet? dist n = some (k - 1) ∧ 1 ≤ k then some (p, n) else none
    | none => none)

/-- The chip at the end of a port's link on the fault-free mesh of a plan: the neighbour, where the port is in use (R301, R303). -/
def planEnd (p : Plan) (c q : Nat) : Option Nat :=
  match p.chips.find? (fun x => x.chip = c) with
  | some x => if nfield x.reach (3 * q) 3 = 0 then none else meshStep c q 1
  | none => none

/-- The port that this chip's fault-free route to a chip takes (R309, R311). -/
def freePort (b : Block) (d : Nat) : Option Nat :=
  match b.fab.plan with
  | some p => (hopIn (planEnd p) (distIn (planEnd p) d) (chipNo b) d).map Prod.fst
  | none => none

/-! ## The bytes of a message (R311, R313) -/

/-- Bytes padded with zeros to a multiple of 8. -/
def pad8 (l : List Byte) : List Byte := l ++ List.replicate (roundUp l.length 8 - l.length) 0

/-- The `TYPE` of a message (R313). -/
def gzType : GzMsg → Nat
  | .fenceSignal _ _ _ => 0x01
  | .fenceApplied _ _ => 0x02
  | .fenceWatch _ _ => 0x03
  | .fenceReached _ _ => 0x04
  | .fenceBusy _ => 0x05
  | .fenceUnwatch _ _ => 0x06
  | .announce _ => 0x10
  | .beacon _ _ => 0x11
  | .beaconReply _ _ _ _ => 0x12
  | .lateFrame _ _ _ _ => 0x13
  | .lengthRequest _ => 0x14
  | .tideLeave _ _ _ => 0x15
  | .tideJoin _ => 0x16
  | .tideJoinAccept _ => 0x17
  | .updateData _ _ _ => 0x20
  | .epochSeal _ => 0x21
  | .sourceSuspend _ _ => 0x22
  | .sourceResume _ _ _ => 0x23
  | .peerAbort _ _ _ => 0x30
  | .linkState _ _ _ => 0x31
  | .linkIdent _ => 0x40
  | .heartbeat _ => 0x41
  | .testCtl _ _ => 0x42
  | .transit t _ => t.toNat

/-- A `TYPE` that R313 does not reserve. -/
def gzKnown (t : Nat) : Bool :=
  (1 ≤ t && t ≤ 6) || (0x10 ≤ t && t ≤ 0x17) || (0x20 ≤ t && t ≤ 0x23) || t = 0x30 || t = 0x31 || (0x40 ≤ t && t ≤ 0x42)

/-- The fields of a message's payload, in order, with their widths in bytes (R313). -/
def gzFields : GzMsg → List (Nat × Nat)
  | .fenceSignal a v ctx => [(8, a.toNat), (8, v.toNat), (8, ctx.toNat)]
  | .fenceApplied seq outcome => [(8, packFields [(0, 32, seq.toNat), (32, 2, outcome)])]
  | .fenceWatch a v => [(8, a.toNat), (8, v.toNat)]
  | .fenceReached a v => [(8, a.toNat), (8, v.toNat)]
  | .fenceBusy a => [(8, a.toNat)]
  | .fenceUnwatch a v => [(8, a.toNat), (8, v.toNat)]
  | .announce a => [(8, a.nextFsync), (8, a.origin), (4, a.length), (4, a.pending), (8, a.changeAt),
                    (4, (BitVec.ofInt 32 a.corr).toNat), (4, 0)]
  | .beacon t1 _ => [(8, t1)]
  | .beaconReply t1 t2 t3 _ => [(8, t1), (8, t2), (8, t3)]
  | .lateFrame f c cause flags => [(8, packFields [(0, 48, f), (48, 12, c)]), (1, cause), (1, flags)]
  | .lengthRequest len => [(4, len)]
  | .tideLeave c rack cause => [(2, c), (1, b2n rack), (1, cause)]
  | .tideJoin c => [(2, c)]
  | .tideJoinAccept f => [(8, f)]
  | .updateData l add recs => [(2, l), (1, b2n add), (1, 0), (4, recs.length)]
  | .epochSeal e => [(2, e.liveId), (2, 0), (4, e.epoch.toNat), (8, e.frame), (4, e.count), (4, e.units), (4, e.crc.toNat), (4, 0)]
  | .sourceSuspend l f => [(2, l), (6, 0), (8, f)]
  | .sourceResume l e f => [(2, l), (2, 0), (4, e.toNat), (8, f)]
  | .peerAbort c p n => [(2, c), (1, p), (4, n.toNat)]
  | .linkState c v mask => [(2, c), (4, v.toNat), (1, mask.toNat)]
  | .linkIdent w => [(8, w.toNat)]
  | .heartbeat n => [(4, n.toNat), (4, 0)]
  | .testCtl pattern start => [(1, pattern), (1, b2n start)]
  | .transit _ _ => []

/-- The payload of a message (R313): its fields, the records of UPDATE_DATA in the form of R284, and what a message in transit carries. -/
def gzPayload (m : GzMsg) : List Byte :=
  let fs := (gzFields m).flatMap (fun f => leBytes f.1 f.2)
  pad8 (match m with
    | .updateData _ _ recs => fs ++ recs.flatMap (fun r => leBytes 8 r.row.toNat ++ pad8 r.data)
    | .transit _ bytes => bytes
    | _ => fs)

/-- The bytes of a message: header, payload and CRC-32C (R311). -/
def gzBytes (m : GzOut) : List Byte :=
  let pay := gzPayload m.msg
  let body := leBytes 16 (packFields [(0, 8, gzType m.msg), (8, 1, b2n m.tree), (9, 1, b2n m.detoured), (10, 6, m.hops), (16, 12, m.src),
    (32, 12, m.dst), (48, 6, m.gen.toNat), (64, 32, m.seq.toNat), (96, 16, pay.length)]) ++ pay
  body ++ leBytes 4 (crc32c body).toNat

/-! ## Sending -/

/-- A message put on a port takes a hop: a copy, as it stood before, is kept on a PACKAGE link, at most 256, and further messages wait
(R311, R315). -/
def putOnPort (b : Block) (p : Nat) (m : GzOut) : Block :=
  let l := linkOf b p
  let sent := { m with hops := m.hops + 1, detoured := m.detoured || (decide (gzType m.msg ≠ 0x31) && decide (freePort b m.dst ≠ some p)) }
  if reachOf b p = 1 then
    if l.copies.length ≥ 256 then putLink b p { l with waiting := l.waiting ++ [m] }
    else emit (putLink b p { l with copies := l.copies ++ [(l.txCount, m)], txCount := l.txCount + 1,
                                    lastTx := b.tide.clock }) (.gz p (gzBytes sent))
  else emit (putLink b p { l with lastTx := b.tide.clock }) (.gz p (gzBytes sent))

/-- A message waits to be sent again to the same destination. -/
def waitsBefore (b : Block) (m : GzOut) : Bool := b.fab.resend.any (fun x => decide (x.dst = m.dst))

/-- A message passed to the next hop towards its destination; dropped and counted with no route, or when its hops would reach 63 (R310,
R312). A message for a port that has left routing waits for the next recomputation, and so does one behind a message that is to be sent
again to the same destination (R315). -/
def gzRoute (b : Block) (m : GzOut) : Block :=
  match nextPort b m.dst with
  | some p =>
    if m.hops + 1 ≥ 63 then cnt b cGzHop
    else if (linkOf b p).admitted && !waitsBefore b m then putOnPort b p m
    else { b with fab := { b.fab with resend := b.fab.resend ++ [m] } }
  | none => cnt b cGzNoRoute

/-- A message of this chip (R311, R340). -/
def gzOwn (b : Block) (dst : Nat) (tree : Bool) (seq : BitVec 32) (msg : GzMsg) : GzOut :=
  { src := chipNo b, gen := b.rcv.resetGen, dst := dst, tree := tree, hops := 0, detoured := false, seq := seq, msg := msg }

/-- A unicast message originated here (R311). -/
def gzSend (b : Block) (dst : Nat) (msg : GzMsg) : Block :=
  let seq := fmGet b.fab.txSeq dst 0
  let b := cnt { b with fab := { b.fab with txSeq := fmSet b.fab.txSeq dst (seq + 1) } } cGzTx
  gzRoute b (gzOwn b dst false seq msg)

/-- A tree message originated here, sent to every tree neighbour (R314). -/
def gzTree (b : Block) (msg : GzMsg) : Block :=
  let seq := b.fab.treeSeq
  let ns := treeNeighbours b
  if ns.isEmpty then b
  else
    let b := cnt { b with fab := { b.fab with treeSeq := seq + 1 } } cGzTx
    ns.foldl (fun b n => gzRoute b (gzOwn b n true seq msg)) b

/-- A link message as it leaves on a port, neither routed nor sequenced (R313): to the chip that the port last reported, one hop, sequence
number 0 (log entry 68). -/
def linkMsg (b : Block) (p : Nat) (msg : GzMsg) : GzOut := { gzOwn b (field (linkOf b p).ident 0 12) false 0 msg with hops := 1 }

/-- A link message on one port. -/
def gzLink (b : Block) (p : Nat) (msg : GzMsg) : Block :=
  emit (putLink b p { linkOf b p with lastTx := b.tide.clock }) (.gz p (gzBytes (linkMsg b p msg)))

end Sys2Proof.Machine
end

