-- ==== Sys2Proof/Machine/Task.lean ====
section
/-! DEFINITION. Effects that bring about further effects within one step: a released waiter makes a work item ready, a
ready BARRIER signals, a signal releases waiters, a lost context aborts heats. Each handler changes the block and
names the effects that follow; `runTasks` (Tasks.lean) carries them out in order. -/

namespace Sys2Proof.Machine

open Sys2Proof

/-- An effect that another effect brings about. -/
inductive Task
  /-- An operation reaches a fence (R116). -/
  | fence (addr : Word) (op : FOp)
  /-- A wait is satisfied; the value is the fence's. -/
  | satisfied (w : Waiter) (addr value : Word)
  /-- A work item's waits are both reached (R119). -/
  | ready (tag : Nat)
  /-- The work of an item has ended with a status (R169, R119, R288). -/
  | work (tag status : Nat)
  /-- What follows an acknowledged write-through (R123, R132). -/
  | after (a : AfterSignal)
  /-- A context becomes Lost (R42). -/
  | lose (h : BitVec 24) (cause : Nat)
  /-- A run ends at its next SLW boundary with an abort (R170). -/
  | abort (run status : Nat)
  /-- A run ends at once, remote waits and L batons included (R134, R310, R316). -/
  | kill (run status : Nat)
  /-- Propagation is raised for a partition and the chips of the remote dependencies (R316). -/
  | propagate (part : Nat) (chips : List Nat)
  /-- Every core part of a run has ended (R169). -/
  | endRun (run : Nat)
  /-- A sample settles, for the work item of its primary run (R350). -/
  | settle (run : Nat)
  deriving DecidableEq, Repr

/-- A change of the block and the effects that follow it. -/
abbrev Act := Block × List Task

/-- A change with no further effect. -/
def act (b : Block) : Act := (b, [])

/-- A change, then another on its result; the first one's effects come first. -/
def andThen (a : Act) (f : Block → Act) : Act :=
  let r := f a.1
  (r.1, a.2 ++ r.2)

/-- A change for each element of a list, in order. -/
def actEach {α : Type} (b : Block) (l : List α) (f : Block → α → Act) : Act :=
  l.foldl (fun a x => andThen a (fun b => f b x)) (act b)

end Sys2Proof.Machine
end

