-- ==== Sys2Proof/Machine/Items.lean ====
section
/-! DEFINITION. Submission entries, queue control blocks, batches and completions, scoreboard tags, and the end of a work
item (R34 to R46, R62 to R71, R89 to R93, R125 to R128). -/

namespace Sys2Proof.Machine

open Sys2Proof

/-! ## Fields of a submission entry (R71, R73) -/

def eOpcode (e : BitVec 512) : Nat := field e 0 8
def eFlags (e : BitVec 512) : Nat := field e 8 8
def eTag (e : BitVec 512) : BitVec 16 := e.extractLsb' 16 16
def eCtx (e : BitVec 512) : BitVec 24 := e.extractLsb' 32 24
def eClass (e : BitVec 512) : Nat := field e 56 2
def eRes (e : BitVec 512) : Nat := field e 64 16
def eAffCluster (e : BitVec 512) : Nat := field e 80 8
def eAffStack (e : BitVec 512) : Nat := field e 88 8
def eLength (e : BitVec 512) : Nat := field e 96 16
def eProgram (e : BitVec 512) : Nat := field e 128 48
def eWaitAddr (e : BitVec 512) (second : Bool) : Nat := if second then field e 224 48 else field e 176 48
def eSignalAddr (e : BitVec 512) : Nat := field e 272 48
def eWaitValue (e : BitVec 512) (second : Bool) : Word := if second then e.extractLsb' 384 64 else e.extractLsb' 320 64
def eSignalValue (e : BitVec 512) : Word := e.extractLsb' 448 64
def eBatchEnd (e : BitVec 512) : Bool := bitAt e 8
def eIndirect (e : BitVec 512) : Bool := bitAt e 9
def eInvalidate (e : BitVec 512) : Bool := bitAt e 10
def eHost (e : BitVec 512) : Bool := bitAt e 11
def eLc (e : BitVec 512) : Bool := eClass e = 0

/-- The entry names a program: neither its address nor its length is zero (R71). -/
def hasProgram (e : BitVec 512) : Bool := decide (eProgram e ≠ 0) && decide (eLength e ≠ 0)

/-! ## Queues -/

/-- A submission queue, the admin SQ of a port included. -/
def sqOf (b : Block) (r : QRef) : Option Sq :=
  match r with
  | .q i => fmGet? b.q.sqs i
  | .aq p => (fmGet? b.q.aqs p).map (fun a => a.sq)

/-- A submission queue replaced. -/
def putSq (b : Block) (r : QRef) (s : Sq) : Block :=
  match r with
  | .q i => { b with q := { b.q with sqs := fmSet b.q.sqs i s } }
  | .aq p => { b with q := { b.q with aqs := fmMod b.q.aqs p (fun a => { a with sq := s }) } }

/-- A completion queue, the admin CQ of a port included. -/
def cqOf (b : Block) (r : QRef) : Option Cq :=
  match r with
  | .q i => fmGet? b.q.cqs i
  | .aq p => (fmGet? b.q.aqs p).map (fun a => a.cq)

/-- A completion queue replaced. -/
def putCq (b : Block) (r : QRef) (c : Cq) : Block :=
  match r with
  | .q i => { b with q := { b.q with cqs := fmSet b.q.cqs i c } }
  | .aq p => { b with q := { b.q with aqs := fmMod b.q.aqs p (fun a => { a with cq := c }) } }

/-- `STATE` codes of an SQ QCB (R66). -/
def sqCode : SqState → Nat
  | .active => 0
  | .held => 1
  | .halted => 2

/-- Scehione's half of an SQ QCB (R66). -/
def sqQcbBytes (s : Sq) : List Byte :=
  leBytes 32 (packFields [(0, 32, s.consumer.toNat), (32, 8, s.gen.toNat), (40, 8, sqCode s.st), (64, 32, s.rejected),
    (128, 64, s.lastEvent)])

/-- Scehione's half of a CQ QCB (R67). -/
def cqQcbBytes (c : Cq) : List Byte :=
  leBytes 32 (packFields [(0, 32, c.producer.toNat), (32, 8, b2n c.full), (64, 32, c.fullEvents)])

/-- An SQ QCB written through (R68); in host memory it charges the bucket of the recorded partition and is never held
(R64, R244), but for an admin queue (R243). -/
def sqWriteback (b : Block) (r : QRef) : Block :=
  match sqOf b r with
  | none => b
  | some s =>
    let b := wr (putSq b r { s with sinceWb := 0 }) (memKey s.qcbHost s.hostPort (s.qcbAddr + 0x20)) (sqQcbBytes s)
    let b := hostAcc (noteStamp b s.lastEvent) s.qcbHost s.hostPort s.ownerFn (s.qcbAddr + 0x20) 32 true
    match r with
    | .aq _ => b
    | .q _ => if s.qcbHost then bktTake b s.part (10 + s.hostPort % 4) 64 else b

/-- A CQ QCB written through (R68); no charge (R243). -/
def cqWriteback (b : Block) (r : QRef) : Block :=
  match cqOf b r with
  | none => b
  | some c => hostAcc (wr b (memKey c.qcbHost c.hostPort (c.qcbAddr + 0x20)) (cqQcbBytes c))
      c.qcbHost c.hostPort c.ownerFn (c.qcbAddr + 0x20) 32 true

/-- A change of `STATE` of an SQ, written to its QCB (R66). -/
def sqSetState (b : Block) (r : QRef) (st : SqState) : Block :=
  match sqOf b r with
  | none => b
  | some s => sqWriteback (putSq b r { s with st := st, lastEvent := stamp b }) r

/-- A completion appended to what its CQ holds (R91, R93). -/
def cqPush (b : Block) (cq : Nat) (e : CqEnt) : Block :=
  match fmGet? b.q.cqs cq with
  | none => b
  | some c => { b with q := { b.q with cqs := fmSet b.q.cqs cq { c with hold := c.hold ++ [e] } } }

/-- A queue event to the CQ of an SQ (R89). -/
def queueEvent (b : Block) (sq event status : Nat) : Block :=
  match fmGet? b.q.sqs sq with
  | none => b
  | some s =>
    cqPush b s.cq { tag := 0, status := status, kind := .event, sq := sq, nonDone := 0, entries := 0, event := event,
                    time := stamp b, ctx := s.home, cls := 0, frame := 0, sbTag := none, waits := [], first := 0 }

/-! ## Batches (R92) -/

/-- An examined entry joins the open batch of its queue, which it closes with its flag or as its 65,535th entry. -/
def batchNote (bs : List Batch) (ord : Nat) (flag : Bool) (t : BatchEnd) : List Batch :=
  let join (x : Batch) : Batch :=
    if flag || decide (x.count + 1 ≥ 65535) then { x with count := x.count + 1, closed := true, tail := some t }
    else { x with count := x.count + 1 }
  let new := join { first := ord, waits := [], count := 0, closed := false, ended := 0, nonDone := 0, worst := none, lastEnd := 0,
                    tail := none }
  match bs.getLast? with
  | some x => if x.closed then bs ++ [new] else bs.dropLast ++ [join x]
  | none => [new]

/-- The entry of ordinal `ord` is in the batch. -/
def batchHas (x : Batch) (ord : Nat) : Bool := decide (x.first ≤ ord) && decide (ord < x.first + x.count)

/-- The entry of ordinal `ord` is the one that ends the batch. -/
def batchTail (x : Batch) (ord : Nat) : Bool := x.closed && decide (ord + 1 = x.first + x.count)

/-- An entry of the batch has ended; `keep` is the tag that the BATCH completion keeps for it, `wait` its tag while its fence is
not in memory yet. -/
def batchMark (ord status time frame : Nat) (keep wait : Option Nat) (x : Batch) : Batch :=
  if batchHas x ord then
    let worst := if status = stDone then x.worst else match x.worst with
      | some (o, st) => if ord < o then some (ord, status) else some (o, st)
      | none => some (ord, status)
    let tail := if batchTail x ord then x.tail.map (fun t => { t with frame := frame, sbTag := keep }) else x.tail
    { x with ended := x.ended + 1, nonDone := if status = stDone then x.nonDone else x.nonDone + 1, worst := worst,
             lastEnd := max x.lastEnd time, tail := tail, waits := x.waits ++ wait.toList }
  else x

/-- Every entry of a closed batch has ended. -/
def batchOver (x : Batch) : Bool := x.closed && decide (x.ended = x.count)

/-- The BATCH completion of a batch. -/
def batchEnt (sq : Nat) (x : Batch) : CqEnt :=
  let t := x.tail.getD { tag := 0, ctx := 0, cls := 0, frame := 0, sbTag := none }
  { tag := t.tag, status := match x.worst with
      | some w => w.2
      | none => stDone,
    kind := .batch, sq := sq, nonDone := min x.nonDone 65535, entries := x.count, event := 0, time := x.lastEnd,
    ctx := t.ctx, cls := t.cls, frame := t.frame, sbTag := t.sbTag, waits := x.waits,
    first := x.first }

/-- An entry of an SQ is over for its batch; a batch that this ends joins the completions of its CQ now, in the order in which work
items end (R91), and is written once the fences of all its entries are in memory (R14). -/
def entryOver (b : Block) (sq ord status time frame : Nat) (keep wait : Option Nat) : Block :=
  match fmGet? b.q.sqs sq with
  | none => b
  | some s =>
    let bs := s.batches.map (batchMark ord status time frame keep wait)
    let b := putSq b (.q sq) { s with batches := bs.filter (fun x => !batchOver x) }
    (bs.filter batchOver).foldl (fun b x => cqPush b s.cq (batchEnt sq x)) b

/-- The ITEM completion of an entry. -/
def itemEnt (e : BitVec 512) (sq status time frame : Nat) (sbTag : Option Nat) (waits : List Nat) : CqEnt :=
  { tag := eTag e, status := status, kind := .item, sq := sq, nonDone := 0, entries := 1, event := 0, time := time,
    ctx := eCtx e, cls := eClass e, frame := frame, sbTag := sbTag, waits := waits, first := 0 }

/-- An entry completed without admission is reported (R92). -/
def rejectEntry (b : Block) (sq ord : Nat) (e : BitVec 512) (status : Nat) : Block :=
  match fmGet? b.q.sqs sq with
  | none => b
  | some s =>
    let b := if status = stDone then b else cqPush b s.cq (itemEnt e sq status (stamp b) 0 none [])
    entryOver b sq ord status (stamp b) 0 none none

/-! ## Scoreboard (R125 to R128) -/

/-- Capacity of the scoreboard. -/
def sbCapacity : Nat := 131072

/-- Work items of a partition that hold tags. -/
def sbHeld (b : Block) (p : Nat) : Nat := (b.sb.items.filter (fun x => x.2.part = p)).length

/-- `SB_PARTITION_QUOTA`. -/
def sbQuota (b : Block) : Nat := dget b 0x2030 3

/-- A partition holds its quota. -/
def quotaFull (b : Block) (p : Nat) : Bool := decide (sbHeld b p ≥ sbQuota b)

/-- The report period of a stall that begins now (R128, R143). -/
def stallPeriod (b : Block) : Nat := dget b 0x2030 4 * 1000000

/-- Whether a partition holds its quota, noted after a change: a stall begins as it becomes full, begins anew as a tag of it frees
(`anew`), and ends once it is below its quota (R128). -/
def quotaNote (b : Block) (p : Nat) (anew : Bool) : Block :=
  let old := b.sb.quota
  let new := if !quotaFull b p then fmErase old p
    else if anew || (fmGet? old p).isNone then fmSet old p (b.tide.clock, stallPeriod b)
    else old
  { b with sb := { b.sb with quota := new } }

/-- A work item under the lowest free tag; the scoreboard or the partition's quota may become full. -/
def sbAlloc (b : Block) (i : Item) : Option (Nat × Block) :=
  match lowestFree (fmKeys b.sb.items) 0 sbCapacity with
  | none => none
  | some t =>
    let b := putItem b t i
    let b := if decide (b.sb.items.length ≥ sbCapacity) && !b.sb.full then
        cnt { b with sb := { b.sb with full := true, fullSince := some (b.tide.clock, stallPeriod b) } } cSbFull
      else b
    some (t, quotaNote b i.part false)

/-- A tag freed. -/
def freeTag (b : Block) (t : Nat) : Block :=
  match itemOf b t with
  | none => b
  | some i => quotaNote { b with sb := { b.sb with items := fmErase b.sb.items t, full := false, fullSince := none } } i.part true

/-! ## Dependency records (R140) -/

/-- A dependency record in the event stream. -/
def depRec (b : Block) (type chip : Nat) (cluster : Option Nat) (ctx addr cur val tag part extra : Nat) : Block :=
  trace b 1 0 cluster [(0, 8, type), (16, 12, chip), (32, 24, ctx), (64, 64, addr), (128, 64, cur), (192, 64, val),
    (256, 64, stamp b), (320, 17, tag), (337, 5, part), (352, 32, extra)]

/-! ## Contexts: work, Blocked, slots (R34, R38, R42, R237) -/

/-- Admitted HEAT work items of a context. -/
def ctxHeats (b : Block) (h : BitVec 24) : List (Nat × Item) :=
  b.sb.items.filter (fun x => x.2.ctx = h && decide (x.2.kind = .heat) && decide (x.2.stage ≠ .ended))

/-- A run that is a heat of its context, not a shadow of one. -/
def isHeatRun (r : Run) : Bool :=
  match r.kind with
  | .primary => true
  | .replay => true
  | _ => false

/-- Runs of a context that are in flight. -/
def ctxRuns (b : Block) (h : BitVec 24) : List (Nat × Run) :=
  b.comp.runs.filter (fun x => x.2.ctx = h && x.2.endedAt.isNone && decide (x.2.kind ≠ .test))

/-- A heat of the context is in flight. -/
def ctxFlying (b : Block) (h : BitVec 24) : Bool := (ctxRuns b h).any (fun x => isHeatRun x.2)

/-- A slot given up, by release or eviction: the yielding mark clears (R240). -/
def leaveSlot (b : Block) (c : Ctx) (st : CtxState) : Block := putCtx b { c with state := st, slot := none, yielding := false }

/-- A HEAT work item of the list waits for its context to hold a slot, or to start (R237). -/
def slotNeeded (heats : List (Nat × Item)) : Bool := heats.any (fun x => decide (x.2.stage = .composer))

/-- The test of R38 for Blocked, the note of when a Resident context's last HEAT ended (`heat`: one has ended now), the wait for a
slot of a context that may have none of its ready items left, and the slot of a Lost context whose last heat has ended (R42). -/
def settleCtx (b : Block) (h : BitVec 24) (heat : Bool) : Block :=
  match ctxOf b h with
  | none => b
  | some c =>
    let heats := ctxHeats b h
    match c.state with
    | .resident =>
      if heats.isEmpty then
        if heat then { b with obj := { b.obj with ctxs := fmSet b.obj.ctxs (field h 0 20) { c with idleAt := b.tide.clock } } } else b
      else if !ctxFlying b h && heats.all (fun x => decide (x.2.stage = .waiting)) then
        putCtx b { c with state := .blocked, blockedAt := b.tide.clock, evictAt := b.tide.clock + dget b 0x3010 1 * 1000 }
      else b
    | .created => if c.slotWait.isSome && !slotNeeded heats then putCtx b { c with slotWait := none } else b
    | .lost => if c.slot.isSome && !ctxFlying b h then leaveSlot b c .lost else b
    | _ => b

/-- A context's record becomes the most recently used of the HCT; a full HCT gives up the least recently used record that
is not pinned (R36). A record is used by PRELOAD, by the giving of a slot and by the return of its read for one; submission and the
checks of admin commands are no use of it (DESIGN CHOICE: R36 does not say what counts as a use). -/
def hctTouch (b : Block) (id : Nat) : Block :=
  let rest := b.obj.hct.filter (fun x => decide (x ≠ id))
  let pinned (x : Nat) : Bool := match fmGet? b.obj.ctxs x with
    | some c => c.slot.isSome
    | none => false
  let rest := if rest.length < 16384 then rest
    else match rest.reverse.find? (fun x => !pinned x) with
      | some v => rest.filter (fun x => decide (x ≠ v))
      | none => rest
  { b with obj := { b.obj with hct := id :: rest } }

/-- Execution slots of a partition in use, by the contexts that hold them. -/
def slotHolders (b : Block) (p : Nat) : List Ctx := (b.obj.ctxs.map Prod.snd).filter (fun c => decide (c.part = p) && c.slot.isSome)

/-- The first context of a list in an order of preference. -/
def firstBy (better : Ctx → Ctx → Bool) (l : List Ctx) : Option Ctx :=
  l.foldl (fun m x => match m with
    | none => some x
    | some y => if better x y then some x else some y) none

/-- The Resident context without admitted work that gives its slot up next: a yielding one first, then the one that has been
without work the longest (R237 step 2, R240). -/
def idleHolder (b : Block) (p : Nat) : Option Ctx :=
  firstBy (fun x y => (x.yielding && !y.yielding) || (x.yielding = y.yielding && decide (x.idleAt < y.idleAt)))
    ((slotHolders b p).filter (fun c => decide (c.state = .resident) && (ctxHeats b c.handle).isEmpty))

/-- The Blocked context that is evicted next (R238, R240): a yielding one at once, otherwise the one that has been Blocked the
longest, when every slot holds a context that has been Blocked past the threshold. -/
def evictable (b : Block) (p : Nat) : Option Ctx :=
  let held := slotHolders b p
  let longest := firstBy (fun x y => decide (x.blockedAt < y.blockedAt))
  let blocked := held.filter (fun c => decide (c.state = .blocked))
  match longest (blocked.filter (fun c => c.yielding)) with
  | some c => some c
  | none => if held.all (fun c => decide (c.state = .blocked) && decide (c.evictAt ≤ b.tide.clock)) then longest blocked else none

/-- A free slot of a partition: it has fewer holders than slots (R237 step 1). -/
def slotFree (b : Block) (p : Nat) : Bool :=
  match partOf b p with
  | some q => decide ((slotHolders b p).length < q.slots)
  | none => false

/-- Contexts of a partition that wait for a slot (R237). -/
def slotWaiters (b : Block) (p : Nat) : List Ctx :=
  (b.obj.ctxs.map Prod.snd).filter (fun c => decide (c.part = p) && c.slotWait.isSome && decide (c.state = .created))

/-- The context waits with a ready LC work item (R237). -/
def slotLc (b : Block) (c : Ctx) : Bool :=
  b.sb.items.any (fun x => x.2.ctx = c.handle && decide (x.2.kind = .heat) && decide (x.2.stage = .composer) && eLc x.2.entry)

/-- How many slots of a partition R237 could give now: free ones, those of Resident contexts without admitted work, and those of
Blocked contexts that may be evicted (R238, R240). -/
def slotsToGive (b : Block) (p : Nat) : Nat :=
  let held := slotHolders b p
  let free := match partOf b p with
    | some q => q.slots - held.length
    | none => 0
  let idle := (held.filter (fun c => decide (c.state = .resident) && (ctxHeats b c.handle).isEmpty)).length
  let blocked := held.filter (fun c => decide (c.state = .blocked))
  free + idle + (if held.all (fun c => decide (c.state = .blocked) && decide (c.evictAt ≤ b.tide.clock)) then blocked.length
    else (blocked.filter (fun c => c.yielding)).length)

/-- One heat of a context accounted (R46); one that ends ABORT_REPLAY_EXHAUSTED counts as replayed. -/
def account (b : Block) (h : BitVec 24) (status : Nat) (started replayed : Bool) : Block :=
  match ctxOf b h with
  | none => b
  | some c =>
    putCtx b { c with completed := if isCompleted status && started then satInc 64 c.completed else c.completed,
                      aborted := if isAbort status then satInc 64 c.aborted else c.aborted,
                      replayed := if replayed || decide (status = stReplayExhausted) then satInc 64 c.replayed else c.replayed }

/-! ## The end of a work item -/

/-- The entry of the item is the one that ends its batch. -/
def isTailEntry (b : Block) (sq ord : Nat) : Bool :=
  match fmGet? b.q.sqs sq with
  | none => false
  | some s => s.batches.any (fun x => batchHas x ord && batchTail x ord)

/-- A completion waits for this work item's fences no longer (R14, R330). -/
def unwait (b : Block) (t : Nat) : Block :=
  let rest (l : List Nat) : List Nat := l.filter (fun y => decide (y ≠ t))
  { b with q := { b.q with
      sqs := b.q.sqs.map (fun x => (x.1, { x.2 with batches := x.2.batches.map (fun y => { y with waits := rest y.waits }) })),
      cqs := b.q.cqs.map (fun x => (x.1, { x.2 with hold := x.2.hold.map (fun e => { e with waits := rest e.waits }) })) } }

/-- A work item is over, its fence and the fences that released it in memory: completions wait for it no longer, and its tag
frees unless a completion keeps it (R14, R125, R330). -/
def completeItem (b : Block) (t : Nat) : Block :=
  match itemOf b t with
  | none => b
  | some i =>
    let b := unwait (putItem b t { i with stage := .ended }) t
    settleCtx (if i.kept then b else freeTag b t) i.ctx (decide (i.kind = .heat))

/-- The waits of a work item given up. -/
def dropWaits (b : Block) (p : Waiter → Bool) : Block :=
  { b with fen := { b.fen with waits := b.fen.waits.filter (fun w => !p w.who),
                               misses := b.fen.misses.filter (fun m => match m.op with
                                 | .wait w _ => !p w
                                 | _ => true) } }

/-- A Waiter is a wait of this work item. -/
def waiterOfItem (t : Nat) (w : Waiter) : Bool :=
  match w with
  | .item u _ => u = t
  | _ => false

/-- A pinned fence that no wait pins any more and whose page has left the mappings is dropped (R124). -/
def fencePinned (b : Block) (a : Nat) : Bool := b.fen.waits.any (fun w => w.addr.toNat = a)

/-- Cached fences that were to be dropped and are no longer pinned leave the cache (R124). -/
def fenceSweep (b : Block) : Block :=
  { b with fen := { b.fen with cache := b.fen.cache.filter (fun x => !x.2.drop || fencePinned b x.1) } }

/-- Watches on remote fences that no local waiter needs any more are withdrawn with FENCE_UNWATCH (R131). -/
def unwatchIdle (b : Block) : Block :=
  let idle (w : RWatch) : Bool := !b.fen.waits.any (fun x => x.addr = w.addr && x.value = w.value)
  let gone := b.fen.watches.filter idle
  let b := { b with fen := { b.fen with watches := b.fen.watches.filter (fun w => !idle w) } }
  gone.foldl (fun b w => if w.sent then gzSend b (gchip w.addr.toNat) (.fenceUnwatch w.addr w.value) else b) b

/-- Waits given up, with the pins and watches that only they needed. -/
def cancelWaits (b : Block) (p : Waiter → Bool) : Block := unwatchIdle (fenceSweep (dropWaits b p))

/-- The record of the end of a primary run's heat (R444), with the time of R169. -/
def traceHeatEnd (b : Block) (t : Nat) (i : Item) (status time : Nat) : Block :=
  if i.started && (dget b 0x8000 5).testBit i.part then
    traceAt b time 6 3 none [(0, 24, i.ctx.toNat), (32, 17, t), (64, 8, status), (128, 64, i.startAt)]
  else b

/-- The status with which an item whose work ends with `status` ends (R120, R468): a completed one signals, and becomes
ABORT_PAGE_FAULT where the signal address does not translate now for a write, and ABORT_PEER_FAULT where the fence's chip has no
route. -/
def endStatus (b : Block) (i : Item) (status : Nat) : Nat :=
  if isAbort status || decide (eSignalAddr i.entry = 0) then status
  else match translate b i.ctx (eSignalAddr i.entry) true with
    | none => stPageFault
    | some g => if routed b (gchip g) then status else stPeerFault

/-- The global address of the fence that an item signals as it ends with a status, if it signals one. -/
def endSignal (b : Block) (i : Item) (status : Nat) : Option Nat :=
  if isAbort status || decide (eSignalAddr i.entry = 0) then none else translate b i.ctx (eSignalAddr i.entry) true

/-- The write-throughs, of the fences that released an item, that are not acknowledged yet (R330). -/
def unacked (b : Block) (i : Item) : List (Word × Word) :=
  i.freed.filter (fun d => b.fen.writes.any (fun w => w.addr = d.1 && w.value = d.2))

/-- The work of an item is over: its waits and staged records go, its heat is accounted and recorded, and its completion takes its
place in the CQ and in its batch at this moment (R91, R92), to be written once the fences are in memory if `wait` says so. -/
def endItem (b : Block) (t : Nat) (i : Item) (status : Nat) (wait : Bool) : Block :=
  let time := i.endAt.getD (stamp b)
  let doc := i.doc.isSome
  let tail := isTailEntry b i.sq i.ord
  let held := if wait then some t else none
  let b := cancelWaits { b with upd := fmErase b.upd t } (waiterOfItem t)
  let b := if doc && i.started then b
    else account b i.ctx status (decide (i.kind = .heat)) i.replayed
  let b := if doc then b else traceHeatEnd b t i status time
  let b := putItem b t { i with status := status, endAt := some time, kept := decide (status ≠ stDone) || tail, stage := .signalling }
  let b := match fmGet? b.q.sqs i.sq with
    | some s => if status = stDone then b
        else cqPush b s.cq (itemEnt i.entry i.sq status time i.frame (some t) held.toList)
    | none => b
  entryOver b i.sq i.ord status time i.frame (if status = stDone && tail then some t else none) held

/-- The work of an item has ended (R14, R119, R169): an abort completes it; a completed status signals its fence, whose
address is translated now and must be writable (R120). A signal to a chip without a route is not sent (R468). The completion, and
the write-through of the signal, wait for the write-throughs of the fences that released the item (R123, R330). -/
def doWork (b : Block) (t status : Nat) : Act :=
  match itemOf b t with
  | none => act b
  | some i =>
    if i.stage = .ended || i.stage = .signalling then act b
    else
      let st := endStatus b i status
      let deps := unacked b i
      let more := if st = status then []
        else if st = stPageFault then [Task.lose i.ctx stPageFault] else [Task.propagate i.part []]
      match endSignal b i st with
      | some g => (endItem b t i st true, .fence (BitVec.ofNat 64 g) (.signal (eSignalValue i.entry)
          { chip := chipNo b, ctx := i.ctx, tag := t, part := i.part, deps := deps, after := .itemDone t }) :: more)
      | none =>
        if deps.isEmpty then (completeItem (endItem b t i st false) t, more)
        else
          let b := endItem b t i st true
          ({ b with fen := { b.fen with acks := b.fen.acks ++ [{ deps := deps, next := .done t }] } }, more)

/-! ## Aborts (R41, R42, R170) -/

/-- The trace record of a stop that ends (R444). -/
def traceResume (b : Block) (c : Nat) (k : CoreSt) (cause : Nat) : Block :=
  match k.brkStop, k.run.bind (runOf b) with
  | some s, some r => trace b 4 2 (some c) [(0, 24, r.ctx.toNat), (32, 17, r.tag), (64, 8, cause), (128, 64, b.tide.clock - s.since)]
  | _, _ => b

/-- A waiter of this core. -/
def waiterOfCore (c : Nat) (w : Waiter) : Bool :=
  match w with
  | .core d _ => d = c
  | _ => false

/-- The core is held in a remote wait, which no abort shortens (R134, R170). -/
def inRemoteWait (k : CoreSt) : Bool :=
  match k.hold with
  | .remoteFence _ _ _ _ => true
  | .remoteRead _ _ => true
  | _ => false

/-- The expander issues nothing more for the calls of a core (R166): they end, their work leaves the port's queue, and a hold of its
head ends with the head. -/
def dropCalls (b : Block) (c : Nat) : Block :=
  let k := coreOf b c
  let p := portOf b c
  let xq := p.xq.filter (fun x => !k.calls.contains x.call)
  let b := putPort b c { p with xq := xq, xHeld := if xq.head? = p.xq.head? then p.xHeld else HeldMark.clear }
  putCore { b with xp := { b.xp with calls := b.xp.calls.filter (fun x => !k.calls.contains x.1) } } c
    { k with calls := [], syncCall := [] }

/-- The core's stream ends at this boundary: its held SLW is abandoned and its held signals are discarded (R164, R170),
its expander calls issue nothing more (R166), and a stop ends (R441). -/
def endStream (b : Block) (c : Nat) : Block :=
  let b := dropCalls (putCore b c (holdClosed (coreOf b c) b.tide.clock)) c
  let k := coreOf b c
  let b := traceResume b c k 3
  let b := putPort b c { portOf b c with capX := none, copies := [] }
  let b := putCore b c { k with ended := true, slw := none, held := [], brkStop := none, haltReq := false, stepping := false,
                                levels := k.levels.drop (k.levels.length - 1), loops := [] }
  cancelWaits { b with fen := { b.fen with misses := b.fen.misses.filter (fun m => match m.op with
    | .read d => decide (d ≠ c)
    | _ => true) } } (waiterOfCore c)

/-- The core's run must end at its next SLW boundary (R170). -/
def mustEnd (b : Block) (c : Nat) : Bool :=
  let k := coreOf b c
  !k.ended && (match k.run.bind (runOf b) with
    | some r => r.abort.isSome && r.endedAt.isNone
    | none => false)

/-- The stream of a core whose run must end, ended once the core is at an SLW boundary (R170). -/
def endAtBoundary (b : Block) (c : Nat) : Block := if mustEnd b c && atSlwBoundary (coreOf b c) then endStream b c else b

/-- A status that makes the context Lost (R41). -/
def losesCtx (status : Nat) : Bool := status = stPageFault || status = stFetchTimeout || status = stCreditCycle

/-- A run ends at the next SLW boundary of each of its cores (R170); a core that is not at one goes on with its SLW, and its
expander calls issue nothing more (R166). The first abort stands, but a heat that faults while its context is being destroyed
completes with its fault status (R43). -/
def abortRun (b : Block) (n status : Nat) : Block :=
  match runOf b n with
  | none => b
  | some r =>
    if r.endedAt.isSome then b
    else if r.abort.isSome then
      if r.abort = some stDestroyed && losesCtx status then putRun b n { r with abort := some status } else b
    else
      let b := putRun b n { r with abort := some status }
      (r.clusters.filter (fun c => !r.partsEnded.contains c && !(coreOf b c).ended)).foldl
        (fun b c => endAtBoundary (dropCalls b c) c) b

/-- The samples of a context are abandoned when it becomes Lost or enters Destroying (R349). -/
def ctxSamples (b : Block) (h : BitVec 24) : List Task :=
  (b.rel.samples.filter (fun x => match runOf b x.1 with
    | some r => r.ctx = h
    | none => false)).map (fun x => Task.settle x.1)

/-- The peer chip and channel of an L baton (R177, R182). -/
def batonPeer (e : PushEnt) : Nat × Nat := (field e.slot 8 12, field e.slot 26 6)

/-- The baton went to an L engine (positions 12 and 13, R11). -/
def isL (pos : Nat) : Bool := pos = 12 || pos = 13

/-- Cancels for the accepted L batons of cluster `c` that `sel` takes; each goes out once (R316, R329). -/
def cancelAt (sel : Baton → Bool) (b : Block) (c : Nat) : Block :=
  let p := portOf b c
  let hit (x : Baton) : Bool := isL x.ent.pos && !x.cancelled && sel x
  (p.out.filter hit).foldl (fun b x => emit b (.cancel (batonPeer x.ent).1 (batonPeer x.ent).2))
    (putPort b c { p with out := p.out.map (fun x => if hit x then { x with cancelled := true } else x) })

/-- Cancels for the accepted L batons of a run (R316). -/
def cancelL (b : Block) (n : Nat) : Block :=
  match runOf b n with
  | none => b
  | some r => r.clusters.foldl (cancelAt (fun x => decide (x.run = n))) b

/-- A run ends at once with a status, the remote waits of its cores and its L batons included (R134, R316); an abort for
the loss or destruction of its context gives way to it (R44, R170), and any other abort stands. -/
def killRun (b : Block) (n status : Nat) : Block :=
  match runOf b n with
  | none => b
  | some r =>
    if r.endedAt.isSome then b
    else
      let st := match r.abort with
        | none => status
        | some a => if a = stCtxLost || a = stDestroyed then status else a
      let b := putRun b n { r with abort := some st }
      let cs := r.clusters.filter (fun c => !r.partsEnded.contains c)
      let b := (cs.filter (fun c => !(coreOf b c).ended)).foldl endStream b
      let b := cs.foldl (fun b c => putCore b c { coreOf b c with sending := 0 }) b
      cancelL { b with fen := { b.fen with signals := b.fen.signals.filter (fun x => match x.after with
        | .heldDone d => !cs.contains d
        | _ => true) } } n

/-- A context becomes Lost (R42): its other runs and its work items that have not started end. A context in
destruction never enters Lost (R43). -/
def doLose (b : Block) (h : BitVec 24) (cause : Nat) : Act :=
  match ctxOf b h with
  | none => act b
  | some c =>
    match c.state with
    | .created | .resident | .blocked =>
      let b := putCtx b { c with state := .lost, lostCause := cause, lostTime := stamp b, slotWait := none }
      let runs := (ctxRuns b h).map (fun x => Task.abort x.1 stCtxLost)
      let idle := b.sb.items.filter (fun x => x.2.ctx = h && (decide (x.2.stage = .waiting) || decide (x.2.stage = .composer)))
      (settleCtx b h false, runs ++ idle.map (fun x => Task.work x.1 stCtxLost) ++ ctxSamples b h)
    | _ => act b

end Sys2Proof.Machine
end

