-- ==== Sys2Proof/Machine/Fences.lean ====
section
/-! DEFINITION. The dependency engine: the fence cache, waits, signals, write-throughs and the fence traffic with other
chips (R111 to R135). -/

namespace Sys2Proof.Machine

open Sys2Proof

/-- Capacity of the fence cache (R122). -/
def fenceCapacity : Nat := 32768

/-- A cached fence. -/
def fenceEnt (b : Block) (a : Word) : Option FenceEnt := fmGet? b.fen.cache a.toNat

/-- The fences of this chip that take a place of the cache which cannot be given away: the pinned ones, and those that work items
wait on and whose read is outstanding (R122; log entry 60). -/
def claimedFences (b : Block) : List Word :=
  ((b.fen.waits.filter (fun w => isLocal b w.addr.toNat)).map (fun w => w.addr) ++
    (b.fen.misses.filter (fun m => match m.op with
      | .wait (.item _ _) _ => true
      | _ => false)).map (fun m => m.addr)).eraseDups

/-- Waits on these fences can be registered, so that each is pinned in the cache (R122). -/
def pinRoom (b : Block) (l : List Word) : Bool :=
  let held := claimedFences b
  let new := (l.filter (fun a => !held.contains a)).eraseDups
  new.isEmpty || decide (held.length + new.length ≤ fenceCapacity)

/-- As `pinRoom`, for one fence. -/
def fenceRoom (b : Block) (a : Word) : Bool := pinRoom b [a]

/-- The least recently used unpinned fence. -/
def fenceVictim (b : Block) : Option Nat :=
  (b.fen.cache.filter (fun x => !fencePinned b x.1)).foldl (fun m x => match m with
    | none => some (x.1, x.2.used)
    | some y => if x.2.used < y.2 then some (x.1, x.2.used) else some y) (none : Option (Nat × Nat)) |>.map Prod.fst

/-- A fence brought into the cache, replacing the least recently used unpinned one when the cache is full, unless every one is
pinned; `drop` says that its page has left the mappings since it was read (R122, R124). -/
def fenceInsert (b : Block) (a value : Word) (drop : Bool) : Block :=
  let cache := if b.fen.cache.length < fenceCapacity then b.fen.cache else match fenceVictim b with
    | some v => fmErase b.fen.cache v
    | none => b.fen.cache
  if cache.length < fenceCapacity then
    { b with fen := { b.fen with clock := b.fen.clock + 1,
                                 cache := fmSet cache a.toNat { value := value, used := b.fen.clock, drop := drop } } }
  else b

/-- A fence used now. -/
def fenceTouch (b : Block) (a : Word) : Block :=
  { b with fen := { b.fen with clock := b.fen.clock + 1,
                               cache := fmMod b.fen.cache a.toNat (fun e => { e with used := b.fen.clock }) } }

/-- A page has left a context's mappings: its unpinned fences leave the cache, its pinned ones when they unpin, and a fence being
read is not kept either (R124). -/
def fencePageGone (b : Block) (g size : Nat) : Block :=
  let here (a : Nat) : Bool := decide (g ≤ a) && decide (a < g + size)
  fenceSweep { b with fen := { b.fen with
    cache := b.fen.cache.map (fun x => if here x.1 then (x.1, { x.2 with drop := true }) else x),
    misses := b.fen.misses.map (fun m => if here m.addr.toNat then { m with drop := true } else m) } }

/-- What follows the last write-through of a fence, or follows at once when none is outstanding (R14, R123). -/
def afterWrite (b : Block) (a : Word) (x : AfterSignal) : Act :=
  match (b.fen.writes.filter (fun w => w.addr = a)).getLast? with
  | none => (b, [.after x])
  | some _ =>
    let rec add : List FWrite → List FWrite
      | [] => []
      | w :: t => if w.addr = a && !t.any (fun y => y.addr = a) then { w with after := w.after ++ [x] } :: t else w :: add t
    ({ b with fen := { b.fen with writes := add b.fen.writes } }, [])

/-- The key under which REGRESSIVE_SIGNAL records of a context, which its chip and its handle name, are limited. -/
def regressKey (s : SigBy) : Nat := s.chip * 2 ^ 24 + s.ctx.toNat

/-- A regressive signal: counted, and recorded at most once per context and millisecond (R115, R140). -/
def regressive (b : Block) (a value cur : Word) (s : SigBy) : Block :=
  let b := cnt b cFenceRegress
  let ms := msNow b
  let key := regressKey s
  match fmGet? b.fen.supp key with
  | some (last, held) =>
    if last = ms then { b with fen := { b.fen with supp := fmSet b.fen.supp key (last, held + 1) } }
    else depRec { b with fen := { b.fen with supp := fmSet b.fen.supp key (ms, 0) } } 1 s.chip none s.ctx.toNat a.toNat
      cur.toNat value.toNat s.tag s.part held
  | none => depRec { b with fen := { b.fen with supp := fmSet b.fen.supp key (ms, 0) } } 1 s.chip none s.ctx.toNat
      a.toNat cur.toNat value.toNat s.tag s.part 0

/-- The outcome that FENCE_APPLIED carries, put in what follows a signal (R131). -/
def withOutcome (o : Nat) (x : AfterSignal) : AfterSignal :=
  match x with
  | .applied chip seq _ => .applied chip seq o
  | y => y

/-- A signal of value `v` meets a fence of value `c` (R115, R123). The cache, waiters and write-through follow an
advance. -/
def applySignal (b : Block) (a v c : Word) (s : SigBy) : Act :=
  match signalOutcome v c with
  | 1 => afterWrite b a (withOutcome 1 s.after)
  | 2 => andThen (act (regressive b a v c s)) (fun b => afterWrite b a (withOutcome 2 s.after))
  | _ =>
    let b := cnt b cFenceSignal
    let b := { b with fen := { b.fen with cache := fmMod b.fen.cache a.toNat (fun e => { e with value := v }) } }
    let freed := b.fen.waits.filter (fun w => w.addr = a && reached v w.value)
    let b := { b with fen := { b.fen with
      waits := b.fen.waits.filter (fun w => !(w.addr = a && reached v w.value)),
      writes := b.fen.writes ++ [{ addr := a, value := v, due := b.tide.clock + dget b 0x6000 5 * 1000, deps := s.deps,
                                   after := [withOutcome 0 s.after] }] } }
    (fenceSweep b, freed.map (fun w => Task.satisfied w.who a v))

/-- The wait of a work item, or the hold of a core, takes note that its wait is registered. -/
def noteRegistered (b : Block) (w : Waiter) (a v : Word) : Block :=
  match w with
  | .item t second => match itemOf b t with
    | none => b
    | some i => putItem b t (if second then { i with w1 := .registered a v } else { i with w0 := .registered a v })
  | .core d credit =>
    let k := coreOf b d
    match k.hold with
    | .pinned _ _ _ => putCore b d { k with hold := .localFence a v credit }
    | _ => b
  | _ => b

/-- A wait for `v` meets a fence of value `c`: reached, or registered with the fence pinned (R119, R131). Where no place of the
cache can be pinned, a watch is refused (R133), and any other wait stays until the fence is read again; a core's hold for that is
counted once (R122, R144). -/
def applyWait (b : Block) (a v c : Word) (w : Waiter) (held : Bool) : Act :=
  if reached c v then (b, [.satisfied w a c])
  else if fenceRoom b a then
    act (noteRegistered { b with fen := { b.fen with waits := b.fen.waits ++ [{ addr := a, value := v, who := w }] } } w a v)
  else
    let stay (b : Block) : Block :=
      { b with fen := { b.fen with misses := b.fen.misses ++ [{ addr := a, op := .wait w v, drop := false, held := true }] } }
    match w with
    | .chip n => act (gzSend b n (.fenceBusy a))
    | .core _ _ => act (stay (if held then b else cnt b cFencePinStall))
    | .item _ _ => act (stay b)
    | .unmap _ => act (stay b)
    | .handler _ => act (stay b)

/-- What the starter has read of a fence that the next entry of an SQ waits on (R122). -/
def probeNote (b : Block) (n : Nat) (a v : Word) : Block :=
  { b with q := { b.q with sqs := fmMod b.q.sqs n (fun s =>
      { s with probe := s.probe.map (fun x => if x.1 = a then (a, some v) else x) }) } }

/-- An operation meets a fence whose value is known; `held` says that it has been held for want of a place already. -/
def applyFence (b : Block) (a c : Word) (op : FOp) (held : Bool) : Act :=
  match op with
  | .wait w v => applyWait b a v c w held
  | .read d => (b, [.satisfied (.core d false) a c])
  | .probe n => act (probeNote b n a c)
  | .signal v s => applySignal b a v c s

/-- The value of a fence after an operation (R115). -/
def valueAfter (c : Word) (op : FOp) : Word :=
  match op with
  | .signal v _ => if signalOutcome v c = 0 then v else c
  | _ => c

/-- A wait on a fence that another chip holds: registered here, with one watch for each distinct pair, held while its
home has no route (R131, R468). -/
def remoteWait (b : Block) (a v : Word) (w : Waiter) : Block :=
  let b := noteRegistered { b with fen := { b.fen with waits := b.fen.waits ++ [{ addr := a, value := v, who := w }] } } w a v
  if b.fen.watches.any (fun x => x.addr = a && x.value = v) then b
  else
    let ok := routed b (gchip a.toNat)
    let b := { b with fen := { b.fen with watches := b.fen.watches ++ [{ addr := a, value := v, sent := ok, retry := none }] } }
    if ok then gzSend b (gchip a.toNat) (.fenceWatch a v) else b

/-- A signal sent to a fence that another chip holds; FENCE_APPLIED with the message's sequence number completes it
(R131, R132). -/
def remoteSend (b : Block) (a v : Word) (s : SigBy) : Block :=
  let home := gchip a.toNat
  let seq := fmGet b.fab.txSeq home 0
  let b := { b with fen := { b.fen with signals := b.fen.signals ++ [{ seq := seq, chip := home, after := s.after }] } }
  gzSend b home (.fenceSignal a v s.ctx)

/-- A signal to a fence that another chip holds is sent once the write-throughs that it must follow are acknowledged (R330). -/
def remoteSignal (b : Block) (a v : Word) (s : SigBy) : Block :=
  if s.deps.isEmpty then remoteSend b a v s
  else { b with fen := { b.fen with acks := b.fen.acks ++ [{ deps := s.deps, next := .remote a v s }] } }

/-- An operation reaches a fence (R111, R116): at home the cache answers it, or it waits for the read of the word after
a miss, behind the operations that already wait; elsewhere a message carries it. A core's read of a remote fence is
asked for with a watch for the value 0 (DESIGN CHOICE, log entry 20). -/
def doFence (b : Block) (a : Word) (op : FOp) : Act :=
  let miss (b : Block) : Block := { b with fen := { b.fen with misses := b.fen.misses ++ [{ addr := a, op := op, drop := false, held := false }] } }
  if isLocal b a.toNat then
    match fenceEnt b a with
    | some e => if b.fen.misses.any (fun m => m.addr = a) then act (miss b) else applyFence (fenceTouch b a) a e.value op false
    | none => act (miss (if b.fen.misses.any (fun m => m.addr = a && !m.held && !m.drop) then b else cnt b cFenceMiss))
  else match op with
    | .wait w v => act (remoteWait b a v w)
    | .read d => act (remoteWait b a 0 (.core d false))
    | .probe _ => act b
    | .signal v s => act (remoteSignal b a v s)

/-! ## What follows -/

/-- The hold of a core ends, bringing back a value for the slot that held (R152); a core whose heat must end goes on with the
rest of that SLW, to the next boundary (R170). -/
def holdOver (b : Block) (c : Nat) (v : Option Word) : Block :=
  let k := holdClosed (coreOf b c) b.tide.clock
  endAtBoundary (putCore b c { k with slw := k.slw.map (fun w => { w with value := some (v.getD 0) }) }) c

/-- A core's wait, not a read, has been released on a fence's value: noted for its work item (R330). -/
def noteFreed (b : Block) (c : Nat) (a v : Word) : Block :=
  let k := coreOf b c
  let waits := match k.hold with
    | .localFence _ _ _ => true
    | .pinned _ _ _ => true
    | _ => false
  match if waits then k.run.bind (runOf b) else none with
  | some r => match itemOf b r.tag with
    | some i => putItem b r.tag { i with freed := i.freed ++ [(a, v)] }
    | none => b
  | none => b

/-- A wait is satisfied: the item notes it and may become ready, the core goes on, the watching chip is answered after
the write acknowledgement (R119, R123). -/
def doSatisfied (b : Block) (w : Waiter) (a v : Word) : Act :=
  match w with
  | .item t second => match itemOf b t with
    | none => act b
    | some i =>
      let i := { i with freed := i.freed ++ [(a, v)] }
      let i := if second then { i with w1 := .done } else { i with w0 := .done }
      (putItem b t i, if i.w0 = .done && i.w1 = .done && decide (i.stage = .waiting) then [.ready t] else [])
  | .core c _ => act (holdOver (noteFreed b c a v) c (some v))
  | .chip n => afterWrite b a (.reached n a v)
  | .unmap _ => act b
  | .handler _ => act b

/-- One of the signals that a core's held signal or GSEND sends has been applied (R164). -/
def heldDone (b : Block) (c : Nat) : Block :=
  let k := coreOf b c
  putCore b c { k with sending := k.sending - 1 }

/-- What follows an acknowledged write-through (R14, R123, R132). -/
def doAfter (b : Block) (x : AfterSignal) : Block :=
  match x with
  | .nothing => b
  | .itemDone t => completeItem b t
  | .heldDone c => heldDone b c
  | .applied chip seq o => gzSend b chip (.fenceApplied seq o)
  | .reached chip a v => gzSend b chip (.fenceReached a v)

/-- What the read of a BE heat descriptor charges (R227, R242): the 32 bytes before the program or fragment table, by page;
none when they do not translate. -/
def descCharge (b : Block) (i : Item) : Option (List (Nat × Nat)) :=
  if eHost i.entry && !eIndirect i.entry then
    (ctxOf b i.ctx).map (fun c => [(10 + c.ownerPort % 4, chargeBytes 32)])
  else
    let va := (eProgram i.entry + 2 ^ 64 - 32) % 2 ^ 64
    let part (a : Nat) : Option (Nat × Nat) := (translateOwn b i.ctx a false).map (fun g => (stackBucket b g, chargeBytes 32))
    if va % 0x10000 ≤ 0xFFE0 then (part va).map (fun x => [x])
    else match part va, part (va + 31) with
      | some x, some y => some [x, y]
      | _, _ => none

/-- The descriptor of a work item is read once its bucket passes the read; a translation fault ends the work item and loses
its context (R57, R227, R244). -/
def descIssue (b : Block) (t : Nat) : Act :=
  match itemOf b t with
  | none => act b
  | some i =>
    if decide (i.descRd = .wanted) && decide (i.stage = .composer) && decide (b.rcv.stage = .idle) then
      match descCharge b i with
      | none => (b, [.work t stPageFault, .lose i.ctx stPageFault])
      | some l =>
        if bktPassAll b i.part true l then
          act (bktTakeAll (putItem b t { i with descRd := .flying b.tide.clock false }) i.part l)
        else act b
    else act b

/-- A context without a slot whose HEAT work item has become ready waits for one; the wait counts unless a slot is left for it
once those served before it have theirs (R237). -/
def slotAsk (b : Block) (c : Ctx) (no : Nat) : Block :=
  let ahead := (slotWaiters b c.part).filter (fun y => slotLc b y || !slotLc b c)
  let now := decide (ahead.length < slotsToGive b c.part)
  let b := putCtx b { c with slotWait := some no }
  if now then b else cnt b cSlotWait

/-- A work item's waits are both reached (R119): a HEAT passes to the composer, where a BE heat's descriptor is read, and may
make its context Resident or wait for a slot, and one without a program ends once its context holds a slot (R221); a BARRIER
signals. Items that become ready in one step share a number (R225). -/
def doReady (b : Block) (t : Nat) : Act :=
  match itemOf b t with
  | none => act b
  | some i =>
    let i := { i with readyNo := b.sb.readySeq }
    match i.kind with
    | .barrier => (putItem b t { i with stage := .running }, [.work t stDone])
    | .tableUpdate => act (putItem b t { i with stage := .updating })
    | .heat =>
      let be := !eLc i.entry && hasProgram i.entry
      let b := putItem b t { i with stage := .composer, starveBy := b.tide.clock + dget b 0x3010 3 * 1000,
                                    descRd := if be then .wanted else .idle }
      let r := if be then descIssue b t else act b
      let b := if be && (itemOf r.1 t).any (fun x => decide (x.descRd = .wanted)) && r.2.isEmpty then cnt r.1 cBwHold else r.1
      match ctxOf b i.ctx with
      | none => (b, r.2)
      | some c =>
        let b := if c.state = .blocked then putCtx b { c with state := .resident } else b
        if c.slot.isSome then (b, r.2 ++ (if hasProgram i.entry then [] else [.work t stDone]))
        else if c.slotWait.isSome then (b, r.2)
        else (slotAsk b c i.readyNo, r.2)

/-! ## Propagation (R316) -/

/-- The chips on which a run has an outstanding remote dependency (R310). -/
def remoteDeps (b : Block) (n : Nat) : List Nat :=
  match runOf b n with
  | none => []
  | some r =>
    r.clusters.flatMap (fun c =>
      let k := coreOf b c
      ((portOf b c).out.filter (fun x => x.run = n && isL x.ent.pos)).map (fun x => (batonPeer x.ent).1)
        ++ (match k.hold with
          | .remoteFence a _ _ _ => [gchip a.toNat]
          | .remoteRead a _ => [gchip a.toNat]
          | _ => [])
        ++ (b.fen.signals.filter (fun x => match x.after with
          | .heldDone d => d = c
          | _ => false)).map (fun x => x.chip))

/-- A run that a peer's fault may still end: one not ended so already; an abort for the loss or destruction of its context gives way. -/
def liveForPeers (r : Run) : Bool :=
  match r.abort with
  | none => true
  | some st => decide (st = stCtxLost) || decide (st = stDestroyed)

/-- The in-flight runs of a partition that hold an outstanding remote dependency on a chip that `p` admits. -/
def remoteRuns (b : Block) (part : Option Nat) (p : Nat → Bool) : List (Nat × Run) :=
  b.comp.runs.filter (fun x => x.2.endedAt.isNone && liveForPeers x.2 && (match part with
    | some q => decide (x.2.part = q)
    | none => true) && (remoteDeps b x.1).any p)

/-- Propagation acted on once for its originator and number (R316): every in-flight heat of the partition that holds an
outstanding remote dependency ends with ABORT_PEER_FAULT; the heats are counted and recorded. -/
def peerAct (b : Block) (chip part : Nat) (num : BitVec 32) : Act :=
  if b.fab.aborts.contains (chip, num) then act b
  else
    let runs := remoteRuns b (some part) (fun _ => true)
    let b := cntAdd { b with fab := { b.fab with aborts := b.fab.aborts ++ [(chip, num)] } } cPeerAbort runs.length
    (fabRec b 0x08 7 chip 0 chip num.toNat runs.length, runs.map (fun x => Task.kill x.1 stPeerFault))

/-- A chip is a member of this chip's domain under the plan. -/
def memberOf (b : Block) (c : Nat) : Bool :=
  match planChip b c with
  | some x => x.member
  | none => false

/-- Propagation raised here (R316): PEER_ABORT on the tree and to the non-member chips concerned, and the abort acted
on at home once. -/
def doPropagate (b : Block) (part : Nat) (chips : List Nat) : Act :=
  let num := b.fab.abortNum
  let msg := GzMsg.peerAbort (chipNo b) part num
  let b := gzTree { b with fab := { b.fab with abortNum := num + 1 } } msg
  peerAct ((chips.eraseDups.filter (fun c => !memberOf b c)).foldl (fun b c => gzSend b c msg) b) (chipNo b) part num

end Sys2Proof.Machine
end

