-- ==== Sys2Proof/Machine/TideOps.lean ====
section
/-! DEFINITION. Frames, tide records, declarations of late frames and domain membership (R250 to R279), and the live-table
entries that leave service with them (R280, R281, R287, R288). -/

namespace Sys2Proof.Machine

open Sys2Proof

/-! ## Codes (R277) -/

def tyLateFrame : Nat := 0x01
def tyOverrun : Nat := 0x02
def tyLateStart : Nat := 0x03
def tyMissed : Nat := 0x04
def tyDiscontinuity : Nat := 0x05
def tyTimeHold : Nat := 0x06
def tyFreeRun : Nat := 0x07
def tyRelock : Nat := 0x08
def tyLeave : Nat := 0x09
def tyJoin : Nat := 0x0A
def tyLength : Nat := 0x0B
def tyLateAfter : Nat := 0x0C
def tySheet : Nat := 0x0D
def tyFsync : Nat := 0x0E
def tcNone : Nat := 0x00
def tcOverrun : Nat := 0x01
def tcLateStart : Nat := 0x02
def tcMissed : Nat := 0x03
def tcRefLoss : Nat := 0x04
def tcFreeRun : Nat := 0x05
def tcAlignLimit : Nat := 0x06
def tcAlignLost : Nat := 0x07
def tcLateAfter : Nat := 0x08
def tcWindow : Nat := 0x09
def tcPlan : Nat := 0x0A

/-- What a tide record says (R277). -/
structure TideEv where
  type  : Nat
  cause : Nat := 0
  chip  : Option Nat := none
  part  : Nat := 0
  hold  : Bool := false
  cap   : Bool := false
  loc   : Bool := false
  ref   : Nat := 0
  frame : Nat := 0
  a     : Nat := 0
  v     : Nat := 0
  count : Nat := 0

/-- A tide record in the tide log (R277). -/
def tideRec (b : Block) (e : TideEv) : Block :=
  if dget b 0x4030 1 = 0 then b
  else
    let seq := b.tide.seq
    let bs := leBytes 48 (packFields [(0, 8, e.type), (8, 8, e.cause), (16, 12, e.chip.getD (chipNo b)), (32, 5, e.part),
      (40, 1, b2n e.hold), (41, 1, b2n e.cap), (42, 1, b2n e.loc), (48, 16, e.ref), (64, 48, e.frame), (128, 64, stamp b),
      (192, 64, e.a), (256, 64, e.v), (320, 32, seq), (352, 32, e.count)])
    ringPut { b with tide := { b.tide with seq := (seq + 1) % 2 ^ 32 } } (dget b 0x4030 1) (dget b 0x4030 2) 48 seq (stamp b) bs

/-! ## Frames (R253, R254) -/

/-- Distance from frame `m` to frame `n`, frames counting modulo 2^48. -/
def frameDiff (n m : Nat) : Int :=
  let d : Nat := (n + 2 ^ 48 - m % 2 ^ 48) % 2 ^ 48
  if d < 2 ^ 47 then (d : Int) else (d : Int) - 2 ^ 48

/-- S(n), the instant at which frame `n` begins, a pending change of the length included (R253). -/
def frameStart (b : Block) (n : Nat) : Nat :=
  let s (m : Nat) : Int := (b.tide.baseTime : Int) + frameDiff m b.tide.baseFrame * b.tide.length
  match b.tide.pendLen with
  | some (len, F) => if frameReached n F then (s F + frameDiff n F * len).toNat else (s n).toNat
  | none => (s n).toNat

/-- Frames run: reference time counts and has reached the origin (R250, R253, R274). -/
def framesRun (b : Block) : Bool := timeRuns b && b.tide.inFrames

/-- How many frames after the base frame an instant lies, a pending change of the length included (R253). -/
def framesTo (b : Block) (t : Int) : Int :=
  let d := Int.fdiv (t - b.tide.baseTime) b.tide.length
  match b.tide.pendLen with
  | some (len, F) =>
    let k := frameDiff F b.tide.baseFrame
    if k ≤ d then k + Int.fdiv (t - (b.tide.baseTime + k * b.tide.length)) len else d
  | none => d

/-- The frame of an instant under the present numbering; none before the origin (R253). -/
def frameAt (b : Block) (t : Nat) : Option Nat :=
  if t < b.tide.origin then none
  else some (((b.tide.baseFrame : Int) + framesTo b t) % (2 ^ 48 : Int)).toNat

/-- The frame counter set from the time (R252, R254). -/
def reframe (b : Block) : Block :=
  match frameAt b b.tide.time with
  | none => { b with tide := { b.tide with frame := 0, inFrames := false } }
  | some n => { b with tide := { b.tide with frame := n, inFrames := true } }

/-- The frame that has begun is the base of the numbering from here on, which R253 leaves as it was. -/
def rebase (b : Block) (n : Nat) : Block :=
  { b with tide := { b.tide with baseFrame := n, baseTime := frameStart b n } }

/-- This chip is the time master of its domain (R252). -/
def timeMaster (b : Block) : Bool :=
  match b.fab.plan with
  | none => true
  | some p => decide (p.timeMaster = chipNo b)

/-- This chip is the rack leader (R271). -/
def rackLeader (b : Block) : Bool :=
  match b.fab.plan with
  | none => false
  | some p => p.twoRack && decide (p.rackLeader = chipNo b)

/-- The domain spans two racks. -/
def twoRack (b : Block) : Bool :=
  match b.fab.plan with
  | none => false
  | some p => p.twoRack

/-- A frame whose flags a record may still need: that of an occurrence whose heat waits for its clusters or runs (R267). -/
def frameWanted (b : Block) (n : Nat) : Bool :=
  b.comp.lateWait.any (fun x => x.frame = n) || b.comp.runs.any (fun x => x.2.deadline.isSome && x.2.endedAt.isNone && x.2.occ = n)

/-- The frames in which something was noted, the current one added; of the others the last seven stay, and those that a record
may still need. -/
def noteFrame (b : Block) (l : List Nat) (n : Nat) : List Nat :=
  let old := l.filter (· ≠ n)
  n :: (old.zipIdx.filter (fun x => decide (x.2 < 7) || frameWanted b x.1)).map Prod.fst

/-! ## Declarations (R267, R269) -/

/-- A frame declared late by this chip: LATE_FRAME is sent for its first declaration of the frame, by a member. -/
def declareLate (b : Block) (frame cause : Nat) : Block :=
  let me := chipNo b
  if b.tide.decls.any (fun d => d.frame = frame && d.chip = me) then b
  else
    let b := { b with tide := { b.tide with decls := b.tide.decls ++ [({ frame := frame, chip := me, cause := cause } : LateDecl)] } }
    if b.tide.member then
      gzTree { b with tide := { b.tide with seen := b.tide.seen ++ [(frame, me)] } } (.lateFrame frame me cause 0)
    else b

/-! ## The live-table registry (R280, R281) -/

/-- An entry of the live-table registry. -/
def liveOf (b : Block) (id : Nat) : Option Live := fmGet? b.live id

/-- Scehione's part of a registry entry (R280). -/
def liveBytes (l : Live) : List Byte :=
  leBytes 12 (packFields [(0, 32, l.epoch.toNat), (32, 48, l.frame), (80, 1, b2n l.inService), (81, 1, b2n l.applying),
    (82, 1, b2n l.held), (83, 1, b2n l.missed)])

/-- An entry replaced and written through (R281). -/
def putLive (b : Block) (id : Nat) (l : Live) : Block :=
  wrOwn { b with live := fmSet b.live id l } (dget b 0x3040 1 + 32 * id + 0x14) (liveBytes l)

/-- This chip is the source of the table. -/
def isSource (b : Block) (l : Live) : Bool := decide (l.source = chipNo b)

/-- The work items that wait for records of an entry, on the source: those of records still held, and those of an apply under way. -/
def liveTags (l : Live) : List Nat :=
  ((l.queue ++ l.recs ++ (match l.apply with
      | some a => a.recs
      | none => [])).filterMap (fun r => r.tag) ++ (match l.apply with
    | some a => a.tags
    | none => [])).eraseDups

/-- The source seals the table: it has not said that it stops, or it has resumed since (R287). -/
def sealing (l : Live) : Bool := l.suspend.isNone

/-- A suspension ends: sealing goes on with an epoch, for the window of a frame (R287). -/
def resumeLive (l : Live) (epoch : BitVec 32) (frame : Nat) : Live :=
  let last := l.suspend.getD ((frame + 2 ^ 48 - 1) % 2 ^ 48)
  { l with suspend := none, gaps := l.gaps ++ [{ last := last, epoch := epoch, frame := frame }] }

/-- The source is about to stop sealing a table: SOURCE_SUSPEND names the last window frame it sealed, and the source notes
that it has to resume (R287). -/
def suspendSource (b : Block) (id : Nat) (l : Live) : Block :=
  if isSource b l && l.inService && sealing l then
    gzTree (putLive b id { l with suspend := some (l.lastFrame.getD 0) }) (.sourceSuspend id (l.lastFrame.getD 0))
  else b

/-- A seal kept. -/
def keepSeal (l : Live) (e : Seal) : Live :=
  { l with seals := l.seals ++ [e], first := match l.first with
    | some F => some F
    | none => some e.frame }

/-- A table leaves service; on the source its staged records are given up and their work items end with
ABORT_PEER_FAULT (R288, R293). -/
def leaveService (b : Block) (id : Nat) (missed : Bool) : Act :=
  match liveOf b id with
  | none => act b
  | some l =>
    let b := suspendSource b id l
    let l := (liveOf b id).getD l
    let tags := if isSource b l then liveTags l else []
    (putLive b id { l with inService := false, missed := l.missed || missed, queue := [], recs := [], seals := [],
                           suspend := if isSource b l then l.suspend else none, gaps := [] },
     tags.map (fun t => Task.work t stPeerFault))

/-- The chip leaves its tide domain (R270, R272, R274, R293): TIDE_LEAVE is sent, the record written, and a source
that leaves says so first (R287). -/
def leaveDomain (b : Block) (cause : Nat) : Block :=
  if b.tide.member then
    let b := b.live.foldl (fun b x => suspendSource b x.1 x.2) b
    let b := gzTree b (.tideLeave (chipNo b) false cause)
    tideRec { b with tide := { b.tide with member := false, stable := 0, joinAt := none, joinSent := false } }
      { type := tyLeave, cause := cause, frame := b.tide.frame }
  else b

/-! ## Windows and occurrences (R257, R258) -/

/-- A reservation or window falls in frame `n`. -/
def inFrame (perLog2 phase n : Nat) : Bool := decide (n % 2 ^ perLog2 = phase)

/-- The sheets of a partition. -/
def sheetOf (b : Block) (p : Nat) : SheetSlot := (fmGet? b.tide.sheets p).getD SheetSlot.fresh

/-- The sheets of a partition replaced. -/
def putSheet (b : Block) (p : Nat) (x : SheetSlot) : Block := { b with tide := { b.tide with sheets := fmSet b.tide.sheets p x } }

/-- The active sheet of a partition, if it is not suspended (R262). -/
def liveSheet (b : Block) (p : Nat) : Option Sheet := if (sheetOf b p).suspended then none else (sheetOf b p).active

/-- The window that serves a table in frame `n`: the one of lowest offset (R286). -/
def windowIn (b : Block) (p id n : Nat) : Option Window :=
  match liveSheet b p with
  | none => none
  | some s => (s.wins.filter (fun w => w.live = id && inFrame w.perLog2 w.phase n)).foldl (fun m w => match m with
      | none => some w
      | some x => if w.offset < x.offset then some w else some x) none

/-- The first frame, from frame `n` on, of a periodic event; `begun` says that the one of frame `n` has begun. -/
def nextFrame (n perLog2 phase : Nat) (begun : Bool) : Nat :=
  let step := 2 ^ perLog2
  let k := (phase + step - n % step) % step
  (n + (if k = 0 && begun then step else k)) % 2 ^ 48

/-- The occurrence of a reservation in the current frame has begun. -/
def occBegun (b : Block) (p ref : Nat) : Bool := decide (fmGet b.comp.occ (p * 65536 + ref) 0 = b.tide.frame + 1)

/-- The occurrences of reservations that include cluster `c`, and the windows that `use` picks, that a sheet begins next from
frame `n` on: their frames and instants. `begun` and `opened` say which reservation's occurrence and which window, by its
offset, of frame `n` have begun. -/
def sheetNext (b : Block) (s : Sheet) (c n : Nat) (use : Window → Bool) (begun opened : Nat → Bool) : List (Nat × Nat) :=
  let at_ (F o : Nat) : Nat × Nat := (F, frameStart b F + o)
  (s.res.filter (fun r => r.mask.getLsbD c)).map (fun r => at_ (nextFrame n r.perLog2 r.phase (begun r.ref)) r.offset) ++
    (s.wins.filter use).map (fun w => at_ (nextFrame n w.perLog2 w.phase (opened w.offset)) w.offset)

/-- As `sheetNext`, without the frames in which the sheet is suspended because they are shorter than it was compiled for (R262). -/
def sheetLive (b : Block) (s : Sheet) (c n : Nat) (use : Window → Bool) (begun opened : Nat → Bool) : List (Nat × Nat) :=
  let short (len : Nat) : Bool := decide (len < s.frameLen)
  let before (F : Nat) (l : List (Nat × Nat)) : List (Nat × Nat) := l.filter (fun y => !frameReached y.1 F)
  match b.tide.pendLen with
  | none => if short b.tide.length then [] else sheetNext b s c n use begun opened
  | some (len, F) =>
    if frameReached n F then (if short len then [] else sheetNext b s c n use begun opened)
    else (if short b.tide.length then [] else before F (sheetNext b s c n use begun opened)) ++
      (if short len then [] else sheetNext b s c F use (fun _ => false) (fun _ => false))

/-- The least of a list of instants. -/
def least (l : List Nat) : Option Nat :=
  l.foldl (fun m y => match m with
    | none => some y
    | some z => some (min y z)) none

/-- The beginning of the next occurrence, among those not yet begun, of any reservation that includes a cluster, or of
a window that `use` picks. The active sheet governs what begins before the frame of its successor or of its removal, the staged
sheet what begins from its own frame on (R261). -/
def nextBegin (b : Block) (p c : Nat) (use : Window → Bool) : Option Nat :=
  let x := sheetOf b p
  let n := b.tide.frame
  let upTo (F : Nat) : Bool := !x.staged.any (fun y => frameReached F y.2) && !x.removeAt.any (fun G => frameReached F G)
  let now := match x.active with
    | none => []
    | some s => (sheetLive b s c n use (occBegun b p) (fun o => decide (frameStart b n + o ≤ b.tide.time))).filter (fun y => upTo y.1)
  let later := match x.staged with
    | none => []
    | some (s, F) => sheetLive b s c F use (fun _ => false) (fun _ => false)
  least ((now ++ later).map Prod.snd)

/-- The next instant before which a BE heat on the cluster must end (R230, R290); none when no sheet of the partition names
one. -/
def nextOccurrence (b : Block) (p c : Nat) : Option Nat := nextBegin b p c (fun _ => true)

/-- Some reservation of the partition's sheet includes the cluster, or the sheet has windows (R230, R290). -/
def reservedCluster (b : Block) (p c : Nat) : Bool :=
  match (sheetOf b p).active with
  | none => false
  | some s => s.res.any (fun r => r.mask.getLsbD c) || !s.wins.isEmpty

end Sys2Proof.Machine
end

