-- ==== Sys2Proof/Machine/ReliabOps.lean ====
section
/-! DEFINITION. Units and their observation states, history and power records, and run digests (R345, R346, R357 to R363,
R434). -/

namespace Sys2Proof.Machine

open Sys2Proof

/-- A power record (R434). -/
def powerRec (b : Block) (type index a v count : Nat) : Block :=
  if dget b 0x7030 1 = 0 then b
  else
    let seq := b.pwr.seq
    let bs := leBytes 48 (packFields [(0, 8, type), (8, 6, index), (64, 64, stamp b), (128, 64, a), (192, 64, v),
      (256, 32, seq), (288, 32, count)])
    ringPut { b with pwr := { b.pwr with seq := (seq + 1) % 2 ^ 32 } } (dget b 0x7030 1) (dget b 0x7030 2) 48 seq (stamp b) bs

/-! ## History (R363) -/

def htEngineFault : Nat := 0x01
def htHeatState : Nat := 0x02
def htArbLoss : Nat := 0x03
def htArbSplit : Nat := 0x04
def htUnresolved : Nat := 0x05
def htTestPass : Nat := 0x06
def htTestFail : Nat := 0x07
def htCaptured : Nat := 0x08
def htCorpusFail : Nat := 0x09
def htState : Nat := 0x0A
def htShared : Nat := 0x0B

/-- Classes of a history record. -/
def hcPending : Nat := 0
def hcTransient : Nat := 1
def hcIntermittent : Nat := 2
def hcPermanent : Nat := 3
def hcOperator : Nat := 4

/-- Events of a unit within `EVENT_WINDOW_S`. -/
def recentEvents (b : Block) (u : Nat) : Nat :=
  ((unitOf b u).events.filter (fun t => decide (b.tide.clock < t + dget b 0x6040 8 * 1000000000))).length

/-- A history record, signalled to the management port with NOTIFY kind 2 (R363, R414). -/
def histRec (b : Block) (type cls unit : Nat) (ctx : Option (BitVec 24)) (status a v : Nat) : Block :=
  if dget b 0x6010 6 = 0 then b
  else
    let seq := b.rel.histSeq
    let body := packFields [(0, 8, type), (8, 8, cls), (16, 16, unit), (32, 2, (unitOf b unit).state), (64, 64, stamp b),
      (128, 24, match ctx with
        | some h => h.toNat
        | none => 0xFFFFFF), (152, 8, status), (160, 32, recentEvents b unit), (192, 64, a), (256, 64, v), (320, 32, seq)]
    let bs := leBytes 48 (body + (crc32c (leBytes 48 body)).toNat * 2 ^ 352)
    let b := { b with rel := { b.rel with histSeq := (seq + 1) % 2 ^ 32 } }
    notify (ringPut b (dget b 0x6010 6) (dget b 0x6010 7) 48 seq (stamp b) bs) 2 seq

/-! ## Units (R357 to R360) -/

/-- A unit's record replaced. -/
def putUnit (b : Block) (u : Nat) (x : UnitRec) : Block := { b with rel := { b.rel with units := fmSet b.rel.units u x } }

/-- Cluster and position of a unit number. -/
def unitCluster (u : Nat) : Nat := u % 64
def unitPos (u : Nat) : Nat := u / 64 % 16

/-- The samples, by primary run, one of whose runs in flight holds a cluster. -/
def samplesOn (b : Block) (c : Nat) : List Nat :=
  (b.rel.samples.filter (fun x => ([some x.1, x.2.shadow, x.2.third, x.2.captureRun].filterMap id).any (fun n =>
    match runOf b n with
    | some r => r.endedAt.isNone && r.clusters.contains c
    | none => false))).map Prod.fst

/-- A unit changes state: one STATE_CHANGE record; an engine or core that becomes Quarantined is absent from then on,
which abandons the samples of runs on its cluster (R349, R358, R359). -/
def setUnit (b : Block) (u st cls : Nat) (ctx : Option (BitVec 24)) : Act :=
  let x := unitOf b u
  if x.state = st then act b
  else
    let b := putUnit b u { x with state := st, passes := 0, structOk := false, agreed := 0 }
    let b := histRec b htState cls u ctx 0 x.state st
    if st = 2 || x.state = 2 then
      (tableChanged b, if st = 2 then (samplesOn b (unitCluster u)).map Task.settle else [])
    else act b

/-- An event against a unit (R358). -/
def unitEvent (b : Block) (u type : Nat) (ctx : Option (BitVec 24)) (status a v : Nat) : Act :=
  let x := unitOf b u
  let b := putUnit b u { x with events := b.tide.clock :: x.events, passes := 0, structOk := false, agreed := 0 }
  let many := decide (recentEvents b u ≥ dget b 0x6040 7)
  let next := match x.state with
    | 0 => 1
    | 1 => if many && decide (u ≠ unitXp) then 2 else 1
    | s => s
  -- the event's record carries the state after the event
  let b := histRec (putUnit b u { unitOf b u with state := next }) type hcPending u ctx status a v
  let b := putUnit b u { unitOf b u with state := x.state }
  if x.state = 1 && many && decide (u = unitXp) then act (histRec b htShared hcPending u ctx 0 (recentEvents b u) 0)
  else setUnit b u next (if next = 2 then hcIntermittent else hcPending) ctx

/-- A Suspect unit whose clearing conditions hold becomes Healthy (R358). -/
def unitClear (b : Block) (u : Nat) : Block :=
  let x := unitOf b u
  if x.state = 1 && x.structOk && decide (x.passes ≥ dget b 0x6040 6) && decide (x.agreed ≥ dget b 0x6040 5) then
    (setUnit b u 0 hcTransient none).1
  else b

/-- The unit numbers of a cluster, and the expander's. -/
def clusterUnits (c : Nat) : List Nat := (List.range 14).map (unitNo c) ++ [unitNo c 15]

/-- Some unit of the clusters is Suspect. -/
def anySuspect (b : Block) (cs : List Nat) : Bool := cs.any (fun c => (clusterUnits c).any (fun u => decide ((unitOf b u).state = 1)))

/-- A shadow run on these clusters agreed: it counts toward clearing their Suspect units (R350). -/
def countAgreed (b : Block) (cs : List Nat) : Block :=
  (cs.flatMap clusterUnits ++ [unitXp]).foldl (fun b u =>
    if (unitOf b u).state = 1 then unitClear (putUnit b u { unitOf b u with agreed := (unitOf b u).agreed + 1 }) u else b) b

/-! ## Run digests (R345, R346) -/

/-- Keys of a run's digest: cluster rank, position, and 0 `SLOT_CORE`, 1 `SLOT_XP`, 2 `RESULT`, 3 the next sequence
number of the core's slots, 4 that of the expander's. -/
def digestKey (rank pos kind : Nat) : Nat := (rank * 16 + pos) * 8 + kind

/-- Rank of a cluster in a run, whose clusters stand in rank order (INFO selector 0x01, R157). -/
def rankOf (r : Run) (c : Nat) : Nat := r.clusters.findIdx (fun x => decide (x = c))

/-- A value added to a sum modulo 2^64. -/
def digestAdd (r : Run) (key : Nat) (v : Nat) : Run :=
  { r with digest := fmSet r.digest key (fmGet r.digest key 0 + BitVec.ofNat 64 v) }

/-- The next sequence number of a source at a position. -/
def digestSeq (r : Run) (rank pos : Nat) (xp : Bool) : Nat := (fmGet r.digest (digestKey rank pos (if xp then 4 else 3)) 0).toNat

/-- A slot pushed or skipped at a position, or an expander scratchpad write, enters the digest: the sum of its source,
over `bytes`, which hold the sequence number where the rule places it (R346). The sequence number advances. -/
def digestSlot (r : Run) (c pos : Nat) (xp : Bool) (bytes : List Byte) : Run :=
  let rank := rankOf r c
  let r := digestAdd r (digestKey rank pos (if xp then 1 else 0)) (crc32c bytes).toNat
  digestAdd r (digestKey rank pos (if xp then 4 else 3)) 1

/-- The `RESULT` contribution of a slot: source, sequence number, status byte and `WRITE_CRC` (R346). -/
def resultCrc (xp : Bool) (n status : Nat) (wcrc : BitVec 32) : BitVec 32 :=
  crc32c ([BitVec.ofNat 8 (b2n xp)] ++ leBytes 4 n ++ [BitVec.ofNat 8 status] ++ leBytes 4 wcrc.toNat)

/-- The key of a contribution among an arbitration run's. -/
def resultKey (rank pos : Nat) (xp : Bool) (n : Nat) : Nat := ((rank * 16 + pos) * 2 + b2n xp) * 2 ^ 32 + n

/-- The result of a slot enters the digest; an arbitration run keeps its contributions for a capture (R346, R355). -/
def digestResult (r : Run) (c pos : Nat) (xp : Bool) (n status : Nat) (wcrc : BitVec 32) : Run :=
  let v := resultCrc xp n status wcrc
  let r := digestAdd r (digestKey (rankOf r c) pos 2) v.toNat
  if r.kind = .arbitration then { r with results := fmSet r.results (resultKey (rankOf r c) pos xp n) v } else r

/-- The sums in which two digests differ: rank, position, kind. -/
def digestDiff (r q : Run) : List (Nat × Nat × Nat) :=
  ((fmKeys r.digest ++ fmKeys q.digest).eraseDups.filter (fun k => decide (k % 8 < 3) &&
    decide (fmGet r.digest k 0 ≠ fmGet q.digest k 0))).map (fun k => (k / 128, k / 8 % 16, k % 8))

/-- The suspect that a disagreeing sum names on a run (R353). -/
def suspectOf (r : Run) (d : Nat × Nat × Nat) : Nat :=
  let c := r.clusters.getD d.1 0
  match d.2.2 with
  | 0 => unitNo c 15
  | 1 => unitXp
  | _ => unitNo c d.2.1

end Sys2Proof.Machine
end

