-- ==== Sys2Proof/Machine/Heats.lean ====
section
/-! DEFINITION. Starting and ending runs: heats, chunks, shadow, replay, arbitration and capture runs (R147, R169, R171,
R221 to R235, R345 to R355). -/

namespace Sys2Proof.Machine

open Sys2Proof

/-! ## Clusters -/

/-- A run, or an apply that has begun, holds the cluster (R221, R291). -/
def clusterHeld (b : Block) (c : Nat) : Bool :=
  b.comp.runs.any (fun x => !x.2.released && x.2.clusters.contains c) ||
    b.live.any (fun x => match x.2.apply with
      | some a => a.started && (match partOf b x.2.part with
        | some p => p.clusters.getLsbD c
        | none => false)
      | none => false)

/-- Clusters of a set in ascending order. -/
def ascending (cs : List Nat) : List Nat := (List.range 64).filter (fun c => cs.contains c)

/-- Clusters of a partition in ascending order. -/
def partClusters (b : Block) (p : Nat) : List Nat :=
  match partOf b p with
  | some q => (List.range 64).filter (fun c => q.clusters.getLsbD c)
  | none => []

/-- No start is forbidden by a brownout hold, a recovery sequence or lost time (R223, R329, R423). -/
def startsOpen (b : Block) : Bool := !b.pwr.hold && decide (b.rcv.stage = .idle)

/-- An apply of the partition has begun its window and forbids starts there (R291, step 1). -/
def applyBars (b : Block) (p : Nat) : Bool := b.live.any (fun x => decide (x.2.part = p) && x.2.apply.isSome)

/-! ## Starting -/

/-- The stream of an entry's program at the entry's level (R75, R147). -/
def entryStream (e : BitVec 512) : Stream :=
  if !hasProgram e then { frags := [], len := 0, table := none }
  else if eIndirect e then { frags := [], len := 0, table := some (eProgram e, eLength e) }
  else { frags := [{ start := 0, va := eProgram e, len := 8 * eLength e, host := eHost e }], len := 8 * eLength e, table := none }

/-- A run starts on a core (R147, R436): registers, stacks and stream are set, and the data window is cleared unless the
core last ran a heat of the same context. A replay is the same heat: what it declared before stands (R136). -/
def coreStart (b : Block) (n : Nat) (ctx : BitVec 24) (e : BitVec 512) (c : Nat) : Block :=
  let k := coreOf b c
  putCore b c { CoreSt.fresh with
    run := some n, data := if k.lastCtx = some ctx ∧ !k.wipe then k.data else [], lastCtx := some ctx, lines := k.lines,
    levels := [{ stream := entryStream e, ret := 0 }], heatSeq := (k.heatSeq + 1) % 2 ^ 32 }

/-- The cached program lines of a context that hold bytes of a range leave every program window (R73, R74). -/
def dropLines (b : Block) (ctx : BitVec 24) (host : Bool) (va len : Nat) : Block :=
  { b with cores := b.cores.map (fun x => (x.1, { x.2 with lines := x.2.lines.filter (fun l =>
      !((l.ctx = ctx || host) && l.host = host && decide (l.va < va + len) && decide (va < l.va + 8 * l.words.length))) })) }

/-- `INVALIDATE_CACHE` (R73): before it fetches, an entry that carries it discards the copies of its program. The
fragments of an indirect program follow when its table has been read. -/
def invalidate (b : Block) (ctx : BitVec 24) (e : BitVec 512) : Block :=
  if eInvalidate e && !eIndirect e then dropLines b ctx (eHost e) (eProgram e) (8 * eLength e) else b

/-- A run on its clusters in one step; the part of a withdrawn cluster ends at once, every slot absent (R223, R359).
Clusters that were unused are in use. -/
def coresStart (b : Block) (n : Nat) : Block :=
  match runOf b n with
  | none => b
  | some r =>
    match itemOf b r.tag with
    | none => b
    | some i =>
      let gone := r.clusters.filter (withdrawn b)
      let b := invalidate (putRun b n { r with partsEnded := gone, skips := r.skips || !gone.isEmpty }) r.ctx i.entry
      (r.clusters.filter (fun c => !gone.contains c)).foldl (fun b c => coreStart b n r.ctx i.entry c) b

/-- A new run that has not started on its cores. -/
def newRun (b : Block) (kind : RunKind) (tag : Nat) (i : Item) (part : Nat) (lc : Bool) (clusters : List Nat) : Run where
  kind := kind
  tag := tag
  ctx := i.ctx
  part := part
  lc := lc
  res := if lc then eRes i.entry else 0
  clusters := clusters
  start := stamp b
  from_ := b.tide.clock
  frame := b.tide.frame
  occ := b.tide.frame
  deadline := none
  due := 0
  late := false
  chunk := none
  bound := none
  partsEnded := []
  skips := false
  faulted := false
  abort := none
  attempts := 0
  digest := []
  results := []
  sample := none
  credits := []
  overrun := false
  released := false
  remote := false
  endedAt := none
  done := false

/-- A run added under the next number and started on its cores. -/
def addRun (b : Block) (r : Run) : Nat × Block :=
  let n := b.comp.nextRun
  let b := { b with comp := { b.comp with nextRun := n + 1, runs := fmSet b.comp.runs n r } }
  (n, coresStart b n)

/-- A sample replaced. -/
def putSample (b : Block) (n : Nat) (x : Sample) : Block := { b with rel := { b.rel with samples := fmSet b.rel.samples n x } }

/-- A run all of whose core parts ended as it started is over (R359). -/
def endIfOver (b : Block) (n : Nat) : Act :=
  match runOf b n with
  | some r => (b, if r.clusters.all r.partsEnded.contains then [.endRun n] else [])
  | none => act b

/-- The shadow configuration of partition `p`: index 0x6020 + p (R347). -/
def shadowPart (b : Block) (p : Nat) : Nat := dget b (0x6020 + p) 3
def shadowSink (b : Block) (p : Nat) : Nat := dget b (0x6020 + p) 4

/-- The sampling of a heat at its start (R347): the next draw of the partition and class is compared with the rate, which
a Suspect unit among the clusters raises. -/
def sampleHeat (b : Block) (n : Nat) (r : Run) (budget : Nat) : Block :=
  let key := 2 * r.part + b2n r.lc
  let k := fmGet b.rel.draws key 0
  let b := { b with rel := { b.rel with draws := fmSet b.rel.draws key (k + 1) } }
  let own := dget b (0x6020 + r.part) (if r.lc then 2 else 1)
  let rate := if anySuspect b r.clusters && (!r.lc || decide (own ≠ 0)) then dget b 0x6010 3 else own
  if decide (shadowPart b r.part ≠ 0xFF) && decide (shadowSink b r.part ≠ 0) &&
      decide ((Config.shadowDraw r.part r.lc k).toNat < rate) then
    putSample b n { shadow := none, third := none, captureRun := none, budget := budget, since := b.tide.clock, mismatch := 0,
                    stage := .runs, attempts := 0, unit := none, more := [], corpus := none }
  else b

/-- The record of a primary run's start (R444). -/
def traceHeatStart (b : Block) (r : Run) : Block :=
  if (dget b 0x8000 5).testBit r.part then
    trace b 5 3 none [(0, 24, r.ctx.toNat), (32, 17, r.tag), (64, 5, r.part), (69, 1, b2n r.lc), (80, 16, r.res),
      (128, 64, (r.clusters.map (2 ^ ·)).sum), (192, 48, r.frame)]
  else b

/-- A primary run starts (R223): on all its clusters in one step, counted, recorded and perhaps sampled. `chunk` is a
chunk's index, tokens and offset, `bound` the document of a bound chunk. -/
def startPrimary (b : Block) (tag : Nat) (i : Item) (clusters : List Nat) (deadline : Option Nat) (late : Bool)
    (chunk : Option (Nat × Nat × Nat)) (bound : Option Nat) (budget : Nat) : Nat × Block :=
  let lc := eLc i.entry
  let r := { newRun b .primary tag i i.part lc (ascending clusters) with
    deadline := deadline, due := (deadline.map (clockAt b)).getD 0, late := late, chunk := chunk, bound := bound }
  let first := match chunk, bound with
    | some (k, _, _), none => decide (k = 0)
    | _, _ => true
  let b := putItem b tag { i with stage := .running, started := true,
                                  startAt := if first then stamp b else i.startAt,
                                  frame := if first then frameLo b else i.frame }
  let x := addRun b r
  let b := cnt x.2 (if lc then cStartLc else cStartBe)
  (x.1, sampleHeat (traceHeatStart b r) x.1 r budget)

/-! ## Ending -/

/-- No chunk of a document is in flight, and none will start: all have ended, one has failed, or the context is Lost or being
destroyed (R42, R44, R234). -/
def docOver (d : Doc) (gone : Bool) : Bool :=
  decide (d.flying = 0) && (gone || d.failed.isSome || (d.again.isEmpty && decide (d.next ≥ d.total)))

/-- The status with which the work items of a context end that is Lost or being destroyed (R42, R44). -/
def goneStatus (b : Block) (h : BitVec 24) : Option Nat :=
  match ctxOf b h with
  | some c => match c.state with
    | .lost => some stCtxLost
    | .destroying => some stDestroyed
    | _ => none
  | none => none

/-- A document after one of its chunks has ended or gone back among the pending ones; a document that is over ends: with the first
chunk's abort status, with that of its context's end if chunks are left, and otherwise under R171 across its chunks (R234). -/
def docNote (b : Block) (tag : Nat) (i : Item) (d : Doc) : Act :=
  let gone := goneStatus b i.ctx
  let left := !(d.again.isEmpty && decide (d.next ≥ d.total))
  let b := putItem b tag { i with doc := some d, stage := if d.flying = 0 then .composer else .running }
  let st := match d.failed, gone with
    | some st, _ => st
    | none, some st => if left then st else completedStatus false d.replayed d.skips
    | none, none => completedStatus false d.replayed d.skips
  (b, if docOver d gone.isSome then [.work tag st] else [])

/-- A chunk of a document has ended with a status (R234). -/
def chunkOver (b : Block) (tag status : Nat) : Act :=
  match itemOf b tag with
  | none => act b
  | some i => match i.doc with
    | none => act b
    | some d =>
      docNote b tag i { d with flying := d.flying - 1,
                               failed := if d.failed.isSome then d.failed else if isAbort status then some status else none,
                               skips := d.skips || decide (status = stSkips),
                               replayed := d.replayed || decide (status = stReplayed) }

/-- A bound chunk follows its LC heat (R235): it ends with a completed status, becomes pending again after an abort that
leaves the context as it was, and goes with a context that is Lost or being destroyed. -/
def boundOver (b : Block) (r : Run) (status : Nat) : Act :=
  match r.bound, r.chunk with
  | some tag, some (k, _, _) =>
    if isCompleted status then chunkOver b tag (if status = stLate then stDone else status)
    else match goneStatus b r.ctx, (itemOf b tag).bind (fun i => i.doc.map (fun d => (i, d))) with
      | some st, _ => chunkOver b tag st
      | none, some (i, d) => docNote b tag i { d with flying := d.flying - 1, again := d.again ++ [k] }
      | none, none => act b
  | _, _ => act b

/-- A run's record leaves once it is both settled and released (R226, R350). -/
def dropRun (b : Block) (n : Nat) : Block :=
  match runOf b n with
  | some r => if r.done && r.released then { b with comp := { b.comp with runs := fmErase b.comp.runs n } } else b
  | none => b

/-- A run is settled: nothing will read its digest. -/
def settleRun (b : Block) (n : Nat) : Block :=
  match runOf b n with
  | some r => dropRun (putRun b n { r with done := true }) n
  | none => b

/-- The sample of a primary run, and the runs it started, are forgotten. -/
def dropSample (b : Block) (n : Nat) : Block :=
  match fmGet? b.rel.samples n with
  | none => b
  | some x =>
    let b := { b with rel := { b.rel with samples := fmErase b.rel.samples n } }
    ([x.shadow, x.third, x.captureRun].filterMap id).foldl settleRun b

/-- A heat ends: what it declared has one signaller less, and how it ended is noted for the walker (R136, R138). -/
def creditsEnd (b : Block) (r : Run) (status : Nat) : Block :=
  { b with walk := { b.walk with enders := r.credits.foldl (fun m a => fmSet m a.toNat (isAbort status)) b.walk.enders } }

/-- A heat has ended with its final status (R169, R171): its bound chunk follows, a chunk heat is accounted and reported
to its document, and another heat's work item ends. -/
def finishRun (b : Block) (n status : Nat) : Act :=
  match runOf b n with
  | none => act b
  | some r =>
    let b := settleRun (dropSample b n) n
    andThen (boundOver b r status) (fun b =>
      match itemOf b r.tag with
      | none => act (creditsEnd b r status)
      | some i =>
        let again := decide (r.kind = .replay)
        let at_ := r.endedAt.getD (stamp b)
        if i.doc.isSome && r.bound.isNone then
          let b := account (creditsEnd b r status) r.ctx status true again
          let b := traceHeatEnd b r.tag { i with startAt := r.start } status at_
          let b := settleCtx b r.ctx true
          chunkOver b r.tag status
        else
          let b := creditsEnd b r (endStatus b i status)
          (putItem b r.tag { i with replayed := again, endAt := some at_ }, [.work r.tag status]))

/-- The completed status of a run that ended without abort (R171). -/
def runStatus (r : Run) : Nat := completedStatus r.late (decide (r.kind = .replay)) r.skips

/-- A run that ends at its next boundary because its sample is given up. -/
def abandonRun (b : Block) (o : Option Nat) : Block :=
  match o with
  | none => b
  | some n => abortRun b n stDestroyed

/-- The suspects that disagreeing sums name on a run, each once, with the first sum that names it and the run's value of it (R353). -/
def losersOf (diff : List (Nat × Nat × Nat)) (r : Run) : List (Nat × (Nat × Nat × Nat) × Nat) :=
  diff.foldl (fun l d => if l.any (fun z => z.1 = suspectOf r d) then l
    else l ++ [(suspectOf r d, d, (fmGet r.digest (digestKey d.1 d.2.1 d.2.2) 0).toNat)]) []

/-- An `ARBITRATION_LOSS` event of each loser (R353, R358, R363). -/
def lossEvents (b : Block) (l : List (Nat × (Nat × Nat × Nat) × Nat)) (ctx : BitVec 24) (status : Nat) : Act :=
  actEach b l (fun b u => unitEvent b u.1 htArbLoss (some ctx) status (u.2.1.1 * 16 + u.2.1.2.1) u.2.2)

/-- A mismatch that no third run has decided (R353): every suspect of both runs loses, and the heat ends with
ABORT_REPLAY_EXHAUSTED. -/
def unresolved (b : Block) (n : Nat) (x : Sample) (p q : Run) (third : Option Run) (split : Bool) : Act :=
  let diff := digestDiff p q ++ (match third with
    | some t => digestDiff p t ++ digestDiff q t
    | none => [])
  let units := ([p, q] ++ third.toList).foldl (fun l r => l ++ (losersOf diff r).filter (fun y => !l.any (fun z => z.1 = y.1))) []
  let b := if split then diff.eraseDups.foldl (fun b d => histRec b htArbSplit hcPending (suspectOf p d) (some p.ctx)
      stReplayExhausted (d.1 * 16 + d.2.1) 0) b
    else histRec b htUnresolved hcPending ((units.map Prod.fst).headD unitXp) (some p.ctx) stReplayExhausted x.mismatch 0
  andThen (lossEvents b units p.ctx stReplayExhausted) (fun b => finishRun b n stReplayExhausted)

/-- A sample is abandoned (R349): its other runs end at their next boundary; the heat, if it has ended, settles now, and
a mismatch stays unresolved (R353). During capture the heat keeps the status that arbitration gave it. -/
def doSettle (b : Block) (n : Nat) : Act :=
  match fmGet? b.rel.samples n, runOf b n with
  | some x, some p =>
    let b := cnt b cShadowAbandon
    let b := abandonRun (abandonRun (abandonRun b x.shadow) x.third) x.captureRun
    match x.stage with
    | .capture st => finishRun b n st
    | .arbitrate => match x.shadow.bind (runOf b) with
      | some q => unresolved b n x p q none false
      | none => finishRun b n stReplayExhausted
    | .runs => if p.endedAt.isSome then finishRun b n (p.abort.getD (runStatus p)) else act (dropSample b n)
  | _, _ => act b

/-- Both runs of a sample have ended: their digests are compared (R350). -/
def sampleCompare (b : Block) (n : Nat) (x : Sample) (p q : Run) : Act :=
  let b := cnt b cShadowRun
  if (digestDiff p q).isEmpty then
    let b := countAgreed b (p.clusters ++ q.clusters)
    finishRun b n (runStatus p)
  else
    let b := cnt b cShadowMismatch
    act (putSample b n { x with stage := .arbitrate, since := b.tide.clock, mismatch := stamp b })

/-- The inputs of the next loser are captured before the heat's fence advances, unless capture is off, the heat was LC or no loser is
left (R355). -/
def captureNext (b : Block) (n : Nat) (x : Sample) (be : Bool) (losers : List (Nat × Nat × Nat)) (st : Nat) : Act :=
  match losers with
  | [] => finishRun b n st
  | u :: us =>
    if decide (dget b 0x6010 4 ≠ 0) && be then
      act (putSample b n { x with since := b.tide.clock, captureRun := none, corpus := none, unit := some u, more := us })
    else finishRun b n st

/-- The third run has ended: the loser of each disagreeing sum has an event, and the heat's status follows (R353); the
inputs of each losing unit are captured. -/
def arbitrated (b : Block) (n : Nat) (x : Sample) (p q t : Run) : Act :=
  let likeQ := (digestDiff q t).isEmpty
  let likeP := (digestDiff p t).isEmpty
  if !likeQ && !likeP then unresolved b n x p q (some t) true
  else
    let losers := losersOf (digestDiff p q) (if likeQ then p else q)
    let p := { p with kind := .replay }
    andThen (lossEvents (putRun b n p) losers p.ctx (runStatus p))
      (fun b => captureNext b n { x with stage := .capture (runStatus p) } (!p.lc) (losers.map (fun l => (l.1, l.2.1.1, l.2.1.2.1)))
        (runStatus p))

/-- A run begins again from offset 0 on the same clusters (R351, R352). -/
def restartRun (b : Block) (n : Nat) (r : Run) : Block :=
  coresStart (cnt (putRun b n r) cReplayRun) n

/-- The sample that a run serves, by its primary run. -/
def sampleOf (b : Block) (n : Nat) : Option (Nat × Sample) :=
  b.rel.samples.find? (fun x => x.1 = n || x.2.shadow = some n || x.2.third = some n || x.2.captureRun = some n)

/-- A primary run has ended (R169): an abort ends the heat; a detected fault replays it while attempts remain (R351,
R352), unless it placed an L baton; a sampled heat waits for its shadow (R348). -/
def endPrimary (b : Block) (n : Nat) (r : Run) : Act :=
  match r.abort with
  | some st =>
    let b := match fmGet? b.rel.samples n with
      | some x => cnt (abandonRun (abandonRun (abandonRun b x.shadow) x.third) x.captureRun) cShadowAbandon
      | none => b
    finishRun b n st
  | none =>
    if r.faulted then
      if r.remote then
        andThen (finishRun b n stReplayExhausted) (fun b => (b, [.propagate r.part []]))
      else if r.attempts + 1 > dget b 0x6010 1 then finishRun b n stReplayExhausted
      else act (restartRun b n { r with kind := .replay, attempts := r.attempts + 1, faulted := false, endedAt := none,
                                        partsEnded := [], skips := false, digest := [] })
    else match fmGet? b.rel.samples n with
      | none => finishRun b n (runStatus r)
      | some x => match x.shadow.bind (runOf b) with
        | some q => if q.endedAt.isSome then sampleCompare b n x r q else act b
        | none => act b

/-- A corpus record but for the copied bytes (R355; log entry 27): the unit, the number of slots, whether it is truncated and
its length, then for each captured baton the slot, the offsets of its read operands and the winning run's contribution. -/
def corpusBytes (k : Corpus) : List Byte :=
  leBytes 64 (packFields [(0, 16, k.unit), (16, 32, k.slots.length), (48, 1, b2n k.cut), (64, 64, k.used)]) ++
    k.slots.flatMap (fun s => leBytes 32 s.ent.slot.toNat ++ leBytes 8 (s.offs.getD 0 0) ++ leBytes 8 (s.offs.getD 1 0) ++
      leBytes 8 (s.offs.getD 2 0) ++ leBytes 4 s.result.toNat ++ leBytes 4 0)

/-- A shadow, third or capture run has ended. One cut short is forgotten; a detected fault abandons the sample, or counts
as an attempt of the arbitration (R349, R353). -/
def endOther (b : Block) (n : Nat) (r : Run) : Act :=
  match sampleOf b n with
  | none => act (settleRun b n)
  | some (pn, x) => match runOf b pn with
    | none => act (settleRun b n)
    | some p =>
      match r.kind with
      | .shadow => if p.endedAt.isSome then sampleCompare b pn x p r else act b
      | .arbitration =>
        if r.faulted then
          if x.attempts + 1 > dget b 0x6010 1 then match x.shadow.bind (runOf b) with
            | some q => unresolved b pn x p q none false
            | none => finishRun b pn stReplayExhausted
          else act (settleRun (putSample b pn { x with third := none, attempts := x.attempts + 1, since := b.tide.clock }) n)
        else match x.shadow.bind (runOf b) with
          | some q => arbitrated b pn x p q r
          | none => finishRun b pn (runStatus p)
      | .capture =>
        let st := match x.stage with
          | .capture st => st
          | _ => runStatus p
        match x.corpus with
        | some k =>
          let seq := b.rel.corpusSeq
          let b := wrOwn b (dget b 0x6010 4 + k.base) (corpusBytes k)
          let b := cnt { b with rel := { b.rel with corpusSeq := seq + 1, corpora := fmSet b.rel.corpora seq k } } cCorpusCapture
          let b := histRec b htCaptured hcPending k.unit (some p.ctx) st seq k.used
          captureNext (settleRun b n) pn x (!p.lc) x.more st
        | none => finishRun b pn st
      | _ => act (settleRun b n)

/-- The windows and the store reservation of a run are given up (R207, R210, R216). -/
def xpForget (b : Block) (n : Nat) : Block :=
  { b with xp := { b.xp with windows := b.xp.windows.filter (fun w => decide (w.2.run ≠ n)), store := fmErase b.xp.store n } }

/-- Every core part of a run has ended (R169). -/
def doEndRun (b : Block) (n : Nat) : Act :=
  match runOf b n with
  | none => act b
  | some r =>
    let b := xpForget b n
    let r := { r with endedAt := some (stamp b) }
    let b := putRun b n r
    match r.kind with
    | .primary => endPrimary b n r
    | .replay => endPrimary b n r
    | .test => act (settleRun b n)
    | _ => endOther b n r

/-- A run meets a detected fault (R351): its sample is abandoned, unless the run is the third one (R349, R353). -/
def faultRun (b : Block) (n : Nat) : Act :=
  match runOf b n with
  | none => act b
  | some r =>
    let b := putRun b n { r with faulted := true }
    match r.kind, sampleOf b n with
    | .arbitration, _ => act b
    | _, some (p, _) => (b, [.settle p])
    | _, none => act b

end Sys2Proof.Machine
end

