-- ==== Sys2Proof/Machine/Tasks.lean ====
section
/-! DEFINITION. Carrying out the effects that a change of the block brings about, and the forms in which a command's
meaning applies them. -/

namespace Sys2Proof.Machine

open Sys2Proof

/-- One effect. -/
def doTask (b : Block) (t : Task) : Act :=
  match t with
  | .fence a op => doFence b a op
  | .satisfied w a v => doSatisfied b w a v
  | .ready t => doReady b t
  | .work t st => doWork b t st
  | .after x => act (doAfter b x)
  | .lose h c => doLose b h c
  | .abort r st => act (abortRun b r st)
  | .kill r st => act (killRun b r st)
  | .propagate p cs => doPropagate b p cs
  | .endRun r => doEndRun b r
  | .settle r => doSettle b r

/-- Effects in the order in which they were brought about, at most `fuel` of them. -/
def runTasks : Nat → List Task → Block → Block
  | _, [], b => b
  | 0, _, b => b
  | n + 1, t :: ts, b => runTasks n (ts ++ (doTask b t).2) (doTask b t).1

/-- A bound on the effects of one step: each item, run and wait takes part in a few. -/
def taskFuel (b : Block) : Nat :=
  1000 + 16 * (b.sb.items.length + b.comp.runs.length + b.fen.waits.length + b.fen.misses.length)

/-- What still follows a change while a recovery sequence runs: what the acknowledgement of a write-through brings. No signal is applied,
no item is settled and no heat starts or ends by itself any more (R329). -/
def Task.inRecovery : Task → Bool
  | .after _ => true
  | .fence _ _ | .satisfied _ _ _ | .ready _ | .work _ _ | .lose _ _ | .abort _ _ | .kill _ _ | .propagate _ _ | .endRun _ | .settle _ =>
    false

/-- The effects that follow a change of the block (R329). -/
def followUps (a : Act) : List Task := if a.1.rcv.stage = .idle then a.2 else a.2.filter Task.inRecovery

/-- A change of the block with every effect that follows it; work items that become ready in it share its number. -/
def finish (a : Act) : Block :=
  if a.2.isEmpty then a.1
  else runTasks (taskFuel a.1) (followUps a) { a.1 with sb := { a.1.sb with readySeq := a.1.sb.readySeq + 1 } }

/-- As `lift`, with the effects that follow. -/
def liftA (f : Block → Act) (s : State) : Host.Outcome State Fault Refusal := lift (fun b => finish (f b)) s

/-- As `liftU`, with the effects that follow. -/
def liftUA (f : Block → Act) (s : State) : Host.Outcome State Fault Refusal := liftU (fun b => finish (f b)) s

/-- As `liftR`, with the effects that follow. -/
def liftRA (f : Block → Act) (s : State) : Host.Outcome State Fault Refusal := liftR (fun b => finish (f b)) s

/-- As `liftReply`, with the effects that follow. -/
def liftReplyA (l : List Access) (f : Block → Act) (s : State) : Host.Outcome State Fault Refusal :=
  liftReply l (fun b => finish (f b)) s

end Sys2Proof.Machine
end

