-- ==== Sys2Proof/Machine/AdminOps.lean ====
section
/-! DEFINITION. Interrupt requests, the entries and completions of the admin queues and of the secure mailbox, and the
executor that takes one admin command at a time (R94, R97 to R106, R397, R450). -/

namespace Sys2Proof.Machine

open Sys2Proof

/-! ## Interrupt requests (R450) -/

/-- An interrupt raised towards a host port. The first 64 pairs are queued and the rest wait; one that repeats a queued pair merges
with it. -/
def raiseInt (b : Block) (port fn vector : Nat) : Block :=
  let p := port % 4
  let l := fmGet b.q.ints p []
  let r : IntReq := { fn := fn, vector := vector }
  if (l.take 64).contains r then b else { b with q := { b.q with ints := fmSet b.q.ints p (l ++ [r]) } }

/-! ## Masters (R385) -/

/-- `PORT_OWNER_MODE` of a port. -/
def ownerMode (b : Block) (port : Nat) : Nat := dget b 0x2000 (0x11 + port % 4)

/-- An access on a host port with privilege bits that are taken as `USER` is counted (R384). -/
def noteOrigin (b : Block) (o : Origin) : Block := if o.priv % 4 ≥ 2 then cnt b cAccessDrop else b

/-- The origin is the privileged master of a port (R385). -/
def isPrivileged (b : Block) (port : Nat) (o : Origin) : Bool :=
  o.port % 4 = port % 4 && o.fn % 256 = 0 &&
    (match ownerMode b port with
     | 1 => privOf o = 1
     | 2 => true
     | _ => false)

/-! ## Fields of an admin entry (R100) -/

def aOpcode (e : BitVec 512) : Nat := field e 0 8
def aOrdered (e : BitVec 512) : Bool := bitAt e 8
def aTag (e : BitVec 512) : BitVec 16 := e.extractLsb' 16 16
def aFunction (e : BitVec 512) : Nat := field e 32 8
def aPort (e : BitVec 512) : Nat := field e 40 2

/-! ## Completions (R101) -/

/-- An admin queue pair. -/
def aqOf (b : Block) (p : Nat) : Option Aq := fmGet? b.q.aqs p

/-- Commands pending from a source (R105). -/
def pendOf (b : Block) (src : Nat) : List Pend := b.adm.pend.filter (fun p => decide (p.src = src))

/-- The 32 bytes of an admin completion. -/
def adminBytes (x : AdminCompl) (phase : Bool) (consumer : Nat) : BitVec 256 :=
  BitVec.ofNat 256 (packFields [(0, 16, x.tag.toNat), (16, 8, x.status), (24, 2, if x.event then 2 else 0),
    (31, 1, b2n phase), (32, 8, x.opcode), (40, 8, x.detail), (64, 32, consumer), (96, 8, x.code), (128, 64, x.time),
    (192, 64, x.result)])

/-- The phase bit of an entry written at an index of a ring of 2^k entries: bit k of the index, inverted (R89). -/
def phaseAt (index : BitVec 32) (k : Nat) : Bool := !index.getLsbD k

/-- A 32-byte completion entry written at a CQ's `PRODUCER` in two ordered writes, then `PRODUCER` (R68, R90). -/
def cqWriteEntry (b : Block) (r : QRef) (c : Cq) (e : BitVec 256) : Block :=
  let base := c.ringAddr + 32 * (c.producer.toNat % 2 ^ c.log2)
  let bs := leBytes 32 e.toNat
  let put (b : Block) (a : Nat) (l : List Byte) : Block :=
    hostAcc (wr b (memKey c.ringHost c.hostPort a) l) c.ringHost c.hostPort c.ownerFn a l.length true
  let b := noteStamp (put (put b (base + 4) (bs.drop 4)) base (bs.take 4)) (field e 128 64)
  let p := c.producer + 1
  let isFull := decide ((p - c.consumer).toNat = 2 ^ c.log2)
  cqWriteback (putCq b r { c with producer := p, full := c.full || isFull,
                                  fullEvents := if isFull && !c.full then satInc 32 c.fullEvents else c.fullEvents }) r

/-- A CQ takes an entry now: not full, and its last `CONSUMER` consistent (R93). -/
def cqOpen (c : Cq) : Bool := !c.full && !c.bad

/-- The oldest waiting completion of an admin queue written, with its interrupt (R101). -/
def adminWriteOne (b : Block) (p : Nat) : Block :=
  match aqOf b p with
  | none => b
  | some a => match a.cq.aHold with
    | [] => b
    | x :: rest =>
      if a.enabled && cqOpen a.cq && decide (b.rcv.stage = .idle) then
        let b := if a.sq.sinceWb = 0 then b else sqWriteback b (.aq p)
        let b := cqWriteEntry b (.aq p) { a.cq with aHold := rest }
          (adminBytes x (phaseAt a.cq.producer a.cq.log2) a.sq.consumer.toNat)
        raiseInt b p 0 (dget b (0x2040 + p) 7)
      else b

/-- Every completion of an admin queue that can be written now is written (R96, R101). -/
def adminFlush (b : Block) (p : Nat) : Block :=
  match aqOf b p with
  | none => b
  | some a => a.cq.aHold.foldl (fun b _ => adminWriteOne b p) b

/-- A completion joins an admin queue's and is written as soon as it can be. -/
def adminPost (b : Block) (p : Nat) (x : AdminCompl) : Block :=
  match aqOf b p with
  | none => b
  | some a =>
    adminFlush { b with q := { b.q with aqs := fmSet b.q.aqs p { a with cq := { a.cq with aHold := a.cq.aHold ++ [x] } } } } p

/-- A queue event of an admin SQ (R97). -/
def adminEvent (b : Block) (p event status : Nat) : Block :=
  adminPost b p { tag := 0, status := status, event := true, opcode := 0, detail := dtNone, code := event,
                  time := stamp b, result := 0, fn := 0 }

/-- A completion in the mailbox's registers, `PHASE` reading 1 (R397); a final one clears `BUSY`, sets `DONE` and pulses
SEC_EVENT (R454). -/
def mailboxPost (b : Block) (x : AdminCompl) (final : Bool) : Block :=
  let b := { b with adm := { b.adm with mbCompl := adminBytes x true 0 } }
  if final then emit { b with adm := { b.adm with mbBusy := false, mbDone := true } } .secEvent else b

/-- A completion of an admin command of a source (R101); `RESULT` is zero in ADMIN_PENDING and in failures. -/
def adminReport (b : Block) (src : Nat) (tag : BitVec 16) (opcode fn status detail result : Nat) (final : Bool) : Block :=
  let x : AdminCompl :=
    { tag := tag, status := status, event := false, opcode := opcode, detail := detail, code := 0, time := stamp b,
      result := if status = stAdminOk then result else 0, fn := fn }
  if src = 4 then mailboxPost b x final else adminPost b src x

/-! ## The executor (R103, R105, R106) -/

/-- The entry of an admin SQ's ring at its `CONSUMER`, once it has arrived (R85). A Halted queue still takes the entries
that had arrived before its timeout (R88, R97). -/
def adminCached (b : Block) (p : Nat) : Option (BitVec 512) :=
  match aqOf b p with
  | none => none
  | some a => if a.enabled && decide (a.sq.st ≠ .held) then (a.sq.cache.find? (fun x => x.1 = a.sq.consumer)).map Prod.snd else none

/-- An entry with a customer opcode is held while an image that has passed its checks waits to be installed (R109). -/
def imageHolds (b : Block) (opcode : Nat) : Bool := decide (opcode ≥ 0x80) && b.mic.image.any (fun x => x.passed)

/-- The entry that the executor may take next from a source: none while it is busy, while the source's CQ is full, while
1,024 commands of it pend, and for an ORDERED entry while an earlier command is unfinished. A customer admin handler keeps
the executor (R376), and an image whose checks have passed holds every customer entry (R109). -/
def adminFront (b : Block) (src : Nat) : Option (BitVec 512) :=
  if b.adm.busy.isSome || (fmGet? b.mic.seqs 2).isSome then none
  else if src = 4 then b.adm.mbEntry.filter (fun e => !imageHolds b (aOpcode e))
  else match adminCached b src, aqOf b src with
    | some e, some a =>
      if cqOpen a.cq && decide ((pendOf b src).length < 1024) && (!aOrdered e || (pendOf b src).isEmpty) && !imageHolds b (aOpcode e)
      then some e else none
    | _, _ => none

/-- An entry leaves the queue, `rej` says without admission (R66): `CONSUMER` advances and is written through under R68. The count of
16 entries restarts at every write of the QCB, also one that a completion or an empty queue asks for (DESIGN CHOICE: R68 does not say). -/
def sqConsume (b : Block) (r : QRef) (rej : Bool) : Block :=
  match sqOf b r with
  | none => b
  | some s =>
    let i := s.consumer
    let s := { s with consumer := i + 1, sinceWb := s.sinceWb + 1, ordinal := s.ordinal + 1, pinHeld := false, probe := [],
                      rejected := if rej then satInc 32 s.rejected else s.rejected,
                      cache := s.cache.filter (fun x => decide (x.1 ≠ i)) }
    let b := putSq b r s
    if decide (s.sinceWb ≥ 16) || decide (s.consumer = s.producer) || (decide (s.st = .halted) && s.cache.isEmpty) then
      sqWriteback b r
    else b

/-- The executor takes the front entry of a source. -/
def adminTake (b : Block) (src : Nat) : Block :=
  if src = 4 then { b with adm := { b.adm with mbEntry := none } } else sqConsume b (.aq src) false

/-- The origin of an admin command (R98, R99): owning port and function, the port that serves it, whether it is the
secure master's, and whether it holds privileged rights. -/
structure AdminOrg where
  port   : Nat
  fn     : Nat
  serve  : Nat
  secure : Bool
  priv   : Bool
  deriving DecidableEq, Repr

/-- The origin of a command of a source. -/
def adminOrg (b : Block) (src : Nat) (e : BitVec 512) : AdminOrg :=
  if src = 4 then { port := 0, fn := 0, serve := aPort e, secure := true, priv := true }
  else { port := src, fn := aFunction e, serve := src, secure := false,
         priv := decide (aFunction e = 0) && decide (ownerMode b src ≠ 0) }

/-- A failure: status and `DETAIL`. -/
abbrev AdminErr := Nat × Nat

/-- The bits of an entry that a command uses, as (position, width); every other bit is reserved (R100). -/
def usedMask (fields : List (Nat × Nat)) : Nat := fields.foldl (fun m f => m ||| ((2 ^ f.2 - 1) <<< f.1)) 0

/-- No reserved bit of the entry is set; the mailbox alone uses `ACT_PORT` (R100). -/
def reservedClear (src : Nat) (e : BitVec 512) (fields : List (Nat × Nat)) : Bool :=
  let head := [(0, 8), (8, 1), (16, 16), (32, 8)] ++ (if src = 4 then [(40, 2)] else [])
  decide ((e &&& ~~~(BitVec.ofNat 512 (usedMask (head ++ fields)))) = 0)

/-- Tests 1 and 2 of R39 for an admin origin: the privileged master of the owner's port and the secure master own every
context. -/
def adminOwns (o : AdminOrg) (c : Ctx) : Bool :=
  o.secure || (o.port = c.ownerPort && o.fn = c.ownerFn) || (o.priv && o.port = c.ownerPort)

/-- Checks 1 to 5 of R103, in order: reserved encodings, origin, rights, the named context, its state. -/
def adminCheck (b : Block) (x : AdminIn) (e : BitVec 512) (o : AdminOrg) (wellFormed privOnly : Bool)
    (ctx : Option (BitVec 24)) (states : List CtxState) : Option AdminErr :=
  if !wellFormed then some (stBadState, dtReserved)
  else if decide (aFunction e ≠ 0) && !x.presented then some (stNotOwner, dtNoObject)
  else if privOnly && !o.priv then some (stNotOwner, dtRights)
  else match ctx with
    | none => none
    | some h => match ctxOf b h with
      | none => some (stBadState, dtNoObject)
      | some c =>
        if !adminOwns o c then some (stNotOwner, dtRights)
        else if states.contains c.state then none else some (stBadState, dtState)

/-- What a command does once its checks have passed: it ends, waits for a parameter, or pends. -/
inductive AdminRes
  | fail (err : AdminErr)
  | ok (a : Act) (result : Nat)
  | wait (w : ParamWait) (b : Block)
  | pend (k : PendKind) (a : Act)
  deriving DecidableEq, Repr

/-- The change that a command's result makes: its completion, or ADMIN_PENDING, or a wait of the executor (R105). -/
def adminFinish (b : Block) (src : Nat) (e : BitVec 512) (r : AdminRes) : Act :=
  let op := aOpcode e
  match r with
  | .fail err => act (adminReport b src (aTag e) op (aFunction e) err.1 err.2 0 true)
  | .ok a res => let b := finish a; act (adminReport b src (aTag e) op (aFunction e) stAdminOk dtNone res true)
  | .wait w b =>
    let x : AdminBusy := { src := src, entry := e, wait := w, gen := ((aqOf b src).map (fun a => a.sq.gen)).getD 0 }
    act { b with adm := { b.adm with busy := some x } }
  | .pend k a =>
    let b := finish a
    let b := { b with adm := { b.adm with pendNo := b.adm.pendNo + 1, pend := b.adm.pend ++
      [{ no := b.adm.pendNo, src := src, tag := aTag e, opcode := op, fn := aFunction e, port := (adminOrg b src e).serve, kind := k }] } }
    act (adminReport b src (aTag e) op (aFunction e) stAdminPending dtNone 0 false)

/-- The admin command at the front of a source runs when its opcode is `op` and its further fields match: taken, checked
in the order of R103, and carried out. -/
def adminStep (x : AdminIn) (op : Nat) (fields : List (Nat × Nat)) (also : BitVec 512 → Bool) (legal : BitVec 512 → Bool)
    (privOnly : Bool) (ctx : BitVec 512 → Option (BitVec 24)) (states : List CtxState)
    (run : Block → BitVec 512 → AdminOrg → AdminRes) (b : Block) : Act :=
  match adminFront b x.src with
  | none => act b
  | some e =>
    if aOpcode e = op && also e then
      let o := adminOrg b x.src e
      let b := adminTake b x.src
      let r := match adminCheck b x e o (reservedClear x.src e fields && legal e) privOnly (ctx e) states with
        | some err => AdminRes.fail err
        | none => run b e o
      adminFinish b x.src e r
    else act b

/-- As `adminStep`, on the state. -/
def adminRun (x : AdminIn) (op : Nat) (fields : List (Nat × Nat)) (also : BitVec 512 → Bool) (legal : BitVec 512 → Bool)
    (privOnly : Bool) (ctx : BitVec 512 → Option (BitVec 24)) (states : List CtxState)
    (run : Block → BitVec 512 → AdminOrg → AdminRes) (s : State) : Host.Outcome State Fault Refusal :=
  liftRA (adminStep x op fields also legal privOnly ctx states run) s

/-- A pending command ends with its final completion (R105). -/
def pendEnd (b : Block) (p : Pend) (status detail result : Nat) : Block :=
  let b := { b with adm := { b.adm with pend := b.adm.pend.filter (fun q => decide (q.no ≠ p.no)) } }
  adminReport b p.src p.tag p.opcode p.fn status detail result true

/-- The states in which a context takes ordinary admin commands (R103). -/
def liveStates : List CtxState := [.created, .resident, .blocked]

end Sys2Proof.Machine
end

