-- ==== Sys2Proof/Machine/DictOps.lean ====
section
/-! DEFINITION. Dictionary operations: rights, the order of checks, acceptance and refusal, and the window states (R401,
R404 to R414, R420). -/

namespace Sys2Proof.Machine

open Sys2Proof

/-- A change of covered configuration (R401). -/
def wgenUp (b : Block) : Block := { b with regs := { b.regs with wgen := (b.regs.wgen + 1) % 2 ^ 16 } }

/-! ## Windows and responses (R410 to R413) -/

/-- The window state of an origin: one per function of a port, one for the secure view. -/
def winKey (p : Path) (o : Origin) : Nat :=
  match p with
  | .secure => 1024
  | _ => o.port % 4 * 256 + o.fn % 256

/-- The path reaches the dictionary through a register view. -/
def isWindow (p : Path) : Bool :=
  match p with
  | .view => true
  | .secure => true
  | _ => false

/-- `SC_DICT_STATUS` of a window whose operation is done. -/
def winStatus (result : Nat) (type access : Nat) (cal cov : Bool) (len : Nat) : Nat :=
  packFields [(1, 1, 1), (8, 8, result), (16, 4, type), (20, 2, access), (22, 1, b2n cal), (23, 1, b2n cov), (24, 7, len)]

/-- The window of an access after its operation: the registers it was given, its data and status. -/
def winDone (b : Block) (a : DictAcc) (data status : Nat) : Block :=
  if isWindow a.path then
    let w : DictWin := { index := a.idx, sub := a.sub, len := a.len, data := data, status := status }
    { b with regs := { b.regs with wins := fmSet b.regs.wins (winKey a.path a.org) w } }
  else b

/-- The response to an operation: in the window, or in a message with `OP` + 0x80. -/
def dictReply (b : Block) (a : DictAcc) (result : Nat) (value : List Byte) : Block :=
  emit b (.dict a.path a.org a.tag result value)

/-! ## Rights (R95, R405, R406) -/

/-- The master may write RWP entries: the privileged master of any port, the management port over I3C, the secure
master. -/
def mayWriteP (b : Block) (a : DictAcc) : Bool :=
  match a.path with
  | .view => isPrivileged b a.org.port a.org
  | .vdm => isPrivileged b a.org.port a.org
  | .i3c => true
  | .secure => true
  | _ => false

/-- The origin reaches the dictionary: not through the debug/trace port (R455). -/
def reachesDict (a : DictAcc) : Bool :=
  match a.path with
  | .internal => false
  | .dbg => false
  | _ => true

/-- The right to write an entry; the entries of an admin queue belong to its port's master and the secure master (R95). -/
def mayWrite (b : Block) (a : DictAcc) (d : Desc) : Bool :=
  if 0x2040 ≤ a.idx ∧ a.idx ≤ 0x2043 then
    (match a.path with
     | .secure => true
     | .view => isPrivileged b (a.idx - 0x2040) a.org
     | .vdm => isPrivileged b (a.idx - 0x2040) a.org
     | _ => false)
  else match d.access with
    | 1 => reachesDict a
    | 2 => mayWriteP b a
    | 3 => decide (a.path = .secure)
    | _ => false

/-- The right to read an entry. -/
def mayRead (b : Block) (a : DictAcc) : Bool :=
  if 0x8000 ≤ a.idx ∧ a.idx ≤ 0x9FFF then mayWriteP b a else reachesDict a

/-! ## Checks (R407) -/

/-- The value that a write carries for an entry. -/
def writeValue (a : DictAcc) (d : Desc) : Nat := a.value % 2 ^ (8 * d.bytes)

/-- Steps 2 to 6 for a write: the result and the failing step. -/
def writeCheck (b : Block) (a : DictAcc) : Option (Nat × Nat) :=
  match dictDesc a.idx a.sub with
  | none => some (drNoEntry, 2)
  | some d =>
    if !ready b && decide (a.idx ≠ 0xA000) then some (drUnavailable, 3)
    else if d.access = 0 then some (drReadOnly, 4)
    else if !mayWrite b a d then some (drNoRights, 4)
    else if (!isWindow a.path || decide (d.type = 9)) && decide (a.len ≠ d.bytes) then some (drTypeLength, 5)
    else if !d.inRange a.idx a.sub (writeValue a d) then some (drRange, 6)
    else none

/-- A refusal (R407): the response, and an audit record, at most one per origin and path in a millisecond, for a failure at
step 3 or later. -/
def dictRefuse (b : Block) (a : DictAcc) (write : Bool) (result step : Nat) : Block :=
  let b := if step ≥ 3 then
      auditLim b (limitKey auDictRefused (pathCode a.path * 4096 + auditOrigin a.path a.org))
        { type := auDictRefused, result := result, path := a.path, org := a.org, idx := a.idx, sub := a.sub,
          new := if write then a.value % 2 ^ 64 else 0, detail := step, trunc := write && decide (a.len > 8) }
    else b
  winDone (dictReply b a result []) a a.value (winStatus result 0 0 false false 0)

/-! ## Acceptance (R407, R401, R414, R415, R418, R420) -/

/-- The entry is held in the capability table (R415 to R417). -/
def inTable (d : Desc) (idx sub : Nat) : Bool :=
  d.cal || decide (idx = 0x1010) || decide (idx = 0x1011) || (idx = 0x5000 && sub = 7)

/-- The calibration entries: (index, subindex). -/
def calEntries : List (Nat × Nat) :=
  [(0x7000, 1), (0x7000, 2)] ++ (List.range 8).map (fun i => (0x7001, i + 1)) ++ (List.range 32).map (fun i => (0x7002, i + 1))

/-- A calibration entry written (R420): once every one has been, a further write sets `CAL_MODIFIED` and sends NOTIFY. -/
def calWritten (b : Block) (idx sub : Nat) : Block :=
  let k := dkey idx sub
  let seq := b.aud.seq
  if b.pwr.calLoaded then
    let b := if b.pwr.calMod then b else tableChanged { b with pwr := { b.pwr with calMod := true } }
    notify b 3 seq
  else
    let done := if b.pwr.calDone.contains k then b.pwr.calDone else k :: b.pwr.calDone
    let all := calEntries.all (fun e => done.contains (dkey e.1 e.2))
    let b := { b with pwr := { b.pwr with calDone := done, calLoaded := all } }
    let b := if all then tableChanged b else b
    notify b 3 seq

/-- The value of a writable entry now: a unit state follows the unit, whatever last changed it (R360). -/
def entryNow (b : Block) (idx sub : Nat) : Nat :=
  if 0x6100 ≤ idx ∧ idx ≤ 0x613F then (unitOf b (unitNo (idx - 0x6100) (if sub = 15 then 15 else sub - 1))).state
  else if idx = 0x6140 then (unitOf b unitXp).state
  else dget b idx sub

/-- An accepted write takes effect in one step: the value, `WGEN` when the entry is covered, the capability table, the audit
record, and the response after them. -/
def dictStore (b : Block) (a : DictAcc) (d : Desc) : Block :=
  let v := writeValue a d
  let old := entryNow b a.idx a.sub
  let gen := b.tableGen
  let b := if isCmdEntry a.idx a.sub then b else dput b a.idx a.sub v
  let b := if isCovered d a.idx a.sub then wgenUp b else b
  let b := if inTable d a.idx a.sub && decide (v ≠ old) then tableChanged b else b
  let b := if d.cal then calWritten b a.idx a.sub else b
  -- one step raises `TABLE_GEN` once (R415)
  let b := if b.tableGen = gen then b else { b with tableGen := (gen + 1) % 2 ^ 32 }
  let b := if a.idx = 0x9000 ∧ (a.sub = 2 ∨ a.sub = 4) then b
    else audit b { type := auDictWrite, path := a.path, org := a.org, idx := a.idx, sub := a.sub, old := old % 2 ^ 64,
                   new := v % 2 ^ 64, trunc := decide (d.bytes > 8), cal := d.cal }
  winDone (dictReply b a drOk []) a a.value (winStatus drOk 0 0 false false 0)

/-- A write under R407: refused at a step, or stored and followed by what it starts. `cond` is the entry's own range and
conditions (steps 6 and 7). -/
def dictWrite (b : Block) (a : DictAcc) (cond : Block → Option (Nat × Nat)) (f : Block → Act) : Act :=
  match writeCheck b a with
  | some e => act (dictRefuse b a true e.1 e.2)
  | none => match cond b with
    | some e => act (dictRefuse b a true e.1 e.2)
    | none => match dictDesc a.idx a.sub with
      | some d => f (dictStore b a d)
      | none => act b

/-- The condition of an entry that is refused with `STATE`. -/
def stateIf (ok : Bool) : Option (Nat × Nat) := if ok then none else some (drState, 7)

/-- The dictionary arbiter performs an operation whose entry's reads are outstanding (R96, R408). -/
def dictBusy (b : Block) : Bool := b.q.aqs.any (fun x => x.2.enabling.isSome)

/-- Two accesses come over one path: the same window of a view, or the same MCTP path (R410, R413). -/
def samePath (x a : DictAcc) : Bool :=
  if isWindow a.path then isWindow x.path && decide (winKey x.path x.org = winKey a.path a.org) else decide (x.path = a.path)

/-- The operations of an access's path that have no answer yet: the one under way, and those that wait. -/
def pathOps (b : Block) (a : DictAcc) : Nat :=
  (b.q.aqs.filter (fun x => x.2.enabling.any (samePath · a))).length + (b.regs.dictQ.filter (fun w => samePath w.acc a)).length

/-- `BUSY` of an access's window: an operation that came through it has not ended (R411). -/
def winBusy (b : Block) (a : DictAcc) : Bool := isWindow a.path && decide (pathOps b a ≠ 0)

/-- The block as a dictionary operation finds it: an access on a host port with privilege bits that are taken as `USER` has been
counted (R384). -/
def noted (b : Block) (a : DictAcc) : Block :=
  match a.path with
  | .view => noteOrigin b a.org
  | .vdm => noteOrigin b a.org
  | _ => b

/-- An operation that arrives while another is under way waits for its turn, its window reading `BUSY`; the ninth request on an MCTP
path is answered `BUSY` at once (R408, R411, R413). -/
def dictQueue (b : Block) (op : DictOp) (a : DictAcc) : Block :=
  if !isWindow a.path && decide (8 ≤ pathOps b a) then dictReply b a drBusy []
  else
    let b := { b with regs := { b.regs with dictQ := b.regs.dictQ ++ [{ op := op, acc := a }] } }
    winDone b a a.value 1

/-- The turn of an operation at the dictionary arbiter (R408): a command to a window whose operation is under way is ignored and
counted (R411), one that arrives while another window's or path's operation is under way waits, and one that arrives during the SRAM
self-test (R461) waits outside the block (log entry 33). -/
def dictTurn (b : Block) (op : DictOp) (a : DictAcc) (f : Block → Act) : Act :=
  let b' := noted b a
  if !reachesDict a || decide (b.mic.selftest = 0) then act b
  else if winBusy b a then act (cnt b' cAccessDrop)
  else if dictBusy b then act (dictQueue b' op a)
  else f b'

/-- What a command's row makes of a write: whether it is the row's own write, the entry's own range and conditions, and what the write
starts. -/
structure DictRow where
  mine : Bool
  cond : Block → Option (Nat × Nat)
  run  : Block → Act

/-- A row's write in its turn. -/
def rowWrite (b : Block) (a : DictAcc) (r : DictRow) : Act := dictWrite b a r.cond r.run

/-- A write of one entry, the one that a command's row stands for. -/
def dictRow (op : DictOp) (a : DictAcc) (r : DictRow) (s : State) : Host.Outcome State Fault Refusal :=
  liftA (fun b => if r.mine then dictTurn b op a (fun b => rowWrite b a r) else act b) s

end Sys2Proof.Machine
end

