-- ==== Sys2Proof/Machine/Queues.lean ====
section
/-! DEFINITION. Submission and completion queues (spec/03_queues.md): doorbells, index reads, fetching, admission,
completions and interrupts. -/

namespace Sys2Proof.Machine

open Sys2Proof

/-! ## Doorbells (R77 to R79, R97) -/

/-- The queue that a doorbell belongs to. -/
inductive DbTarget
  | sq (n : Nat)
  | cq (m : Nat)
  | asq
  | acq
  deriving DecidableEq, Repr

/-- The doorbell at an offset of a view; the admin doorbells mirror with period 16 (R77, R97, R388, R389). -/
def dbTarget (off : Nat) : Option DbTarget :=
  if 0x100000 ≤ off ∧ off < 0x180000 then some (.sq ((off - 0x100000) / 8))
  else if 0x040000 ≤ off ∧ off < 0x060000 then some (.cq ((off - 0x040000) / 8))
  else if 0x020000 ≤ off ∧ off < 0x030000 then (if off % 16 < 8 then some .asq else some .acq)
  else none

/-- What a doorbell write asks for. -/
inductive DbAct
  /-- No doorbell, or a write to a high half alone: no effect. -/
  | none
  | drop
  | ring (q : QRef)
  | hold (q : QRef)
  | consumed (q : QRef)
  deriving DecidableEq, Repr

/-- The value that a write of a doorbell carries: none for a malformed one (R77), and `some none` for a write of the high
half alone. -/
def dbValue (w : DbWrite) : Option (Option Nat) :=
  if w.width = 8 then (if w.off % 8 = 0 then some (some w.data.toNat) else none)
  else if w.width = 4 then
    (if w.off % 8 = 0 then some (some (w.data.toNat % 2 ^ 32)) else if w.off % 4 = 0 then some none else none)
  else none

/-- An SQ takes doorbells: it is not Halted and no SQ_DESTROY has taken effect on it (R78, R106). -/
def sqRings (s : Sq) : Bool := decide (s.st ≠ .halted) && !s.dying

/-- The owner of a queue rings: port and function, privilege ignored (R78). -/
def dbOwns (port fn : Nat) (o : Origin) : Bool := o.port % 4 = port && o.fn % 256 = fn

/-- What a command value does at a doorbell (R78, R79, R97). -/
def dbCommand (b : Block) (o : Origin) (t : DbTarget) (v : Nat) : DbAct :=
  let p := o.port % 4
  match t with
  | .sq n => match fmGet? b.q.sqs n with
    | some s =>
      if dbOwns s.ownerPort s.ownerFn o && sqRings s then
        (if v = 0 then .ring (.q n) else if v = 1 then .hold (.q n) else .drop)
      else .drop
    | none => .drop
  | .cq m => match fmGet? b.q.cqs m with
    | some c => if dbOwns c.ownerPort c.ownerFn o && decide (v = 0) then .consumed (.q m) else .drop
    | none => .drop
  | .asq => match aqOf b p with
    | some a =>
      if isPrivileged b p o && a.enabled && decide (a.sq.st ≠ .halted) then
        (if v = 0 then .ring (.aq p) else if v = 1 then .hold (.aq p) else .drop)
      else .drop
    | none => .drop
  | .acq => match aqOf b p with
    | some a => if isPrivileged b p o && a.enabled && decide (v = 0) then .consumed (.aq p) else .drop
    | none => .drop

/-- What a write to a doorbell asks for. -/
def dbDecide (b : Block) (w : DbWrite) : DbAct :=
  match dbTarget w.off with
  | none => .none
  | some t => match dbValue w with
    | none => .drop
    | some none => .none
    | some (some v) => dbCommand b w.org t v

/-- A dropped doorbell write: counted on its port, with at most one audit record per port and millisecond (R78). -/
def dbDrop (b : Block) (w : DbWrite) : Block :=
  let p := w.org.port % 4
  auditLim (cnt b (portKey cDbDrop p)) (limitKey auDoorbellDrop p)
    { type := auDoorbellDrop, path := .view, org := w.org, new := w.data.toNat, detail := w.off }

/-- A doorbell write through a view: in the secure view it has no effect and is counted (R386), and the debug/trace port
drops it (R455); a host port's is decided by R77 to R79, and `f` carries out what a command's row stands for. -/
def dbRun (w : DbWrite) (f : DbAct → Block → Block) (s : State) : Host.Outcome State Fault Refusal :=
  lift (fun b => match w.path with
    | .view =>
      let b := noteOrigin b w.org
      match dbDecide b w with
      | .drop => dbDrop b w
      | a => f a b
    | .secure => if (dbTarget w.off).isSome then cnt b cAccessDrop else b
    | .dbg => if (dbTarget w.off).isSome then cnt b cAccessDrop else b
    | _ => b) s

/-! ## Reads of a queue's driver index (R80, R93) -/

/-- The queue's index reads and fetches may go on: Active, no SQ_DESTROY, an admin queue enabled. -/
def sqRuns (b : Block) (r : QRef) (s : Sq) : Bool :=
  decide (s.st = .active) && !s.dying && (match r with
    | .q _ => true
    | .aq p => (aqOf b p).any (fun a => a.enabled))

/-- What an access of the starter to an SQ charges: a host-memory access of an SQ, never an admin queue's (R64, R242, R243). -/
def sqCharge (r : QRef) (s : Sq) (host : Bool) (n : Nat) : List (Nat × Nat) :=
  match r with
  | .aq _ => []
  | .q _ => if host then [(10 + s.hostPort % 4, chargeBytes n)] else []

/-- A wanted `PRODUCER` read is issued once its bucket passes it (R64, R244); one that a doorbell causes restarts the poll interval
(R81). -/
def readIssue (b : Block) (r : QRef) : Block :=
  match sqOf b r with
  | none => b
  | some s =>
    let charge := sqCharge r s s.qcbHost 4
    if decide (s.rd = .wanted) && sqRuns b r s && bktPassAll b s.part true charge && decide (b.rcv.stage = .idle) then
      let next := if s.rung then b.tide.clock + s.pollUs * 1000 else s.nextPoll
      let b := putSq b r { s with rd := .flying b.tide.clock false, rung := false, nextPoll := next }
      bktTakeAll (hostAcc b s.qcbHost s.hostPort s.ownerFn s.qcbAddr 4 false) s.part charge
    else b

/-- A read of `PRODUCER` asked for: one that waits serves it, and one in flight is followed by a further one when a RING
asks (R80). A poll expiry that arrives while the read is in flight causes none (DESIGN CHOICE: R80 speaks of RINGs alone). A read
that its bucket holds is counted (R244). -/
def readWant (b : Block) (r : QRef) (byRing : Bool) : Block :=
  match sqOf b r with
  | none => b
  | some s => match s.rd with
    | .idle =>
      let b := readIssue (putSq b r { s with rd := .wanted, rung := byRing }) r
      if (sqOf b r).any (fun s => decide (s.rd = .wanted)) then cnt b cBwHold else b
    | .wanted => putSq b r { s with rung := s.rung || byRing }
    | .flying t again => putSq b r { s with rd := .flying t (again || byRing) }

/-- RING (R79, R86): a hold is released, and `PRODUCER` is read. -/
def sqRing (b : Block) (r : QRef) : Block :=
  match sqOf b r with
  | none => b
  | some s => readWant (if s.st = .held then sqSetState b r .active else b) r true

/-- The fetch requests of a queue that are in flight are given up: their replies arrive stale, and until then they count against the
limits of R83. `gone` says that the queue itself goes. -/
def giveUpFetches (b : Block) (r : QRef) (s : Sq) (gone : Bool) : Block :=
  { b with q := { b.q with late := b.q.late ++ s.fetches.map (fun f =>
      { q := r, gone := gone, host := s.ringHost, port := s.hostPort % 4, owner := s.ownerPort % 4, gen := s.gen,
        missing := f.missing ++ f.drop, issued := f.issued }) } }

/-- The Held state entered (R86): the generation advances, the cached entries are discarded, the value of `PRODUCER` read
before covers nothing, and the QCB is written. -/
def sqHold (b : Block) (r : QRef) : Block :=
  match sqOf b r with
  | none => b
  | some s =>
    let b := giveUpFetches b r s false
    let s := { s with gen := s.gen + 1, rd := .idle, rung := false, fetches := [], cache := [], fetchPtr := s.consumer,
                      producer := s.consumer, holdReq := false, probe := [] }
    if s.st = .held then sqWriteback (putSq b r s) r else sqSetState (putSq b r s) r .held

/-- A customer handler has the entry at the front of a queue under check (R85, R376). -/
def underCheck (b : Block) (r : QRef) : Bool :=
  match r with
  | .aq _ => false
  | .q n => b.mic.seqs.any (fun x => decide (x.2.who = some (.sub n)))

/-- HOLD_INVALIDATE (R86): once an entry under check has been admitted or rejected, the queue is Held. -/
def sqInvalidate (b : Block) (r : QRef) : Block :=
  if underCheck b r then
    match sqOf b r with
    | some s => putSq b r { s with holdReq := true }
    | none => b
  else sqHold b r

/-- A read of a CQ's `CONSUMER` (R93): issued at once, for no bucket charges it. -/
def cqRead (b : Block) (r : QRef) : Block :=
  match cqOf b r with
  | none => b
  | some c => match c.rd with
    | .flying t _ => putCq b r { c with rd := .flying t true }
    | _ => hostAcc (putCq b r { c with rd := .flying b.tide.clock false, lastRead := b.tide.clock })
        c.qcbHost c.hostPort c.ownerFn c.qcbAddr 4 false

/-- RING (R79). -/
def execRing (w : DbWrite) (s : State) : Host.Outcome State Fault Refusal :=
  dbRun w (fun a b => match a with
    | .ring (.q n) => sqRing b (.q n)
    | _ => b) s

/-- HOLD_INVALIDATE (R86). -/
def execHoldInvalidate (w : DbWrite) (s : State) : Host.Outcome State Fault Refusal :=
  dbRun w (fun a b => match a with
    | .hold (.q n) => sqInvalidate b (.q n)
    | _ => b) s

/-- CONSUMED (R79, R93). -/
def execConsumed (w : DbWrite) (s : State) : Host.Outcome State Fault Refusal :=
  dbRun w (fun a b => match a with
    | .consumed (.q m) => cqRead b (.q m)
    | _ => b) s

/-- ADMIN_SQ_RING (R97). -/
def execAdminSqRing (w : DbWrite) (s : State) : Host.Outcome State Fault Refusal :=
  dbRun w (fun a b => match a with
    | .ring (.aq p) => sqRing b (.aq p)
    | _ => b) s

/-- ADMIN_SQ_HOLD_INVALIDATE (R97). -/
def execAdminSqHoldInvalidate (w : DbWrite) (s : State) : Host.Outcome State Fault Refusal :=
  dbRun w (fun a b => match a with
    | .hold (.aq p) => sqInvalidate b (.aq p)
    | _ => b) s

/-- ADMIN_CQ_CONSUMED (R97). -/
def execAdminCqConsumed (w : DbWrite) (s : State) : Host.Outcome State Fault Refusal :=
  dbRun w (fun a b => match a with
    | .consumed (.aq p) => cqRead b (.aq p)
    | _ => b) s

/-! ## Polling and `PRODUCER` (R70, R81, R82, R87) -/

/-- POLL_EXPIRY (R81, R82): the poller skips a Held or Halted queue; a read that starts later than its interval is
counted. -/
def pollExpiry (b : Block) (n : Nat) : Block :=
  match fmGet? b.q.sqs n with
  | none => b
  | some s =>
    if s.pollUs = 0 || s.dying then b
    else
      let late := decide (b.tide.clock > s.nextPoll)
      let b := passTo b s.nextPoll
      let b := putSq b (.q n) { s with nextPoll := b.tide.clock + s.pollUs * 1000 }
      if s.st = .active then
        let fresh := decide (s.rd = .idle)
        let b := readWant b (.q n) false
        let waits := (sqOf b (.q n)).any (fun s => decide (s.rd = .wanted))
        if fresh && (late || waits) then cnt b cPollLate else b
      else b

/-- POLL_EXPIRY. -/
def execPollExpiry (sq : Nat) (s : State) : Host.Outcome State Fault Refusal := liftR (fun b => pollExpiry b sq) s

/-- The tags of a reply are the current ones (R87). -/
def tagsNow (b : Block) (gen : BitVec 8) (t : Tags) : Bool := t.rgen = b.rcv.resetGen && t.fgen = gen

/-- Beats dropped as stale, counted on the host port that owns the read (R87). -/
def staleBeats (b : Block) (port n : Nat) : Block := cntAdd b (portKey cStaleBeat (port % 4)) n

/-- The beats of a reply that no read awaits any more, dropped and counted (R87, R88). -/
def staleReply (b : Block) (g : ReadTag) : Block := staleBeats b g.port g.beats

/-- An SQ halts with a queue event (R70, R88). -/
def sqHalt (b : Block) (r : QRef) (event status : Nat) : Block :=
  let b := sqSetState b r .halted
  match r with
  | .q n => queueEvent b n event status
  | .aq p => adminEvent b p event status

/-- Distance of an index ahead of `CONSUMER`. -/
def ahead (s : Sq) (i : BitVec 32) : Nat := (i - s.consumer).toNat

/-- A `PRODUCER` value P has returned (R70): too far ahead halts the queue, whose fetched entries are still admitted (R84); otherwise
the entries at or beyond it leave the entry cache, and those below it are fetched. -/
def producerNew (b : Block) (r : QRef) (s : Sq) (p : BitVec 32) : Block :=
  if ahead s p > 2 ^ s.log2 then sqHalt (putSq b r { s with rd := .idle, rung := false }) r 2 stBadState
  else
    let keep (i : BitVec 32) : Bool := decide (ahead s i < ahead s p)
    let more := match s.rd with
      | .flying _ again => again
      | _ => false
    let s := { s with producer := p, rd := .idle, cache := s.cache.filter (fun x => keep x.1),
                      fetchPtr := if ahead s s.fetchPtr > ahead s p then p else s.fetchPtr,
                      fetches := s.fetches.map (fun f => { f with missing := f.missing.filter keep,
                                                                  drop := f.drop ++ f.missing.filter (fun i => !keep i) }) }
    let b := putSq b r s
    let b := if decide (p = s.consumer) && decide (s.sinceWb ≠ 0) then sqWriteback b r else b
    if more then readWant b r true else b

/-- PRODUCER_READ_RETURN (R70, R80, R87). -/
def producerReturn (b : Block) (r : QRef) (t : Tags) (v : BitVec 32) : Block :=
  match sqOf b r with
  | none => b
  | some s =>
    if !tagsNow b s.gen t then staleBeats b s.ownerPort 1
    else match s.rd with
      | .flying _ _ => producerNew b r s v
      | _ => b

/-- PRODUCER_READ_RETURN. -/
def execProducerReadReturn (q : QRef) (t : Tags) (value : BitVec 32) (s : State) : Host.Outcome State Fault Refusal :=
  liftReply [.read (.producer q)] (fun b => producerReturn b q t value) s

/-! ## Fetching (R83, R84, R87) -/

/-- Every SQ, the admin SQs included. -/
def allSqs (b : Block) : List (QRef × Sq) :=
  b.q.sqs.map (fun x => (QRef.q x.1, x.2)) ++ b.q.aqs.map (fun x => (QRef.aq x.1, x.2.sq))

/-- The arbiter that serves a queue: its host port's, or that of device-memory rings (R83). -/
def fetchArbiter (s : Sq) : Nat := if s.ringHost then s.hostPort % 4 else 4

/-- Entries in the entry cache or on their way to it (R84). -/
def entriesHeld (b : Block) : Nat :=
  ((allSqs b).map (fun x => x.2.cache.length + (x.2.fetches.map (fun f => f.missing.length)).sum)).sum

/-- Fetch requests outstanding on a host port, those given up included (R83). -/
def portFetches (b : Block) (port : Nat) : Nat :=
  (((allSqs b).filter (fun x => x.2.ringHost && x.2.hostPort % 4 = port)).map (fun x => x.2.fetches.length)).sum
    + (b.q.late.filter (fun l => l.host && decide (l.port = port))).length

/-- Fetch requests outstanding of a queue, those given up included (R83). -/
def sqFetches (b : Block) (r : QRef) (s : Sq) : Nat :=
  s.fetches.length + (b.q.late.filter (fun l => decide (l.q = r) && !l.gone)).length

/-- Capacity of the entry cache (R84). -/
def entryCapacity : Nat := 65536

/-- Entries that the next request of a queue covers: up to 16, never across the end of the ring (R83), nor more than the entry cache
has room for (R84). -/
def fetchSize (b : Block) (s : Sq) : Nat :=
  min (min 16 (entryCapacity - entriesHeld b))
    (min (ahead s s.producer - ahead s s.fetchPtr) (2 ^ s.log2 - s.fetchPtr.toNat % 2 ^ s.log2))

/-- The bound CQ holds fewer completions than `CQ_HOLD_LIMIT` (R93). Every completion that it holds counts, also one that waits for
its fence alone while the CQ is not full (DESIGN CHOICE: R93 speaks of held completions without saying why they are held). -/
def cqHasRoom (b : Block) (r : QRef) (s : Sq) : Bool :=
  match r with
  | .aq _ => true
  | .q _ => (fmGet? b.q.cqs s.cq).any (fun c => decide (c.hold.length < dget b 0x2020 2))

/-- A queue may fetch, its breakwater apart: entries to fetch, the limits of R83, room in the entry cache, the scoreboard
and the partition's quota not full (R84, R126, R127), and room at its CQ (R93). An admin SQ fetches also while the scoreboard is
full, for its entries take no tag there (DESIGN CHOICE: R84 does not set it apart). -/
def fetchReady (b : Block) (r : QRef) (s : Sq) : Bool :=
  sqRuns b r s && decide (ahead s s.fetchPtr < ahead s s.producer) && decide (sqFetches b r s < 4) &&
    (!s.ringHost || decide (portFetches b (s.hostPort % 4) < 1024)) &&
    decide (entriesHeld b < entryCapacity) && cqHasRoom b r s &&
    (match r with
     | .aq _ => true
     | .q _ => decide (b.sb.items.length < sbCapacity) && !quotaFull b s.part)

/-- What a request of a queue charges. -/
def fetchCharge (b : Block) (r : QRef) (s : Sq) : List (Nat × Nat) := sqCharge r s s.ringHost (64 * fetchSize b s)

/-- The breakwater passes the queue's next request. -/
def fetchPass (b : Block) (r : QRef) (s : Sq) : Bool := bktPassAll b s.part true (fetchCharge b r s)

/-- The queue that the arbiter of `s` serves next is queue `n` (R83): HIGH before NORMAL, round-robin within a level, among
those whose request can be issued. -/
def fetchTurn (b : Block) (n : Nat) (s : Sq) : Bool :=
  let rivals := b.q.sqs.filter (fun x => fetchArbiter x.2 = fetchArbiter s && fetchReady b (.q x.1) x.2 && fetchPass b (.q x.1) x.2)
  let last := fmGet b.q.rr (2 * fetchArbiter s + b2n s.high) 65535
  let dist (m : Nat) : Nat := (m + 65536 - last % 65536 - 1) % 65536
  !rivals.any (fun x => (x.2.high && !s.high) || (x.2.high = s.high && decide (dist x.1 < dist n)))

/-- ENTRY_FETCH_ISSUE (R83, R84, R244): one request for a queue whose turn it is; a request that its bucket holds is
counted once. -/
def fetchIssue (b : Block) (r : QRef) : Block :=
  match sqOf b r with
  | none => b
  | some s =>
    if !fetchReady b r s then b
    else if !fetchPass b r s then (if s.bwHeld then b else cnt (putSq b r { s with bwHeld := true }) cBwHold)
    else
      let turn := match r with
        | .q n => fetchTurn b n s
        | .aq _ => true
      if !turn then b
      else
        let n := fetchSize b s
        let idx := (List.range n).map (fun k => s.fetchPtr + BitVec.ofNat 32 k)
        let b1 := hostAcc (bktTakeAll b s.part (fetchCharge b r s)) s.ringHost s.hostPort s.ownerFn
          (s.ringAddr + 64 * (s.fetchPtr.toNat % 2 ^ s.log2)) (64 * n) false
        let b1 := putSq b1 r { s with fetchPtr := s.fetchPtr + BitVec.ofNat 32 n, bwHeld := false,
                                      fetches := s.fetches ++ [{ missing := idx, drop := [], issued := b.tide.clock }] }
        match r with
        | .q m => { b1 with q := { b1.q with rr := fmSet b1.q.rr (2 * fetchArbiter s + b2n s.high) m } }
        | .aq _ => b1

/-- ENTRY_FETCH_ISSUE. -/
def execEntryFetchIssue (q : QRef) (s : State) : Host.Outcome State Fault Refusal := liftR (fun b => fetchIssue b q) s

/-- The oldest request that waits for an entry receives it: whether it still wants the entry, and the requests that go on waiting. -/
def fetchTake (i : BitVec 32) : List Fetch → Bool × List Fetch
  | [] => (false, [])
  | f :: fs =>
    let rest (l : List (BitVec 32)) : List (BitVec 32) := l.filter (fun j => decide (j ≠ i))
    if f.missing.contains i || f.drop.contains i then
      let g := { f with missing := rest f.missing, drop := rest f.drop }
      (f.missing.contains i, if g.missing.isEmpty && g.drop.isEmpty then fs else g :: fs)
    else ((fetchTake i fs).1, f :: (fetchTake i fs).2)

/-- One entry of a beat fills the entry cache, if a request waits for it (R70, R84). -/
def entryArrive (s : Sq) (i : BitVec 32) (e : BitVec 512) : Sq :=
  let r := fetchTake i s.fetches
  { s with fetches := r.2, cache := if r.1 then s.cache ++ [(i, e)] else s.cache }

/-- An entry arrives for a request of queue `r` that was given up in generation `gen`: the requests that go on waiting, none if no
request given up waits for it. -/
def lateTake (r : QRef) (gen : BitVec 8) (i : BitVec 32) : List LateFetch → Option (List LateFetch)
  | [] => none
  | l :: ls =>
    if decide (l.q = r) && decide (l.gen = gen) && l.missing.contains i then
      let m := l.missing.filter (fun j => decide (j ≠ i))
      some (if m.isEmpty then ls else { l with missing := m } :: ls)
    else (lateTake r gen i ls).map (fun t => l :: t)

/-- Entries that arrive for requests given up: the requests retire as their last entry arrives; the number of entries. -/
def lateArrive (r : QRef) (gen : BitVec 8) (is : List (BitVec 32)) (late : List LateFetch) : Nat × List LateFetch :=
  is.foldl (fun x i => match lateTake r gen i x.2 with
    | some l => (x.1 + 1, l)
    | none => x) (0, late)

/-- Beats of `n` 64-byte entries: 512 bits each at a host port, 1,024 bits at a memory-fabric port (R87). -/
def beatsOf (host : Bool) (n : Nat) : Nat := if host then n else (n + 1) / 2

/-- FETCH_BEAT_RETURN (R84, R87): beats with other tags, and those of requests that a queue since destroyed had issued, are dropped and
counted. -/
def beatReturn (b : Block) (r : QRef) (t : Tags) (i : BitVec 32) (data : List (BitVec 512)) : Block :=
  let is := (List.range data.length).map (fun k => i + BitVec.ofNat 32 k)
  let now := decide (t.rgen = b.rcv.resetGen)
  let first := b.q.late.find? (fun l => decide (l.q = r) && decide (l.gen = t.fgen) && l.missing.contains i)
  match if now then first else none with
  | some l =>
    staleBeats { b with q := { b.q with late := (lateArrive r t.fgen is b.q.late).2 } } l.owner (beatsOf l.host data.length)
  | none => match sqOf b r with
    | none => b
    | some s =>
      if !tagsNow b s.gen t then staleBeats b s.ownerPort (beatsOf s.ringHost data.length)
      else putSq b r ((data.zipIdx).foldl (fun s x => entryArrive s (i + BitVec.ofNat 32 x.2) x.1) s)

/-- FETCH_BEAT_RETURN. -/
def execFetchBeatReturn (q : QRef) (t : Tags) (idx : BitVec 32) (data : List (BitVec 512)) (s : State) :
    Host.Outcome State Fault Refusal :=
  lift (fun b => retire (beatReturn b q t idx data) ((List.range data.length).map (fun k => Access.entry q (idx + BitVec.ofNat 32 k)))) s

/-! ## Admission (R39, R68, R76, R84, R85, R92, R119, R125) -/

/-- The entry of an SQ's ring at its `CONSUMER`, once all of it has arrived and none is under check (R85). A Halted queue
still has the entries that had arrived before its timeout (R88). -/
def frontEntry (b : Block) (n : Nat) : Option (BitVec 512) :=
  match fmGet? b.q.sqs n with
  | none => none
  | some s =>
    if decide (s.st = .held) || s.dying || underCheck b (.q n) then none
    else (s.cache.find? (fun x => x.1 = s.consumer)).map Prod.snd

/-- The reserved values that R76 rejects: `OPCODE` 0x03 to 0x7F and `HEAT_CLASS` 0b10, 0b11. -/
def entryReserved (e : BitVec 512) : Bool := (decide (3 ≤ eOpcode e) && decide (eOpcode e ≤ 0x7F)) || decide (eClass e ≥ 2)

/-- The tests of R39, in order: a status for an entry that is not admitted. -/
def admitTest (b : Block) (s : Sq) (e : BitVec 512) : Option Nat :=
  match ctxOf b (eCtx e) with
  | none => some stBadState
  | some c =>
    if !(c.ownerPort = s.ownerPort && c.ownerFn = s.ownerFn) then some stNotOwner
    else match c.state with
      | .lost => some stCtxLost
      | .destroying => some stDestroyed
      | _ => none

/-- The entry is taken from the ring, `rej` says without admission, and joins its batch (R66, R68, R92); its ordinal in the queue. -/
def entryTake (b : Block) (n : Nat) (e : BitVec 512) (rej : Bool) : Nat × Block :=
  match fmGet? b.q.sqs n with
  | none => (0, b)
  | some s =>
    let t : BatchEnd := { tag := eTag e, ctx := eCtx e, cls := eClass e, frame := 0, sbTag := none }
    let b := putSq b (.q n) { s with batches := batchNote s.batches s.ordinal (eBatchEnd e) t }
    (s.ordinal, sqConsume b (.q n) rej)

/-- A new work item: waiting, with the waits whose address is zero already satisfied (R119). -/
def newItem (n ord : Nat) (fgen : BitVec 8) (e : BitVec 512) (part : Nat) (kind : ItemKind) : Item where
  sq := n
  ord := ord
  fgen := fgen
  kept := false
  entry := e
  ctx := eCtx e
  part := part
  kind := kind
  w0 := if eWaitAddr e false = 0 then .done else .missing 0 0
  w1 := if eWaitAddr e true = 0 then .done else .missing 0 0
  freed := []
  stage := .waiting
  readyNo := 0
  descRd := .idle
  desc := none
  starveBy := 0
  starved := false
  doc := none
  frame := 0
  started := false
  stop := none
  status := 0
  endAt := none
  startAt := 0
  replayed := false

/-- The global addresses of an entry's waits: (second, address, value); none when an address faults (R119). -/
def entryWaits (b : Block) (e : BitVec 512) : Option (List (Bool × Word × Word)) :=
  let one (second : Bool) : Option (List (Bool × Word × Word)) :=
    if eWaitAddr e second = 0 then some []
    else (translate b (eCtx e) (eWaitAddr e second) false).map (fun g => [(second, BitVec.ofNat 64 g, eWaitValue e second)])
  match one false, one true with
  | some x, some y => some (x ++ y)
  | _, _ => none

/-- What the starter knows of a fence: its cached value, or the one that it has read for the queue's next entry (R122). -/
def fenceKnown (b : Block) (s : Sq) (a : Word) : Option Word :=
  match fenceEnt b a with
  | some x => some x.value
  | none => (s.probe.find? (fun x => x.1 = a)).bind Prod.snd

/-- A wait of an entry is known to be reached. -/
def waitReached (b : Block) (s : Sq) (w : Bool × Word × Word) : Bool := (fenceKnown b s w.2.1).any (fun c => reached c w.2.2)

/-- The fences of this chip that the waits of an entry pin, as far as it is known (R122). -/
def pinNeeds (b : Block) (s : Sq) (ws : List (Bool × Word × Word)) : List Word :=
  ((ws.filter (fun w => isLocal b w.2.1.toNat && !waitReached b s w)).map (fun w => w.2.1)).eraseDups

/-- The entry at the front of an SQ is held for want of an unpinned fence (R122): a fence that is not cached is read, for a wait on it
that is reached pins nothing. Once all are read and room is still wanting, the admission is held by the pins and counts once, and
the fences are read again. -/
def pinHold (b : Block) (n : Nat) (s : Sq) (ws : List (Bool × Word × Word)) : Act :=
  let open_ := (pinNeeds b s ws).filter (fun a => (fenceEnt b a).isNone)
  let asked (a : Word) : Bool := s.probe.any (fun x => decide (x.1 = a))
  let unasked := open_.filter (fun a => !asked a)
  let waiting := s.probe.any (fun x => x.2.isNone)
  let ask (l : List Word) (s : Sq) : Act :=
    (putSq b (.q n) { s with probe := s.probe.filter (fun x => !l.contains x.1) ++ l.map (fun a => (a, none)) },
     l.map (fun a => Task.fence a (.probe n)))
  if !unasked.isEmpty then ask unasked s
  else if waiting then act b
  else
    let r := ask open_ { s with pinHeld := true }
    (if s.pinHeld then r.1 else cnt r.1 cFencePinStall, r.2)

/-- The waits of a new work item that have been found reached before its admission, and are done (R122). -/
def waitsDone (i : Item) (s : Sq) (ws : List (Bool × Word × Word)) : Item :=
  ws.foldl (fun i w =>
    let value : Option Word := (s.probe.find? (fun x => x.1 = w.2.1)).bind Prod.snd
    let i : Item := { i with freed := i.freed ++ (value.map (fun v => (w.2.1, v))).toList }
    if w.1 then { i with w1 := .done } else { i with w0 := .done }) i

/-- An entry that passes R39 becomes a work item under the lowest free tag and its waits reach their fences (R85, R119,
R125); a wait address that faults ends it and loses its context. It waits in the entry cache while no tag, or no room for
its fences, is free (R122, R126, R127). -/
def admitItem (b : Block) (n : Nat) (s : Sq) (e : BitVec 512) (kind : ItemKind) (c : Ctx) : Act :=
  if decide (b.sb.items.length ≥ sbCapacity) || quotaFull b c.part then act b
  else
    let ws := entryWaits b e
    if !pinRoom b (pinNeeds b s (ws.getD [])) then pinHold b n s (ws.getD [])
    else
      let took := entryTake b n e false
      let found (w : Bool × Word × Word) : Bool := (fenceEnt b w.2.1).isNone && waitReached b s w
      let i := waitsDone (newItem n took.1 s.gen e c.part kind) s ((ws.getD []).filter found)
      match sbAlloc took.2 i with
      | none => act b
      | some (t, b) => match ws with
        | none => (b, [.work t stPageFault, .lose (eCtx e) stPageFault])
        | some l =>
          let l := l.filter (fun w => !found w)
          let tasks := l.map (fun w => Task.fence w.2.1 (.wait (.item t w.1) w.2.2))
          (if l.isEmpty then b else settleCtx b (eCtx e) false, tasks ++ (if l.isEmpty then [.ready t] else []))

/-- The entry at the front of an SQ, of an admitted kind, is admitted or completed without admission. -/
def submit (b : Block) (n : Nat) (e : BitVec 512) (kind : ItemKind) : Act :=
  match fmGet? b.q.sqs n with
  | none => act b
  | some s => match admitTest b s e with
    | some st =>
      let took := entryTake b n e true
      act (rejectEntry took.2 n took.1 e st)
    | none => match ctxOf b (eCtx e) with
      | some c => admitItem b n s e kind c
      | none => act b

/-- The kind of work item that an opcode names (R72). -/
def entryKind (e : BitVec 512) : Option ItemKind :=
  if entryReserved e then none
  else if eOpcode e = 0 then some .barrier
  else if eOpcode e = 1 then some .heat
  else if eOpcode e = 2 then some .tableUpdate
  else none

/-- The front entry of an SQ is examined when it is of a kind. -/
def submitKind (b : Block) (n : Nat) (kind : ItemKind) : Act :=
  match frontEntry b n with
  | some e => if entryKind e = some kind then submit b n e kind else act b
  | none => act b

/-- HEAT (R72, R39, R119). -/
def execHeat (sq : Nat) (s : State) : Host.Outcome State Fault Refusal := liftRA (fun b => submitKind b sq .heat) s

/-- BARRIER (R72, R119). -/
def execBarrier (sq : Nat) (s : State) : Host.Outcome State Fault Refusal := liftRA (fun b => submitKind b sq .barrier) s

/-- TABLE_UPDATE (R72, R283). -/
def execTableUpdate (sq : Nat) (s : State) : Host.Outcome State Fault Refusal :=
  liftRA (fun b => submitKind b sq .tableUpdate) s

/-- An entry is completed with REJECT_BAD_STATE and not admitted (R72, R76). -/
def rejectFront (b : Block) (n : Nat) (e : BitVec 512) : Block :=
  let took := entryTake b n e true
  rejectEntry took.2 n took.1 e stBadState

/-- RESERVED_SUBMISSION_OPCODE (R72, R76). -/
def execReservedSubmissionOpcode (sq : Nat) (s : State) : Host.Outcome State Fault Refusal :=
  liftR (fun b => match frontEntry b sq with
    | some e => if entryReserved e then rejectFront b sq e else b
    | none => b) s

/-- Entries that had all arrived before a read timed out are admitted as they would be; one that must wait for a tag, for
room or for a handler stays in the entry cache of the halted queue (R88). -/
def submitRest : Nat → Block → Nat → Block
  | 0, b, _ => b
  | k + 1, b, n => match frontEntry b n with
    | none => b
    | some e =>
      let next := if entryReserved e then rejectFront b n e else match entryKind e with
        | some kind => finish (submit b n e kind)
        | none => b
      submitRest k next n

/-! ## Completions (R89 to R94) -/

/-- The 32 bytes of a completion entry (R89). -/
def cqEntBytes (e : CqEnt) (phase : Bool) (consumer : Nat) : BitVec 256 :=
  BitVec.ofNat 256 (packFields [(0, 16, e.tag.toNat), (16, 8, e.status), (24, 2, match e.kind with
      | .item => 0
      | .batch => 1
      | .event => 2), (31, 1, b2n phase), (32, 16, e.sq), (48, 16, e.nonDone), (64, 32, consumer),
    (96, 16, e.entries), (112, 8, e.event), (128, 64, e.time), (192, 24, e.ctx.toNat), (216, 2, e.cls), (224, 32, e.frame)])

/-- The interrupt of a CQ raised: every written entry is reported (R94). -/
def cqInterrupt (b : Block) (m : Nat) : Block :=
  match fmGet? b.q.cqs m with
  | none => b
  | some c => raiseInt (putCq b (.q m) { c with unreported := 0, oldest := none }) c.ownerPort c.ownerFn c.vector

/-- The interrupt condition after an entry has been written: the count, or an LC completion at once (R94). -/
def cqReport (b : Block) (m : Nat) (e : CqEnt) : Block :=
  match fmGet? b.q.cqs m with
  | none => b
  | some c =>
    let c := { c with unreported := c.unreported + 1, oldest := some (c.oldest.getD b.tide.clock) }
    let b := putCq b (.q m) c
    let lc := c.lcImm && decide (e.kind ≠ .event) && decide (e.cls = 0)
    if c.intEn && (lc || decide (c.unreported ≥ max 1 c.count)) then cqInterrupt b m else b

/-- COMPLETION_WRITE (R68, R89 to R94, R125): the oldest completion of a CQ, once its fence is in memory (R14) and unless
the CQ is full, with its SQ's `CONSUMER` written before it and its scoreboard tag freed after it. -/
def completionWrite (b : Block) (m : Nat) : Block :=
  match fmGet? b.q.cqs m with
  | none => b
  | some c => match c.hold with
    | [] => b
    | e :: rest =>
      if e.waits.isEmpty && cqOpen c then
        let sqq := fmGet? b.q.sqs e.sq
        let b := if sqq.any (fun s => decide (s.sinceWb ≠ 0)) then sqWriteback b (.q e.sq) else b
        let consumer := (sqq.map (fun s => s.consumer.toNat)).getD 0
        let b := cqWriteEntry b (.q m) { c with hold := rest } (cqEntBytes e (phaseAt c.producer c.log2) consumer)
        let b := match e.sbTag with
          | some t => freeTag b t
          | none => b
        cqReport b m e
      else b

/-- COMPLETION_WRITE. -/
def execCompletionWrite (cq : Nat) (s : State) : Host.Outcome State Fault Refusal := liftR (fun b => completionWrite b cq) s

/-- CQ_FULL_REREAD (R93): at most once per microsecond while the CQ stays full. After a read that has timed out, the CQ is read again so
as well, or at a CONSUMED doorbell (DESIGN CHOICE: R88 names the doorbell, R93 both). -/
def cqReread (b : Block) (r : QRef) : Block :=
  match cqOf b r with
  | none => b
  | some c => if (c.full || c.bad) && decide (c.rd = .idle) then cqRead (passTo b (c.lastRead + 1000)) r else b

/-- CQ_FULL_REREAD. -/
def execCqFullReread (cq : QRef) (s : State) : Host.Outcome State Fault Refusal := liftR (fun b => cqReread b cq) s

/-- The number that `CQ_INCONSISTENT` names a CQ by; an admin CQ of port p has 0x4000 + p (log entry 21). -/
def cqNumber (r : QRef) : Nat :=
  match r with
  | .q m => m
  | .aq p => 0x4000 + p

/-- A `CONSUMER` value has returned (R93): consistent, it opens or keeps the CQ full; otherwise the CQ counts as full and
one audit record is written until a consistent value is read. -/
def consumerNew (b : Block) (r : QRef) (c : Cq) (v : BitVec 32) : Block :=
  let diff := (c.producer - v).toNat
  if diff ≤ 2 ^ c.log2 then
    let isFull := decide (diff = 2 ^ c.log2)
    let c1 := { c with consumer := v, bad := false, full := isFull,
                       fullEvents := if isFull && !c.full then satInc 32 c.fullEvents else c.fullEvents }
    if isFull = c.full then putCq b r c1 else cqWriteback (putCq b r c1) r
  else
    let c1 := { c with bad := true, full := true, fullEvents := if c.full then c.fullEvents else satInc 32 c.fullEvents }
    let b := if c.full then putCq b r c1 else cqWriteback (putCq b r c1) r
    if c.bad then b else audit b { type := auCqInconsistent, new := v.toNat, detail := cqNumber r }

/-- CQ_CONSUMER_RETURN (R87, R93): the value takes effect, a CONSUMED that came meanwhile reads again, and an admin CQ
writes what it holds. -/
def consumerReturn (b : Block) (r : QRef) (t : Tags) (v : BitVec 32) : Block :=
  match cqOf b r with
  | none => b
  | some c =>
    if !tagsNow b c.gen t then staleBeats b c.ownerPort 1
    else match c.rd with
      | .flying _ again =>
        let b := consumerNew b r { c with rd := .idle } v
        let b := if again then cqRead b r else b
        match r with
        | .aq p => adminFlush b p
        | .q _ => b
      | _ => b

/-- CQ_CONSUMER_RETURN. -/
def execCqConsumerReturn (cq : QRef) (t : Tags) (value : BitVec 32) (s : State) : Host.Outcome State Fault Refusal :=
  lift (fun b => retire (consumerReturn b cq t value) [.read (.cqConsumer cq)]) s

/-- COALESCE_TIMER_EXPIRY (R94). -/
def coalesceExpiry (b : Block) (m : Nat) : Block :=
  match fmGet? b.q.cqs m with
  | none => b
  | some c => match c.oldest with
    | some t =>
      if c.intEn && decide (c.timeUs ≠ 0) && decide (c.unreported ≠ 0) then cqInterrupt (passTo b (t + c.timeUs * 1000)) m else b
    | none => b

/-- COALESCE_TIMER_EXPIRY. -/
def execCoalesceTimerExpiry (cq : Nat) (s : State) : Host.Outcome State Fault Refusal :=
  liftR (fun b => coalesceExpiry b cq) s

/-- Waiting interrupts enter the queue of 64, one that repeats a queued pair merging with it (R450). -/
def intAdmit (q : List IntReq) : List IntReq → List IntReq
  | [] => q
  | r :: w => if q.contains r then intAdmit q w else if q.length < 64 then intAdmit (q ++ [r]) w else q ++ r :: w

/-- INTERRUPT_REQUEST (R450): the oldest request of a port passes to its controller. -/
def interruptRequest (b : Block) (port : Nat) : Block :=
  match fmGet b.q.ints port [] with
  | [] => b
  | r :: rest => emit { b with q := { b.q with ints := fmSet b.q.ints port (intAdmit (rest.take 63) (rest.drop 63)) } } (.msix port r.fn r.vector)

/-- INTERRUPT_REQUEST. -/
def execInterruptRequest (port : Nat) (s : State) : Host.Outcome State Fault Refusal :=
  liftR (fun b => interruptRequest b port) s

end Sys2Proof.Machine
end

