-- ==== Sys2Proof/Machine/Admin.lean ====
section
/-! DEFINITION. Admin commands on queues, contexts, partitions, groups and mappings (spec/02_objects.md,
spec/04_admin_commands.md). MICROCODE_LOAD and customer commands stand in Micro.lean, AQ_ENABLE in Dictionary.lean. -/

namespace Sys2Proof.Machine

open Sys2Proof

/-- The context handle at offset 0x08 of an entry (R104). -/
def pHandle (e : BitVec 512) : BitVec 24 := e.extractLsb' 64 24

/-- No context states asked for. -/
def noCtx (_ : BitVec 512) : Option (BitVec 24) := none

/-- Every entry is legal. -/
def allLegal (_ : BitVec 512) : Bool := true

/-- Memory with every byte of a range zero. -/
def memZero (m : Memory) (lo len : Nat) : Memory := m.filter (fun x => !(decide (lo ≤ x.1) && decide (x.1 < lo + len)))

/-! ## NOP, DUMP_BUFFER, reserved opcodes -/

/-- ADMIN_NOP (R103, R106). -/
def execAdminNop (x : AdminIn) (s : State) : Host.Outcome State Fault Refusal :=
  adminRun x 0x00 [] allLegal allLegal false noCtx [] (fun b _ _ => .ok (act b) 0) s

/-- The registration of a port's dump buffer replaced, or removed by a length of zero (R110). -/
def dumpRegister (b : Block) (port addr len : Nat) : AdminRes :=
  if addr % 4096 ≠ 0 then .fail (stBadState, dtAlign)
  else if len ≠ 0 ∧ len < 0x800000 then .fail (stNoResource, dtLimit)
  else if len = 0 then .ok (act { b with adm := { b.adm with dumpBufs := fmErase b.adm.dumpBufs port } }) 0
  else .ok (act { b with adm := { b.adm with dumpBufs := fmSet b.adm.dumpBufs port (addr, len) } }) 0

/-- DUMP_BUFFER (R110). -/
def execDumpBuffer (x : AdminIn) (s : State) : Host.Outcome State Fault Refusal :=
  adminRun x 0x24 [(64, 64), (128, 32)] allLegal allLegal true noCtx []
    (fun b e o => dumpRegister b o.serve (field e 64 64) (field e 128 32)) s

/-- The opcodes of R103 that name a command. -/
def adminOpcodes : List Nat := [0x00, 0x01, 0x02, 0x03, 0x04, 0x08, 0x09, 0x0A, 0x10, 0x11, 0x14, 0x15, 0x18, 0x19, 0x1C, 0x1D, 0x20, 0x24]

/-- RESERVED_ADMIN_OPCODE (R100). -/
def execReservedAdminOpcode (x : AdminIn) (s : State) : Host.Outcome State Fault Refusal :=
  liftRA (fun b => match adminFront b x.src with
    | none => act b
    | some e =>
      if aOpcode e < 0x80 && !adminOpcodes.contains (aOpcode e) then
        adminFinish (adminTake b x.src) x.src e (.fail (stBadState, dtReserved))
      else act b) s

/-! ## Queues (R64, R65, R107) -/

/-- The ring and the QCB of a queue pass the checks of R107: ring size in its range, alignment, and device addresses
where `inside` allows them. -/
def ringCheck (k kmax ring qcb entry : Nat) (ringHost qcbHost : Bool) (inside : Nat → Nat → Bool) : Option AdminErr :=
  if k < 4 ∨ k > kmax then some (stBadState, dtRange)
  else if ring % 4096 ≠ 0 ∨ qcb % 64 ≠ 0 then some (stBadState, dtAlign)
  else if (!ringHost && !inside ring (entry * 2 ^ k)) || (!qcbHost && !inside qcb 64) then some (stNotOwner, dtOutside)
  else none

/-- The fields of SQ_CREATE. -/
def sqCreateFields : List (Nat × Nat) := [(64, 14), (80, 5), (85, 1), (86, 1), (87, 1), (96, 24), (128, 64), (192, 64), (256, 20)]

/-- An SQ from an SQ_CREATE entry, with the `PRODUCER` that was read once (R107). -/
def sqNew (b : Block) (e : BitVec 512) (o : AdminOrg) (c : Ctx) (producer : BitVec 32) : Sq where
  ownerPort := o.port
  ownerFn := o.fn
  hostPort := o.serve
  cq := field e 64 14
  home := c.handle
  homeGone := false
  rung := false
  probe := []
  part := c.part
  high := bitAt e 87
  pollUs := field e 256 20
  nextPoll := b.tide.clock + field e 256 20 * 1000
  log2 := field e 80 5
  ringHost := bitAt e 85
  qcbHost := bitAt e 86
  ringAddr := field e 128 64
  qcbAddr := field e 192 64
  consumer := producer
  producer := producer
  fetchPtr := producer
  gen := 0
  st := .active
  rejected := 0
  lastEvent := stamp b
  rd := .idle
  fetches := []
  cache := []
  sinceWb := 0
  ordinal := producer.toNat
  batches := []
  dying := false
  abortAll := false
  holdReq := false
  pinHeld := false
  bwHeld := false

/-- What the one read of `PRODUCER` by SQ_CREATE charges: the bucket of the new SQ's partition, for a QCB in host memory (R64). -/
def createCharge (e : BitVec 512) (o : AdminOrg) : List (Nat × Nat) :=
  if bitAt e 86 then [(10 + o.serve % 4, chargeBytes 4)] else []

/-- SQ_CREATE, its named context found (R62 to R65, R104, R107): `PRODUCER` is read once, charged to the partition that the SQ records,
and the QCB is written. -/
def sqCreate (b : Block) (e : BitVec 512) (o : AdminOrg) (producer : BitVec 32) : AdminRes :=
  match fmGet? b.q.cqs (field e 64 14), ctxOf b (e.extractLsb' 96 24) with
  | none, _ => .fail (stNotOwner, dtNoObject)
  | _, none => .fail (stBadState, dtNoObject)
  | some cq, some c =>
    if !(cq.ownerPort = o.port && cq.ownerFn = o.fn && c.ownerPort = o.port && c.ownerFn = o.fn) then .fail (stNotOwner, dtRights)
    else match ringCheck (field e 80 5) 16 (field e 128 64) (field e 192 64) 64 (bitAt e 85) (bitAt e 86) (inPart b c.part) with
      | some err => .fail err
      | none => match lowestFree (fmKeys b.q.sqs) 0 65536 with
        | none => .fail (stNoResource, dtLimit)
        | some n =>
          let s := sqNew b e o c producer
          let b := hostAcc (bktTakeAll b c.part (createCharge e o)) s.qcbHost s.hostPort s.ownerFn s.qcbAddr 4 false
          .ok (act (sqWriteback (putSq b (.q n) s) (.q n))) n

/-- The breakwater holds the `PRODUCER` read of the SQ_CREATE at the front of a source, whose checks all pass (R64, R103, R244). -/
def sqCreateHeld (b : Block) (x : AdminIn) : Bool :=
  match adminFront b x.src with
  | none => false
  | some e =>
    let o := adminOrg b x.src e
    let ok := decide (aOpcode e = 0x01) && (adminCheck b x e o (reservedClear x.src e sqCreateFields) false
      (some (e.extractLsb' 96 24)) liveStates).isNone
    ok && (match sqCreate b e o 0, ctxOf b (e.extractLsb' 96 24) with
      | .ok _ _, some c => !bktPassAll b c.part true (createCharge e o)
      | _, _ => false)

/-- SQ_CREATE: the executor waits while the breakwater holds its read; the hold counts once (R64, R244). -/
def execSqCreate (x : AdminIn) (producer : BitVec 32) (s : State) : Host.Outcome State Fault Refusal :=
  liftRA (fun b =>
    let mark (v : Bool) : Block := { b with adm := { b.adm with held := v } }
    if sqCreateHeld b x then act (if b.adm.held then b else cnt (mark true) cBwHold)
    else adminStep x 0x01 sqCreateFields allLegal allLegal false (fun e => some (e.extractLsb' 96 24)) liveStates
      (fun b e o => sqCreate b e o producer) (mark false)) s

/-- Nothing of an SQ's admitted work is left: no work item, and no completion that waits to be written (R107). -/
def sqSpent (b : Block) (n : Nat) : Bool :=
  !b.sb.items.any (fun x => decide (x.2.sq = n)) && !b.q.cqs.any (fun c => c.2.hold.any (fun e => decide (e.sq = n)))

/-- An SQ whose destruction has completed leaves, with the customer handler that an abandoned entry of it has started, and every
SQ_DESTROY of it that pends completes (R107). -/
def sqGone (b : Block) (n : Nat) : Block :=
  let b := { b with q := { b.q with sqs := fmErase b.q.sqs n },
                    mic := { b.mic with seqs := b.mic.seqs.filter (fun x => decide (x.2.who ≠ some (HandlerFor.sub n))) } }
  (b.adm.pend.filter (fun p => decide (p.kind = .sqDestroy n))).foldl (fun b p => pendEnd b p stAdminOk dtNone 0) b

/-- `ABORT_ADMITTED` (R107): unstarted work items of the queue complete with ABORT_DESTROYED, and its heats in flight end
at their next SLW boundary. -/
def sqAbort (b : Block) (n : Nat) : List Task :=
  let mine := b.sb.items.filter (fun x => decide (x.2.sq = n))
  let runs := b.comp.runs.filter (fun x => x.2.endedAt.isNone && mine.any (fun i => decide (i.1 = x.2.tag)) && decide (x.2.kind ≠ .test))
  runs.map (fun x => Task.abort x.1 stDestroyed) ++
    (mine.filter (fun x => decide (x.2.stage = .waiting) || decide (x.2.stage = .composer))).map (fun x => Task.work x.1 stDestroyed)

/-- The origin may destroy a queue: its owner, or privileged rights for any queue of the port (R104). -/
def mayDestroy (o : AdminOrg) (port fn : Nat) : Bool :=
  o.secure || (o.port = port && o.fn = fn) || (o.priv && o.port = port)

/-- SQ_DESTROY (R107). -/
def sqDestroy (b : Block) (e : BitVec 512) (o : AdminOrg) : AdminRes :=
  let n := field e 64 16
  let abort := bitAt e 80
  match fmGet? b.q.sqs n with
  | none => .fail (stBadState, dtNoObject)
  | some s =>
    if !mayDestroy o s.ownerPort s.ownerFn then .fail (stNotOwner, dtRights)
    else if s.dying && !abort then .fail (stBadState, dtState)
    else
      let b := if s.dying then b
        else putSq (giveUpFetches b (.q n) s true) (.q n) { s with
                                     dying := true, gen := s.gen + 1, cache := [], fetches := [], rd := .idle, rung := false,
                                     holdReq := false, probe := [],
                                     batches := s.batches.filter (fun x => x.closed) }
      let b := finish (b, if abort then sqAbort b n else [])
      if sqSpent b n then .ok (act (sqGone b n)) 0 else .pend (.sqDestroy n) (act b)

/-- SQ_DESTROY. -/
def execSqDestroy (x : AdminIn) (s : State) : Host.Outcome State Fault Refusal :=
  adminRun x 0x02 [(64, 16), (80, 1)] allLegal allLegal false noCtx [] (fun b e o => sqDestroy b e o) s

/-- SQ_DESTROY_COMPLETE (R107). -/
def execSqDestroyComplete (sq : Nat) (s : State) : Host.Outcome State Fault Refusal :=
  liftR (fun b => match fmGet? b.q.sqs sq with
    | some q => if q.dying && sqSpent b sq then sqGone b sq else b
    | none => b) s

/-- A CQ from a CQ_CREATE entry (R94, R107). -/
def cqNew (e : BitVec 512) (o : AdminOrg) : Cq where
  ownerPort := o.port
  ownerFn := o.fn
  hostPort := o.serve
  log2 := field e 64 5
  ringHost := bitAt e 69
  qcbHost := bitAt e 70
  ringAddr := field e 128 64
  qcbAddr := field e 192 64
  producer := 0
  consumer := 0
  full := false
  fullEvents := 0
  gen := 0
  rd := .idle
  lastRead := 0
  bad := false
  hold := []
  aHold := []
  unreported := 0
  oldest := none
  vector := field e 80 11
  count := field e 96 8
  timeUs := field e 112 16
  lcImm := bitAt e 72
  intEn := bitAt e 71

/-- A range lies within the partition of some context of an owner (R64). -/
def inOwnersPart (b : Block) (port fn : Nat) (g len : Nat) : Bool :=
  b.obj.ctxs.any (fun x => x.2.ownerPort = port && x.2.ownerFn = fn && inPart b x.2.part g len)

/-- CQ_CREATE (R65, R104, R107); the driver's `CONSUMER` must read 0. -/
def cqCreate (b : Block) (e : BitVec 512) (o : AdminOrg) (consumer : BitVec 32) : AdminRes :=
  match ringCheck (field e 64 5) 20 (field e 128 64) (field e 192 64) 32 (bitAt e 69) (bitAt e 70) (inOwnersPart b o.port o.fn) with
  | some err => .fail err
  | none =>
    if consumer ≠ 0 then .fail (stBadState, dtState)
    else match lowestFree (fmKeys b.q.cqs) 0 16384 with
      | none => .fail (stNoResource, dtLimit)
      | some n =>
        let c := cqNew e o
        .ok (act (cqWriteback (putCq (hostAcc b c.qcbHost c.hostPort c.ownerFn c.qcbAddr 4 false) (.q n) c) (.q n))) n

/-- CQ_CREATE. -/
def execCqCreate (x : AdminIn) (consumer : BitVec 32) (s : State) : Host.Outcome State Fault Refusal :=
  adminRun x 0x03 [(64, 5), (69, 1), (70, 1), (71, 1), (72, 1), (80, 11), (96, 8), (112, 16), (128, 64), (192, 64)] allLegal
    allLegal false noCtx [] (fun b e o => cqCreate b e o consumer) s

/-- CQ_DESTROY (R104): refused while an SQ, one under destruction included, is bound. -/
def cqDestroy (b : Block) (e : BitVec 512) (o : AdminOrg) : AdminRes :=
  let m := field e 64 14
  match fmGet? b.q.cqs m with
  | none => .fail (stBadState, dtNoObject)
  | some c =>
    if !mayDestroy o c.ownerPort c.ownerFn then .fail (stNotOwner, dtRights)
    else if b.q.sqs.any (fun x => decide (x.2.cq = m)) then .fail (stBadState, dtInUse)
    else .ok (act { b with q := { b.q with cqs := fmErase b.q.cqs m } }) 0

/-- CQ_DESTROY. -/
def execCqDestroy (x : AdminIn) (s : State) : Host.Outcome State Fault Refusal :=
  adminRun x 0x04 [(64, 14)] allLegal allLegal false noCtx [] (fun b e o => cqDestroy b e o) s

/-! ## Contexts (R30 to R46) -/

/-- Contexts that an origin owns. -/
def ctxOwned (b : Block) (o : AdminOrg) : Nat :=
  (b.obj.ctxs.filter (fun x => x.2.ownerPort = o.port && decide (x.2.ownerFn = o.fn))).length

/-- The free context ID that has been free the longest (R31), with what stays free. IDs that have all been free since reset are taken
in ascending order (DESIGN CHOICE: R31 does not order them). -/
def takeCtxId (x : Objects) : Option (Nat × Objects) :=
  if x.fresh < 2 ^ 20 then some (x.fresh, { x with fresh := x.fresh + 1 })
  else match x.freed with
    | i :: rest => some (i, { x with freed := rest })
    | [] => none

/-- A handle from an ID and its incarnation (R30). -/
def mkHandle (id inc : Nat) : BitVec 24 := BitVec.ofNat 24 (id % 2 ^ 20 + inc % 16 * 2 ^ 20)

/-- A new context (R33). -/
def ctxNew (b : Block) (e : BitVec 512) (o : AdminOrg) (handle : BitVec 24) : Ctx where
  handle := handle
  state := .created
  ownerPort := o.port
  ownerFn := o.fn
  part := field e 64 5
  lostCause := 0
  ptRoot := field e 128 64
  span := field e 72 5
  lostTime := 0
  completed := 0
  aborted := 0
  replayed := 0
  created := stamp b
  slot := none
  yielding := false
  slotWait := none
  blockedAt := 0
  evictAt := 0
  idleAt := b.tide.clock
  destroyBy := 0

/-- CONTEXT_CREATE (R31, R32, R40, R49, R104). Where several of its checks fail, the first of this order decides: partition, port, span,
alignment, range, table base, the function's maximum, a free ID (DESIGN CHOICE: the spec does not order them). -/
def ctxCreate (b : Block) (e : BitVec 512) (o : AdminOrg) : AdminRes :=
  match partOf b (field e 64 5) with
  | none => .fail (stBadState, dtNoObject)
  | some p =>
    if !p.portMask.testBit o.port then .fail (stNotOwner, dtRights)
    else if field e 72 5 > 18 then .fail (stBadState, dtRange)
    else if field e 128 64 % 0x10000 ≠ 0 then .fail (stBadState, dtAlign)
    else if !inPart b (field e 64 5) (field e 128 64) (8 * 2 ^ field e 72 5) then .fail (stNotOwner, dtOutside)
    else if !fmHas b.dict (dkey 0x2010 1) then .fail (stNoResource, dtState)
    else if ctxOwned b o ≥ dget b 0x2010 2 then .fail (stNoResource, dtLimit)
    else match takeCtxId b.obj with
      | none => .fail (stNoResource, dtLimit)
      | some (id, obj) =>
        let h := mkHandle id (fmGet obj.incs id 0)
        .ok (act (putCtx { b with obj := obj } (ctxNew b e o h))) h.toNat

/-- CONTEXT_CREATE. -/
def execContextCreate (x : AdminIn) (s : State) : Host.Outcome State Fault Refusal :=
  adminRun x 0x08 [(64, 5), (72, 5), (128, 64)] allLegal allLegal false noCtx [] (fun b e o => ctxCreate b e o) s

/-- The valid level-1 entries of a context, from the memory that MAP wrote: level-2 table addresses. -/
def l2Tables (b : Block) (c : Ctx) : List Nat :=
  let cells := b.mem.filter (fun x => decide (c.ptRoot ≤ x.1) && decide (x.1 < c.ptRoot + 8 * 2 ^ c.span))
  let idx := (cells.map (fun x => (x.1 - c.ptRoot) / 8)).eraseDups
  idx.filterMap (fun i =>
    let e := rdLE b (c.ptRoot + 8 * i) 8
    if e % 2 = 1 then some (e / 0x20000 * 0x20000) else none)

/-- The pages that a level-2 table maps: (base, size). -/
def l2Pages (b : Block) (t : Nat) : List (Nat × Nat) :=
  let cells := b.mem.filter (fun x => decide (t ≤ x.1) && decide (x.1 < t + 0x20000))
  let idx := (cells.map (fun x => (x.1 - t) / 8)).eraseDups
  (idx.filterMap (fun i =>
    let e := rdLE b (t + 8 * i) 8
    if e % 2 = 1 then
      let size := if e.testBit 2 then 0x200000 else 0x10000
      some (e / size * size, size)
    else none)).eraseDups

/-- Every page-table entry installed for a context cleared, its translations dropped and its pages' fences unmapped (R44
step 3, R124). -/
def clearMappings (b : Block) (c : Ctx) : Block :=
  let tables := l2Tables b c
  let pages := tables.flatMap (l2Pages b)
  let b := { b with mem := tables.foldl (fun m t => memZero m t 0x20000) (memZero b.mem c.ptRoot (8 * 2 ^ c.span)) }
  let b := { b with obj := { b.obj with tlb := b.obj.tlb.filter (fun t => decide (t.ctx ≠ c.handle)) } }
  pages.foldl (fun b p => fencePageGone b p.1 p.2) b

/-- The gated UNMAPs that pend on a context, with what `f` admits. -/
def gatedOf (b : Block) (h : BitVec 24) (f : Nat → Bool → Bool) : List Pend :=
  b.adm.pend.filter (fun p => match p.kind with
    | .unmap g va big _ _ => g = h && f va big
    | _ => false)

/-- A waiter of an UNMAP command, which its number names. -/
def waiterOfUnmap (no : Nat) (w : Waiter) : Bool := decide (w = .unmap no)

/-- Gated UNMAPs completed with `SUPERSEDED` (R44, R55). -/
def supersede (b : Block) (l : List Pend) : Block :=
  l.foldl (fun b p => pendEnd (cancelWaits b (waiterOfUnmap p.no)) p stAdminOk dtSuperseded 0) b

/-- The destruction of a context completes (R44 steps 3 and 4): its mappings are cleared and its pending UNMAPs complete, slot and HCT
entry are released, the incarnation is raised, the record is written Free, the ID is free from now on, and the SQs whose home it was
have none (R63). -/
def ctxGone (b : Block) (c : Ctx) : Block :=
  let id := field c.handle 0 20
  let inc := (field c.handle 20 4 + 1) % 16
  let b := supersede (clearMappings b c) (gatedOf b c.handle (fun _ _ => true))
  let b := { b with obj := { b.obj with ctxs := fmErase b.obj.ctxs id, incs := fmSet b.obj.incs id inc,
                                        freed := b.obj.freed ++ [id], hct := b.obj.hct.filter (fun x => decide (x ≠ id)) },
                    q := { b.q with sqs := b.q.sqs.map (fun x =>
                      (x.1, { x.2 with homeGone := x.2.homeGone || decide (x.2.home = c.handle) })) } }
  wrOwn b (dget b 0x2010 1 + 256 * id) (leBytes 64 (mkHandle id inc).toNat)

/-- CONTEXT_DESTROY takes effect (R44 steps 1 and 2). -/
def ctxDestroyStart (b : Block) (c : Ctx) : Act :=
  let h := c.handle
  let b := putCtx b { c with state := .destroying, lostCause := 0, lostTime := 0, slotWait := none,
                             destroyBy := b.tide.clock + 10000000 + dget b 0x2030 1 * 1000 }
  let idle := b.sb.items.filter (fun x => x.2.ctx = h && (decide (x.2.stage = .waiting) || decide (x.2.stage = .composer)))
  let runs := (ctxRuns b h).map (fun x => Task.abort x.1 stDestroyed)
  (b, idle.map (fun x => Task.work x.1 stDestroyed) ++ runs ++ ctxSamples b h)

/-- CONTEXT_DESTROY: it completes at once when no heat is in flight. -/
def ctxDestroy (b : Block) (h : BitVec 24) : AdminRes :=
  match ctxOf b h with
  | none => .fail (stBadState, dtNoObject)
  | some c =>
    let b := finish (ctxDestroyStart b c)
    match ctxOf b h with
    | some c => if (ctxRuns b h).isEmpty then .ok (act (ctxGone b c)) 0 else .pend (.ctxDestroy h) (act b)
    | none => .ok (act b) 0

/-- CONTEXT_DESTROY. -/
def execContextDestroy (x : AdminIn) (s : State) : Host.Outcome State Fault Refusal :=
  adminRun x 0x09 [(64, 24)] allLegal allLegal false (fun e => some (pHandle e)) [.created, .resident, .blocked, .lost]
    (fun b e _ => ctxDestroy b (pHandle e)) s

/-- CONTEXT_DESTROY_COMPLETE (R44 step 4): the heats of a context under destruction have ended. -/
def ctxDestroyDone (b : Block) (id : Nat) : Block :=
  match fmGet? b.obj.ctxs id with
  | some c =>
    if decide (c.state = .destroying) && (ctxRuns b c.handle).isEmpty then
      let b := ctxGone b c
      (b.adm.pend.filter (fun p => decide (p.kind = .ctxDestroy c.handle))).foldl (fun b p => pendEnd b p stAdminOk dtNone 0) b
    else b
  | none => b

/-- CONTEXT_DESTROY_COMPLETE. -/
def execContextDestroyComplete (ctx : Nat) (s : State) : Host.Outcome State Fault Refusal :=
  liftR (fun b => ctxDestroyDone b ctx) s

/-- CONTEXT_QUERY (R33, R104): the record's bytes are written to `DEST_ADDR`; the executor waits for the write. -/
def ctxQuery (b : Block) (e : BitVec 512) : AdminRes :=
  match ctxOf b (pHandle e) with
  | none => .fail (stBadState, dtNoObject)
  | some c =>
    if field e 128 64 % 64 ≠ 0 then .fail (stBadState, dtAlign) else .wait (.query (ctxCode c.state) (ctxBytes c)) b

/-- CONTEXT_QUERY. -/
def execContextQuery (x : AdminIn) (s : State) : Host.Outcome State Fault Refusal :=
  adminRun x 0x0A [(64, 24), (88, 1), (128, 64)] allLegal allLegal false (fun e => some (pHandle e))
    [.created, .resident, .blocked, .lost, .destroying] (fun b e _ => ctxQuery b e) s

/-! ## Partitions (R47, R48) -/

/-- The ranges that a PARTITION_CREATE entry uses. -/
def partRanges (e : BitVec 512) : List (Nat × Nat) :=
  (List.range (field e 86 2 + 1)).map (fun r => (field e (192 + 64 * r) 31, field e (224 + 64 * r) 31))

/-- The unused ranges of the entry are zero (R104). -/
def unusedRangesZero (e : BitVec 512) : Bool :=
  (List.range 4).all (fun r => decide (r ≤ field e 86 2) || decide (field e (192 + 64 * r) 64 = 0))

/-- Two ranges share a unit. -/
def rangesMeet (x y : Nat × Nat) : Bool := decide (x.1 < y.1 + y.2) && decide (y.1 < x.1 + x.2)

/-- PARTITION_CREATE (R47, R104, R467); its clusters leave `OFF` (R430, R461; log entry 30). Where several of its checks fail, the first
of this order decides: 32 partitions, ranges of values, in use or overlapping, the sum of slots (DESIGN CHOICE: the spec does not order
them). -/
def partCreate (b : Block) (e : BitVec 512) : AdminRes :=
  let id := field e 64 5
  let slots := field e 72 7
  let mask : BitVec 64 := e.extractLsb' 128 64
  let ranges := partRanges e
  if b.obj.parts.length ≥ 32 then .fail (stNoResource, dtLimit)
  else if mask = 0 || ranges.any (fun r => decide (r.2 = 0)) || decide (slots < 1) || decide (slots > 64) then
    .fail (stBadState, dtRange)
  else if fmHas b.obj.parts id || b.obj.parts.any (fun p => decide (p.2.clusters &&& mask ≠ 0)
      || p.2.ranges.any (fun r => ranges.any (rangesMeet r))) then .fail (stBadState, dtInUse)
  else if slots + (b.obj.parts.map (fun p => p.2.slots)).sum > 64 then .fail (stNoResource, dtLimit)
  else
    let p : Partition := { clusters := mask, ranges := ranges, slots := slots, portMask := field e 80 4, remoteMap := bitAt e 84 }
    let b := bktFill { b with obj := { b.obj with parts := fmSet b.obj.parts id p } } id
    let b := (maskClusters mask).foldl (fun b c => orderPower b c 2) b
    .ok (act (tableChanged (wgenUp b))) 0

/-- PARTITION_CREATE. -/
def execPartitionCreate (x : AdminIn) (s : State) : Host.Outcome State Fault Refusal :=
  adminRun x 0x10 [(64, 5), (72, 7), (80, 4), (84, 1), (86, 2), (128, 64), (192, 31), (224, 31), (256, 31), (288, 31),
      (320, 31), (352, 31), (384, 31), (416, 31)] allLegal unusedRangesZero true noCtx [] (fun b e _ => partCreate b e) s

/-- The partition is in use (R48, R60): a context, a local group, an SQ or an installed heat sheet names it. -/
def partUsed (b : Block) (p : Nat) : Bool :=
  b.obj.ctxs.any (fun x => decide (x.2.part = p)) || b.obj.groups.any (fun g => g.2.members.contains (1, p))
    || b.q.sqs.any (fun x => decide (x.2.part = p)) || (sheetOf b p).active.isSome || (sheetOf b p).staged.isSome

/-- PARTITION_DESTROY (R48); its clusters go `OFF` (R430). -/
def partDestroy (b : Block) (e : BitVec 512) : AdminRes :=
  let p := field e 64 5
  match partOf b p with
  | none => .fail (stBadState, dtNoObject)
  | some q =>
    if partUsed b p then .fail (stBadState, dtInUse)
    else
      let b := { b with obj := { b.obj with parts := fmErase b.obj.parts p } }
      .ok (act (tableChanged (wgenUp ((maskClusters q.clusters).foldl offIfLoose b)))) 0

/-- PARTITION_DESTROY. -/
def execPartitionDestroy (x : AdminIn) (s : State) : Host.Outcome State Fault Refusal :=
  adminRun x 0x11 [(64, 5)] allLegal allLegal true noCtx [] (fun b e _ => partDestroy b e) s

/-! ## Groups (R58 to R60) -/

/-- A local group is named by another group. -/
def groupNamed (b : Block) (g : Nat) : Bool := b.obj.groups.any (fun x => decide (x.1 ≠ g) && x.2.members.contains (3, g))

/-- GROUP_DEFINE up to the read of its members (R58, R60, R104). -/
def groupStart (b : Block) (e : BitVec 512) : AdminRes :=
  let g := field e 64 16
  let n := field e 80 7
  if g > 4095 ∨ n < 1 ∨ n > 64 then .fail (stBadState, dtRange)
  else if groupNamed b g then .fail (stBadState, dtInUse)
  else .wait (.members g n) b

/-- GROUP_DEFINE. -/
def execGroupDefine (x : AdminIn) (s : State) : Host.Outcome State Fault Refusal :=
  adminRun x 0x14 [(64, 16), (80, 7), (88, 1), (128, 64)] allLegal allLegal true noCtx [] (fun b e _ => groupStart b e) s

/-- The first failure of a member of a local group (R58, R104). -/
def memberCheck (b : Block) (g : Nat) (m : BitVec 32) : Option AdminErr :=
  let v := field m 0 16
  let kind := field m 16 2
  if field m 18 14 ≠ 0 then some (stBadState, dtReserved)
  else match kind with
    | 0 => if v ≥ 64 then some (stBadState, dtNoObject) else none
    | 1 => if fmHas b.obj.parts v then none else some (stBadState, dtNoObject)
    | 3 =>
      if v ≥ 0x8000 then some (stBadState, dtRange)
      else if v = g then some (stBadState, dtState)
      else if fmHas b.obj.groups v then none else some (stBadState, dtNoObject)
    | _ => some (stBadState, dtRange)

/-- The clusters that a member of a local group stands for (R58, R59). -/
def memberClusters (b : Block) (m : Nat × Nat) : List Nat :=
  match m.1 with
  | 0 => [m.2]
  | 1 => partClusters b m.2
  | 3 => ((fmGet? b.obj.groups m.2).map (fun g => g.flat)).getD []
  | _ => []

/-- The members of a local group have been read: they are checked, and the group is defined and flattened (R58, R59). -/
def groupDefine (b : Block) (g n : Nat) (l : List (BitVec 32)) : AdminRes :=
  let l := l.take n
  match l.findSome? (memberCheck b g) with
  | some err => .fail err
  | none =>
    let ms := l.map (fun m => (field m 16 2, field m 0 16))
    let grp : Group := { members := ms, flat := ascending (ms.flatMap (memberClusters b)) }
    .ok (act (wgenUp { b with obj := { b.obj with groups := fmSet b.obj.groups g grp } })) 0

/-- GROUP_DELETE (R60). -/
def groupDelete (b : Block) (e : BitVec 512) : AdminRes :=
  let g := field e 64 16
  if !fmHas b.obj.groups g then .fail (stBadState, dtNoObject)
  else if groupNamed b g then .fail (stBadState, dtInUse)
  else .ok (act (wgenUp { b with obj := { b.obj with groups := fmErase b.obj.groups g } })) 0

/-- GROUP_DELETE. -/
def execGroupDelete (x : AdminIn) (s : State) : Host.Outcome State Fault Refusal :=
  adminRun x 0x15 [(64, 16)] allLegal allLegal true noCtx [] (fun b e _ => groupDelete b e) s

/-! ## Mappings (R49 to R55) -/

/-- Size of the page that a MAP or UNMAP entry names. -/
def pageSize (big : Bool) : Nat := if big then 0x200000 else 0x10000

/-- Address of the level-1 entry of a virtual address. -/
def l1Addr (c : Ctx) (va : Nat) : Nat := c.ptRoot + 8 * (va >>> 30)

/-- Addresses of the level-2 entries that a page covers in the table at `t`. -/
def l2Addrs (t va : Nat) (big : Bool) : List Nat :=
  (List.range (if big then 32 else 1)).map (fun i => t + 8 * ((va >>> 16) % 16384 + i))

/-- A level-2 entry (R50). -/
def l2Entry (g : Nat) (writable big : Bool) : Nat := g / 0x10000 * 0x10000 + (if big then 4 else 0) + (if writable then 2 else 0) + 1

/-- MAP (R51), in the order of its checks. -/
def mapPage (b : Block) (e : BitVec 512) : AdminRes :=
  match ctxOf b (pHandle e) with
  | none => .fail (stBadState, dtNoObject)
  | some c =>
    let big := bitAt e 88
    let size := pageSize big
    let va := field e 128 48
    let g := field e 192 64
    let l2 := field e 256 64
    if va % size ≠ 0 ∨ g % size ≠ 0 then .fail (stBadState, dtAlign)
    else if va ≥ 2 ^ (30 + c.span) then .fail (stBadState, dtRange)
    else if !(if isLocal b g then inPart b c.part g size else (partOf b c.part).any (fun p => p.remoteMap)) then
      .fail (stNotOwner, dtOutside)
    else
      let e1 := rdLE b (l1Addr c va) 8
      let fresh := decide (e1 % 2 = 0)
      let t := if fresh then l2 else e1 / 0x20000 * 0x20000
      if fresh && decide (l2 = 0) then .fail (stNoResource, dtNoObject)
      else if fresh && decide (l2 % 0x20000 ≠ 0) then .fail (stBadState, dtAlign)
      else if fresh && !inPart b c.part l2 0x20000 then .fail (stNotOwner, dtOutside)
      else if (l2Addrs t va big).any (fun a => decide (rdLE b a 8 % 2 = 1)) then .fail (stBadState, dtInUse)
      else
        let b := if fresh then wrLE b (l1Addr c va) 8 (l2 + 1) else b
        .ok (act ((l2Addrs t va big).foldl (fun b a => wrLE b a 8 (l2Entry g (bitAt e 89) big)) b)) 0

/-- MAP. -/
def execMap (x : AdminIn) (s : State) : Host.Outcome State Fault Refusal :=
  adminRun x 0x18 [(64, 24), (88, 1), (89, 1), (128, 48), (192, 64), (256, 64)] allLegal allLegal false
    (fun e => some (pHandle e)) liveStates (fun b e _ => mapPage b e) s

/-- The page at a virtual address is mapped at the named size (R53): the base of its level-2 table and of the page. -/
def mappedPage (b : Block) (c : Ctx) (va : Nat) (big : Bool) : Option (Nat × Nat) :=
  if va % pageSize big ≠ 0 then none
  else match walkL2 b c va with
    | none => none
    | some e =>
      if e.testBit 2 = big then some (rdLE b (l1Addr c va) 8 / 0x20000 * 0x20000, e / pageSize big * pageSize big) else none

/-- A page cleared (R53): its level-2 entries, every cached translation of it, and its fences (R124). -/
def unmapPage (b : Block) (c : Ctx) (va : Nat) (big : Bool) : Block :=
  match mappedPage b c va big with
  | none => b
  | some (t, g) =>
    let b := (l2Addrs t va big).foldl (fun b a => wrLE b a 8 0) b
    fencePageGone (tlbDrop b c.handle va (pageSize big)) g (pageSize big)

/-- No wait of an UNMAP command is left: its fence has reached the value. -/
def gateOpen (b : Block) (no : Nat) : Bool :=
  !b.fen.waits.any (fun w => waiterOfUnmap no w.who) && !b.fen.misses.any (fun m => match m.op with
    | .wait w _ => waiterOfUnmap no w
    | _ => false)

/-- UNMAP (R53, R55, R106, R108): raw at once, superseding a gated one of the page; gated once its fence has reached the
value. The wait carries the number that the command takes if it pends. -/
def unmapStart (b : Block) (e : BitVec 512) : AdminRes :=
  match ctxOf b (pHandle e) with
  | none => .fail (stBadState, dtNoObject)
  | some c =>
    let big := bitAt e 88
    let va := field e 128 48
    let gated := gatedOf b c.handle (fun v g => decide (v = va) && g = big)
    if (mappedPage b c va big).isNone then .fail (stBadState, dtNoObject)
    else if bitAt e 89 then .ok (act (supersede (unmapPage b c va big) gated)) 0
    else if !gated.isEmpty then .fail (stBadState, dtInUse)
    else match translate b c.handle (field e 192 48) false with
      | none => .fail (stAdminFailed, dtFenceFault)
      | some g =>
        let f := BitVec.ofNat 64 g
        let v : Word := e.extractLsb' 256 64
        let no := b.adm.pendNo
        let b := finish (b, [.fence f (.wait (.unmap no) v)])
        if gateOpen b no then .ok (act (unmapPage b c va big)) 0 else .pend (.unmap c.handle va big f v) (act b)

/-- UNMAP. -/
def execUnmap (x : AdminIn) (s : State) : Host.Outcome State Fault Refusal :=
  adminRun x 0x19 [(64, 24), (88, 1), (89, 1), (128, 48), (192, 48), (256, 64)] allLegal allLegal false
    (fun e => some (pHandle e)) [.created, .resident, .blocked, .lost] (fun b e _ => unmapStart b e) s

/-- A gated UNMAP whose fence has reached the value clears the page and completes (R53). -/
def unmapOpen (b : Block) (p : Pend) : Block :=
  match p.kind with
  | .unmap h va big _ _ =>
    if gateOpen b p.no then match ctxOf b h with
      | some c => pendEnd (unmapPage b c va big) p stAdminOk dtNone 0
      | none => b
    else b
  | _ => b

/-- The gated UNMAPs of a source under a `TAG`, each by its own fence. -/
def unmapReached (b : Block) (src : Nat) (tag : BitVec 16) : Block :=
  (b.adm.pend.filter (fun p => p.src = src && p.tag = tag)).foldl unmapOpen b

/-- UNMAP_FENCE_REACHED (R53). -/
def execUnmapFenceReached (src : Nat) (tag : BitVec 16) (s : State) : Host.Outcome State Fault Refusal :=
  liftR (fun b => unmapReached b src tag) s

/-! ## Residency (R36, R108, R240) -/

/-- RESIDENCY with PRELOAD (R108). -/
def execResidencyPreload (x : AdminIn) (s : State) : Host.Outcome State Fault Refusal :=
  adminRun x 0x1C [(64, 24), (88, 2)] (fun e => decide (field e 88 2 ≠ 1)) (fun e => decide (field e 88 2 = 0)) false
    (fun e => some (pHandle e)) liveStates (fun b e _ => .ok (act (hctTouch b (field e 64 20))) 0) s

/-- RESIDENCY with RELEASE (R108): least recently used; a Resident context with no admitted work gives up its slot. -/
def residencyRelease (b : Block) (h : BitVec 24) : Block :=
  let id := field h 0 20
  let b := if b.obj.hct.contains id then
      { b with obj := { b.obj with hct := b.obj.hct.filter (fun x => decide (x ≠ id)) ++ [id] } } else b
  match ctxOf b h with
  | some c => if decide (c.state = .resident) && (ctxHeats b h).isEmpty then leaveSlot b c .created else b
  | none => b

/-- RESIDENCY with RELEASE. -/
def execResidencyRelease (x : AdminIn) (s : State) : Host.Outcome State Fault Refusal :=
  adminRun x 0x1C [(64, 24), (88, 2)] (fun e => decide (field e 88 2 = 1)) allLegal false
    (fun e => some (pHandle e)) liveStates (fun b e _ => .ok (act (residencyRelease b (pHandle e))) 0) s

/-- The context is marked as yielding until it next leaves a slot (R240). -/
def yieldMark (b : Block) (h : BitVec 24) : Block :=
  match ctxOf b h with
  | some c => putCtx b { c with yielding := true }
  | none => b

/-- YIELD_HINT (R108, R240). -/
def execYieldHint (x : AdminIn) (s : State) : Host.Outcome State Fault Refusal :=
  adminRun x 0x1D [(64, 24)] allLegal allLegal false (fun e => some (pHandle e)) liveStates
    (fun b e _ => .ok (act (yieldMark b (pHandle e))) 0) s

end Sys2Proof.Machine
end

