-- ==== Sys2Proof/Machine/Operands.lean ====
section
/-! DEFINITION. Control slots and headers of the Scehione Long Word: fields, operand forms, legality, registers, arithmetic,
local memory (R145, R149, R150, R155 to R158). -/

namespace Sys2Proof.Machine

open Sys2Proof

/-! ## Fields of a control slot (R155) -/

/-- A control slot from its opcode and its other fields. -/
def slotWord (op : BitVec 8) (f : SlotFields) : Word :=
  f.imm ++ f.func ++ BitVec.ofBool f.i ++ f.b ++ f.a ++ f.d ++ op

/-- `OP` of a control slot. -/
def slotOp (w : Word) : BitVec 8 := w.extractLsb' 0 8

/-- The other fields of a control slot. -/
def slotFields (w : Word) : SlotFields where
  d := w.extractLsb' 8 5
  a := w.extractLsb' 13 5
  b := w.extractLsb' 18 5
  i := w.getLsbD 23
  func := w.extractLsb' 24 8
  imm := w.extractLsb' 32 32

/-! ## Operand forms (R155, R156) -/

/-- How an opcode uses a register field: not at all, as a scalar register, as an address register. -/
inductive RegUse
  | unused | scalar | address
  deriving DecidableEq, Repr

/-- How an opcode uses `I`: it must be zero, it selects the second operand, or it selects the count of LOOP. -/
inductive IUse
  | zero | operand | count
  deriving DecidableEq, Repr

/-- The fields that an opcode uses; `imm` and `func` are the bits that may be set. -/
structure Form where
  d    : RegUse
  a    : RegUse
  b    : RegUse
  imm  : BitVec 32
  func : BitVec 8
  i    : IUse
  deriving DecidableEq, Repr

/-- Every bit of `IMM`. -/
def immAll : BitVec 32 := 0xFFFFFFFF#32

/-- The form of an opcode; none for a reserved one (R156). -/
def formOf (op : BitVec 8) : Option Form :=
  let n := op.toNat
  if n ≤ 0x01 then some ⟨.unused, .unused, .unused, 0, 0, .zero⟩
  else if n = 0x02 then some ⟨.unused, .unused, .unused, 0xFF, 0, .zero⟩
  else if n = 0x03 then some ⟨.scalar, .unused, .unused, 0xFF, 0, .zero⟩
  else if n < 0x10 then none
  else if n ≤ 0x1D then some ⟨.scalar, .scalar, .scalar, immAll, 0, .operand⟩
  else if n ≤ 0x1F then some ⟨.scalar, .unused, .unused, immAll, 0, .zero⟩
  else if n = 0x20 then some ⟨.address, .address, .scalar, immAll, 0, .operand⟩
  else if n = 0x21 then some ⟨.address, .scalar, .unused, 0, 0, .zero⟩
  else if n = 0x22 then some ⟨.scalar, .address, .unused, 0, 0, .zero⟩
  else if n ≤ 0x24 then some ⟨.address, .unused, .unused, immAll, 0, .zero⟩
  else if n < 0x28 then none
  else if n ≤ 0x29 then some ⟨.scalar, .address, .unused, immAll, 0, .zero⟩
  else if n ≤ 0x2B then some ⟨.unused, .address, .scalar, immAll, 0, .zero⟩
  else if n = 0x2C then some ⟨.address, .address, .unused, immAll, 0, .zero⟩
  else if n = 0x2D then some ⟨.unused, .address, .address, immAll, 0, .zero⟩
  else if n < 0x30 then none
  else if n = 0x30 then some ⟨.unused, .unused, .unused, immAll, 0, .zero⟩
  else if n ≤ 0x36 then some ⟨.unused, .scalar, .scalar, immAll, 0, .zero⟩
  else if n = 0x37 then none
  else if n = 0x38 then some ⟨.scalar, .scalar, .unused, immAll, 0, .count⟩
  else if n < 0x40 then none
  else if n ≤ 0x41 then some ⟨.unused, .address, .scalar, 0, 1, .zero⟩
  else if n = 0x42 then some ⟨.unused, .unused, .unused, 0, 0, .zero⟩
  else if n < 0x48 then none
  else if n = 0x48 then some ⟨.unused, .address, .scalar, 0, 1, .zero⟩
  else if n = 0x49 then some ⟨.unused, .address, .scalar, 0, 0, .zero⟩
  else if n = 0x4A then some ⟨.unused, .address, .unused, 0, 0, .zero⟩
  else if n = 0x4B then some ⟨.scalar, .address, .unused, 0, 0, .zero⟩
  else if n = 0x4C then some ⟨.unused, .address, .scalar, 0xFFFF, 0, .zero⟩
  else if n < 0x50 then none
  else if n = 0x50 then some ⟨.scalar, .unused, .unused, 0x0F, 0, .zero⟩
  else if n = 0x51 then some ⟨.unused, .address, .unused, immAll, 1, .zero⟩
  else none

/-- The form under the slot's own `I`: with the immediate as second operand `B` is unused, and without it `IMM` is; a LOOP
with an immediate count does not use `A`, and one with a count in `A` uses `IMM[15:0]` only (R155, R160). -/
def formWith (fm : Form) (i : Bool) : Form :=
  match fm.i, i with
  | .operand, true => { fm with b := .unused }
  | .operand, false => { fm with imm := 0 }
  | .count, true => { fm with a := .unused }
  | .count, false => { fm with imm := 0xFFFF }
  | .zero, _ => fm

/-- A register field is legal for its use (R155). -/
def regLegal (u : RegUse) (x : BitVec 5) : Bool :=
  match u with
  | .unused => x = 0
  | .scalar => true
  | .address => !x.getLsbD 4

/-- Every unused field is zero and every used one is well formed (R155). -/
def formLegal (fm : Form) (f : SlotFields) : Bool :=
  let g := formWith fm f.i
  regLegal g.d f.d && regLegal g.a f.a && regLegal g.b f.b && decide (f.imm &&& ~~~g.imm = 0) &&
    decide (f.func &&& ~~~g.func = 0) && (!f.i || decide (fm.i ≠ .zero))

/-- An opcode is a flow opcode (R154). -/
def isFlow (op : BitVec 8) : Bool :=
  decide (op = 0x01) || (decide (0x30 ≤ op.toNat) && decide (op.toNat ≤ 0x36)) || decide (op = 0x38) ||
    (decide (0x40 ≤ op.toNat) && decide (op.toNat ≤ 0x42))

/-! ## Registers (R145) -/

/-- A scalar register; `s0` reads as zero. -/
def sGet (k : CoreSt) (i : BitVec 5) : Word := if i = 0 then 0 else fmGet k.s i.toNat 0

/-- A write to a scalar register; one to `s0` is ignored. -/
def sSet (k : CoreSt) (i : BitVec 5) (v : Word) : CoreSt := if i = 0 then k else { k with s := fmSet k.s i.toNat v }

/-- An address register, named by bits [3:0] of its field; `a0` reads as zero. -/
def aGet (k : CoreSt) (i : BitVec 5) : Word := if i.toNat % 16 = 0 then 0 else fmGet k.a (i.toNat % 16) 0

/-- A write to an address register; one to `a0` is ignored. -/
def aSet (k : CoreSt) (i : BitVec 5) (v : Word) : CoreSt :=
  if i.toNat % 16 = 0 then k else { k with a := fmSet k.a (i.toNat % 16) v }

/-- The second operand `x` (R156). -/
def slotX (k : CoreSt) (f : SlotFields) : Word := if f.i then sext32 f.imm else sGet k f.b

/-! ## Arithmetic (R156) -/

/-- A Bool as a register value. -/
def flagWord (x : Bool) : Word := if x then 1 else 0

/-- The result of opcodes 0x10 to 0x1D; shifts use `x[5:0]`. -/
def aluOp (op : BitVec 8) (p x : Word) : Word :=
  let n := x.toNat % 64
  match op.toNat with
  | 0x10 => p + x
  | 0x11 => p - x
  | 0x12 => p &&& x
  | 0x13 => p ||| x
  | 0x14 => p ^^^ x
  | 0x15 => p <<< n
  | 0x16 => p >>> n
  | 0x17 => p.sshiftRight n
  | 0x18 => p * x
  | 0x19 => if p.ult x then p else x
  | 0x1A => if p.ult x then x else p
  | 0x1B => flagWord (p.ult x)
  | 0x1C => flagWord (p.slt x)
  | _ => flagWord (p == x)

/-- The condition of opcodes 0x30 to 0x36. -/
def branchTaken (op : BitVec 8) (p x : Word) : Bool :=
  match op.toNat with
  | 0x30 => true
  | 0x31 => p == x
  | 0x32 => p != x
  | 0x33 => p.ult x
  | 0x34 => !p.ult x
  | 0x35 => p.slt x
  | _ => !p.slt x

/-- The branch target: the SLW's offset plus 8 × `IMM` (R159). -/
def branchTarget (off : Nat) (imm : BitVec 32) : Int := (off : Int) + 8 * imm.toInt

/-! ## Local memory (R146, R158) -/

/-- Size of the data window. -/
def dataWindow : Nat := 0x30000

/-- The address of a local access: `aA` + `IMM` modulo 2^64. -/
def localAddr (k : CoreSt) (f : SlotFields) : Nat := (aGet k f.a + sext32 f.imm).toNat

/-- A little-endian word of the data window. -/
def localLoad (k : CoreSt) (a n : Nat) : Word := BitVec.ofNat 64 (memReadLE k.data a n)

/-- A little-endian word written to the data window. -/
def localStore (k : CoreSt) (a n : Nat) (v : Word) : CoreSt := { k with data := memWriteLE k.data a n v.toNat }

/-! ## The header of an SLW (R149, R150) -/

/-- `PRESENT_C0`, `PRESENT_C1`, `PRESENT_ENG` and `REPEAT` of a position, `DRAIN`, `END`. -/
def hC0 (h : Word) : Bool := h.getLsbD 0
def hC1 (h : Word) : Bool := h.getLsbD 1
def hEng (h : Word) (p : Nat) : Bool := h.getLsbD (2 + p)
def hRepeat (h : Word) (p : Nat) : Bool := h.getLsbD (16 + p)
def hDrain (h : Word) : Bool := h.getLsbD 48
def hEnd (h : Word) : Bool := h.getLsbD 49

/-- `PATCHk`, as a register number. -/
def hPatch (h : Word) (k : Nat) : BitVec 5 := BitVec.ofNat 5 (field h (32 + 4 * k) 4)

/-- A reserved header bit is set (R151). -/
def hReserved (h : Word) : Bool := decide (field h 30 2 ≠ 0) || decide (field h 44 4 ≠ 0) || decide (field h 50 14 ≠ 0)

/-- Engine positions present in the body, and slots to push, repeated ones included. -/
def hPresent (h : Word) : List Nat := (List.range 14).filter (hEng h)
def hCount (h : Word) : Nat := (hPresent h).length + ((List.range 14).filter (hRepeat h)).length

/-- The length of an SLW in bytes (R150). -/
def slwLen (h : Word) : Nat := 8 + 8 * (b2n (hC0 h) + b2n (hC1 h)) + 32 * (hPresent h).length

end Sys2Proof.Machine
end

