-- ==== Sys2Proof/Machine/EngSlots.lean ====
section
/-! DEFINITION. Engine slots: layout, element types, opcode roles, patching, the checks and the translation that turn a slot
into a baton (R177 to R188, R242, R349, R468). -/

namespace Sys2Proof.Machine

open Sys2Proof

/-! ## Layout (R177, R178) -/

/-- `OPCODE`, `SELECT`, descriptor `k`, `REPEAT_COUNT` and `ITD_INDEX` of a slot. -/
def gOpcode (s : BitVec 256) : Nat := field s 0 8
def gSelect (s : BitVec 256) : Nat := field s 8 24
def gDesc (s : BitVec 256) (k : Nat) : Word := s.extractLsb' (32 + 64 * k) 64
def gRepeat (s : BitVec 256) : Nat := field s 224 16
def gItd (s : BitVec 256) : Nat := field s 240 16

/-- Fields of an operand descriptor. -/
def dAddr (d : Word) : Nat := field d 0 24
def dSize (d : Word) : Nat := field d 24 16
def dStride (d : Word) : Nat := field d 40 16
def dType (d : Word) : Nat := field d 56 4
def dPatch (d : Word) : Bool := d.getLsbD 60
def dInd (d : Word) : Bool := d.getLsbD 61
def dMem (d : Word) : Bool := d.getLsbD 62

/-- The slot with a descriptor replaced. -/
def setDesc (s : BitVec 256) (k : Nat) (d : Word) : BitVec 256 :=
  let m : BitVec 256 := (0xFFFFFFFFFFFFFFFF#256) <<< (32 + 64 * k)
  (s &&& ~~~m) ||| (d.zeroExtend 256 <<< (32 + 64 * k))

/-- Bytes that a row of `n` elements occupies (R179); none for a reserved type, and for MX8 and MX4 unless `n` is a multiple
of 32. -/
def rowBytes (t n : Nat) : Option Nat :=
  match t with
  | 0x0 => some (4 * n)
  | 0x1 => some (2 * n)
  | 0x2 => some (2 * n)
  | 0x3 => some n
  | 0x4 => some n
  | 0x5 => some (4 * ((n + 3) / 4) + 4)
  | 0x6 => some (4 * ((n + 7) / 8) + 4)
  | 0x7 => if n % 32 = 0 then some (4 * ((n + 127) / 128) + n) else none
  | 0x8 => if n % 32 = 0 then some (4 * ((n + 127) / 128) + n / 2) else none
  | 0x9 => some n
  | 0xA => some (4 * n)
  | 0xB => some (8 * n)
  | 0xC => some (2 * n)
  | _ => none

/-- Float types, the types that accumulate, and data types (R180). -/
def tyFloat (t : Nat) : Bool := decide (t ≤ 0x2)
def tyAcc (t : Nat) : Bool := decide (t = 0x0) || decide (t = 0xA)
def tyData (t : Nat) : Bool := decide (t ≤ 0xA)
def tyAny (t : Nat) : Bool := decide (t ≤ 0xC)

/-! ## Opcodes (R11, R181, R182) -/

/-- The class of an engine position. -/
inductive EngClass
  | g | m | v | d | l
  deriving DecidableEq, Repr

/-- Engine positions by class (R11). -/
def classOf (pos : Nat) : EngClass :=
  if pos < 4 then .g else if pos < 6 then .m else if pos < 10 then .v else if pos < 12 then .d else .l

/-- The class of a defined opcode. -/
def opClass (op : Nat) : Option EngClass :=
  if op = 0x01 || op = 0x02 then some .g
  else if op = 0x20 || op = 0x21 || op = 0x22 then some .m
  else if op = 0x40 || op = 0x41 || op = 0x42 then some .v
  else if op = 0x60 || op = 0x61 then some .d
  else if op = 0x70 || op = 0x71 || op = 0x72 then some .l
  else none

/-- The sets of types that R181 names for a role. -/
inductive TypeSet
  | any | data | float | acc | fp32
  deriving DecidableEq, Repr

/-- A type belongs to a set. -/
def typeIn (s : TypeSet) (t : Nat) : Bool :=
  match s with
  | .any => tyAny t
  | .data => tyData t
  | .float => tyFloat t
  | .acc => tyAcc t
  | .fp32 => decide (t = 0)

/-- The role of an operand: rows, types, whether it is written, and whether `MEM` and `INDIRECT` are allowed. -/
structure Role where
  rows  : Nat
  types : TypeSet
  write : Bool
  mem   : Bool := false
  ind   : Bool := false
  deriving DecidableEq, Repr

/-- The roles of the three descriptors of a slot of a defined opcode (R181, R182). -/
def roles (s : BitVec 256) : List (Option Role) :=
  let r := gRepeat s
  let size0 := dSize (gDesc s 0)
  let size2 := dSize (gDesc s 2)
  let sel := gSelect s
  match gOpcode s with
  | 0x01 => [some { rows := r, types := .data, write := false, mem := true, ind := true },
             some { rows := r, types := .data, write := true }, none]
  | 0x02 => [some { rows := r, types := .data, write := false },
             some { rows := r, types := .data, write := true, mem := true }, none]
  | 0x20 => [some { rows := r, types := .data, write := false }, some { rows := size0, types := .data, write := false },
             some { rows := r, types := .acc, write := true }]
  | 0x21 => [some { rows := r, types := .data, write := false }, some { rows := size0, types := .data, write := false },
             some { rows := r, types := .acc, write := true }]
  | 0x22 => [some { rows := r, types := .data, write := false }, some { rows := size2, types := .data, write := false },
             some { rows := r, types := .acc, write := true }]
  | 0x40 => [some { rows := r, types := .data, write := false, ind := true },
             if 0x05 ≤ sel then none else some { rows := r, types := .data, write := false, ind := true },
             some { rows := r, types := .data, write := true }]
  | 0x41 => [some { rows := r, types := .data, write := false }, none, some { rows := 1, types := .data, write := true }]
  | 0x42 => [some { rows := r, types := .data, write := false, ind := true },
             if sel = 3 then some { rows := 1, types := .fp32, write := false } else none,
             some { rows := 1, types := .data, write := true }]
  | 0x60 => [some { rows := r, types := .any, write := false, mem := true },
             some { rows := r, types := .any, write := true, mem := true }, none]
  | 0x61 => [none, some { rows := r, types := .any, write := true, mem := true }, none]
  | 0x70 => [some { rows := r, types := .any, write := false }, none, none]
  | 0x71 => [none, some { rows := r, types := .any, write := true }, none]
  | 0x72 => [some { rows := r, types := .float, write := false }, some { rows := r, types := .float, write := true }, none]
  | _ => [none, none, none]

/-- Sizes and types agree where R181 and R182 require. -/
def agrees (s : BitVec 256) : Bool :=
  let d0 := gDesc s 0
  let d1 := gDesc s 1
  let d2 := gDesc s 2
  let same := decide (dType d1 = dType d0) && decide (dSize d1 = dSize d0)
  match gOpcode s with
  | 0x01 => same
  | 0x02 => same && (decide (gSelect s = 0) || tyFloat (dType d0))
  | 0x22 => decide (dSize d1 = dSize d0)
  | 0x41 => decide (dSize d2 = dSize d0)
  | 0x42 => decide (dSize d2 = dSize d0) && (decide (gSelect s ≠ 3) || decide (dSize d1 = gRepeat s))
  | 0x60 => same
  | _ => true

/-- `PEER_CHIP` of an L slot. -/
def gPeer (s : BitVec 256) : Nat := field s 8 12

/-- `SELECT` is legal, and `PEER_CHIP` another chip of the plan (R182, check 3 of R185). -/
def selectOk (b : Block) (s : BitVec 256) : Bool :=
  let sel := gSelect s
  let peer := decide (gPeer s ≠ chipNo b) && (planChip b (gPeer s)).isSome
  match gOpcode s with
  | 0x02 => decide (sel ≤ 1)
  | 0x40 => decide (sel ≤ 0x0A)
  | 0x41 => decide (sel ≤ 2)
  | 0x42 => decide (sel ≤ 3)
  | 0x70 => peer
  | 0x71 => peer && decide (field s 20 6 = 0)
  | 0x72 => peer && decide (field s 20 6 = 0)
  | _ => decide (sel = 0)

/-! ## Patching (R183) -/

/-- The three patch values of an SLW. -/
abbrev Patch := Word × Word × Word

/-- The patch value of descriptor `k`. -/
def patchOf (p : Patch) (k : Nat) : Word := if k = 0 then p.1 else if k = 1 then p.2.1 else p.2.2

/-- The address of a used descriptor after patching, over 64 bits. -/
def patched (p : Patch) (k : Nat) (d : Word) : Nat :=
  if dPatch d then (BitVec.ofNat 64 (dAddr d) + patchOf p k).toNat else dAddr d

/-- Size of the scratchpad address space. -/
def spadSize : Nat := 0x1000000

/-- The extent of an operand (R179). -/
def extent (rows stride row : Nat) : Nat := (rows - 1) * stride + row

/-! ## Index-tensor descriptors (R186) -/

/-- Index-tensor descriptor `n` in the data window. -/
def itdOf (k : CoreSt) (n : Nat) : Nat := memReadLE k.data (0x30000 - 16 * n) 16

/-- Bytes of an index element. -/
def idxSize (t : Nat) : Option Nat := if t = 0xC then some 2 else if t = 0xA then some 4 else if t = 0xB then some 8 else none

/-- The descriptor passes R186 for an operand of base `base`, stride `stride` and `row` bytes, over `rep` rows. -/
def itdOk (x rep base stride row : Nat) : Bool :=
  let addr := nfield x 0 24
  let limit := nfield x 32 32
  let first := nfield x 64 32
  match idxSize (nfield x 24 4) with
  | none => false
  | some e =>
    decide (nfield x 28 4 = 0) && decide (nfield x 96 32 = 0) && decide (addr % 4 = 0) && decide (1 ≤ limit) &&
      decide (addr + (first + rep) * e ≤ spadSize) && decide (base + stride * (limit - 1) + row ≤ spadSize)

/-! ## The checks (R185) -/

/-- Checks 6, 8, 9 and 10 of one used descriptor. -/
def descOk (p : Patch) (k : Nat) (d : Word) (r : Role) : Bool :=
  match rowBytes (dType d) (dSize d) with
  | none => false
  | some row =>
    let a := patched p k d
    typeIn r.types (dType d) && decide (dSize d ≠ 0) && !d.getLsbD 63 && (!dMem d || r.mem) && (!dInd d || r.ind) &&
      !(dMem d && dInd d) && decide (dStride d % 4 = 0) &&
      (dMem d || (decide (a % 4 = 0) && decide (a < spadSize) && decide (a + extent r.rows (dStride d) row ≤ spadSize))) &&
      (!r.write || decide (r.rows ≤ 1) || decide (dStride d ≥ row))

/-- Check 11 of one descriptor. -/
def indOk (k : CoreSt) (s : BitVec 256) (p : Patch) (i : Nat) : Bool :=
  let d := gDesc s i
  !dInd d || itdOk (itdOf k (gItd s)) (gRepeat s) (patched p i d) (dStride d) ((rowBytes (dType d) (dSize d)).getD 0)

/-- Checks 2 to 11 of R185, on the patched values. -/
def slotOk (b : Block) (k : CoreSt) (pos : Nat) (s : BitVec 256) (p : Patch) : Bool :=
  let rs := roles s
  let ks := [0, 1, 2]
  decide (opClass (gOpcode s) = some (classOf pos)) && selectOk b s && decide (gRepeat s ≠ 0) &&
    ks.all (fun i => match rs.getD i none with
      | none => decide (gDesc s i = 0)
      | some r => descOk p i (gDesc s i) r) &&
    agrees s && decide ((ks.filter (fun i => dMem (gDesc s i))).length ≤ 1) &&
    (decide (gItd s ≠ 0) == ks.any (fun i => dInd (gDesc s i))) && decide (gItd s ≤ 4095) && ks.all (indOk k s p)

/-- The memory operand of a slot: descriptor, its role, virtual address and extent (R184). -/
def memOperand (s : BitVec 256) (p : Patch) : Option (Nat × Role × Nat × Nat) :=
  ([0, 1, 2].filterMap (fun i =>
    let d := gDesc s i
    match (roles s).getD i none with
    | none => none
    | some r =>
      if dMem d then some (i, r, patched p i d, extent r.rows (dStride d) ((rowBytes (dType d) (dSize d)).getD 0))
      else none)).head?

/-! ## Translation (R56, R184, check 12 of R185) -/

/-- A page of the translation cache that holds an address. -/
def tlbPage (b : Block) (h : BitVec 24) (va : Nat) : Option TlbEnt :=
  b.obj.tlb.find? (fun t => t.ctx = h && decide (t.vbase ≤ va) && decide (va < t.vbase + t.size))

/-- What the translation of a memory operand comes to. -/
inductive MemRes
  | walk (va : Nat)
  | tooMany
  | fault
  | one (g : Nat)
  | two (ga gb split : Nat)
  deriving DecidableEq, Repr

/-- The pages of a memory operand. Two pages of the largest size bound the extent before any walk. -/
def memPages (b : Block) (h : BitVec 24) (va ext : Nat) (write : Bool) : MemRes :=
  if va % 0x200000 + ext > 0x400000 then .tooMany
  else match tlbPage b h va with
    | none => .walk va
    | some t =>
      let ga := t.gbase + (va - t.vbase)
      let split := t.vbase + t.size - va
      if ext ≤ split then (if write && !t.writable then .fault else .one ga)
      else match tlbPage b h (va + split) with
        | none => .walk (va + split)
        | some u =>
          if va + ext > u.vbase + u.size then .tooMany
          else if write && !(t.writable && u.writable) then .fault
          else .two ga (u.gbase + (va + split - u.vbase)) split

/-! ## Charges and redirection (R242, R349) -/

/-- A charge added to a list with one entry for each bucket. -/
def chargeAdd (l : List (Nat × Nat)) (k n : Nat) : List (Nat × Nat) :=
  if l.any (fun x => x.1 = k) then l.map (fun x => if x.1 = k then (k, x.2 + n) else x) else l ++ [(k, n)]

/-- The bucket of a part of a memory operand: its stack's, or the link's of the first hop. -/
def partBucket (b : Block) (g : Nat) : Nat :=
  if isLocal b g then stackBucket b g else 4 + (nextPort b (gchip g)).getD 0

/-- The charges of a memory operand: its pages' stacks, and the link of each other chip, which the whole remote extent is charged to
where both pages lie there. -/
def memCharge (b : Block) (m : MemRes) (ext : Nat) : List (Nat × Nat) :=
  match m with
  | .one g => [(partBucket b g, chargeBytes ext)]
  | .two ga gb split =>
    if !isLocal b ga && !isLocal b gb && decide (partBucket b ga = partBucket b gb) then [(partBucket b ga, chargeBytes ext)]
    else chargeAdd [(partBucket b ga, chargeBytes split)] (partBucket b gb) (chargeBytes (ext - split))
  | _ => []

/-- A written memory operand of a shadow or capture run goes into the sink (R349, R355). -/
def redirect (b : Block) (r : Run) (part : Nat) (write : Bool) (m : MemRes) : MemRes :=
  let sink := shadowSink b part
  if write && (decide (r.kind = .shadow) || decide (r.kind = .capture)) then
    match m with
    | .one g => .one (sink + g % 0x200000)
    | .two ga gb split => .two (sink + ga % 0x200000) (sink + 0x200000 + gb % 0x200000) split
    | x => x
  else m

/-- Every chip of a memory operand has a route (R468). -/
def memRouted (b : Block) (m : MemRes) : Bool :=
  match m with
  | .one g => routed b (gchip g)
  | .two ga gb _ => routed b (gchip ga) && routed b (gchip gb)
  | _ => true

/-! ## From slot to baton (R188) -/

/-- The slot as the baton carries it: final scratchpad addresses, and `ADDR` 0, `PATCH` 0 for a memory operand. -/
def batonSlot (s : BitVec 256) (p : Patch) : BitVec 256 :=
  [0, 1, 2].foldl (fun x i =>
    let d := gDesc s i
    if ((roles s).getD i none).isNone then x
    else
      let hi := d &&& ~~~(0xFFFFFF#64)
      if dMem d then setDesc x i (hi &&& ~~~(1#64 <<< 60))
      else setDesc x i (hi ||| BitVec.ofNat 64 (patched p i d))) s

/-- What becomes of a slot that has passed checks 1 to 11. -/
inductive EngRes
  | skip
  | walk (va : Nat)
  | pageFault
  | peerFault
  | push (e : PushEnt)
  deriving DecidableEq, Repr

/-- The entry for the push queue, its sequence number still to be given. -/
def pushEnt (k : CoreSt) (pos : Nat) (s : BitVec 256) (p : Patch) (m : MemRes) (charge : List (Nat × Nat)) : PushEnt :=
  let x := if gItd s = 0 then 0 else itdOf k (gItd s)
  let g := match m with
    | .one g => (g, 0, 0)
    | .two a c split => (a, c, split)
    | _ => (0, 0, 0)
  { pos := pos, slot := batonSlot s p, gA := BitVec.ofNat 64 g.1, gB := BitVec.ofNat 64 g.2.1, split := g.2.2,
    idxAddr := nfield x 0 24, idxType := nfield x 24 4, idxLimit := nfield x 32 32, idxFirst := nfield x 64 32,
    charge := charge, num := 0 }

/-- A slot at a present position: checks 2 to 12, translation and charges (R184, R185, R242, R468). `part` is the
partition of the heat's context. -/
def engineSlot (b : Block) (k : CoreSt) (r : Run) (part pos : Nat) (s : BitVec 256) (p : Patch) : EngRes :=
  if !slotOk b k pos s p then .skip
  else match memOperand s p with
    | none =>
      if isL pos then
        if routed b (gPeer s) then
          let row := (rowBytes (dType (gDesc s 0)) (dSize (gDesc s 0))).getD 0
          let c := if gOpcode s = 0x70 then
              [(4 + (nextPort b (gPeer s)).getD 0, chargeBytes (extent (gRepeat s) (dStride (gDesc s 0)) row))] else []
          .push (pushEnt k pos s p .fault c)
        else .peerFault
      else .push (pushEnt k pos s p .fault [])
    | some (_, role, va, ext) =>
      match memPages b r.ctx va ext role.write with
      | .walk v => .walk v
      | .tooMany => .skip
      | .fault => .pageFault
      | m =>
        let m := redirect b r part role.write m
        if memRouted b m then .push (pushEnt k pos s p m (memCharge b m ext)) else .peerFault

end Sys2Proof.Machine
end

