-- ==== Sys2Proof/Machine/Cores.lean ====
section
/-! DEFINITION. The control cores: skip records, fetching streams, the steps of an SLW, the effect of each control slot, flow
and loops (R145 to R176). -/

namespace Sys2Proof.Machine

open Sys2Proof

/-! ## Skip records (R172 to R174) -/

/-- The partition of the heat that a run serves. -/
def heatPart (b : Block) (r : Run) : Nat :=
  match itemOf b r.tag with
  | some i => i.part
  | none => r.part

/-- One skip record in the ring (R174). -/
def skipWrite (b : Block) (c : Nat) (r : Run) (reason slot op off sva detail : Nat) : Block :=
  if dget b 0x8020 1 = 0 then b
  else
    let seq := b.skipSeq
    let bs := leBytes 48 (packFields [(0, 8, reason), (8, 5, slot), (16, 6, c), (24, 8, op), (32, 24, r.ctx.toNat),
      (56, 5, heatPart b r), (64, 32, off), (96, 32, seq), (128, 64, stamp b), (192, 64, detail), (256, 17, r.tag),
      (288, 32, frameLo b), (320, 48, sva)])
    ringPut { b with skipSeq := (seq + 1) % 2 ^ 32 } (dget b 0x8020 1) (dget b 0x8020 2) 48 seq (stamp b) bs

/-- A skip on core `c` of run `n`: counted, marked on the run (R171), and recorded if it is among the first eight. -/
def skipAt (b : Block) (c n : Nat) (reason slot op off sva detail : Nat) : Block :=
  match runOf b n with
  | none => b
  | some r =>
    let k := coreOf b c
    let b := cnt (putRun (putCore b c { k with skips := k.skips + 1 }) n { r with skips := true }) cSkip
    if k.skips < 8 then skipWrite b c r reason slot op off sva detail else cnt b cSkipSuppressed

/-! ## Streams and the program window (R75, R148, R162) -/

/-- The stream of the current call level. -/
def curStream (k : CoreSt) : Stream :=
  match k.levels with
  | l :: _ => l.stream
  | [] => { frags := [], len := 0, table := none }

/-- The fragment that holds a stream offset. -/
def fragAt (st : Stream) (off : Nat) : Option Frag :=
  st.frags.find? (fun f => decide (f.start ≤ off) && decide (off < f.start + f.len))

/-- The virtual address that a skip record names: the current fragment's start. -/
def streamVa (k : CoreSt) (off : Nat) : Nat :=
  match fragAt (curStream k) off with
  | some f => f.va
  | none => match (curStream k).frags.head? with
    | some f => f.va
    | none => 0

/-- Bytes of a line of the program window (log entry 24). -/
def lineBytes : Nat := 64

/-- A cached word of a program. -/
def cachedWord (k : CoreSt) (ctx : BitVec 24) (host : Bool) (va : Nat) : Option Word :=
  match k.lines.find? (fun l => l.ctx = ctx && l.host = host && decide (l.va ≤ va) && decide (va < l.va + lineBytes)) with
  | some l => some (l.words.getD ((va - l.va) / 8) 0)
  | none => none

/-- `n` cached words from an address, or the address of the first that is not cached. -/
def cachedWords (k : CoreSt) (ctx : BitVec 24) (host : Bool) : Nat → Nat → Except Nat (List Word)
  | _, 0 => .ok []
  | va, n + 1 => match cachedWord k ctx host va with
    | none => .error va
    | some w => match cachedWords k ctx host (va + 8) n with
      | .ok ws => .ok (w :: ws)
      | .error e => .error e

/-- A line joins the program window, whose 64 KiB hold 1,024 (log entry 24). -/
def lineAdd (k : CoreSt) (l : Line) : CoreSt := { k with lines := (l :: k.lines).take 1024 }

/-! ## Holds -/

/-- A core holds from now. -/
def holdAt (b : Block) (c : Nat) (h : Hold) : Block :=
  putCore b c { coreOf b c with hold := h, holdFrom := b.tide.clock, waitBy := b.tide.clock + dget b 0x6000 2 * 1000 }

/-- A hold ends with nothing brought back: the core goes on where it stood (R436 counts the time). -/
def unhold (b : Block) (c : Nat) : Block :=
  putCore b c (holdClosed (coreOf b c) b.tide.clock)

/-- A heat ends with ABORT_PAGE_FAULT and its context is Lost (R57). -/
def pageFault (b : Block) (n : Nat) (r : Run) : Act := (b, [.abort n stPageFault, .lose r.ctx stPageFault])

/-- A heat ends at once with ABORT_PEER_FAULT, and propagation is raised (R468). -/
def peerFault (b : Block) (n : Nat) (r : Run) : Act :=
  (b, [.kill n stPeerFault, .propagate (heatPart b r) (remoteDeps b n)])

/-- The SLW under way is given up, for a heat that ends. -/
def dropSlw (b : Block) (c : Nat) : Block := putCore b c { coreOf b c with slw := none }

/-- The parts of `len` bytes from an address that lie in one 64 KiB page each: address and length. -/
def pageParts (va len : Nat) : List (Nat × Nat) :=
  (List.range ((va + len - 1) / 0x10000 + 1 - va / 0x10000)).map (fun i =>
    let page := (va / 0x10000 + i) * 0x10000
    (max va page, min (va + len) (page + 0x10000) - max va page))

/-- What a read of `len` bytes by Scehione charges for a run: the host port, or the stack of each page (R242); none where a page does
not translate. -/
def runCharge (b : Block) (r : Run) (host : Bool) (va len : Nat) : Option (List (Nat × Nat)) :=
  if host then (ctxOf b r.ctx).map (fun x => [(10 + x.ownerPort % 4, chargeBytes len)])
  else (pageParts va len).foldl (fun o x => match o, translateOwn b r.ctx x.1 false with
    | some l, some g => some (chargeAdd l (stackBucket b g) (chargeBytes x.2))
    | _, _ => none) (some [])

/-- Scehione's own read of `len` bytes at a device virtual address of a run, or at a host address: the core holds for the walk of
each page, the buckets or the read; a page fault ends the heat (R56, R75, R242, R468). -/
def fetchHold (b : Block) (c n : Nat) (r : Run) (host : Bool) (va len : Nat) (mk : Bool → Hold) : Act :=
  match if host then none else (pageParts va len).find? (fun x => !tlbHit b r.ctx x.1) with
  | some x => act (holdAt b c (.walk x.1 false))
  | none => match runCharge b r host va len with
    | some charge =>
      if bktPassAll b r.part true charge then act (holdAt (bktTakeAll b r.part charge) c (mk true))
      else act (cnt (holdAt b c (mk false)) cBwHold)
    | none => if host then act b else pageFault b n r

/-! ## Ending a stream, flow and loops (R152 step 5, R159 to R162) -/

/-- The call level: 1 for the entry's program. -/
def levelOf (k : CoreSt) : Nat := k.levels.length

/-- The loops of the current call level popped. -/
def popLevelLoops (k : CoreSt) : List LoopRec := k.loops.filter (fun l => decide (l.level ≠ levelOf k))

/-- An iteration number written to the loop's register (R160). -/
def loopIter (k : CoreSt) (l : LoopRec) : CoreSt := sSet k (BitVec.ofNat 5 l.reg) (BitVec.ofNat 64 l.iter)

/-- The core goes on at `nxt`: ends of loop bodies and of streams are taken first (R160, R162). -/
def settleAt : Nat → CoreSt → Nat → CoreSt
  | 0, k, nxt => { k with off := nxt }
  | fuel + 1, k, nxt =>
    match k.loops with
    | l :: ls =>
      if l.level = levelOf k && l.last = nxt then
        if l.count - 1 > 0 then
          let l := { l with count := l.count - 1, iter := l.iter + 1 }
          { loopIter { k with loops := l :: ls } l with off := l.first }
        else settleAt fuel { k with loops := ls } nxt
      else settleEnd fuel k nxt
    | [] => settleEnd fuel k nxt
where
  /-- The end of a stream at a called level is a return; at the entry's level the stream ends. -/
  settleEnd (fuel : Nat) (k : CoreSt) (nxt : Nat) : CoreSt :=
    if (curStream k).table.isNone && decide (nxt ≥ (curStream k).len) then
      match k.levels with
      | l :: m :: ms => settleAt fuel { k with loops := popLevelLoops k, levels := m :: ms } l.ret
      | _ => { k with off := nxt, ended := true, loops := [] }
    else { k with off := nxt }

/-- Enough for four loops and nine streams that end together. -/
def settleFuel : Nat := 16

/-- The stream ends at every level. -/
def endAll (k : CoreSt) : CoreSt :=
  { k with ended := true, loops := [], levels := k.levels.drop (k.levels.length - 1) }

/-- A stream named by ARM or CALL. -/
def namedStream (va len : Nat) : Stream :=
  { frags := [{ start := 0, va := va, len := len, host := false }], len := len, table := none }

/-- A change of flow takes effect after an SLW that is followed at `nxt` (R152 step 5). -/
def flowTo (k : CoreSt) (f : Flow) (nxt : Nat) : CoreSt :=
  match f with
  | .seq => settleAt settleFuel k nxt
  | .stop => endAll k
  | .goto t =>
    settleAt settleFuel { k with loops := k.loops.filter (fun l => decide (l.level ≠ levelOf k) ||
      (decide (l.first ≤ t) && decide (t ≤ l.last))) } t
  | .loop skip first last count reg =>
    if skip then settleAt settleFuel k last
    else
      let l : LoopRec := { first := first, last := last, count := count, reg := reg, iter := 0, level := levelOf k }
      settleAt settleFuel (loopIter { k with loops := l :: k.loops } l) first
  | .arm va len =>
    settleAt settleFuel { k with loops := popLevelLoops k,
                                 levels := match k.levels with
                                   | l :: ls => { l with stream := namedStream va len } :: ls
                                   | [] => [] } 0
  | .call va len => settleAt settleFuel { k with levels := { stream := namedStream va len, ret := nxt } :: k.levels } 0
  | .ret => match k.levels with
    | l :: m :: ms => settleAt settleFuel { k with loops := popLevelLoops k, levels := m :: ms } l.ret
    | _ => k

/-- The SLW ran past the end of the body of a loop in which it started (R161). -/
def crosses (k : CoreSt) (off nxt : Nat) (l : LoopRec) : Bool :=
  l.level = levelOf k && decide (l.first ≤ off) && decide (off < l.last) && decide (l.last < nxt)

/-- Each such loop leaves a skip record and is popped (R161). -/
def crossLoops (b : Block) (c n off nxt : Nat) (hdr : Word) : Block :=
  let k := coreOf b c
  let gone := k.loops.filter (crosses k off nxt)
  let b := gone.foldl (fun b _ => skipAt b c n skLoopBodyEnd 0x1F 0 off (streamVa k off) hdr.toNat) b
  let k := coreOf b c
  putCore b c { k with loops := k.loops.filter (fun l => !crosses k off nxt l) }

/-- Step 5 of R152. -/
def slwFlow (b : Block) (c n : Nat) (w : Slw) : Act :=
  let nxt := w.off + w.len
  let b := crossLoops b c n w.off nxt w.hdr
  let k := { coreOf b c with slw := none, syncCall := w.sync }
  act (putCore b c (if hEnd w.hdr then endAll k else flowTo k w.flow nxt))

/-! ## Engine slots of an SLW (R150, R152 step 4, R153, R172, R346) -/

/-- A skipped or absent slot enters the digest with status "absent" (R346). -/
def digestAbsent (r : Run) (c pos : Nat) (slot : BitVec 256) : Run :=
  let q := digestSeq r (rankOf r c) pos false
  digestResult (digestSlot r c pos false (leBytes 32 slot.toNat ++ leBytes 4 q)) c pos false q 4 0

/-- An engine slot is skipped. -/
def engSkip (b : Block) (c n : Nat) (w : Slw) (reason pos : Nat) (slot : BitVec 256) : Block :=
  let b := match runOf b n with
    | some r => putRun b n (digestAbsent r c pos slot)
    | none => b
  skipAt b c n reason (2 + pos) (gOpcode slot) w.off (streamVa (coreOf b c) w.off) (field slot 0 64)

/-- A patched slot joins the push queue, and the copy that REPEAT uses is replaced (R150). An L baton keeps the heat from
replay, and gives up its sample (R349, R352). -/
def engPush (b : Block) (c n : Nat) (pos : Nat) (slot : BitVec 256) (e : PushEnt) : Act :=
  match runOf b n with
  | none => act b
  | some r =>
    let q := digestSeq r (rankOf r c) pos false
    let r := digestSlot r c pos false (leBytes 32 e.slot.toNat ++ leBytes 4 q)
    let b := putRun b n { r with remote := r.remote || isL pos }
    let k := coreOf b c
    (putCore b c { k with pushQ := k.pushQ ++ [{ e with num := q }], lastSlot := fmSet k.lastSlot pos slot, pushed := k.pushed + 1 },
     if isL pos then (match sampleOf b n with
       | some (p, _) => [.settle p]
       | none => []) else [])

/-- What one position's slot comes to: done, held for a walk, or the heat ends. -/
inductive EngStep
  | next (a : Act)
  | hold (a : Act)
  | dead (a : Act)

/-- One slot of the SLW at a position (R172): absence is checked before the REPEAT checks. -/
def engOne (b : Block) (c n : Nat) (w : Slw) (pos : Nat) : EngStep :=
  match runOf b n with
  | none => .next (act b)
  | some r =>
    let k := coreOf b c
    let here := (w.eng.find? (fun x => x.1 = pos)).map Prod.snd
    let rep := hRepeat w.hdr pos
    let kept := fmGet? k.lastSlot pos
    let shown := (here.orElse (fun _ => kept)).getD 0
    if here.isNone && !rep then .next (act b)
    else if !present b c pos then
      let b := engSkip b c n w skAbsentEngine pos shown
      .next (act (if here.isSome && rep then engSkip b c n w skAbsentEngine pos shown else b))
    else if here.isSome && rep then
      .next (act (engSkip (engSkip b c n w skRepeatConflict pos shown) c n w skRepeatConflict pos shown))
    else match here.orElse (fun _ => kept) with
      | none => .next (act (engSkip b c n w skRepeatNoPrevious pos 0))
      | some slot =>
        let p : Patch := (aGet k (hPatch w.hdr 0), aGet k (hPatch w.hdr 1), aGet k (hPatch w.hdr 2))
        match engineSlot b k r (heatPart b r) pos slot p with
        | .skip => .next (act (engSkip b c n w skEngineSlot pos slot))
        | .walk va => .hold (act (holdAt b c (.walk va false)))
        | .pageFault => .dead (pageFault b n r)
        | .peerFault => .dead (peerFault b n r)
        | .push e => .next (engPush b c n pos slot e)

/-- The slots at the positions of a list, in order. -/
def engRun (c n : Nat) (w : Slw) : List Nat → Act → Act
  | [], a => andThen a (fun b => slwFlow b c n w)
  | p :: ps, a =>
    match engOne a.1 c n w p with
    | .next x => engRun c n w ps (x.1, a.2 ++ x.2)
    | .hold x => (putCore x.1 c { coreOf x.1 c with slw := some { w with stage := .engines, engAt := p } }, a.2 ++ x.2)
    | .dead x => (dropSlw x.1 c, a.2 ++ x.2)

/-- The positions from `p` on. -/
def posFrom (p : Nat) : List Nat := (List.range 14).filter (fun x => decide (p ≤ x))

/-- Step 4 of R152: it starts only when the push queue has room for every slot (R153). -/
def slwEngines (b : Block) (c n : Nat) (w : Slw) : Act :=
  let w := { w with stage := .engines, value := none }
  if w.engAt = 0 && decide (0 < hCount w.hdr) && decide ((coreOf b c).pushQ.length + hCount w.hdr > 32) then
    act (holdAt (putCore b c { coreOf b c with slw := some w }) c .pushQueue)
  else engRun c n w (posFrom w.engAt) (act b)

/-! ## Control slots (R154 to R168) -/

/-- What a control slot comes to. -/
inductive CtrlRes
  /-- The core changed. -/
  | core (k : CoreSt)
  /-- Skipped for a reason of R173. -/
  | skip (reason : Nat)
  /-- A change of flow for step 5. -/
  | flow (f : Flow)
  /-- The block changed. -/
  | blk (a : Act)
  /-- The block changed, and the SLW holds at this slot. -/
  | hold (a : Act)
  /-- The heat ends, and the SLW is given up. -/
  | dead (a : Act)

/-- The sample of a run is abandoned when it executes a slot that R349 names. -/
def unsample (b : Block) (n : Nat) : List Task :=
  match sampleOf b n with
  | some (p, _) => [.settle p]
  | none => []

/-- The effects of a slot that R349 names apply to a heat's own runs only: a shadow, third or capture run gives up its
sample instead, and ends at its next boundary. -/
def ownRun (b : Block) (c n : Nat) (r : Run) (x : CtrlRes) : CtrlRes :=
  if isHeatRun r then
    match x with
    | .core k => .blk (putCore b c k, unsample b n)
    | .blk (b, ts) => .blk (b, ts ++ unsample b n)
    | .hold (b, ts) => .hold (b, ts ++ unsample b n)
    | y => y
  else .blk (b, unsample b n)

/-- The value of an INFO selector (R157). -/
def infoValue (b : Block) (c : Nat) (r : Run) (sel : Nat) : Option Word :=
  let e := match itemOf b r.tag with
    | some i => i.entry
    | none => 0
  let chunk := r.chunk.getD (0, 0, 0)
  let v : Option Nat := match sel with
    | 0x00 => some c
    | 0x01 => some (rankOf r c)
    | 0x02 => some r.clusters.length
    | 0x03 => some (heatPart b r)
    | 0x04 => some r.ctx.toNat
    | 0x05 => some (b2n (!eLc e))
    | 0x06 => some (eTag e).toNat
    | 0x07 => some (r.frame % 2 ^ 48)
    | 0x08 => some b.tide.time
    | 0x09 => some (chipNo b)
    | 0x0A => some (if eLc e then eRes e else 0)
    | 0x0B => some chunk.1
    | 0x0C => some chunk.2.1
    | 0x0D => some chunk.2.2
    | _ => none
  v.map (BitVec.ofNat 64)

/-- A local access of `n` bytes is aligned and in the data window, or skipped (R158). -/
def localAccess (k : CoreSt) (f : SlotFields) (n : Nat) (go : Nat → CoreSt) : CtrlRes :=
  let a := localAddr k f
  if a % n ≠ 0 then .skip skAlignment
  else if a + n > dataWindow then .skip skLocalRange
  else .core (go a)

/-- The fence address that a slot names, translated (R120, R163); `own` says that another chip's is allowed only with a
route. -/
def fenceSlot (b : Block) (c n : Nat) (r : Run) (va : Nat) (write routes : Bool) (go : Word → CtrlRes) : CtrlRes :=
  if va % 8 ≠ 0 then .skip skAlignment
  else if !tlbHit b r.ctx va then .hold (act (holdAt b c (.walk va write)))
  else match translate b r.ctx va write with
    | none => .dead (pageFault b n r)
    | some g => if routes && !routed b (gchip g) then .dead (peerFault b n r) else go (BitVec.ofNat 64 g)

/-- A cached fence that no read delays. -/
def fenceNow (b : Block) (g : Word) : Option Word :=
  if isLocal b g.toNat && !b.fen.misses.any (fun m => m.addr = g) then (fenceEnt b g).map (fun e => e.value) else none

/-- FWAIT (R163): reached, or held until the fence releases it. -/
def fwait (b : Block) (c n : Nat) (r : Run) (va : Nat) (v : Word) (credit : Bool) : CtrlRes :=
  fenceSlot b c n r va false true (fun g =>
    let go : CtrlRes :=
      match fenceNow b g with
      | some cur =>
        if reached cur v then .core (coreOf b c)
        else .hold (holdAt b c (.localFence g v credit), [.fence g (.wait (.core c credit) v)])
      | none =>
        let h : Hold :=
          if !isLocal b g.toNat then .remoteFence g v (b.tide.clock + dget b 0x2030 1 * 1000) credit
          else if (fenceEnt b g).isNone && !fenceRoom b g then .pinned g v credit
          else .localFence g v credit
        .hold (holdAt b c h, [.fence g (.wait (.core c credit) v)])
    if credit then ownRun b c n r go else go)

/-- FREAD (R163): the value now, or a hold until it arrives. A read of another chip's fence waits for that chip as an FWAIT does, and
carries the deadline of R134 (DEDUCED; log entry 20). -/
def fread (b : Block) (c n : Nat) (r : Run) (va : Nat) (d : BitVec 5) : CtrlRes :=
  fenceSlot b c n r va false true (fun g =>
    ownRun b c n r (match fenceNow b g with
      | some cur => .core (sSet (coreOf b c) d cur)
      | none =>
        let h : Hold := if isLocal b g.toNat then .fenceRead g else .remoteRead g (b.tide.clock + dget b 0x2030 1 * 1000)
        .hold (holdAt b c h, [.fence g (.read c)])))

/-- A signal held behind the core's earlier batons (R117). Its fences are kept by virtual address: each is translated anew when the
signal is applied (R120). -/
def signalHeld (b : Block) (c : Nat) (gs : List (Nat × Option Nat)) (v : Word) : CoreSt :=
  let k := coreOf b c
  { k with held := k.held ++ [{ fences := gs, value := v, after := k.pushed, calls := k.calls }] }

/-- FSIGNAL (R164). -/
def fsignal (b : Block) (c n : Nat) (r : Run) (va : Nat) (v : Word) : CtrlRes :=
  fenceSlot b c n r va true true (fun _ => ownRun b c n r (.core (signalHeld b c [(va, none)] v)))

/-- The members of a local group are checked in order: the first whose address needs a walk, faults or has no route decides otherwise
than `go`. -/
def gsendCheck (b : Block) (c n : Nat) (r : Run) : List Nat → CtrlRes → CtrlRes
  | [], go => go
  | va :: vas, go => fenceSlot b c n r va true true (fun _ => gsendCheck b c n r vas go)

/-- GSEND (R61, R164). -/
def gsend (b : Block) (c n : Nat) (r : Run) (va : Nat) (v : Word) (id : Nat) : CtrlRes :=
  let send (gs : List (Nat × Option Nat)) : CtrlRes := ownRun b c n r (.core (signalHeld b c gs v))
  if va % 8 ≠ 0 then .skip skAlignment
  else if id < 0x8000 then
    match fmGet? b.obj.groups id with
    | none => .skip skGroupScope
    | some g =>
      if g.flat.all (partClusters b (heatPart b r)).contains then
        let vas := g.flat.map (fun m => (va + 8 * m) % 2 ^ 64)
        gsendCheck b c n r vas (send (vas.map (fun a => (a, none))))
      else .skip skGroupScope
  else match b.fab.plan.bind (fun p => fmGet? p.groups id) with
    | none => .skip skGroupScope
    | some g =>
      if g.flat.all (fun m => decide (m = chipNo b) || memberOf b m || routed b m) then
        fenceSlot b c n r va true false (fun _ =>
          if g.flat.all (routed b) then send (g.flat.map (fun m => (va, some m))) else .dead (peerFault b n r))
      else .skip skGroupScope

/-- CDECL (R136, R165). -/
def cdecl (b : Block) (c n : Nat) (r : Run) (va : Nat) : CtrlRes :=
  fenceSlot b c n r va false false (fun g =>
    let k := coreOf b c
    if k.credits.contains g then ownRun b c n r (.core k)
    else if k.credits.length ≥ 16 then .skip skCreditLimit
    else ownRun b c n r (.core { k with credits := k.credits ++ [g] }))

/-- A new expander call (R166). -/
def newCall (c n : Nat) (k : CoreSt) (w : Slw) (slotNo : Nat) (slot : Word) (va : Nat) : XCall where
  core := c
  run := n
  va := va
  slot := slot
  slotNo := slotNo
  off := w.off
  streamVa := streamVa k w.off
  phase := .accept
  issued := false
  since := 0
  blk := 0
  n := 0
  f := 0
  b := 0
  entry := 0
  dirs := []
  offs := []
  prev := 0
  bagIdx := []
  bagWt := []
  deadBags := false
  last := none
  bags := []
  vRot := 0

/-- XCALL (R166): a fifth call holds until one ends. The expander takes no call of a heat that has aborted. -/
def xcall (b : Block) (c n : Nat) (r : Run) (w : Slw) (slotNo : Nat) (slot : Word) (va : Nat) (sync : Bool) : CtrlRes :=
  let k := coreOf b c
  if va % 64 ≠ 0 then .skip skAlignment
  else if r.abort.isSome then .core k
  else if k.calls.length ≥ 4 then .hold (act (holdAt b c .calls))
  else
    let id := b.xp.nextId
    let b := { b with xp := { b.xp with nextId := id + 1, calls := fmSet b.xp.calls id (newCall c n k w slotNo slot va) } }
    .blk (act (putCore b c { k with calls := k.calls ++ [id],
                                    slw := k.slw.map (fun x => if sync then { x with sync := x.sync ++ [id] } else x) }))

/-- FDEPTH (R167): the last reported number of free entries. -/
def fdepthValue (b : Block) (c pos : Nat) : Word :=
  if present b c pos then BitVec.ofNat 64 (fmGet (portOf b c).free pos 64) else 0x8000000000000000#64

/-- LOOP (R160, R161): the loop's body begins after the SLW. -/
def loopSlot (k : CoreSt) (w : Slw) (f : SlotFields) : CtrlRes :=
  let body := field f.imm 0 16
  let count := if f.i then field f.imm 16 16 else field (sGet k f.a) 0 32
  if body = 0 then .skip skReservedField
  else if k.loops.length ≥ 4 then .skip skLoopDepth
  else .flow (.loop (decide (count = 0)) (w.off + w.len) (w.off + w.len + 8 * body) count f.d.toNat)

/-- ARM and CALL (R148, R162). -/
def armSlot (b : Block) (c : Nat) (r : Run) (k : CoreSt) (f : SlotFields) (isCall : Bool) : CtrlRes :=
  let va := (aGet k f.a).toNat
  let len := (sGet k f.b).toNat
  if va % 8 ≠ 0 then .skip skAlignment
  else if len = 0 || decide (len % 8 ≠ 0) || decide (len ≥ 2 ^ 32) then .skip skReservedField
  else if isCall && decide (k.levels.length ≥ 9) then .skip skStreamDepth
  else
    let fresh := f.func.getLsbD 0
    let keep (l : Line) : Bool := !(l.ctx = r.ctx && !l.host && decide (l.va < va + len) && decide (va < l.va + lineBytes))
    let k' := if fresh then { k with lines := k.lines.filter keep } else k
    let fl := if isCall then Flow.call va len else Flow.arm va len
    .blk (act (putCore b c { k' with slw := k'.slw.map (fun x => { x with flow := fl }) }))

/-- A legal control slot takes effect (R156). `back` is what a hold at this slot brought back. -/
def ctrlEffect (b : Block) (c n : Nat) (r : Run) (w : Slw) (slotNo : Nat) (slot : Word) (back : Option Word) : CtrlRes :=
  let k := coreOf b c
  let op := slotOp slot
  let f := slotFields slot
  let o := op.toNat
  let ea := (aGet k f.a).toNat
  if o = 0x00 then .core k
  else if o = 0x01 then .flow .stop
  else if o = 0x02 then .core k
  else if o = 0x03 then
    match infoValue b c r f.imm.toNat with
    | some v => .core (sSet k f.d v)
    | none => .skip skReservedField
  else if o ≤ 0x1D then .core (sSet k f.d (aluOp op (sGet k f.a) (slotX k f)))
  else if o = 0x1E then .core (sSet k f.d (sext32 f.imm))
  else if o = 0x1F then .core (sSet k f.d (f.imm ++ (sGet k f.d).extractLsb' 0 32))
  else if o = 0x20 then .core (aSet k f.d (aGet k f.a + slotX k f))
  else if o = 0x21 then .core (aSet k f.d (sGet k f.a))
  else if o = 0x22 then .core (sSet k f.d (aGet k f.a))
  else if o = 0x23 then .core (aSet k f.d (sext32 f.imm))
  else if o = 0x24 then .core (aSet k f.d (f.imm ++ (aGet k f.d).extractLsb' 0 32))
  else if o = 0x28 then localAccess k f 8 (fun a => sSet k f.d (localLoad k a 8))
  else if o = 0x29 then localAccess k f 4 (fun a => sSet k f.d (localLoad k a 4))
  else if o = 0x2A then localAccess k f 8 (fun a => localStore k a 8 (sGet k f.b))
  else if o = 0x2B then localAccess k f 4 (fun a => localStore k a 4 (sGet k f.b))
  else if o = 0x2C then localAccess k f 8 (fun a => aSet k f.d (localLoad k a 8))
  else if o = 0x2D then localAccess k f 8 (fun a => localStore k a 8 (aGet k f.b))
  else if o ≤ 0x36 then
    let t := branchTarget w.off f.imm
    if decide (t < 0) || decide (t > (curStream k).len) then .skip skBranchRange
    else if branchTaken op (sGet k f.a) (sGet k f.b) then .flow (.goto t.toNat)
    else .core k
  else if o = 0x38 then loopSlot k w f
  else if o = 0x40 then armSlot b c r k f false
  else if o = 0x41 then armSlot b c r k f true
  else if o = 0x42 then (if k.levels.length ≤ 1 then .skip skStreamDepth else .flow .ret)
  else if o = 0x48 then
    match back with
    | some _ => .core k
    | none => fwait b c n r ea (sGet k f.b) (f.func.getLsbD 0)
  else if o = 0x49 then fsignal b c n r ea (sGet k f.b)
  else if o = 0x4A then cdecl b c n r ea
  else if o = 0x4B then
    match back with
    | some v => .core (sSet k f.d v)
    | none => fread b c n r ea f.d
  else if o = 0x4C then gsend b c n r ea (sGet k f.b) f.imm.toNat
  else if o = 0x50 then
    if f.imm.toNat ≥ 14 then .skip skReservedField else .core (sSet k f.d (fdepthValue b c f.imm.toNat))
  else xcall b c n r w slotNo slot (aGet k f.a + sext32 f.imm).toNat (f.func.getLsbD 0)

/-- A control slot (R154 to R156, R172): flow conflicts first, then the form, then the effect. `taken` says that C0 holds a
flow opcode. -/
def ctrlSlot (b : Block) (c n : Nat) (r : Run) (w : Slw) (slotNo : Nat) (slot : Word) (taken : Bool) (back : Option Word) :
    CtrlRes :=
  let op := slotOp slot
  if isFlow op && (taken || hEnd w.hdr) then .skip skFlowConflict
  else match formOf op with
    | none => .skip skReservedOpcode
    | some fm => if formLegal fm (slotFields slot) then ctrlEffect b c n r w slotNo slot back else .skip skReservedField

/-- A control slot of the SLW under way, and what follows it. The SLW stands in the core while its slot runs. -/
def slwSlot (b : Block) (c n : Nat) (w : Slw) (slotNo : Nat) (slot : Word) (taken : Bool) (next : Block → Slw → Act) : Act :=
  match runOf b n with
  | none => act b
  | some r =>
    let b := putCore b c { coreOf b c with slw := some w }
    let cont (b : Block) (f : Option Flow) : Act :=
      let w' := ((coreOf b c).slw).getD w
      next b { w' with value := none, flow := f.getD w'.flow }
    match ctrlSlot b c n r w slotNo slot taken w.value with
    | .core k => cont (putCore b c k) none
    | .skip reason =>
      cont (skipAt b c n reason slotNo (slotOp slot).toNat w.off (streamVa (coreOf b c) w.off) slot.toNat) none
    | .flow f => cont b (some f)
    | .blk a => andThen a (fun b => cont b none)
    | .hold a => a
    | .dead a => (dropSlw a.1 c, a.2)

/-- C1, which sees what C0 wrote, then the engine slots. -/
def slwC1 (b : Block) (c n : Nat) (w : Slw) : Act :=
  match w.c1 with
  | none => slwEngines b c n { w with engAt := 0 }
  | some x =>
    let taken := match w.c0 with
      | some y => isFlow (slotOp y)
      | none => false
    slwSlot b c n w 1 x taken (fun b w => slwEngines b c n { w with engAt := 0 })

/-- The code of a BRK slot that is legal. -/
def brkCode (o : Option Word) : Option Nat :=
  match o with
  | some x =>
    if slotOp x = 0x02 then
      match formOf (slotOp x) with
      | some fm => if formLegal fm (slotFields x) then some (slotFields x).imm.toNat else none
      | none => none
    else none
  | none => none

/-- Why a core stops before step 3 (R438): BRK in a primary run, `HALT_REQ`, or a completed `STEP`. -/
def stopCause (b : Block) (c : Nat) (r : Run) (k : CoreSt) (w : Slw) : Option (StopCause × Nat) :=
  if !b.regs.brkEnable.getLsbD c || decide (r.kind ≠ .primary) then none
  else match (brkCode w.c0).orElse (fun _ => brkCode w.c1) with
    | some code => some (.brk, code)
    | none => if k.haltReq then some (.haltReq, 0) else if k.stepping then some (.step, 0) else none

/-- The codes of `STOP_CAUSE` (R440). -/
def causeCode : StopCause → Nat
  | .brk => 0
  | .haltReq => 1
  | .step => 2

/-- The core stops: counted, with a BREAK_STOP record (R438, R444). -/
def coreStop (b : Block) (c : Nat) (r : Run) (w : Slw) (cause : StopCause) (code : Nat) : Block :=
  let k := coreOf b c
  let b := cnt (putCore b c { k with slw := some w, brkStop := some { cause := cause, code := code, since := b.tide.clock },
                                     haltReq := if cause = .haltReq then false else k.haltReq,
                                     stepping := false }) cBrkStop
  trace b 3 2 (some c) [(0, 24, r.ctx.toNat), (32, 17, r.tag), (64, 8, causeCode cause), (72, 8, code), (96, 32, w.off),
    (128, 64, streamVa k w.off)]

/-- The boundary between steps 2 and 3, where a core stops (R168, R438). -/
def slwStop (b : Block) (c n : Nat) (w : Slw) : Act :=
  match runOf b n with
  | none => act b
  | some r =>
    let w := { w with stage := .c1 }
    let k := coreOf b c
    match stopCause b c r k w with
    | some (cause, code) => act (coreStop b c r w cause code)
    | none => slwC1 b c n w

/-- C0 (step 2 of R152). -/
def slwC0 (b : Block) (c n : Nat) (w : Slw) : Act :=
  let w := { w with stage := .c0 }
  match w.c0 with
  | none => slwStop b c n w
  | some x => slwSlot b c n w 0 x false (fun b w => slwStop b c n w)

/-- A baton of the core is in its push queue, at its port or in an engine, or an expander call is outstanding. -/
def coreBusy (b : Block) (c n : Nat) : Bool :=
  let k := coreOf b c
  !k.pushQ.isEmpty || (portOf b c).out.any (fun x => decide (x.run = n)) || !k.calls.isEmpty

/-- A SYNC call that the SLW must await is outstanding (R166). -/
def syncBusy (k : CoreSt) : Bool := k.syncCall.any k.calls.contains

/-- Step 1 of R152, and the wait for SYNC calls. -/
def slwDrain (b : Block) (c n : Nat) (w : Slw) : Act :=
  let k := coreOf b c
  if syncBusy k then act (holdAt (putCore b c { k with slw := some w }) c .sync)
  else if hDrain w.hdr && coreBusy b c n then act (holdAt (putCore b c { k with slw := some w, syncCall := [] }) c .drain)
  else slwC0 (putCore b c { k with syncCall := [] }) c n w

/-- The SLW under way goes on where it stands. -/
def slwResume (b : Block) (c n : Nat) (w : Slw) : Act :=
  match w.stage with
  | .drain => slwDrain b c n w
  | .c0 => slwC0 b c n w
  | .c1 => slwC1 b c n w
  | .engines => slwEngines b c n w
  | .flow => slwFlow b c n w

/-- An SLW counted (R436). -/
def slwCount (k : CoreSt) : CoreSt := { k with slwCnt := satInc 32 k.slwCnt }

/-- An SLW that is skipped whole (R151, R162). -/
def slwSkip (b : Block) (c n off nxt reason : Nat) (hdr : Word) : Act :=
  let b := putCore b c (slwCount (coreOf b c))
  let b := skipAt b c n reason 0x1F 0 off (streamVa (coreOf b c) off) hdr.toNat
  let b := crossLoops b c n off nxt hdr
  act (putCore b c (settleAt settleFuel (coreOf b c) nxt))

/-- The slots of an SLW from its words (R150). -/
def slwOf (off : Nat) (hdr : Word) (ws : List Word) : Slw :=
  let c0 := if hC0 hdr then ws.head? else none
  let ws := if hC0 hdr then ws.drop 1 else ws
  let c1 := if hC1 hdr then ws.head? else none
  let ws := if hC1 hdr then ws.drop 1 else ws
  let slot (i : Nat) : BitVec 256 :=
    ws.getD (4 * i + 3) 0 ++ ws.getD (4 * i + 2) 0 ++ ws.getD (4 * i + 1) 0 ++ ws.getD (4 * i) 0
  { off := off, hdr := hdr, c0 := c0, c1 := c1, eng := ((hPresent hdr).zipIdx).map (fun x => (x.1, slot x.2)),
    len := slwLen hdr, stage := .drain, engAt := 0, flow := .seq, value := none, sync := [] }

/-- The next SLW begins, when its words are cached (R148 to R152). -/
def slwStart (b : Block) (c n : Nat) (r : Run) : Act :=
  let k := coreOf b c
  let st := curStream k
  match st.table with
  | some (va, count) => fetchHold b c n r false va (16 * count) (fun i => .table va count i)
  | none => match fragAt st k.off with
    | none => act (putCore b c (settleAt settleFuel k (max k.off st.len)))
    | some f =>
      let va := f.va + (k.off - f.start)
      let rest := f.start + f.len - k.off
      let miss (a : Nat) : Act := fetchHold b c n r f.host (a / lineBytes * lineBytes) lineBytes
        (fun i => .line (a / lineBytes * lineBytes) f.host i)
      if rest < 8 then slwSkip b c n k.off (f.start + f.len) skTruncated 0
      else match cachedWord k r.ctx f.host va with
        | none => miss va
        | some hdr =>
          if slwLen hdr > rest then slwSkip b c n k.off (f.start + f.len) skTruncated hdr
          else if hReserved hdr then slwSkip b c n k.off (k.off + slwLen hdr) skReservedHeader hdr
          else match cachedWords k r.ctx f.host (va + 8) (slwLen hdr / 8 - 1) with
            | .error a => miss a
            | .ok ws => slwDrain (putCore b c (slwCount k)) c n (slwOf k.off hdr ws)

/-! ## Issuing -/

/-- The run that a core executes and that may issue now: its stream has not ended and nothing holds or stops it; a heat that must end
issues the rest of the SLW under way, up to the next boundary (R170). -/
def issuing (b : Block) (c : Nat) : Option (Nat × Run) :=
  let k := coreOf b c
  match k.run with
  | none => none
  | some n => match runOf b n with
    | none => none
    | some r =>
      if !k.ended && k.brkStop.isNone && decide (k.hold = .none) && (r.abort.isNone || !atSlwBoundary k) && r.endedAt.isNone then
        some (n, r)
      else none

/-- A brownout hold stops a BE core at its SLW boundary, which R170 defines for a core that holds; replays go on (R354, R423). -/
def boundaryHeld (b : Block) (r : Run) : Bool := b.pwr.hold && !r.lc && decide (r.kind ≠ .replay)

/-- SLW_ISSUE: the core begins its next SLW, or goes on with the one that a hold or a stop interrupted. A call that ends
releases a core held at its fifth XCALL; the stream of a heat that must end stops at the boundary that it comes to (R170). -/
def slwIssue (b : Block) (c : Nat) : Act :=
  let k := coreOf b c
  let b := if k.hold = .calls && decide (k.calls.length < 4) then unhold b c else b
  match issuing b c with
  | none => act b
  | some (n, r) =>
    match (coreOf b c).slw with
    | some w =>
      if (coreOf b c).bound && boundaryHeld b r then act b
      else if r.abort.isSome then andThen (slwResume b c n w) (fun b => act (endAtBoundary b c))
      else slwResume b c n w
    | none => if boundaryHeld b r then act b else slwStart b c n r

/-- A control-slot row: the core's next SLW is the one whose only slot is this control slot, in C0 (log entry 25). -/
def ctrlIssue (b : Block) (c : Nat) (slot : Word) : Act :=
  match issuing b c with
  | none => act b
  | some (n, r) =>
    let k := coreOf b c
    if k.slw.isSome || boundaryHeld b r || (curStream k).table.isSome then act b
    else slwDrain (putCore b c (slwCount k)) c n (slwOf k.off 1 [slot])

/-- SLW_ISSUE (R152). -/
def execSlwIssue (c : Nat) (s : State) : Host.Outcome State Fault Refusal := liftRA (fun b => slwIssue b c) s

/-- The meaning of a control-slot row. -/
def ctrlRow (c : Nat) (op : BitVec 8) (f : SlotFields) (s : State) : Host.Outcome State Fault Refusal :=
  liftRA (fun b => if decide (c < 64) then ctrlIssue b c (slotWord op f) else act b) s

/-! ## Ends of holds -/

/-- A core whose hold is over goes on with its SLW at once, unless its heat must end. -/
def goOn (b : Block) (c : Nat) : Act := slwIssue (unhold b c) c

/-- DRAIN_RELEASE (R152): every earlier baton of the heat on the core has ended. -/
def drainRelease (b : Block) (c : Nat) : Act :=
  let k := coreOf b c
  match k.run with
  | some n => if k.hold = .drain && !coreBusy b c n then goOn b c else act b
  | none => act b

/-- DRAIN_RELEASE. -/
def execDrainRelease (c : Nat) (s : State) : Host.Outcome State Fault Refusal := liftRA (fun b => drainRelease b c) s

/-- PUSH_QUEUE_ROOM (R153). -/
def pushQueueRoom (b : Block) (c : Nat) : Act :=
  let k := coreOf b c
  match k.slw with
  | some w => if k.hold = .pushQueue && decide (k.pushQ.length + hCount w.hdr ≤ 32) then goOn b c else act b
  | none => act b

/-- PUSH_QUEUE_ROOM. -/
def execPushQueueRoom (c : Nat) (s : State) : Host.Outcome State Fault Refusal := liftRA (fun b => pushQueueRoom b c) s

/-- SYNC_RELEASE (R166). -/
def syncRelease (b : Block) (c : Nat) : Act :=
  let k := coreOf b c
  if k.hold = .sync && !syncBusy k then goOn b c else act b

/-- SYNC_RELEASE. -/
def execSyncRelease (c : Nat) (s : State) : Host.Outcome State Fault Refusal := liftRA (fun b => syncRelease b c) s

/-- The fragments that a table's words name, from a stream offset on (R75). -/
def fragsOf : Nat → List Word → List Frag
  | start, a :: l :: ws =>
    let len := field l 0 32
    { start := start, va := field a 0 48, len := len, host := a.getLsbD 48 } :: fragsOf (start + len) ws
  | _, _ => []

/-- A fragment table has arrived: the stream is known, and an entry with `INVALIDATE_CACHE` discards every copy of its
fragments (R74, R75). -/
def tableReturn (b : Block) (c : Nat) (r : Run) (words : List Word) : Block :=
  let fs := (fragsOf 0 words).filter (fun f => decide (f.len ≠ 0))
  let st : Stream := { frags := fs, len := (fs.map (fun f => f.len)).sum, table := none }
  let k := coreOf b c
  let b := putCore b c { k with levels := k.levels.map (fun l => if l.stream.table.isSome then { l with stream := st } else l) }
  match itemOf b r.tag with
  | some i => if eInvalidate i.entry then fs.foldl (fun b f => dropLines b r.ctx f.host f.va f.len) b else b
  | none => b

/-- The fragment of the current stream that has bytes in a line, within 1 KiB from the SLW being issued on. -/
def aheadFrag (k : CoreSt) (va : Nat) : Option Frag :=
  (curStream k).frags.find? (fun f =>
    let lo := max k.off f.start
    let hi := min (k.off + 1024) (f.start + f.len)
    decide (lo < hi) && decide (f.va + (lo - f.start) < va + lineBytes) && decide (va < f.va + (hi - f.start)))

/-- A line ahead of the SLW being issued, within 1 KiB, is kept if its read passes its buckets (R148). -/
def prefetch (b : Block) (c : Nat) (r : Run) (va : Nat) (words : List Word) : Block :=
  let k := coreOf b c
  match aheadFrag k va with
  | none => b
  | some f =>
    let fits := decide (va % lineBytes = 0) && decide (words.length = 8) && (cachedWord k r.ctx f.host va).isNone &&
      (f.host || tlbHit b r.ctx va)
    match if fits then runCharge b r f.host va lineBytes else none with
    | some l =>
      if bktPassAll b r.part true l then
        putCore (bktTakeAll b r.part l) c (lineAdd k { ctx := r.ctx, va := va, host := f.host, words := words })
      else b
    | none => b

/-- A reply belongs to a read of the heat that a run serves, and its tags are the current ones (R87). -/
def heatReadNow (b : Block) (tag : Nat) (h : HeatRead) : Bool :=
  match itemOf b tag with
  | some i => i.sq = h.sq && i.ord = h.ord && tagsNow b i.fgen h.g.t
  | none => false

/-- PROGRAM_LINE_RETURN (R75, R87, R148): the line or table for which the core holds, or a line prefetched. -/
def programLineReturn (b : Block) (c : Nat) (h : HeatRead) (va : Nat) (words : List Word) : Act :=
  let k := coreOf b c
  match k.run.bind (runOf b) with
  | none => act (staleReply b h.g)
  | some r =>
    if k.ended || !heatReadNow b r.tag h then act (staleReply b h.g)
    else
      let early : Act := act (prefetch b c r va words)
      match k.hold with
      | .line v host true =>
        if decide (v = va) && decide (words.length = 8) then
          goOn (putCore b c (lineAdd k { ctx := r.ctx, va := va, host := host, words := words })) c
        else early
      | .table v count true =>
        if decide (v = va) && decide (words.length = 2 * count) then goOn (tableReturn b c r words) c else early
      | _ => early

/-- PROGRAM_LINE_RETURN. -/
def execProgramLineReturn (c : Nat) (h : HeatRead) (va : Word) (words : List Word) (s : State) : Host.Outcome State Fault Refusal :=
  liftReplyA [.read (.program c)] (fun b => programLineReturn b c h va.toNat words) s

/-- One core held for a page walk: it goes on, or its heat ends with a page fault (R56, R57). -/
def walkReturn (b : Block) (ctx : BitVec 24) (va : Nat) (write : Bool) (c : Nat) : Act :=
  let k := coreOf b c
  match k.run with
  | none => act b
  | some n => match runOf b n with
    | none => act b
    | some r =>
      if r.ctx = ctx && decide (k.hold = .walk va write) then
        match translate b ctx va write with
        | some _ => slwIssue (unhold (if tlbHit b ctx va then b else tlbFill b ctx va) c) c
        | none => pageFault (endAtBoundary (dropSlw (unhold b c) c) c) n r
      else act b

/-- The cores that hold for a page walk. -/
def walkCores (b : Block) (va : Nat) (write : Bool) : List Nat :=
  (List.range 64).filter (fun c => decide ((coreOf b c).hold = .walk va write))

/-- TRANSLATION_WALK_RETURN (R56): every core that waits for this walk. -/
def execTranslationWalkReturn (ctx : BitVec 24) (va : Word) (write : Bool) (s : State) : Host.Outcome State Fault Refusal :=
  liftReplyA [.walk ctx va.toNat write]
    (fun b => actEach b (walkCores b va.toNat write) (fun b c => walkReturn b ctx va.toNat write c)) s

/-! ## Held signals and the end of a core's part (R117, R164, R169) -/

/-- A core baton pushed before the mark has not ended, or one of the calls has not. -/
def earlierBusy (b : Block) (c n : Nat) (h : HeldSig) : Bool :=
  let k := coreOf b c
  decide (k.pushed - k.pushQ.length < h.after ∧ ¬k.pushQ.isEmpty) ||
    (portOf b c).out.any (fun x => decide (x.run = n) && x.call.isNone && decide (x.order < h.after)) ||
    h.calls.any k.calls.contains

/-- The global address of a fence of a held signal, translated now for a write (R120, R164). -/
def heldAddr (b : Block) (h : BitVec 24) (x : Nat × Option Nat) : Option Nat :=
  (translate b h x.1 true).map (fun g => match x.2 with
    | none => g
    | some m => g % 2 ^ 52 + m * 2 ^ 52)

/-- The oldest held signal of a core takes effect once the one before it has (R117, R164): each fence is offered its value, unless an
address does not translate now (R120) or a home has no route (R468). -/
def heldApply (b : Block) (c : Nat) : Act :=
  let k := coreOf b c
  match k.run, k.held with
  | some n, h :: hs => match runOf b n with
    | none => act b
    | some r =>
      let gs := h.fences.filterMap (heldAddr b r.ctx)
      if earlierBusy b c n h || decide (k.sending ≠ 0) then act b
      else if gs.length ≠ h.fences.length then pageFault (putCore b c { k with held := hs }) n r
      else if !gs.all (fun g => routed b (gchip g)) then peerFault b n r
      else
        (putCore b c { k with held := hs, sending := gs.length },
         gs.map (fun g => Task.fence (BitVec.ofNat 64 g) (.signal h.value
           { chip := chipNo b, ctx := r.ctx, tag := r.tag, part := heatPart b r, deps := [], after := .heldDone c })))
  | _, _ => act b

/-- HELD_SIGNAL_APPLY. -/
def execHeldSignalApply (c : Nat) (s : State) : Host.Outcome State Fault Refusal := liftRA (fun b => heldApply b c) s

/-- A core's part of a heat ends (R169), with the SUMMARY record of its suppressed skips (R174); what it declared stands until the heat
ends (R136, R165). -/
def corePartEnd (b : Block) (c : Nat) : Act :=
  let k := coreOf b c
  match k.run with
  | none => act b
  | some n => match runOf b n with
    | none => act b
    | some r =>
      if k.ended && !coreBusy b c n && k.held.isEmpty && decide (k.sending = 0) then
        let b := if k.skips > 8 then skipWrite b c r skSummary 0x1F 0 k.off (streamVa k k.off) (k.skips - 8) else b
        let b := putCore b c { k with run := none, credits := [] }
        let r := { r with partsEnded := r.partsEnded ++ [c], credits := (r.credits ++ k.credits).eraseDups }
        (putRun b n r, if r.clusters.all r.partsEnded.contains then [.endRun n] else [])
      else act b

/-- CORE_PART_END. -/
def execCorePartEnd (c : Nat) (s : State) : Host.Outcome State Fault Refusal := liftRA (fun b => corePartEnd b c) s

end Sys2Proof.Machine
end

