-- ==== Sys2Proof/Machine/Control.lean ====
section
/-! DEFINITION. The meanings of the control-slot rows (R156): each is the SLW that holds its slot alone. -/

namespace Sys2Proof.Machine

open Sys2Proof

/-- NOP: no effect. -/
def execNop (c : Nat) (f : SlotFields) (s : State) : Host.Outcome State Fault Refusal := ctrlRow c 0x00 f s

/-- HALT: the stream ends after the SLW (R162). -/
def execHalt (c : Nat) (f : SlotFields) (s : State) : Host.Outcome State Fault Refusal := ctrlRow c 0x01 f s

/-- BRK: breakpoint (R168, R438). -/
def execBrk (c : Nat) (f : SlotFields) (s : State) : Host.Outcome State Fault Refusal := ctrlRow c 0x02 f s

/-- INFO: heat information (R157). -/
def execInfo (c : Nat) (f : SlotFields) (s : State) : Host.Outcome State Fault Refusal := ctrlRow c 0x03 f s

/-- ADD: `sD` ← `sA` + x. -/
def execAdd (c : Nat) (f : SlotFields) (s : State) : Host.Outcome State Fault Refusal := ctrlRow c 0x10 f s

/-- SUB: `sD` ← `sA` − x. -/
def execSub (c : Nat) (f : SlotFields) (s : State) : Host.Outcome State Fault Refusal := ctrlRow c 0x11 f s

/-- AND: bitwise and. -/
def execAnd (c : Nat) (f : SlotFields) (s : State) : Host.Outcome State Fault Refusal := ctrlRow c 0x12 f s

/-- OR: bitwise or. -/
def execOr (c : Nat) (f : SlotFields) (s : State) : Host.Outcome State Fault Refusal := ctrlRow c 0x13 f s

/-- XOR: bitwise exclusive or. -/
def execXor (c : Nat) (f : SlotFields) (s : State) : Host.Outcome State Fault Refusal := ctrlRow c 0x14 f s

/-- SHL: shift left. -/
def execShl (c : Nat) (f : SlotFields) (s : State) : Host.Outcome State Fault Refusal := ctrlRow c 0x15 f s

/-- SHR: logical shift right. -/
def execShr (c : Nat) (f : SlotFields) (s : State) : Host.Outcome State Fault Refusal := ctrlRow c 0x16 f s

/-- SRA: arithmetic shift right. -/
def execSra (c : Nat) (f : SlotFields) (s : State) : Host.Outcome State Fault Refusal := ctrlRow c 0x17 f s

/-- MUL: low 64 bits of the product. -/
def execMul (c : Nat) (f : SlotFields) (s : State) : Host.Outcome State Fault Refusal := ctrlRow c 0x18 f s

/-- MINU: unsigned minimum. -/
def execMinu (c : Nat) (f : SlotFields) (s : State) : Host.Outcome State Fault Refusal := ctrlRow c 0x19 f s

/-- MAXU: unsigned maximum. -/
def execMaxu (c : Nat) (f : SlotFields) (s : State) : Host.Outcome State Fault Refusal := ctrlRow c 0x1A f s

/-- SLTU: unsigned less than. -/
def execSltu (c : Nat) (f : SlotFields) (s : State) : Host.Outcome State Fault Refusal := ctrlRow c 0x1B f s

/-- SLT: signed less than. -/
def execSlt (c : Nat) (f : SlotFields) (s : State) : Host.Outcome State Fault Refusal := ctrlRow c 0x1C f s

/-- SEQ: equality. -/
def execSeq (c : Nat) (f : SlotFields) (s : State) : Host.Outcome State Fault Refusal := ctrlRow c 0x1D f s

/-- LI: `sD` ← `IMM`. -/
def execLi (c : Nat) (f : SlotFields) (s : State) : Host.Outcome State Fault Refusal := ctrlRow c 0x1E f s

/-- LIH: `sD[63:32]` ← `IMM`. -/
def execLih (c : Nat) (f : SlotFields) (s : State) : Host.Outcome State Fault Refusal := ctrlRow c 0x1F f s

/-- AADD: `aD` ← `aA` + x. -/
def execAadd (c : Nat) (f : SlotFields) (s : State) : Host.Outcome State Fault Refusal := ctrlRow c 0x20 f s

/-- AMOV: `aD` ← `sA`. -/
def execAmov (c : Nat) (f : SlotFields) (s : State) : Host.Outcome State Fault Refusal := ctrlRow c 0x21 f s

/-- SMOV: `sD` ← `aA`. -/
def execSmov (c : Nat) (f : SlotFields) (s : State) : Host.Outcome State Fault Refusal := ctrlRow c 0x22 f s

/-- ALI: `aD` ← `IMM`. -/
def execAli (c : Nat) (f : SlotFields) (s : State) : Host.Outcome State Fault Refusal := ctrlRow c 0x23 f s

/-- ALIH: `aD[63:32]` ← `IMM`. -/
def execAlih (c : Nat) (f : SlotFields) (s : State) : Host.Outcome State Fault Refusal := ctrlRow c 0x24 f s

/-- LD64: 8-byte load (R158). -/
def execLd64 (c : Nat) (f : SlotFields) (s : State) : Host.Outcome State Fault Refusal := ctrlRow c 0x28 f s

/-- LD32: 4-byte load (R158). -/
def execLd32 (c : Nat) (f : SlotFields) (s : State) : Host.Outcome State Fault Refusal := ctrlRow c 0x29 f s

/-- ST64: 8-byte store (R158). -/
def execSt64 (c : Nat) (f : SlotFields) (s : State) : Host.Outcome State Fault Refusal := ctrlRow c 0x2A f s

/-- ST32: 4-byte store (R158). -/
def execSt32 (c : Nat) (f : SlotFields) (s : State) : Host.Outcome State Fault Refusal := ctrlRow c 0x2B f s

/-- LDA: load of an address register (R158). -/
def execLda (c : Nat) (f : SlotFields) (s : State) : Host.Outcome State Fault Refusal := ctrlRow c 0x2C f s

/-- STA: store of an address register (R158). -/
def execSta (c : Nat) (f : SlotFields) (s : State) : Host.Outcome State Fault Refusal := ctrlRow c 0x2D f s

/-- BR: branch (R159). -/
def execBr (c : Nat) (f : SlotFields) (s : State) : Host.Outcome State Fault Refusal := ctrlRow c 0x30 f s

/-- BEQ: branch if equal. -/
def execBeq (c : Nat) (f : SlotFields) (s : State) : Host.Outcome State Fault Refusal := ctrlRow c 0x31 f s

/-- BNE: branch if not equal. -/
def execBne (c : Nat) (f : SlotFields) (s : State) : Host.Outcome State Fault Refusal := ctrlRow c 0x32 f s

/-- BLTU: branch if below. -/
def execBltu (c : Nat) (f : SlotFields) (s : State) : Host.Outcome State Fault Refusal := ctrlRow c 0x33 f s

/-- BGEU: branch if not below. -/
def execBgeu (c : Nat) (f : SlotFields) (s : State) : Host.Outcome State Fault Refusal := ctrlRow c 0x34 f s

/-- BLT: branch if less. -/
def execBlt (c : Nat) (f : SlotFields) (s : State) : Host.Outcome State Fault Refusal := ctrlRow c 0x35 f s

/-- BGE: branch if not less. -/
def execBge (c : Nat) (f : SlotFields) (s : State) : Host.Outcome State Fault Refusal := ctrlRow c 0x36 f s

/-- LOOP: hardware loop (R160). -/
def execLoop (c : Nat) (f : SlotFields) (s : State) : Host.Outcome State Fault Refusal := ctrlRow c 0x38 f s

/-- ARM: the stream is replaced (R162). -/
def execArm (c : Nat) (f : SlotFields) (s : State) : Host.Outcome State Fault Refusal := ctrlRow c 0x40 f s

/-- CALL: a stream is entered with return (R162). -/
def execCall (c : Nat) (f : SlotFields) (s : State) : Host.Outcome State Fault Refusal := ctrlRow c 0x41 f s

/-- RET: return (R162). -/
def execRet (c : Nat) (f : SlotFields) (s : State) : Host.Outcome State Fault Refusal := ctrlRow c 0x42 f s

/-- FWAIT: wait on a fence (R163). -/
def execFwait (c : Nat) (f : SlotFields) (s : State) : Host.Outcome State Fault Refusal := ctrlRow c 0x48 f s

/-- FSIGNAL: signal to a fence (R164). -/
def execFsignal (c : Nat) (f : SlotFields) (s : State) : Host.Outcome State Fault Refusal := ctrlRow c 0x49 f s

/-- CDECL: declaration of a credit (R165). -/
def execCdecl (c : Nat) (f : SlotFields) (s : State) : Host.Outcome State Fault Refusal := ctrlRow c 0x4A f s

/-- FREAD: read of a fence (R163). -/
def execFread (c : Nat) (f : SlotFields) (s : State) : Host.Outcome State Fault Refusal := ctrlRow c 0x4B f s

/-- GSEND: group signal (R164). -/
def execGsend (c : Nat) (f : SlotFields) (s : State) : Host.Outcome State Fault Refusal := ctrlRow c 0x4C f s

/-- FDEPTH: FIFO depth read (R167). -/
def execFdepth (c : Nat) (f : SlotFields) (s : State) : Host.Outcome State Fault Refusal := ctrlRow c 0x50 f s

/-- XCALL: expander call (R166). -/
def execXcall (c : Nat) (f : SlotFields) (s : State) : Host.Outcome State Fault Refusal := ctrlRow c 0x51 f s

/-- A reserved opcode: skipped with RESERVED_OPCODE (R156, R172). -/
def execReservedOpcode (c : Nat) (op : BitVec 8) (f : SlotFields) (s : State) : Host.Outcome State Fault Refusal :=
  if (formOf op).isNone then ctrlRow c op f s else .next s

end Sys2Proof.Machine
end

