-- ==== Sys2Proof/Machine/Expander.lean ====
section
/-! DEFINITION. The sparse lookup expander: request blocks, the table directory, deduplication, gathers, remap writes and
pooling (spec/08_lookup_expander.md). -/

namespace Sys2Proof.Machine

open Sys2Proof

/-! ## Fields of a request block (R199) -/

def xMode (x : BitVec 512) : Nat := field x 0 3
def xIdxType (x : BitVec 512) : Nat := field x 8 4
def xOutType (x : BitVec 512) : Nat := field x 12 4
def xF (x : BitVec 512) : Nat := field x 16 16
def xB (x : BitVec 512) : Nat := field x 32 16
def xPitch (x : BitVec 512) : Nat := field x 48 16
def xDir (x : BitVec 512) : Nat := field x 64 48
def xOutStride (x : BitVec 512) : Nat := field x 112 16
def xFeat (x : BitVec 512) : Nat := field x 128 48
def xIdx (x : BitVec 512) : Nat := field x 192 48
def xOff (x : BitVec 512) : Nat := field x 256 48
def xWt (x : BitVec 512) : Nat := field x 320 48
def xRowbuf (x : BitVec 512) : Nat := field x 384 24
def xRows (x : BitVec 512) : Nat := field x 416 17
def xRemap (x : BitVec 512) : Nat := field x 448 24
def xOut (x : BitVec 512) : Nat := field x 480 24

/-- Bytes of an index or offset. -/
def xEs (x : BitVec 512) : Nat := if xIdxType x = 0xB then 8 else 4

/-- Modes: WSUM uses weights, and all but NONE pool. -/
def xWsum (x : BitVec 512) : Bool := decide (xMode x = 3)
def xPooled (x : BitVec 512) : Bool := decide (xMode x ≠ 4)

/-- The checks of R200 that the block alone decides: none, or the skip reason of the first that fails. -/
def blockCheck (x : BitVec 512) : Option Nat :=
  let resOk := decide (field x 3 5 = 0) && decide (field x 176 16 = 0) && decide (field x 240 16 = 0) &&
    decide (field x 304 16 = 0) && decide (field x 368 16 = 0) && decide (field x 408 8 = 0) && decide (field x 433 15 = 0) &&
    decide (field x 472 8 = 0) && decide (field x 504 8 = 0)
  let rangeOk := decide (xMode x ≤ 4) && (decide (xIdxType x = 0xA) || decide (xIdxType x = 0xB)) && decide (xOutType x ≤ 1) &&
    decide (1 ≤ xF x) && decide (xF x ≤ 4096) && decide (1 ≤ xB x) && decide (4 ≤ xPitch x) && decide (xPitch x % 4 = 0) &&
    decide (xOutStride x % 4 = 0) && decide (1 ≤ xRows x) && decide (xRows x ≤ 65536) &&
    (xWsum x == decide (xWt x ≠ 0)) &&
    (xPooled x || (decide (xOutType x = 0) && decide (xOutStride x = 0) && decide (xOut x = 0)))
  let alignOk := decide (xDir x % 32 = 0) && decide (xFeat x % 4 = 0) && decide (xIdx x % xEs x = 0) &&
    decide (xOff x % xEs x = 0) && decide (xWt x % 4 = 0) && decide (xRowbuf x % 4 = 0) && decide (xRemap x % 4 = 0) &&
    decide (xOut x % 4 = 0)
  if !resOk || !rangeOk then some skReservedField
  else if !alignOk then some skAlignment
  else none

/-- Present positions of a cluster within a range. -/
def presentIn (b : Block) (c lo n : Nat) : List Nat := ((List.range n).map (lo + ·)).filter (present b c)

/-- The checks of R200 that need the index count. -/
def totalCheck (b : Block) (c : Nat) (x : BitVec 512) (n : Int) : Option Nat :=
  if n < 0 then some skReservedField
  else
    let n := n.toNat
    if decide (xRowbuf x + xPitch x * xRows x > spadSize) || decide (xRemap x + (if xWsum x then 8 else 4) * n > spadSize) ||
        (xPooled x && decide (xOut x + xB x * xOutStride x > spadSize)) then some skReservedField
    else if (presentIn b c 0 4).isEmpty || (xPooled x && (presentIn b c 6 4).isEmpty) then some skAbsentEngine
    else none

/-! ## The table directory (R204, R205) -/

def tBase (d : BitVec 256) : Nat := field d 0 48
def tType (d : BitVec 256) : Nat := field d 48 4
def tShardLog (d : BitVec 256) : Nat := field d 52 4
def tGranLog (d : BitVec 256) : Nat := field d 56 5
def tDim (d : BitVec 256) : Nat := field d 64 16
def tPitch (d : BitVec 256) : Nat := field d 80 16
def tRows (d : BitVec 256) : Nat := field d 96 32
def tSpan (d : BitVec 256) : Nat := field d 128 48
def tValid (d : BitVec 256) : Bool := bitAt d 176
def tLive (d : BitVec 256) : Bool := bitAt d 177
def tLiveId (d : BitVec 256) : Nat := field d 178 12

/-- Row bytes of a table. -/
def tRowBytes (d : BitVec 256) : Nat := (rowBytes (tType d) (tDim d)).getD 0

/-- A directory entry breaks none of its own rules (R204). -/
def dirUsable (d : BitVec 256) : Bool :=
  tValid d && decide (field d 61 3 = 0) && decide (field d 190 2 = 0) && decide (tType d ≤ 8) && decide (tShardLog d ≤ 4) &&
    decide (tGranLog d ≤ 24) && decide (tDim d ≠ 0) && (rowBytes (tType d) (tDim d)).isSome && decide (tPitch d % 4 = 0) &&
    decide (tPitch d ≥ tRowBytes d)

/-- Bytes of an output row. -/
def outRow (x : BitVec 512) (d : BitVec 256) : Nat := tDim d * (if xOutType x = 0 then 4 else 2)

/-- Fields of a feature-list entry (R203). -/
def fTable (e : BitVec 32) : Nat := field e 0 12
def fCol (e : BitVec 32) : Nat := field e 16 16

/-- A feature's bags can be served: its list entry and its directory entry are usable (R203, R204, R211). -/
def featUsable (x : BitVec 512) (e : BitVec 32) (d : BitVec 256) : Bool :=
  decide (field e 12 4 = 0) && decide (fCol e % 4 = 0) && dirUsable d && decide (tRowBytes d ≤ xPitch x) &&
    (!xPooled x || decide (fCol e + outRow x d ≤ xOutStride x))

/-- Shard and local row of a row (R205). -/
def tShard (d : BitVec 256) (r : Nat) : Nat := (r >>> tGranLog d) % 2 ^ tShardLog d
def tLocal (d : BitVec 256) (r : Nat) : Nat :=
  ((r >>> (tGranLog d + tShardLog d)) <<< tGranLog d) + r % 2 ^ tGranLog d

/-- Virtual address of a row (R205). -/
def tRowVa (d : BitVec 256) (r : Nat) : Nat := tBase d + tShard d r * tSpan d + tLocal d r * tPitch d

/-- The memory stack of a row's shard, from `STACK_MAP`. -/
def tStack (d : BitVec 256) (r : Nat) : Nat := field d (192 + 4 * tShard d r) 4

/-! ## Accessors -/

/-- A call replaced. -/
def putCall (b : Block) (id : Nat) (x : XCall) : Block := { b with xp := { b.xp with calls := fmSet b.xp.calls id x } }

/-- The first call of a core, in order of acceptance, whose bags are not all admitted: calls of a core admit keys one after
another (R206). -/
def curCall (b : Block) (c : Nat) : Option (Nat × XCall) :=
  ((coreOf b c).calls.filterMap (fun id => (fmGet? b.xp.calls id).map (fun x => (id, x)))).find?
    (fun x => decide (x.2.phase ≠ .issued))

/-- Something queued at a cluster port by the expander. -/
def xqPush (b : Block) (c : Nat) (e : XEnt) : Block :=
  let p := portOf b c
  putPort b c { p with xq := p.xq ++ [e] }

/-- A run completes with skips (R211). -/
def markSkips (b : Block) (n : Nat) : Block :=
  match runOf b n with
  | some r => putRun b n { r with skips := true }
  | none => b

/-- An expander scratchpad write enters the digest at position 0 (R346): its number, address and bytes. -/
def digestWrite (b : Block) (n c addr : Nat) (bytes : List Byte) : Block :=
  match runOf b n with
  | none => b
  | some r =>
    let q := digestSeq r (rankOf r c) 0 true
    let r := digestSlot r c 0 true (leBytes 4 q ++ leBytes 4 addr ++ bytes)
    putRun b n (digestResult r c 0 true q 0 (Config.scratchCrc addr bytes))

/-- Scratchpad writes of at most 64 bytes, none across a 64-byte boundary (R215). -/
def xWrites (b : Block) (c id n : Nat) (bag : Option Nat) : Nat → Nat → List Byte → Block
  | 0, _, _ => b
  | fuel + 1, a, bs =>
    if bs.isEmpty then b
    else
      let m := 64 - a % 64
      let b := digestWrite (xqPush b c { call := id, run := n, work := .write a (bs.take m) bag }) n c a (bs.take m)
      xWrites b c id n bag fuel (a + m) (bs.drop m)

/-- Bytes written to the scratchpad for a call. -/
def xWrite (b : Block) (c id n : Nat) (bag : Option Nat) (a : Nat) (bs : List Byte) : Block :=
  xWrites b c id n bag (bs.length + 1) a bs

/-- Remap entries: slots, or −1 (R214). -/
def remapBytes (l : List (Option Nat)) : List Byte :=
  l.flatMap (fun o => leBytes 4 (match o with
    | some v => v
    | none => 0xFFFFFFFF))

/-! ## Reads (R201) -/

/-- The directory entry of the call's feature. -/
def curDir (x : XCall) : BitVec 256 := fmGet x.dirs (fTable x.entry) 0

/-- The bags of the call's feature can be served (R211). -/
def curUsable (x : XCall) : Bool := featUsable x.blk x.entry (curDir x)

/-- Indices of the bag to which the call has come, and how many of them are read (R211). -/
def bagCount (x : XCall) : Nat := x.offs.headD x.prev - x.prev
def bagRead (x : XCall) : Nat := if curUsable x then min 65535 (bagCount x) else 0

/-- The ranges that a call reads in its phase: virtual address and length. A bag's weights are all read, for they are all staged
(R214). -/
def xRanges (x : XCall) : List (Nat × Nat) :=
  let k := x.blk
  let es := xEs k
  match x.phase with
  | .block => [(x.va, 64)]
  | .total => [(xOff k + es * (xF k * xB k), es)]
  | .feature => [(xFeat k + 4 * x.f, 4)]
  | .dir => [(xDir k + 32 * fTable x.entry, 32)]
  | .offsets =>
    if x.f = 0 then [(xOff k, es * (xB k + 1))] else [(xOff k + es * (x.f * xB k + 1), es * xB k)]
  | .bag => (xIdx k + es * x.prev, es * bagRead x) :: (if xWsum k then [(xWt k + 4 * x.prev, 4 * bagCount x)] else [])
  | _ => []

/-- The charges of a read, piece by piece; none when a piece does not translate to local memory (R242, R468). -/
def rangeCharge (b : Block) (h : BitVec 24) : Nat → Nat → Nat → Option (List (Nat × Nat))
  | 0, _, _ => some []
  | fuel + 1, va, len =>
    if len = 0 then some []
    else
      let m := min len (0x10000 - va % 0x10000)
      match translateOwn b h va false with
      | none => none
      | some g => (rangeCharge b h fuel (va + m) (len - m)).map (fun l => chargeAdd l (stackBucket b g) (chargeBytes m))

/-- The charges of all ranges. -/
def rangesCharge (b : Block) (h : BitVec 24) (l : List (Nat × Nat)) : Option (List (Nat × Nat)) :=
  l.foldl (fun o r => match o, rangeCharge b h (r.2 / 0x10000 + 2) r.1 r.2 with
    | some a, some d => some (d.foldl (fun a c => chargeAdd a c.1 c.2) a)
    | _, _ => none) (some [])

/-- A call's read is issued, or waits for its bucket, or faults (R201, R244). `again` says that it has been counted as
held already. -/
def xIssue (b : Block) (n : Nat) (r : Run) (id : Nat) (x : XCall) (again : Bool) : Act :=
  if (xRanges x).isEmpty then act (putCall b id { x with issued := false })
  else match rangesCharge b r.ctx (xRanges x) with
    | none => pageFault (putCall b id x) n r
    | some l =>
      if bktPassAll b r.part true l then
        act (putCall (bktTakeAll b r.part l) id { x with issued := true, since := b.tide.clock })
      else
        let b := putCall b id { x with issued := false }
        act (if again then b else cnt b cBwHold)

/-! ## Deduplication (R206 to R211) -/

/-- The window of a cluster for this call, if its run has one with the same row buffer (R207). -/
def winOf (b : Block) (c n : Nat) : Option XWindow :=
  match fmGet? b.xp.windows c with
  | some w => if w.run = n then some w else none
  | none => none

/-- The window serves the call's row buffer. -/
def winFits (w : XWindow) (k : BitVec 512) : Bool :=
  decide (w.addr = xRowbuf k) && decide (w.rows = xRows k) && decide (w.pitch = xPitch k)

/-- A fresh window for a call of a run on `n` clusters (R206). -/
def freshWin (run n : Nat) (k : BitVec 512) : XWindow :=
  { run := run, addr := xRowbuf k, rows := xRows k, pitch := xPitch k, cap := min (xRows k) (65536 / n), keys := [], ready := [] }

/-- A window replaced. -/
def putWin (b : Block) (c : Nat) (w : XWindow) : Block := { b with xp := { b.xp with windows := fmSet b.xp.windows c w } }

/-- The slot of a key. -/
def slotOf (keys : List (Nat × Nat)) (k : Nat × Nat) : Option Nat := keys.findIdx? (fun x => decide (x = k))

/-- Distinct elements in order of first occurrence. -/
def distinctKeys (l : List (Nat × Nat)) : List (Nat × Nat) :=
  (l.foldl (fun a x => if a.contains x then a else x :: a) []).reverse

/-- The key of an index of a table, if its row exists (R211). -/
def keyOf (table : Nat) (d : BitVec 256) (i : Int) : Option (Nat × Nat) :=
  if i < 0 then none else if i.toNat < tRows d then some (table, i.toNat) else none

/-! ## Gathers (R212) -/

/-- A page that holds an address, cached or walked. -/
def pageOf (b : Block) (h : BitVec 24) (va : Nat) : Option TlbEnt :=
  match tlbPage b h va with
  | some t => some t
  | none => match ctxOf b h with
    | some c => walkPage b c va
    | none => none

/-- The pages that a read operand touches, walked at once. -/
def pagesNow (b : Block) (h : BitVec 24) (va ext : Nat) : MemRes :=
  match pageOf b h va with
  | none => .fault
  | some t =>
    let split := t.vbase + t.size - va
    if ext ≤ split then .one (t.gbase + (va - t.vbase))
    else match pageOf b h (va + split) with
      | none => .fault
      | some u => if va + ext > u.vbase + u.size then .tooMany
                  else .two (t.gbase + (va - t.vbase)) (u.gbase + (va + split - u.vbase)) split

/-- The extent of a group in memory. -/
def gatherExt (d : BitVec 256) (g : GatherRun) : Nat := extent g.count (tPitch d) (tRowBytes d)

/-- Keys admitted consecutively, of one table and shard and consecutive local rows, are combined while at most two pages are touched
(R212); `acc` are the groups so far, the newest first. -/
def gatherRuns (b : Block) (h : BitVec 24) (table : Nat) (d : BitVec 256) : List (Nat × Nat) → List GatherRun → List GatherRun
  | [], acc => acc.reverse
  | (row, slot) :: l, acc =>
    let new : GatherRun := { table := table, row := row, count := 1, slot := slot }
    match acc with
    | g :: gs =>
      let wide := { g with count := g.count + 1 }
      let joins := decide (g.table = table) && decide (tShard d row = tShard d g.row) &&
        decide (tLocal d row = tLocal d g.row + g.count) && decide (g.count < 65535) &&
        (match pagesNow b h (tRowVa d g.row) (gatherExt d wide) with
          | .one _ => true
          | .two _ _ _ => true
          | _ => false)
      gatherRuns b h table d l (if joins then wide :: gs else new :: g :: gs)
    | [] => gatherRuns b h table d l [new]

/-- A scratchpad descriptor: address, size, stride, type. -/
def descWord (addr size stride type : Nat) : Word :=
  BitVec.ofNat 64 (packFields [(0, 24, addr), (24, 16, size), (40, 16, stride), (56, 4, type)])

/-- A slot from its fields. -/
def slotBits (op sel : Nat) (d0 d1 d2 : Word) (rep : Nat) : BitVec 256 :=
  BitVec.ofNat 256 (packFields [(0, 8, op), (8, 24, sel), (32, 64, d0.toNat), (96, 64, d1.toNat), (160, 64, d2.toNat),
    (224, 16, rep)])

/-- The position that a gather of stack `t` goes to (R212). -/
def gatherPos (b : Block) (c t : Nat) : Option Nat :=
  ([0, 1, 2, 3].map (fun i => (t + i) % 4)).find? (present b c)

/-- An expander slot enters the digest (R346); its sequence number. -/
def digestXp (b : Block) (n c pos : Nat) (slot : BitVec 256) : Nat × Block :=
  match runOf b n with
  | none => (0, b)
  | some r =>
    let q := digestSeq r (rankOf r c) pos true
    (q, putRun b n (digestSlot r c pos true (leBytes 32 slot.toNat ++ leBytes 4 q)))

/-- The GATHER of one group is queued (R212); its slots count as ready at once when no G position is present. -/
def gatherPush (b : Block) (c n : Nat) (r : Run) (id : Nat) (k : BitVec 512) (d : BitVec 256) (g : GatherRun) : Act :=
  let slots := (List.range g.count).map (g.slot + ·)
  let t := tStack d g.row
  let ext := gatherExt d g
  match pagesNow b r.ctx (tRowVa d g.row) ext with
  | .one a => go slots t (.one a)
  | .two a a' s => go slots t (.two a a' s)
  | _ => pageFault b n r
where
  /-- The baton of a translated group. -/
  go (slots : List Nat) (t : Nat) (m : MemRes) : Act :=
    if !memRouted b m then peerFault b n r
    else match gatherPos b c t with
      | none =>
        let b := markSkips b n
        act (match winOf b c n with
          | some w => putWin b c { w with ready := w.ready ++ slots }
          | none => b)
      | some pos =>
        let src := descWord 0 (tDim d) (tPitch d) (tType d) ||| (1#64 <<< 62)
        let dst := descWord (xRowbuf k + g.slot * xPitch k) (tDim d) (xPitch k) (tType d)
        let slot := slotBits 0x01 0 src dst 0 g.count
        let q := digestXp b n c pos slot
        let e := { pushEnt CoreSt.fresh pos slot (0, 0, 0) m [(t / 4, chargeBytes (g.count * tRowBytes d))] with num := q.1 }
        act (xqPush q.2 c { call := id, run := n, work := .gather e slots })

/-! ## Bags (R202, R208, R211, R214) -/

/-- The remap entries of a bag from position `x.prev` on, and its weights, are written; unplaced ones are counted. -/
def placeBag (b : Block) (c id n : Nat) (x : XCall) (l : List (Option Nat)) (wts : List (BitVec 32)) : Block :=
  let k := x.blk
  let bag := x.f * xB k + x.b
  let miss := (l.filter Option.isNone).length
  let b := if miss = 0 then b else markSkips (cntAdd b cXpUnplaced miss) n
  let b := xWrite b c id n (some bag) (xRemap k + 4 * x.prev) (remapBytes l)
  if xWsum k then
    xWrite b c id n (some bag) (xRemap k + 4 * x.n + 4 * x.prev) (wts.flatMap (fun w => leBytes 4 w.toNat))
  else b

/-- The zero output of an empty bag (R211, R215). -/
def zeroOut (b : Block) (c id n : Nat) (x : XCall) (d : BitVec 256) : Block :=
  let k := x.blk
  if xPooled k then
    xWrite b c id n none (xOut k + x.b * xOutStride k + fCol x.entry) (List.replicate (outRow k d) 0)
  else b

/-- The last group of keys that a call has admitted is queued: nothing can join it any more. -/
def gatherLast (b : Block) (c n : Nat) (r : Run) (id : Nat) (x : XCall) : Act :=
  match x.last with
  | none => act b
  | some g => gatherPush b c n r id x.blk (fmGet x.dirs g.table 0) g

/-- The bags of a feature that need no read are done in order: unusable features, bags after the limit of NONE, empty bags
(R211). What is left begins with a bag to read. -/
def easyBags (b : Block) (c id n : Nat) : List Nat → XCall → Block × XCall
  | [], x => (b, { x with offs := [] })
  | o :: os, x =>
    let count := o - x.prev
    let next := { x with prev := o, b := x.b + 1 }
    if (!curUsable x && (!xWsum x.blk || decide (count = 0))) || x.deadBags then
      easyBags (placeBag b c id n x (List.replicate count none) []) c id n os next
    else if count = 0 then easyBags (zeroOut b c id n x (curDir x)) c id n os next
    else (b, { x with offs := o :: os })

/-- The call goes on with its feature's bags, the next feature, or has admitted all (R202, R206). -/
def xBags (b : Block) (c n : Nat) (r : Run) (id : Nat) (x : XCall) : Act :=
  let y := easyBags b c id n x.offs x
  if !y.2.offs.isEmpty then xIssue y.1 n r id { y.2 with phase := .bag } false
  else if y.2.f + 1 < xF y.2.blk then xIssue y.1 n r id { y.2 with phase := .feature, f := y.2.f + 1, b := 0 } false
  else andThen (gatherLast y.1 c n r id y.2) (fun b => act (putCall b id { y.2 with phase := .issued, issued := false, last := none }))

/-- A bag that fits the window is admitted: keys, remap entries, gathers (R206 to R212). -/
def admitBag (b : Block) (c n : Nat) (r : Run) (id : Nat) (x : XCall) (w : XWindow) (keep new : List (Nat × Nat)) : Act :=
  let k := x.blk
  let d := curDir x
  let table := fTable x.entry
  let count := x.offs.headD x.prev - x.prev
  let keys := w.keys ++ new
  let place (i : Int) : Option Nat := match keyOf table d i with
    | some y => if keep.contains y then slotOf keys y else none
    | none => none
  let placed := x.bagIdx.map place
  let b := cntAdd (putWin b c { w with keys := keys }) cXpKey new.length
  let b := placeBag b c id n x (placed ++ List.replicate (count - x.bagIdx.length) none) x.bagWt
  let rec' : BagRec := { bag := x.f * xB k + x.b, first := x.prev, len := min 65535 count, dir := d, col := fCol x.entry,
                         sample := x.b, slots := (placed.filterMap (fun o => o)).eraseDups }
  let x' := { x with offs := x.offs.drop 1, prev := x.offs.headD x.prev, b := x.b + 1, bagIdx := [], bagWt := [],
                     bags := if xPooled k then x.bags ++ [rec'] else x.bags }
  let rows := new.zipIdx.map (fun y => (y.1.2, w.keys.length + y.2))
  let groups := gatherRuns b r.ctx table d rows x.last.toList
  andThen (actEach b groups.dropLast (fun b g => gatherPush b c n r id k (fmGet x.dirs g.table 0) g))
    (fun b => xBags b c n r id { x' with last := groups.getLast? })

/-- The window is to be turned over before the call goes on: the last group of keys is queued first. -/
def xTurnover (b : Block) (c n : Nat) (r : Run) (id : Nat) (x : XCall) : Act :=
  andThen (gatherLast b c n r id x) (fun b => act (putCall b id { x with phase := .turnover, issued := false, last := none }))

/-- A bag that has been read: one that cannot be served is left unplaced; another is admitted if its new keys fit the free slots, or
waits for a turnover; into an empty window the keys that fit are placed, and with NONE the bag is left unplaced with every later one
(R208, R211). A window that holds no key is not turned over (DEDUCED: there is nothing to empty; log entry 65). -/
def doBag (b : Block) (c n : Nat) (r : Run) (id : Nat) (x : XCall) : Act :=
  let k := x.blk
  let w := (winOf b c n).getD (freshWin n r.clusters.length k)
  if !curUsable x then
    let b := placeBag b c id n x (List.replicate (bagCount x) none) x.bagWt
    xBags b c n r id { x with offs := x.offs.drop 1, prev := x.offs.headD x.prev, b := x.b + 1, bagIdx := [], bagWt := [] }
  else
    let all := distinctKeys (x.bagIdx.filterMap (keyOf (fTable x.entry) (curDir x)))
    let new := all.filter (fun y => !w.keys.contains y)
    if new.length ≤ w.cap - w.keys.length then admitBag b c n r id x w all new
    else if !xPooled k then xBags b c n r id { x with deadBags := true }
    else if w.keys.isEmpty then admitBag b c n r id x w (all.take w.cap) (all.take w.cap)
    else xTurnover b c n r id x

/-! ## Acceptance and checks (R200, R210) -/

/-- A call ends: it leaves its core's list. -/
def callGone (b : Block) (c id : Nat) : Block :=
  let k := coreOf b c
  putCore { b with xp := { b.xp with calls := fmErase b.xp.calls id } } c { k with calls := k.calls.filter (fun y => decide (y ≠ id)) }

/-- A call that fails a check is skipped (R200). -/
def callSkip (b : Block) (c n id : Nat) (x : XCall) (reason : Nat) : Block :=
  cnt (skipAt (callGone b c id) c n reason x.slotNo 0x51 x.off x.streamVa x.slot.toNat) cXpCallSkip

/-- Keys reserved of the dedup store. -/
def storeUsed (b : Block) : Nat := (b.xp.store.map Prod.snd).sum

/-- Keys that a run's first call reserves (R210). -/
def storeNeed (r : Run) (k : BitVec 512) : Nat := r.clusters.length * min (xRows k) (65536 / r.clusters.length)

/-- A call of an LC heat waits for store (R210). -/
def lcWaits (b : Block) : Bool :=
  b.xp.calls.any (fun x => decide (x.2.phase = .storeWait) && (match runOf b x.2.run with
    | some r => r.lc
    | none => false))

/-- A checked call reserves its heat's keys, and goes on with its first feature; a first call that finds too little store
waits. -/
def xReserve (b : Block) (n : Nat) (r : Run) (id : Nat) (x : XCall) : Act :=
  let start (b : Block) : Act := xIssue b n r id { x with phase := .feature, f := 0, b := 0, prev := 0 } false
  if fmHas b.xp.store n then start b
  else if storeUsed b + storeNeed r x.blk ≤ 1048576 && (r.lc || !lcWaits b) then
    start { b with xp := { b.xp with store := fmSet b.xp.store n (storeNeed r x.blk) } }
  else act (putCall (if x.phase = .storeWait then b else cnt b cXpStoreWait) id { x with phase := .storeWait, issued := false })

/-- The run of a call, while its heat goes on. -/
def callRun (b : Block) (x : XCall) : Option Run :=
  match runOf b x.run with
  | some r => if r.abort.isNone && r.endedAt.isNone then some r else none
  | none => none

/-- XCALL_ACCEPT: the next call of a core is accepted and its block read, or a call that waited for store gets it. -/
def xAccept (b : Block) (c : Nat) : Act :=
  match curCall b c with
  | none => act b
  | some (id, x) => match callRun b x with
    | none => act b
    | some r =>
      match x.phase with
      | .accept => xIssue b x.run r id { x with phase := .block } false
      | .storeWait => xReserve b x.run r id x
      | _ => act b

/-- XCALL_ACCEPT (R199, R210). -/
def execXcallAccept (c : Nat) (s : State) : Host.Outcome State Fault Refusal := liftRA (fun b => xAccept b c) s

/-- Offsets clamped in order, with the number of clamps (R202). -/
def clampOffs (n : Nat) : Nat → List Int → List Nat × Nat
  | _, [] => ([], 0)
  | prev, o :: os =>
    let v : Nat := if o < prev then prev else if o > n then n else o.toNat
    let t := clampOffs n v os
    (v :: t.1, t.2 + (if (v : Int) = o then 0 else 1))

/-- Clamps counted; the heat completes with skips (R202). -/
def noteClamps (b : Block) (n k : Nat) : Block := if k = 0 then b else markSkips (cntAdd b cXpClamp k) n

/-- The offsets of a feature have been read: a call that names another row buffer than its heat's window turns that over before its
first bag (R207). -/
def firstBags (b : Block) (c n : Nat) (r : Run) (id : Nat) (x : XCall) : Act :=
  match winOf b c n with
  | some w =>
    if decide (x.f ≠ 0) || winFits w x.blk then xBags b c n r id x
    else if w.keys.isEmpty then xBags (putWin b c (freshWin n r.clusters.length x.blk)) c n r id x
    else xTurnover b c n r id x
  | none => xBags (putWin b c (freshWin n r.clusters.length x.blk)) c n r id x

/-- A read of a call returns (R200 to R204). The data must be what the phase reads; beats that no call awaits, or with other tags than
the current ones, are dropped and counted (R87). -/
def xReadReturn (b : Block) (c : Nat) (h : HeatRead) (d : XRead) : Act :=
  match curCall b c with
  | none => act (staleReply b h.g)
  | some (id, x) => match callRun b x with
    | none => act (staleReply b h.g)
    | some r =>
      let n := x.run
      if !x.issued || !heatReadNow b r.tag h then act (staleReply b h.g)
      else match x.phase, d with
        | .block, .block k =>
          (match blockCheck k with
            | some reason => act (callSkip b c n id x reason)
            | none => xIssue b n r id { x with blk := k, phase := .total } false)
        | .total, .total t =>
          (match totalCheck b c x.blk t with
            | some reason => act (callSkip b c n id x reason)
            | none => xReserve b n r id { x with n := t.toNat })
        | .feature, .feature w =>
          let x := { x with entry := w }
          if fmHas x.dirs (fTable w) then xIssue b n r id { x with phase := .offsets } false
          else xIssue b n r id { x with phase := .dir } false
        | .dir, .dir w => xIssue b n r id { x with dirs := fmSet x.dirs (fTable x.entry) w, phase := .offsets } false
        | .offsets, .offsets l =>
          if l.length = xB x.blk + (if x.f = 0 then 1 else 0) then
            let b := if decide (x.f = 0) && decide (l.headD 0 ≠ 0) then noteClamps b n 1 else b
            let o := clampOffs x.n x.prev (if x.f = 0 then l.drop 1 else l)
            firstBags (noteClamps b n o.2) c n r id { x with offs := o.1, b := 0 }
          else act b
        | .bag, .bag idx wts =>
          if idx.length = bagRead x && decide (wts.length = if xWsum x.blk then bagCount x else 0) then
            doBag (cntAdd b cXpIndex (bagRead x)) c n r id { x with bagIdx := idx, bagWt := wts }
          else act b
        | _, _ => act b

/-- EXPANDER_READ_RETURN. -/
def execExpanderReadReturn (c : Nat) (h : HeatRead) (d : XRead) (s : State) : Host.Outcome State Fault Refusal :=
  liftReplyA [.read (.expander c)] (fun b => xReadReturn b c h d) s

/-! ## Turnover, pooling and the end of a call (R207, R208, R213, R216) -/

/-- The scratchpad bytes that an operand of a patched slot may read, as a range. -/
def readRange (e : PushEnt) (i : Nat) : Option (Nat × Nat) :=
  let d := gDesc e.slot i
  match (roles e.slot).getD i none with
  | none => none
  | some r =>
    if dMem d || (r.write && !(gOpcode e.slot = 0x20 || gOpcode e.slot = 0x22 || (gOpcode e.slot = 0x02 && gSelect e.slot = 1)))
    then none
    else
      let row := (rowBytes (dType d) (dSize d)).getD 0
      some (dAddr d, dAddr d + extent (if dInd d then e.idxLimit else r.rows) (dStride d) row)

/-- A baton reads some byte of the row buffer. -/
def readsRowbuf (e : PushEnt) (w : XWindow) : Bool :=
  [0, 1, 2].any (fun i => match readRange e i with
    | some (lo, hi) => decide (lo < w.addr + w.rows * w.pitch) && decide (w.addr < hi)
    | none => false)

/-- No baton of the run on the cluster reads the row buffer any more, and none of its gathers and pools is left (R208). -/
def rowbufIdle (b : Block) (c n : Nat) (w : XWindow) : Bool :=
  let p := portOf b c
  !p.out.any (fun x => decide (x.run = n) && (x.call.isSome || readsRowbuf x.ent w)) &&
    !(coreOf b c).pushQ.any (fun e => readsRowbuf e w) &&
    !p.xq.any (fun x => decide (x.run = n) && (match x.work with
      | .write _ _ _ => false
      | _ => true)) &&
    !b.xp.calls.any (fun x => decide (x.2.core = c) && decide (x.2.run = n) && !x.2.bags.isEmpty)

/-- WINDOW_TURNOVER: the window is emptied, and the waiting bag is admitted from slot 0; a call that has read no bag yet begins with
its first. -/
def windowTurnover (b : Block) (c : Nat) : Act :=
  match curCall b c with
  | none => act b
  | some (id, x) => match callRun b x, winOf b c x.run with
    | some r, some w =>
      if decide (x.phase = .turnover) && rowbufIdle b c x.run w then
        let b := cnt (putWin b c (freshWin x.run r.clusters.length x.blk)) cXpTurnover
        if x.bagIdx.isEmpty then xBags b c x.run r id x else doBag b c x.run r id { x with phase := .bag }
      else act b
    | _, _ => act b

/-- WINDOW_TURNOVER (R207, R208). -/
def execWindowTurnover (c : Nat) (s : State) : Host.Outcome State Fault Refusal := liftRA (fun b => windowTurnover b c) s

/-- A bag may be pooled: its gathers have ended and its remap entries are written (R213). -/
def bagReady (b : Block) (c id : Nat) (w : XWindow) (g : BagRec) : Bool :=
  g.slots.all w.ready.contains &&
    !(portOf b c).xq.any (fun x => decide (x.call = id) && (match x.work with
      | .write _ _ (some k) => decide (k = g.bag)
      | _ => false))

/-- The POOL slot of a bag (R213). -/
def poolSlot (x : XCall) (g : BagRec) : BitVec 256 :=
  let k := x.blk
  let d0 := descWord (xRowbuf k) (tDim g.dir) (xPitch k) (tType g.dir) ||| (1#64 <<< 61)
  let d1 := if xWsum k then descWord (xRemap k + 4 * x.n + 4 * g.first) g.len 0 0 else 0
  let d2 := descWord (xOut k + g.sample * xOutStride k + g.col) (tDim g.dir) 0 (xOutType k)
  slotBits 0x42 (xMode k) d0 d1 d2 g.len

/-- The POOL baton of the next bag of a call is queued at the next V position in rotation; with none present the slot is
absent. -/
def poolPush (b : Block) (c id : Nat) (x : XCall) (w : XWindow) (g : BagRec) : Block :=
  let k := x.blk
  let vs := presentIn b c 6 4
  let b' := putCall b id { x with bags := x.bags.drop 1, vRot := x.vRot + 1 }
  if vs.isEmpty then markSkips b' x.run
  else
    let pos := vs.getD (x.vRot % vs.length) 6
    let slot := poolSlot x g
    let q := digestXp b' x.run c pos slot
    let e := { pushEnt CoreSt.fresh pos slot (0, 0, 0) .fault [] with
      idxAddr := xRemap k, idxType := 0xA, idxLimit := w.cap, idxFirst := g.first, num := q.1 }
    xqPush q.2 c { call := id, run := x.run, work := .pool e g.bag }

/-- POOL_ISSUE: the oldest bag of the first call whose oldest bag is ready. -/
def poolIssue (b : Block) (c : Nat) : Block :=
  let ready := (coreOf b c).calls.find? (fun id => match fmGet? b.xp.calls id with
    | none => false
    | some x => (callRun b x).isSome && (match x.bags, winOf b c x.run with
      | g :: _, some w => bagReady b c id w g
      | _, _ => false))
  match ready with
  | none => b
  | some id => match fmGet? b.xp.calls id with
    | none => b
    | some x => match x.bags, winOf b c x.run with
      | g :: _, some w => poolPush b c id x w g
      | _, _ => b

/-- POOL_ISSUE (R213). -/
def execPoolIssue (c : Nat) (s : State) : Host.Outcome State Fault Refusal := liftR (fun b => poolIssue b c) s

/-- Everything that a call issued has ended (R216). -/
def callOver (b : Block) (c id : Nat) (x : XCall) : Bool :=
  decide (x.phase = .issued) && x.bags.isEmpty && !(portOf b c).xq.any (fun y => decide (y.call = id)) &&
    !(portOf b c).out.any (fun y => decide (y.call = some id))

/-- XCALL_END: the first call of the core that is over ends. -/
def xcallEnd (b : Block) (c : Nat) : Block :=
  match (coreOf b c).calls.find? (fun id => match fmGet? b.xp.calls id with
      | some x => callOver b c id x
      | none => false) with
  | some id => callGone b c id
  | none => b

/-- XCALL_END (R216). -/
def execXcallEnd (c : Nat) (s : State) : Host.Outcome State Fault Refusal := liftR (fun b => xcallEnd b c) s

end Sys2Proof.Machine
end

