-- ==== Sys2Proof/Machine/Sheets.lean ====
section
/-! DEFINITION. Heat sheets: format, the checks of INSTALL, activation, removal and suspension (R256 to R262). -/

namespace Sys2Proof.Machine

open Sys2Proof

/-! ## Status codes (R260) -/

def shLoading : Nat := 1
def shStaged : Nat := 2
def shActivated : Nat := 3
def shRemoved : Nat := 4
def shSuspended : Nat := 5
def shFormat : Nat := 6
def shCrc : Nat := 7
def shPartition : Nat := 8
def shPlan : Nat := 9
def shOverlap : Nat := 10
def shFrame : Nat := 11
def shSpace : Nat := 12
def shLate : Nat := 13
def shReadError : Nat := 14

/-! ## Format (R256 to R258) -/

/-- A reservation record at an offset, with whether its reserved bits are zero. -/
def sheetRes (bs : List Byte) (at_ : Nat) : Reservation × Bool :=
  let w := bytesField bs (at_ + 2) 2
  ({ ref := bytesField bs at_ 2, perLog2 := nfield w 0 4, mixing := w.testBit 8, phase := bytesField bs (at_ + 4) 2,
     offset := bytesField bs (at_ + 8) 4, budget := bytesField bs (at_ + 12) 4,
     mask := BitVec.ofNat 64 (bytesField bs (at_ + 16) 8) },
   nfield w 4 4 = 0 && nfield w 9 7 = 0 && bytesField bs (at_ + 6) 2 = 0 && bytesField bs (at_ + 24) 8 = 0)

/-- A window record at an offset, with whether its reserved bits are zero. -/
def sheetWin (bs : List Byte) (at_ : Nat) : Window × Bool :=
  let w := bytesField bs at_ 2
  let p := bytesField bs (at_ + 2) 2
  ({ live := nfield w 0 12, perLog2 := nfield p 0 4, phase := bytesField bs (at_ + 4) 2, offset := bytesField bs (at_ + 8) 4,
     length := bytesField bs (at_ + 12) 4 },
   nfield w 12 4 = 0 && nfield p 4 12 = 0 && bytesField bs (at_ + 6) 2 = 0)

/-- The reservation and window records of a sheet. -/
def sheetResList (bs : List Byte) : List (Reservation × Bool) :=
  (List.range (bytesField bs 0x18 2)).map (fun i => sheetRes bs (bytesField bs 0x1C 4 + 32 * i))
def sheetWinList (bs : List Byte) : List (Window × Bool) :=
  (List.range (bytesField bs 0x1A 2)).map (fun i => sheetWin bs (bytesField bs 0x20 4 + 16 * i))

/-- The sheet that bytes spell. -/
def sheetOfBytes (bs : List Byte) : Sheet where
  id := bytesField bs 8 4
  planVer := bytesField bs 0xC 4
  frameLen := bytesField bs 0x10 4
  advGen := bytesField bs 0x14 4
  total := bytesField bs 0x24 4
  crc := bytesField bs 0x3C 4
  res := (sheetResList bs).map Prod.fst
  wins := (sheetWinList bs).map Prod.fst

/-- CRC-32C over bytes with the four bytes at an offset as zero. -/
def crcWithout (bs : List Byte) (off : Nat) : Nat := (crc32c (bs.take off ++ leBytes 4 0 ++ bs.drop (off + 4))).toNat

/-- No value occurs twice. -/
def distinct (l : List Nat) : Bool := decide (l.eraseDups.length = l.length)

/-- Step 3 of R260, the counts first. -/
def sheetFormat (bs : List Byte) : Bool :=
  let s := sheetOfBytes bs
  let nr := bytesField bs 0x18 2
  let nw := bytesField bs 0x1A 2
  let ro := bytesField bs 0x1C 4
  let wo := bytesField bs 0x20 4
  decide (bytesField bs 0 4 = 0x45444954) && decide (bytesField bs 4 2 = 1) && decide (s.id ≠ 0xFFFFFFFF) &&
    decide (nr ≤ 8192) && decide (nw ≤ 1024) && decide (nfield (bytesField bs 6 2) 5 11 = 0) &&
    decide (bytesField bs 0x28 20 = 0) && decide (ro % 32 = 0) && decide (wo % 16 = 0) &&
    decide (ro + 32 * nr ≤ s.total) && decide (wo + 16 * nw ≤ s.total) &&
    (sheetResList bs).all Prod.snd && (sheetWinList bs).all Prod.snd && distinct (s.res.map (fun r => r.ref)) &&
    s.res.all (fun r => decide (r.phase < 2 ^ r.perLog2) && decide (r.budget ≠ 0) && decide (r.mask ≠ 0)) &&
    s.wins.all (fun w => decide (w.phase < 2 ^ w.perLog2) && decide (w.length ≠ 0))

/-- Two reservations overlap (R260). -/
def resOverlap (x y : Reservation) : Bool :=
  let m := 2 ^ min x.perLog2 y.perLog2
  decide (x.mask &&& y.mask ≠ 0) && decide (x.phase % m = y.phase % m) &&
    decide (x.offset < y.offset + y.budget) && decide (y.offset < x.offset + x.budget)

/-- No two elements of a list are related. -/
def noPair {α : Type} (r : α → α → Bool) : List α → Bool
  | [] => true
  | x :: t => t.all (fun y => !r x y) && noPair r t

/-- The slack that no reservation may occupy (R273). -/
def domainSlack (b : Block) : Nat := if twoRack b then dget b 0x4020 1 else 0

/-- Every reservation of a sheet leaves the slack free under a length (R260, step 6). -/
def slackFits (b : Block) (s : Sheet) : Bool := s.res.all (fun r => decide (r.offset + r.budget + domainSlack b ≤ b.tide.length))

/-- Bytes of the store that sheets occupy, but for the staged sheet of partition `p` (R260). -/
def sheetStore (b : Block) (p : Nat) : Nat :=
  (b.tide.sheets.map (fun x =>
    (match x.2.active with
     | some s => roundUp s.total 4096
     | none => 0) +
    (match x.2.staged with
     | some (s, _) => if x.1 = p then 0 else roundUp s.total 4096
     | none => 0))).sum

/-- Steps 2 to 9 of R260 on the bytes read: the status of the first that fails. -/
def sheetCheck (b : Block) (p len F : Nat) (bs : List Byte) : Option Nat :=
  let s := sheetOfBytes bs
  if s.total ≠ len ∨ bs.length ≠ len then some shFormat
  else if crcWithout bs 0x3C ≠ s.crc then some shCrc
  else if !sheetFormat bs then some shFormat
  else match partOf b p with
    | none => some shPartition
    | some q =>
      if nfield (bytesField bs 6 1) 0 5 ≠ p ∨ s.res.any (fun r => decide (r.mask &&& ~~~q.clusters ≠ 0)) then some shPartition
      else if s.planVer ≠ 0 ∧ (b.fab.plan.map (fun x => x.version)) ≠ some s.planVer then some shPlan
      else if s.frameLen > b.tide.length ∨ !slackFits b s ∨ s.wins.any (fun w => decide (w.offset + w.length > b.tide.length)) then
        some shFrame
      else if !noPair resOverlap s.res then some shOverlap
      else if sheetStore b p + roundUp s.total 4096 > 0x400000 then some shSpace
      else if frameStart b F < b.tide.time + b.tide.length then some shLate
      else none

/-! ## Events -/

/-- A SHEET_EVENT record (R277). -/
def sheetEvent (b : Block) (p : Nat) (s : Sheet) (st : Nat) : Block :=
  tideRec b { type := tySheet, part := p, frame := b.tide.frame, a := s.id, v := st }

/-- The sheet was compiled for older margins than the newest advisory's (R260, R431). -/
def sheetStale (b : Block) (s : Sheet) : Bool := decide (s.advGen < b.pwr.gen)

/-- INSTALL or REMOVE under way: its status takes a value, and a refusal after the write was accepted is audited (R260,
R418). -/
def sheetRefuse (b : Block) (p : Nat) (a : DictAcc) (st : Nat) : Block :=
  let b := putSheet b p { sheetOf b p with status := st, loading := none }
  audit b { type := auActionRefused, result := drState, path := a.path, org := a.org, idx := a.idx, sub := a.sub, detail := st }

/-- INSTALL accepted: step 1 of R260 before anything is read. -/
def sheetBegin (b : Block) (p : Nat) (a : DictAcc) : Block :=
  let addr := dget b (0x4100 + p) 1
  let len := dget b (0x4100 + p) 2
  if inPart b p addr len then
    putSheet b p { sheetOf b p with status := shLoading, loading := some (a, addr, len, dget b (0x4100 + p) 3) }
  else sheetRefuse b p a shPartition

/-- The row's own write. -/
def rowSheetInstall (a : DictAcc) (part : Nat) : DictRow where
  mine := decide (part < 32) && a.idx = 0x4100 + part && a.sub = 4 && a.value % 256 = 1
  cond := fun b => stateIf (decide ((sheetOf b part).status ≠ shLoading))
  run := fun b => act (sheetBegin b part a)

/-- SHEET_INSTALL (R259, R260). -/
def execSheetInstall (a : DictAcc) (part : Nat) (s : State) : Host.Outcome State Fault Refusal :=
  dictRow .write a (rowSheetInstall a part) s

/-- The bytes of a sheet have been read, or the read failed or timed out (R260, R261). -/
def sheetRead (b : Block) (p : Nat) (bytes : Option (List Byte)) : Block :=
  let x := sheetOf b p
  match x.loading with
  | none => b
  | some (a, _, len, F) => match bytes with
    | none => sheetRefuse b p a shReadError
    | some bs => match sheetCheck b p len F bs with
      | some st => sheetRefuse b p a st
      | none =>
        let s := sheetOfBytes bs
        let b := wgenUp (putSheet b p { x with status := shStaged, loading := none, staged := some (s, F),
                                               covered := some (s.id, s.crc) })
        if sheetStale b s then audit b { type := auSheetStale, path := a.path, org := a.org, detail := s.id } else b

/-- SHEET_READ_RETURN. -/
def execSheetReadReturn (part : Nat) (bytes : Option (List Byte)) (s : State) : Host.Outcome State Fault Refusal :=
  lift (fun b => retire (sheetRead b part bytes) [.sheet part]) s

/-- REMOVE (R261): a staged sheet goes at once, the active one at its frame, or at the next when that frame has begun. -/
def sheetRemove (b : Block) (p : Nat) : Block :=
  let x := sheetOf b p
  let F := dget b (0x4100 + p) 3
  let x := { x with staged := none, covered := none }
  wgenUp (match x.active with
    | none => putSheet b p { x with status := shRemoved }
    | some _ => putSheet b p { x with removeAt := some (if frameReached b.tide.frame F then (b.tide.frame + 1) % 2 ^ 48 else F) })

/-- The row's own write. -/
def rowSheetRemove (a : DictAcc) (part : Nat) : DictRow where
  mine := decide (part < 32) && a.idx = 0x4100 + part && a.sub = 4 && a.value % 256 = 2
  cond := fun b => stateIf (decide ((sheetOf b part).status ≠ shLoading))
  run := fun b => act (sheetRemove b part)

/-- SHEET_REMOVE (R259, R261). -/
def execSheetRemove (a : DictAcc) (part : Nat) (s : State) : Host.Outcome State Fault Refusal :=
  dictRow .write a (rowSheetRemove a part) s

/-- Active sheets compiled for a longer frame are suspended, and resume under a length that suffices (R262). -/
def sheetSuspend (b : Block) (p : Nat) : Block :=
  let x := sheetOf b p
  match x.active with
  | none => b
  | some s =>
    if decide (b.tide.length < s.frameLen) && !x.suspended then
      sheetEvent (putSheet b p { x with suspended := true, status := shSuspended }) p s shSuspended
    else if decide (s.frameLen ≤ b.tide.length) && x.suspended then
      sheetEvent (putSheet b p { x with suspended := false, status := shActivated }) p s shActivated
    else b

/-- What becomes of a partition's sheets at the beginning of frame `n` (R261): a staged sheet whose frame it is becomes active,
and is suspended at once if it was compiled for longer frames (R262). -/
def sheetFrame (b : Block) (n : Nat) (p : Nat) : Block :=
  let x := sheetOf b p
  let b := match x.removeAt with
    | some F => if frameReached n F then
        putSheet b p { x with active := none, removeAt := none, suspended := false, stale := false,
                              status := if x.loading.isSome || x.staged.isSome then x.status else shRemoved } else b
    | none => b
  let x := sheetOf b p
  match x.staged with
  | some (s, F) =>
    if frameReached n F then
      let y : SheetSlot := { x with active := some s, staged := none, suspended := false, stale := sheetStale b s,
                                    status := if x.loading.isSome then x.status else shActivated }
      sheetSuspend (sheetEvent (putSheet b p y) p s shActivated) p
    else b
  | none => b

/-- Every partition that has sheets. -/
def sheetEach (b : Block) (f : Block → Nat → Block) : Block := (fmKeys b.tide.sheets).foldl f b

end Sys2Proof.Machine
end

