-- ==== Sys2Proof/Machine/Tide.lean ====
section
/-! DEFINITION. The tide unit's commands: FSYNC and announces, frames, deadlines, declarations of late frames, membership,
loss of the reference (spec/10_tide_determinism.md), and the sealing and missing of windows that go with frames (R286,
R293). The rows of messages stand in Receive.lean. -/

namespace Sys2Proof.Machine

open Sys2Proof

/-- The period of FSYNC in nanoseconds. -/
def fsyncNs (b : Block) : Nat := dget b 0x4000 1 * 1000

/-- How many instants of a periodic event lie after `t0` and not after `t1` (R257). -/
def instantsIn (b : Block) (perLog2 phase offset t0 t1 : Nat) : Nat :=
  let upTo (t : Nat) : Int := Int.fdiv ((b.tide.baseFrame : Int) + framesTo b ((t : Int) - offset) - phase) (2 ^ perLog2)
  (upTo t1 - upTo t0).toNat

/-! ## Windows missed (R293) -/

/-- A replica misses a window: nothing is applied, the table leaves service, and the chip leaves its domain. -/
def missWindow (b : Block) (id : Nat) : Act :=
  andThen (leaveService (cnt b cUpdMissed) id true) (fun b => act (leaveDomain b tcWindow))

/-- The parts of the time after `t0` and up to `t1` whose windows a table's replica is to serve: those before its source stopped
sealing, and those from the frame at which it resumed (R287, R293). -/
def servedSpans (b : Block) (l : Live) (t0 t1 : Nat) : List (Nat × Nat) :=
  let after (f : Nat) : Nat := frameStart b ((f + 1) % 2 ^ 48) - 1
  l.gaps.foldl (fun xs g => xs.flatMap (fun x => [(x.1, min x.2 (after g.last)), (max x.1 (frameStart b g.frame - 1), x.2)]))
    [(t0, match l.suspend with
      | some f => min t1 (after f)
      | none => t1)]

/-- The tables in service one of whose windows passes between two instants in which no frame ran, not covered by a SOURCE_SUSPEND. -/
def missBetween (b : Block) (t0 t1 : Nat) : Act :=
  actEach b (fmKeys b.live) (fun b id => match liveOf b id with
    | none => act b
    | some l => match liveSheet b l.part with
      | none => act b
      | some s =>
        let passed (w : Window) : Bool := (servedSpans b l t0 t1).any (fun x =>
          decide (0 < instantsIn b w.perLog2 w.phase w.offset x.1 x.2))
        if l.inService && s.wins.any (fun w => w.live = id && passed w) then missWindow b id else act b)

/-! ## Settlement (R269) -/

/-- The `HOLD` and `CAP` flags of a frame (R267). -/
def frameFlags (b : Block) (n : Nat) : Bool × Bool :=
  (b.tide.holdFrames.contains n || (b.pwr.hold && b.tide.frame = n),
   b.tide.capFrames.contains n || (decide (capState b = 2) && b.tide.frame = n))

/-- Frame `m` settled (R269): the record is the same on every member but for `LOCAL`, so that it carries no `HOLD` or `CAP` of this
chip. -/
def settleFrame (b : Block) (m : Nat) : Block :=
  let ds := b.tide.decls.filter (fun d => d.frame = m)
  let b := { b with tide := { b.tide with decls := b.tide.decls.filter (fun d => d.frame ≠ m), settled := some m,
                                          seen := b.tide.seen.filter (fun x => x.1 ≠ m) } }
  match ds.foldl (fun (o : Option LateDecl) d => match o with
      | none => some d
      | some e => if d.chip < e.chip then some d else some e) none with
  | none => b
  | some d =>
    tideRec (cnt b cFrameLate)
      { type := tyLateFrame, cause := d.cause, chip := some d.chip, frame := m,
        loc := ds.any (fun x => x.chip = chipNo b), count := (ds.map (fun x => x.chip)).eraseDups.length }

/-- The declared frames that `p` admits, settled in order of their declaration. -/
def settleAll (b : Block) (p : Nat → Bool) : Block :=
  (((b.tide.decls.map (fun d => d.frame)).eraseDups).filter p).foldl settleFrame b

/-- Every declared frame two frames before the current one, or earlier, is settled, those that a step of the time has passed over
included. -/
def settleDue (b : Block) : Block := settleAll b (fun m => frameReached b.tide.frame ((m + 2) % 2 ^ 48))

/-! ## Setting the time (R252, R254, R276) -/

/-- A DISCONTINUITY record, counted. Its `RES_REF` holds the number of occurrences that passed while frames were stopped, up to
65,535: R274 asks for that number, and R277 gives it no field (DESIGN CHOICE, log entry 61). -/
def discontinuity (b : Block) (frame before after count : Nat) : Block :=
  tideRec (cnt { b with tide := { b.tide with missed := 0 } } cDiscontinuity)
    { type := tyDiscontinuity, frame := frame, a := before, v := after, count := count, ref := min b.tide.missed 65535 }

/-- Reference time set at a pulse: frames follow it, and windows that a step forward passes over are missed. Time that is set to what
it is makes no record, but at the lock that ends a free run (`relock`, R274). -/
def setTime (b : Block) (v : Nat) (relock : Bool) : Act :=
  let old := b.tide.time
  if v = old && !relock then act b
  else
    let passed := b.tide.inFrames && decide (old < v)
    andThen (if passed then missBetween b old v else act b) (fun b =>
      let b := settleDue (reframe { b with tide := { b.tide with time := v } })
      act (discontinuity b b.tide.frame old v 0))

/-- A new frame origin in force: frames are numbered anew and a pending change is discarded (R254). Frames declared late under the old
numbers are settled (log entry 62). -/
def setOrigin (b : Block) (o : Nat) : Block :=
  if o = b.tide.origin then b
  else
    let b := settleAll b (fun _ => true)
    let b := reframe { b with tide := { b.tide with origin := o, baseFrame := 0, baseTime := o, pendLen := none } }
    discontinuity b b.tide.frame b.tide.time b.tide.time 0

/-- Another length is in force: a FRAME_LENGTH_CHANGE record, and sheets are suspended or resume (R254, R262). -/
def lengthNote (b : Block) (old F : Nat) : Block :=
  if b.tide.length = old then b
  else sheetEach (tideRec b { type := tyLength, frame := F, a := old, v := b.tide.length }) sheetSuspend

/-- A length in force from frame `F` on; the floor takes what this chip asked for once the length reaches it (R253, R254,
R429). -/
def takeLength (b : Block) (len F : Nat) : Block :=
  let at_ := frameStart b F
  let floor := if b.tide.myFloor ≤ len then b.tide.myFloor else b.tide.floor
  lengthNote { b with tide := { b.tide with baseFrame := F, baseTime := at_, length := len, pendLen := none, floor := floor } }
    b.tide.length F

/-- A length change that is due. -/
def lengthDue (b : Block) : Block :=
  match b.tide.pendLen with
  | some (len, F) => if frameReached b.tide.frame F then takeLength b len F else b
  | none => b

/-- The smallest length that FRAME_LENGTH_NS accepts beside its own range (R254). -/
def lengthLeast (b : Block) : Nat := b.fab.flood + if twoRack b then dget b 0x4020 2 else 0

/-- A change to a floor scheduled by the time master, four frames ahead, unless the length in force, or the one that is pending,
suffices (R254). -/
def scheduleLength (b : Block) (len : Nat) : Block :=
  let m := max b.tide.maxFloor len
  let b := { b with tide := { b.tide with maxFloor := m } }
  let new := max (dget b 0x4010 2) m
  if new > (b.tide.pendLen.map Prod.fst).getD b.tide.length then { b with tide := { b.tide with pendLen := some (new, (b.tide.frame + 4) % 2 ^ 48) } } else b

/-- A chip asks for a length: the time master schedules it, another member sends FRAME_LENGTH_REQUEST (R254, R318). -/
def askLength (b : Block) (len : Nat) : Block :=
  if timeMaster b then scheduleLength b len
  else match b.fab.plan with
    | some p => gzSend b p.timeMaster (.lengthRequest len)
    | none => b

/-! ## Announces (R252, R271) -/

/-- The rack of a chip under the plan. -/
def rackOf (b : Block) (c : Nat) : Nat := ((planChip b c).map (fun x => x.rack)).getD 0

/-- Reference time at the next FSYNC: a period after the last, the correction that this period spreads included (R250, R271). -/
def nextPulse (b : Block) : Nat := (((b.tide.pulseAt + fsyncNs b : Nat) : Int) + b.tide.slew).toNat % 2 ^ 64

/-- The time master's own announce: a written `TIME_SET_NS` takes effect at the next FSYNC (R252). -/
def ownAnnounce (b : Block) : Announce where
  nextFsync := b.tide.timeSet.getD (nextPulse b)
  origin := b.tide.newOrigin.getD b.tide.origin
  length := b.tide.length
  pending := (b.tide.pendLen.map Prod.fst).getD 0
  changeAt := (b.tide.pendLen.map Prod.snd).getD 0
  corr := 0

/-- The time master sends its announce at the midpoint of a period, and applies it itself at the next pulse. -/
def announceSend (b : Block) : Block :=
  if timeMaster b && b.tide.locked && b.tide.refOn then
    let b := passRef b (b.tide.pulseAt + fsyncNs b / 2)
    let a := ownAnnounce b
    gzTree { b with tide := { b.tide with announce := some a, newOrigin := none } } (.announce a)
  else b

/-- TIME_ANNOUNCE_SEND (R252). -/
def execTimeAnnounceSend (s : State) : Host.Outcome State Fault Refusal := liftR announceSend s

/-- TIME_ANNOUNCE received: a chip takes the announce of the source of its own rack; the rack leader keeps the time master's for its
frame fields, and takes its time too before its first lock (R252, R271). -/
def onTimeAnnounce (b : Block) (h : GzHdr) (a : Announce) : Block :=
  let take (b : Block) : Block := { b with tide := { b.tide with announce := some a } }
  match b.fab.plan with
  | none => b
  | some p =>
    let me := chipNo b
    if h.src = p.timeMaster then
      if p.twoRack && me = p.rackLeader then
        let b := { b with tide := { b.tide with copied := some a } }
        if b.tide.locked then b else take b
      else if !p.twoRack || rackOf b me = rackOf b h.src then take b
      else b
    else if p.twoRack && h.src = p.rackLeader && rackOf b me = rackOf b h.src then take b
    else b

/-- The length and the pending change of an announce, for a chip that locks with it: frames are numbered from the origin with that
length (R251 to R253). -/
def announceFrames (b : Block) (a : Announce) : Block :=
  { b with tide := { b.tide with length := a.length, origin := a.origin, baseFrame := 0, baseTime := a.origin, pendLen := none } }

/-- The pending change of an announce at its pulse: of the time master its own, for it may have been replaced since; elsewhere what the
announce carries, at once if its frame has begun (R254). -/
def announcePending (b : Block) (a : Announce) : Block :=
  if timeMaster b then b
  else lengthDue { b with tide := { b.tide with pendLen := if a.pending = 0 then none else some (a.pending, a.changeAt) } }

/-- The length that an announce says is in force: a chip that counts with another takes it from its current frame on (R252; log entry
63). -/
def announceLength (b : Block) (a : Announce) : Block :=
  let begun := decide (a.pending ≠ 0) && frameReached b.tide.frame a.changeAt
  if timeMaster b || begun || decide (a.length = b.tide.length) then b
  else
    let pend := b.tide.pendLen
    let b := takeLength b a.length b.tide.frame
    { b with tide := { b.tide with pendLen := pend } }

/-- An announce applied at a pulse. A chip that locks with it (`lock`) takes the length in force, and one that has run free a
DISCONTINUITY record in any case (`relock`; R251, R252, R254, R274). -/
def applyAnnounce (b : Block) (a : Announce) (lock relock : Bool) : Act :=
  let old := b.tide.length
  let b := { b with tide := { b.tide with announce := none, announced := true, slew := a.corr } }
  let b := if lock then announceFrames b a else b
  andThen (setTime b a.nextFsync relock) (fun b =>
    let moved := decide (a.origin ≠ b.tide.origin)
    let b := setOrigin (if lock then reframe b else b) a.origin
    let b := if lock then lengthNote b old b.tide.frame else b
    act (if moved then b else announceLength (announcePending b a) a))

/-! ## Alignment of two racks (R271 to R273) -/

/-- The optical neighbour of the rack leader: the far chip of its first OPTICAL port that is admitted. -/
def opticalPeer (b : Block) : Option Nat :=
  ((List.range 6).find? (fun p => reachOf b p = 4 && (linkOf b p).admitted)).map (fun p => field (linkOf b p).ident 0 12)

/-- TIME_BEACON at the neighbour: answered at once, with the two instants taken at the link control channel. -/
def onTimeBeacon (b : Block) (h : GzHdr) (t1 t2 : Nat) : Block := gzSend b h.src (.beaconReply t1 t2 b.tide.time 0)

/-- Integers in ascending order. -/
def sortInts (l : List Int) : List Int := l.mergeSort (fun x y => decide (x ≤ y))

/-- The median of values; of an even number, the mean of the middle two, rounded down (log entry 23). -/
def median (l : List Int) : Int :=
  let s := sortInts l
  let n := s.length
  if n % 2 = 1 then s.getD (n / 2) 0 else Int.fdiv (s.getD (n / 2 - 1) 0 + s.getD (n / 2) 0) 2

/-- A value clamped to ± a limit. -/
def clampInt (x : Int) (lim : Nat) : Int := max (-(lim : Int)) (min x lim)

/-- The leader takes its rack out of the domain (R272). -/
def rackLeave (b : Block) (cause : Nat) : Block :=
  if b.tide.member then
    let b := b.live.foldl (fun b x => suspendSource b x.1 x.2) b
    let b := gzTree b (.tideLeave (chipNo b) true cause)
    tideRec { b with tide := { b.tide with member := false, rackOut := true, stable := 0, joinAt := none, joinSent := false,
                                           alignGood := 0 } } { type := tyLeave, cause := cause, frame := b.tide.frame }
  else b

/-- The leader has been locked, with `FSYNC_OK` set, for long enough to ask to join, and no table of its own has missed a window (R275,
R293). -/
def joinReady (b : Block) : Bool :=
  b.tide.locked && b.tide.fsyncOk && decide (b.tide.stable ≥ dget b 0x4020 5) && !b.live.any (fun x => x.2.missed)

/-- The whole rack asks to join again: the leader names each of its chips (R275). -/
def rackJoin (b : Block) : Block :=
  match b.fab.plan with
  | none => b
  | some p =>
    let mine := (p.chips.filter (fun x => x.member && decide (x.rack = rackOf b (chipNo b)))).map (fun x => x.chip)
    mine.foldl (fun b c => gzSend b p.timeMaster (.tideJoin c)) { b with tide := { b.tide with joinSent := true } }

/-- TIME_BEACON_REPLY at the leader: the offset, the median of the last eight, the announce with its correction to the rack,
and the limits of R272. -/
def onTimeBeaconReply (b : Block) (t1 t2 t3 t4 : Nat) : Block :=
  if rackLeader b then
    let theta := Int.fdiv (((t2 : Int) - t1) - ((t4 : Int) - t3)) 2 + (BitVec.ofNat 32 (dget b 0x4020 7)).toInt
    let l := (b.tide.thetas ++ [theta]).drop (b.tide.thetas.length + 1 - 8)
    let m := median l
    let lim : Int := dget b 0x4020 2
    let size : Int := max m (-m)
    let beyond := if size > lim then b.tide.alignOver + 1 else 0
    let good := if 2 * size ≤ lim then b.tide.alignGood + 1 else 0
    let b := { b with tide := { b.tide with thetas := l, corr := m, alignOver := beyond, alignGood := good, exch := 2 } }
    let a := { (b.tide.copied.getD (ownAnnounce b)) with nextFsync := nextPulse b, corr := clampInt m (dget b 0x4020 3) }
    let b := gzTree { b with tide := { b.tide with announce := some a } } (.announce a)
    if beyond ≥ 3 then rackLeave b tcAlignLimit
    else if b.tide.rackOut && !b.tide.joinSent && decide (good ≥ dget b 0x4020 5) && joinReady b then rackJoin b
    else b
  else b

/-- A period of its rack ends for the locked leader, and the next begins: a period that began with a beacon and in which no valid
exchange has completed counts towards R272, and TIME_BEACON is sent (R271). -/
def leaderPulse (b : Block) : Block :=
  if rackLeader b && b.tide.locked then
    let t := b.tide
    let lost := if t.exch = 1 then t.alignLost + 1 else if t.exch = 2 then 0 else t.alignLost
    let b := { b with tide := { t with alignLost := lost, alignGood := if t.exch = 1 then 0 else t.alignGood, exch := 1 } }
    let b := if lost ≥ 16 then rackLeave b tcAlignLost else b
    match opticalPeer b with
    | some c => gzSend b c (.beacon b.tide.time 0)
    | none => b
  else b

/-! ## FSYNC (R250 to R252, R275, R456) -/

/-- Every active sheet leaves the slack of a two-rack domain free (R273). -/
def slackHolds (b : Block) : Bool := b.tide.sheets.all (fun x => match x.2.active with
  | some s => slackFits b s
  | none => true)

/-- A planned member that is out of the domain, and has been locked long enough, asks the time master to join; not while a
table has missed a window, and not while a sheet breaks the slack rule (R273, R275, R293). -/
def joinAsk (b : Block) : Block :=
  match b.fab.plan with
  | none => b
  | some p =>
    if memberOf b (chipNo b) && !b.tide.member && !b.tide.joinSent && !b.tide.rackOut && b.tide.joinAt.isNone && !timeMaster b &&
        joinReady b && slackHolds b then
      gzSend { b with tide := { b.tide with joinSent := true } } p.timeMaster (.tideJoin (chipNo b))
    else b

/-- The end of an FSYNC period: `whole` says that the chip was locked with `FSYNC_OK` set throughout it (R275), after which the leader's
period turns over and a chip may ask to join. -/
def periodEnd (b : Block) (whole : Bool) : Block :=
  let t := b.tide
  joinAsk (leaderPulse { b with tide := { t with stable := if whole && t.locked && t.fsyncOk then t.stable + 1 else 0 } })

/-- A faulty or missing pulse: the third in a row clears `FSYNC_OK` (R251). -/
def badPulse (b : Block) : Block :=
  let n := b.tide.bad + 1
  let b := { b with tide := { b.tide with bad := n } }
  if n = 3 then
    tideRec { b with tide := { b.tide with fsyncOk := false, good := 0, stable := 0 } }
      { type := tyFsync, frame := b.tide.frame, a := b.tide.faults }
  else b

/-- The lock at a pulse (R251): 1,000 cycles, two pulses a period apart, and an announce, or for the time master its own
start of the count. A lock during free run ends it (R274). -/
def lockAt (b : Block) : Act :=
  let ok := !b.tide.locked && decide (b.tide.good ≥ 2) && decide (b.tide.cycles ≥ 1000)
  let free := b.tide.freeRun
  let before := b.tide.time
  let done (b : Block) : Block :=
    let b := { b with tide := { b.tide with locked := true, freeRun := false, timeHold := false, stopAt := none, exch := 0 } }
    if free then tideRec b { type := tyRelock, frame := b.tide.frame, a := before, v := b.tide.time } else b
  if !ok then act b
  else if timeMaster b then
    let v := b.tide.timeSet.getD (if free then before else 0)
    andThen (setTime { b with tide := { b.tide with timeSet := none } } v free) (fun b => act (reframe (done b)))
  else match b.tide.announce with
    | some a => andThen (applyAnnounce b a true free) (fun b => act (done b))
    | none => act b

/-- What a good pulse applies on a chip that is locked already, with `FSYNC_OK` set: an announce, and on the time master a written
`TIME_SET_NS` as its time (R252, R254). -/
def pulseApply (b : Block) : Act :=
  if !b.tide.fsyncOk then act b
  else match timeMaster b, b.tide.timeSet, b.tide.announce with
    | true, some v, some a => applyAnnounce { b with tide := { b.tide with timeSet := none } } { a with nextFsync := v } false false
    | true, some v, none => setTime { b with tide := { b.tide with timeSet := none } } v false
    | _, _, some a => applyAnnounce b a false false
    | _, _, none => act b

/-- A good pulse. -/
def goodPulse (b : Block) (cycles : Nat) : Act :=
  let first := decide (b.tide.good = 0)
  let whole := b.tide.locked && b.tide.fsyncOk
  let b := if b.tide.refOn && !first && b.tide.locked then passRef b (nextPulse b) else b
  let good := min 2 (b.tide.good + 1)
  let b := { b with tide := { b.tide with good := good, bad := 0, edges := 0, slew := 0, cycles := max b.tide.cycles cycles,
                                          fsyncOk := b.tide.fsyncOk || decide (good = 2) } }
  andThen (if b.tide.locked then pulseApply b else lockAt b) (fun b =>
    act (periodEnd { b with tide := { b.tide with pulseAt := b.tide.time } } whole))

/-- A pulse sampled high for `width` cycles, `cycles` reference cycles after the previous one (R251, R456). -/
def fsyncPulse (b : Block) (cycles width : Nat) : Act :=
  if !b.tide.refOn || decide (width = 0) then act b
  else if decide (width > 8) || (decide (b.tide.good ≠ 0) && decide (cycles ≠ dget b 0x4000 1 * 100)) then
    act (badPulse { cnt b cFsyncFault with tide := { b.tide with faults := satInc 32 b.tide.faults } })
  else goodPulse b cycles

/-- FSYNC (R251, R456). -/
def execFsync (cycles width : Nat) (s : State) : Host.Outcome State Fault Refusal := liftA (fun b => fsyncPulse b cycles width) s

/-- A pulse that does not arrive: the period is counted on the reference (R251). -/
def fsyncMissing (b : Block) : Block :=
  if b.tide.refOn && decide (b.tide.good ≠ 0) then
    let whole := b.tide.locked && b.tide.fsyncOk
    let b := if b.tide.locked then passRef b (nextPulse b) else b
    periodEnd (badPulse { b with tide := { b.tide with edges := 0, slew := 0, pulseAt := b.tide.time } }) whole
  else b

/-- FSYNC_MISSED (R251). -/
def execFsyncMissed (s : State) : Host.Outcome State Fault Refusal := lift fsyncMissing s

/-! ## One edge of the reference clock -/

/-- What an edge adds: 10 ns, or 9 or 11 while a correction is spread evenly over the period's cycles (R250, R271). -/
def edgeStep (b : Block) : Nat :=
  let n := dget b 0x4000 1 * 100
  let k := b.tide.slew.natAbs
  let here := decide (k * (b.tide.edges + 1) / n > k * b.tide.edges / n)
  if b.tide.freeRun || !here then 10 else if b.tide.slew > 0 then 11 else 9

/-- One edge of REF, or 10 ns of the local oscillator where REF does not run (R250, R274). -/
def edgeBlock (b : Block) : Block :=
  let step := edgeStep b
  let t := b.tide
  let t := if t.refOn then { t with cycles := satInc 32 t.cycles, edges := satInc 32 t.edges } else t
  passTo { b with tide := t } (t.clock + step)

/-- What a step does when no command waits (log entry 6). -/
def refEdge (s : State) : State := if alive s then { s with blk := edgeBlock s.blk } else s

/-! ## Frames (R253, R254, R261, R269, R275, R286) -/

/-- A chip becomes a member at its join frame; the time master at the first frame once it has been locked long enough
(R275). One that a sheet or a missed window keeps out may ask again (R273, R293). -/
def joinFrame (b : Block) (n : Nat) : Block :=
  let asked := match b.tide.joinAt with
    | some F => frameReached n F
    | none => false
  let own := timeMaster b && memberOf b (chipNo b) && joinReady b
  let clear := slackHolds b && !b.live.any (fun x => x.2.missed)
  if b.tide.member || !(asked || own) then b
  else if clear then
    tideRec { b with tide := { b.tide with member := true, joinAt := none, joinSent := false, rackOut := false } }
      { type := tyJoin, frame := n }
  else { b with tide := { b.tide with joinAt := none, joinSent := false } }

/-- Row units of a record (R282). -/
def rowUnits (r : StagedRec) : Nat := (r.data.length + 255) / 256

/-- The records at the head of a queue whose row units fit in a capacity. -/
def takeFit : List StagedRec → Nat → List StagedRec × List StagedRec
  | [], _ => ([], [])
  | r :: t, cap => if rowUnits r ≤ cap then
      let x := takeFit t (cap - rowUnits r)
      (r :: x.1, x.2)
    else ([], r :: t)

/-- A record in the form of an update block (R284). -/
def recBytes (r : StagedRec) : List Byte := leBytes 8 r.row ++ r.data ++ List.replicate (roundUp r.data.length 8 - r.data.length) 0

/-- The epoch that the source seals for the window in frame `A` (R286, R287). -/
def sealFor (b : Block) (id : Nat) (l : Live) (w : Window) (A : Nat) : Block :=
  let cap := (w.length - 1000) * 10 / 91
  let x := if l.held then ([], l.queue) else takeFit l.queue cap
  let recs := x.1
  let epoch := if recs.isEmpty then l.lastSeal else l.lastSeal + 1
  let units := (recs.map rowUnits).sum
  let e : Seal := { liveId := id, epoch := epoch, frame := A, count := recs.length, units := units,
                    crc := crc32c (recs.flatMap recBytes) }
  let resumed := !sealing l
  let sealed := { l with queue := x.2, recs := l.recs ++ recs, lastSeal := epoch, lastFrame := some A }
  let b := putLive b id (keepSeal (if resumed then resumeLive sealed (l.lastSeal + 1) A else sealed) e)
  let b := if resumed then gzTree b (.sourceResume id (l.lastSeal + 1) A) else b
  let send (add : Bool) (rs : List StagedRec) (b : Block) : Block :=
    if rs.isEmpty then b
    else gzTree b (.updateData id add (rs.map (fun r => { row := BitVec.ofNat 64 r.row, data := r.data })))
  let b := recs.foldl (fun b r => send r.add [r] b) b
  gzTree b (.epochSeal e)

/-- The source seals, at the beginning of a frame, the epoch of the window `UPDATE_LEAD_FRAMES` later, once for each window frame (R286);
out of its domain it seals nothing (R287). -/
def sealAll (b : Block) (n : Nat) : Block :=
  let A := (n + dget b 0x3040 2) % 2 ^ 48
  (fmKeys b.live).foldl (fun b id => match liveOf b id with
    | none => b
    | some l =>
      let done := l.lastFrame.any (fun F => frameReached F A)
      if isSource b l && l.inService && (b.fab.plan.isNone || b.tide.member) && !done then
        match windowIn b l.part id A with
        | some w => sealFor b id l w A
        | none => b
      else b) b

/-- The beginning of frame `n`. -/
def onFrame (b : Block) (n : Nat) : Block :=
  let t := { b.tide with frame := n, inFrames := true }
  let t := { t with holdFrames := if b.pwr.hold then noteFrame b t.holdFrames n else t.holdFrames,
                    capFrames := if capState b = 2 then noteFrame b t.capFrames n else t.capFrames }
  let b := settleDue (rebase (lengthDue { b with tide := t, pwr := if b.pwr.hold then { b.pwr with holdCount := b.pwr.holdCount + 1 } else b.pwr }) n)
  let b := sheetEach b (fun b p => sheetFrame b n p)
  sealAll (joinFrame b n) n

/-- FRAME_BEGIN: the next frame, or frame 0 at the origin (R253). -/
def frameBegin (b : Block) : Block :=
  if !timeRuns b then b
  else if !b.tide.inFrames then onFrame (passRef b b.tide.origin) 0
  else
    let n := (b.tide.frame + 1) % 2 ^ 48
    onFrame (passRef b (frameStart b n)) n

/-- FRAME_BEGIN. -/
def execFrameBegin (s : State) : Host.Outcome State Fault Refusal := lift frameBegin s

/-- An LC heat has overrun its deadline `d`: the OVERRUN record, and the declaration of its frame (R267). -/
def overran (b : Block) (part ref frame d tag : Nat) : Block :=
  let f := frameFlags b frame
  declareLate (tideRec (cnt b cOverrun) { type := tyOverrun, cause := tcOverrun, part := part, hold := f.1, cap := f.2, loc := true,
                                          ref := ref, frame := frame, a := d, v := tag }) frame tcOverrun

/-- DEADLINE: the LC heat of scoreboard tag `t` has not ended at its deadline, whether it runs or still waits for the clusters
of its occurrence; its frame is late (R267). -/
def deadline (b : Block) (t : Nat) : Block :=
  match b.comp.lateWait.find? (fun w => decide (w.tag = t) && !w.overrun) with
  | some w =>
    let d := w.begun + w.res.budget
    let b := passTo b w.due
    overran { b with comp := { b.comp with lateWait := b.comp.lateWait.map (fun y => if y = w then { y with overrun := true } else y) } }
      w.part w.res.ref w.frame d t
  | none =>
    match b.comp.runs.find? (fun x => decide (x.2.tag = t) && x.2.deadline.isSome && x.2.endedAt.isNone && !x.2.overrun) with
    | none => b
    | some (n, r) =>
      let d := r.deadline.getD 0
      let b := passTo b r.due
      overran (putRun b n { r with late := true, overrun := true }) r.part r.res r.occ d t

/-- DEADLINE. -/
def execDeadline (tag : Nat) (s : State) : Host.Outcome State Fault Refusal := lift (fun b => deadline b tag) s

/-! ## Declarations and membership between chips (R254, R269, R270, R272, R275) -/

/-- LATE_FRAME received by a member: held, or after settlement recorded, and the chip leaves the domain. -/
def onLateFrame (b : Block) (frame chip cause : Nat) : Block :=
  if !b.tide.member || b.tide.seen.contains (frame, chip) then b
  else
    let b := { b with tide := { b.tide with seen := b.tide.seen ++ [(frame, chip)] } }
    if frameReached b.tide.frame ((frame + 2) % 2 ^ 48) then
      leaveDomain (tideRec (cnt b cLateAfterSettle) { type := tyLateAfter, chip := some chip, frame := frame }) tcLateAfter
    else
      let d : LateDecl := { frame := frame, chip := chip, cause := cause }
      { b with tide := { b.tide with decls := b.tide.decls ++ [d] } }

/-- FRAME_LENGTH_REQUEST at the time master. -/
def onLengthRequest (b : Block) (len : Nat) : Block := if timeMaster b then scheduleLength b len else b

/-- TIDE_LEAVE that names a rack takes out every chip of that rack (R272). -/
def onTideLeave (b : Block) (chip : Nat) (rack : Bool) (cause : Nat) : Block :=
  if rack && decide (rackOf b chip = rackOf b (chipNo b)) && b.tide.member then
    let b := b.live.foldl (fun b x => suspendSource b x.1 x.2) b
    tideRec { b with tide := { b.tide with member := false, rackOut := true, stable := 0, joinAt := none, joinSent := false } }
      { type := tyLeave, cause := cause, frame := b.tide.frame }
  else b

/-- TIDE_JOIN at the time master: answered with a frame four ahead. -/
def onTideJoin (b : Block) (chip : Nat) : Block :=
  if timeMaster b then gzSend b chip (.tideJoinAccept ((b.tide.frame + 4) % 2 ^ 48)) else b

/-- TIDE_JOIN_ACCEPT: the rack of the chip has rejoined, and it becomes a member at the frame (R272, R275); not while a table of it has
missed a window (R293). -/
def onTideJoinAccept (b : Block) (frame : Nat) : Block :=
  if b.tide.member then b
  else if b.live.any (fun x => x.2.missed) then { b with tide := { b.tide with rackOut := false, joinSent := false } }
  else { b with tide := { b.tide with rackOut := false, joinAt := some frame } }

/-! ## Losing the reference (R274) -/

/-- REF_LOSS: time and frames stop, the current frame is late, and so are the LC heats in flight. -/
def refLoss (b : Block) : Block :=
  if !b.tide.refOn then b
  else
    let t := { b.tide with refOn := false, cycles := 0, stable := 0 }
    if b.tide.locked then
      let run := framesRun b
      let b := { b with tide := { t with timeHold := true, stopAt := some t.clock } }
      let b := tideRec b { type := tyTimeHold, cause := tcRefLoss, frame := b.tide.frame, a := b.tide.time }
      let b := if run then declareLate b b.tide.frame tcRefLoss else b
      { b with comp := { b.comp with runs := b.comp.runs.map (fun x =>
        (x.1, if x.2.lc && x.2.endedAt.isNone then { x.2 with late := true } else x.2)) } }
    else { b with tide := { t with good := 0 } }

/-- REF_LOSS. -/
def execRefLoss (s : State) : Host.Outcome State Fault Refusal := lift refLoss s

/-- The occurrences whose instants lie after `t0` and not after `t1`. -/
def occPassed (b : Block) (t0 t1 : Nat) : Nat :=
  (b.tide.sheets.map (fun x => match liveSheet b x.1 with
    | some s => (s.res.map (fun r => instantsIn b r.perLog2 r.phase r.offset t0 t1)).sum
    | none => 0)).sum

/-- Frames have been stopped for `stop` ns: the occurrences that passed are counted for the next DISCONTINUITY record, and the windows
that passed are missed (R274, R293). -/
def stopPassed (b : Block) (stop : Nat) : Act :=
  if b.tide.inFrames then
    let t := b.tide.time
    let n := occPassed b t (t + stop)
    missBetween (cntAdd { b with tide := { b.tide with missed := b.tide.missed + n } } cOccMissed n) t (t + stop)
  else act b

/-- `REF_LOSS_HOLD_US` has passed without reference: free run on the local oscillator, outside the domain. -/
def refHoldExpiry (b : Block) : Act :=
  if b.tide.timeHold && !b.tide.refOn then
    let held := b.tide.time
    let stop := dget b 0x4000 2 * 1000
    andThen (stopPassed (passTo b (b.tide.stopAt.getD b.tide.clock + stop)) stop) (fun b =>
      let b := { b with tide := { b.tide with timeHold := false, freeRun := true, locked := false, fsyncOk := false, good := 0,
                                              announced := false, announce := none, stopAt := none } }
      act (leaveDomain (tideRec b { type := tyFreeRun, frame := b.tide.frame, a := held }) tcFreeRun))
  else act b

/-- REF_LOSS_HOLD_EXPIRY. -/
def execRefLossHoldExpiry (s : State) : Host.Outcome State Fault Refusal := liftA refHoldExpiry s

/-- The reference has returned, 100 clean cycles included, after a stop of `stop` ns: within the hold, time and frames resume
from the held value; during free run a lock has to follow. -/
def refReturn (b : Block) (stop : Nat) : Act :=
  if b.tide.refOn then act b
  else if b.tide.timeHold then
    let held := b.tide.time
    andThen (stopPassed (passTo b (b.tide.stopAt.getD b.tide.clock + stop)) stop) (fun b =>
      let b := { b with tide := { b.tide with refOn := true, timeHold := false, stopAt := none, cycles := 100 } }
      act (discontinuity b b.tide.frame held held (stop / 1000)))
  else act { b with tide := { b.tide with refOn := true, cycles := 100, good := 0 } }

/-- REF_RETURN. -/
def execRefReturn (stopNs : Nat) (s : State) : Host.Outcome State Fault Refusal := liftA (fun b => refReturn b stopNs) s

/-! ## Time and frames in the dictionary (R252, R254, R278) -/

/-- Only the time master of a domain accepts a write (R254). -/
def frameRights (b : Block) : Bool := timeMaster b || !memberOf b (chipNo b)

/-- A length may be written: its range, then `FRAME_CHANGE_AT` and the flood bound. -/
def lengthRule (b : Block) (v : Nat) : Option (Nat × Nat) :=
  if v % 10 ≠ 0 ∨ v < 1000 ∨ v > 10000000 then some (drRange, 6)
  else stateIf (frameRights b && decide (lengthLeast b ≤ v) &&
    frameReached (dget b 0x4010 3) ((b.tide.frame + 4) % 2 ^ 48))

/-- The row's own write. -/
def rowFrameLengthNs (a : DictAcc) : DictRow where
  mine := a.idx = 0x4010 && a.sub = 2
  cond := fun b => lengthRule b (a.value % 2 ^ 32)
  run := fun b =>
    let len := max (a.value % 2 ^ 32) (max b.tide.floor b.tide.maxFloor)
    act { b with tide := { b.tide with pendLen := some (len, dget b 0x4010 3) } }

/-- FRAME_LENGTH_NS (R254). -/
def execFrameLengthNs (a : DictAcc) (s : State) : Host.Outcome State Fault Refusal :=
  dictRow .write a (rowFrameLengthNs a) s

/-- The row's own write. -/
def rowFrameChangeAt (a : DictAcc) : DictRow where
  mine := a.idx = 0x4010 && a.sub = 3
  cond := fun b => stateIf (frameRights b)
  run := act

/-- FRAME_CHANGE_AT (R254): it changes no pending change. -/
def execFrameChangeAt (a : DictAcc) (s : State) : Host.Outcome State Fault Refusal :=
  dictRow .write a (rowFrameChangeAt a) s

/-- No partition has a sheet active or staged (R254). -/
def noSheets (b : Block) : Bool := b.tide.sheets.all (fun x => x.2.active.isNone && x.2.staged.isNone)

/-- The row's own write. -/
def rowFrameOriginNs (a : DictAcc) : DictRow where
  mine := a.idx = 0x4010 && a.sub = 1
  cond := fun b => stateIf (frameRights b && noSheets b)
  run := fun b => act { b with tide := { b.tide with newOrigin := some (a.value % 2 ^ 64) } }

/-- FRAME_ORIGIN_NS (R254): the next announce carries it. -/
def execFrameOriginNs (a : DictAcc) (s : State) : Host.Outcome State Fault Refusal :=
  dictRow .write a (rowFrameOriginNs a) s

/-- The row's own write. -/
def rowTimeSetNs (a : DictAcc) : DictRow where
  mine := a.idx = 0x4000 && a.sub = 3
  cond := fun b => stateIf (timeMaster b)
  run := fun b => act { b with tide := { b.tide with timeSet := some (a.value % 2 ^ 64) } }

/-- TIME_SET_NS (R252): applied at the first FSYNC after the write, by the time master. -/
def execTimeSetNs (a : DictAcc) (s : State) : Host.Outcome State Fault Refusal :=
  dictRow .write a (rowTimeSetNs a) s

end Sys2Proof.Machine
end

