-- ==== Sys2Proof/Machine/HeatCmds.lean ====
section
/-! DEFINITION. The heat composer and the residency arbiter: occurrences, late starts, BE placement, documents, execution
slots (spec/09_heats_scheduling.md). -/

namespace Sys2Proof.Machine

open Sys2Proof

/-! ## Clusters and documents -/

/-- The clusters of a reservation. -/
def resClusters (r : Reservation) : List Nat := (List.range 64).filter (fun c => r.mask.getLsbD c)

/-- An occurrence cannot start its heat now: one of its clusters is held, or an apply bars starts in the partition (R226,
R291, R292). -/
def occHeld (b : Block) (p : Nat) (cs : List Nat) : Bool := applyBars b p || cs.any (clusterHeld b)

/-- A cluster that no heat holds and on which no baton is outstanding is unused from now (R430). -/
def noteUnused (b : Block) (c : Nat) : Block :=
  if !clusterHeld b c && (portOf b c).out.isEmpty then
    { b with pwr := { b.pwr with clusters := fmSet b.pwr.clusters c { pwrOf b c with unused := b.tide.clock } } }
  else b

/-- The oldest pending chunk of a document that may start: its in-flight limit allows one and none has aborted (R234, R235). -/
def pendingChunk (d : Doc) : Option Nat :=
  if d.failed.isSome || decide (d.flying ≥ d.par) then none
  else match least d.again with
    | some k => some k
    | none => if d.next < d.total then some d.next else none

/-- A chunk is in flight. -/
def takeChunk (d : Doc) (k : Nat) : Doc :=
  { d with flying := d.flying + 1, again := d.again.filter (· ≠ k), next := if k = d.next then k + 1 else d.next }

/-- Index, tokens and offset of a chunk (R233). -/
def chunkOf (d : Doc) (k : Nat) : Nat × Nat × Nat := (k, min d.len (d.tokens - k * d.len), k * d.len)

/-- The context holds an execution slot and may run (R223). -/
def ctxRuns? (b : Block) (h : BitVec 24) : Bool := (ctxOf b h).any (fun c => c.slot.isSome && decide (c.state = .resident))

/-- One work item became ready before another; in one step the lower tag goes first (R225). -/
def readyFirst (x y : Nat × Item) : Bool :=
  decide (x.2.readyNo < y.2.readyNo) || (decide (x.2.readyNo = y.2.readyNo) && decide (x.1 < y.1))

/-- The first work item of a list in an order. -/
def firstItem (before : Nat × Item → Nat × Item → Bool) (l : List (Nat × Item)) : Option (Nat × Item) :=
  l.foldl (fun m x => match m with
    | none => some x
    | some y => if before x y then some x else some y) none

/-! ## LC heats (R224 to R226, R235, R263, R267, R431) -/

/-- The ready LC heats of a partition that name a reservation and wait for no late start. -/
def lcReady (b : Block) (p ref : Nat) : List (Nat × Item) :=
  b.sb.items.filter (fun x => decide (x.2.part = p) && decide (x.2.kind = .heat) && decide (x.2.stage = .composer) &&
    eLc x.2.entry && decide (eRes x.2.entry = ref) && hasProgram x.2.entry && ctxRuns? b x.2.ctx &&
    !b.comp.lateWait.any (fun y => decide (y.tag = x.1)))

/-- The document of a context, and its chunk, that is bound next (R235): documents in the order in which they became ready. -/
def bindable (b : Block) (h : BitVec 24) : Option (Nat × Item × Doc × Nat) :=
  match firstItem readyFirst (b.sb.items.filter (fun x => x.2.ctx = h &&
      (decide (x.2.stage = .composer) || decide (x.2.stage = .running)) &&
      (match x.2.doc with
       | some d => (pendingChunk d).isSome
       | none => false))) with
  | none => none
  | some (t, i) => match i.doc with
    | none => none
    | some d => (pendingChunk d).map (fun k => (t, i, d, k))

/-- A chunk bound to an LC heat counts as started (R235). -/
def bindChunk (b : Block) (t : Nat) (i : Item) (d : Doc) (k : Nat) : Block :=
  cnt (putItem b t { i with doc := some (takeChunk d k), stage := .running, started := true,
                            startAt := if k = 0 then stamp b else i.startAt,
                            frame := if k = 0 then frameLo b else i.frame }) cChunkBind

/-- An LC heat starts at an occurrence that began at `begun` in frame `frame`, with its deadline (R223, R235, R263). -/
def lcStart (b : Block) (t : Nat) (i : Item) (res : Reservation) (begun frame : Nat) (late ran : Bool) : Act :=
  let bound := if res.mixing then bindable b i.ctx else none
  let b := match bound with
    | some (u, j, d, k) => bindChunk b u j d k
    | none => b
  let r := startPrimary b t i (resClusters res) (some (begun + res.budget)) late
    (bound.map (fun x => chunkOf x.2.2.1 x.2.2.2)) (bound.map (fun x => x.1)) res.budget
  let b := match runOf r.2 r.1 with
    | some x => putRun r.2 r.1 { x with occ := frame, overrun := ran }
    | none => r.2
  endIfOver b r.1

/-- Clusters that have not reported ACTIVE when an occurrence starts on them: the record follows their report (R431). -/
def wakeLate (b : Block) (cs : List Nat) (begun : Nat) : Block :=
  cs.foldl (fun b c =>
    let x := pwrOf b c
    if x.state ≠ 3 ∧ !withdrawn b c then
      cnt { b with pwr := { b.pwr with clusters := fmSet b.pwr.clusters c { x with late := some begun } } } cWakeLate
    else b) b

/-- BE heats that still run at an occurrence on one of their clusters: each is counted once (R230). -/
def beOverruns (b : Block) (cs : List Nat) : Block :=
  b.comp.runs.foldl (fun b x =>
    if !x.2.lc && x.2.endedAt.isNone && !x.2.overrun && isHeatRun x.2 && x.2.clusters.any cs.contains then
      cnt (putRun b x.1 { x.2 with overrun := true }) cBeOverrun
    else b) b

/-- A tide record of an occurrence (R267). -/
def occRec (b : Block) (type cause p ref frame begun v : Nat) : Block :=
  let f := frameFlags b frame
  tideRec b { type := type, cause := cause, part := p, hold := f.1, cap := f.2, loc := true, ref := ref, frame := frame, a := begun,
              v := v }

/-- OCCURRENCE_BEGIN: the first ready heat starts; under a brownout hold the occurrence is missed; while its clusters are
held, the heat waits for them and the frame is late (R224 to R226, R267). -/
def occurrenceBegin (b : Block) (p ref : Nat) : Act :=
  match liveSheet b p with
  | none => act b
  | some s => match s.res.find? (fun r => decide (r.ref = ref)) with
    | none => act b
    | some r =>
      if !framesRun b || !inFrame r.perLog2 r.phase b.tide.frame || occBegun b p ref then act b
      else
        let F := b.tide.frame
        let begun := frameStart b F + r.offset
        let b := passRef b begun
        let b := { b with comp := { b.comp with occ := fmSet b.comp.occ (p * 65536 + ref) (F + 1) } }
        let cs := resClusters r
        let b := beOverruns b cs
        match firstItem readyFirst (lcReady b p ref) with
        | none => act b
        | some (t, i) =>
          if b.pwr.hold then act (declareLate (occRec (cnt b cOccMissed) tyMissed tcMissed p ref F begun 0) F tcMissed)
          else if occHeld b p cs then
            let due := clockAt b (begun + r.budget)
            let w : LateOcc := { tag := t, part := p, res := r, begun := begun, due := due, frame := F, overrun := false }
            act (declareLate { cnt b cLateStart with comp := { b.comp with lateWait := b.comp.lateWait ++ [w] } } F tcLateStart)
          else lcStart (wakeLate b cs begun) t i r begun F false false

/-- OCCURRENCE_BEGIN. -/
def execOccurrenceBegin (part res : Nat) (s : State) : Host.Outcome State Fault Refusal := liftRA (fun b => occurrenceBegin b part res) s

/-- The heat of a late occurrence no longer waits for its clusters; the record names its start (R267, R277). -/
def dropLate (b : Block) (x : LateOcc) (start : Nat) : Block :=
  occRec { b with comp := { b.comp with lateWait := b.comp.lateWait.filter (fun y => decide (y ≠ x)) } }
    tyLateStart tcLateStart x.part x.res.ref x.frame x.begun start

/-- A waiting occurrence is given up: its heat never started, and no rule states the instant that its record names (log entry 38). -/
def giveUpLate (b : Block) (x : LateOcc) : Block := dropLate b x (Config.noStart x.begun)

/-- Heats that wait for held clusters start once the last of these is released, with the record that names both instants
(R226, R267, R277). Under a brownout hold such a heat waits for a later occurrence (R223, R424). -/
def lateStart (b : Block) : Act :=
  if b.rcv.stage ≠ .idle then act b
  else actEach b b.comp.lateWait (fun b x => match itemOf b x.tag with
    | none => act (giveUpLate b x)
    | some i =>
      if i.stage ≠ .composer then act (giveUpLate b x)
      else if occHeld b x.part (resClusters x.res) then act b
      else if b.pwr.hold then act (giveUpLate b x)
      else lcStart (dropLate b x (stamp b)) x.tag i x.res x.begun x.frame true x.overrun)

/-- CLUSTER_RELEASE: the clusters of a run that has ended are free, and a late LC heat may start (R221, R226). -/
def clusterRelease (b : Block) (n : Nat) : Act :=
  match runOf b n with
  | none => act b
  | some r =>
    if r.endedAt.isNone || r.released then act b
    else
      let b := putRun b n { r with released := true }
      let b := r.clusters.foldl noteUnused b
      lateStart (dropRun b n)

/-- CLUSTER_RELEASE. -/
def execClusterRelease (run : Nat) (s : State) : Host.Outcome State Fault Refusal := liftA (fun b => clusterRelease b run) s

/-! ## BE heats (R227 to R232) -/

def dBudget (d : BitVec 256) : Nat := field d 0 32
def dClusters (d : BitVec 256) : Nat := field d 32 7
def dDocument (d : BitVec 256) : Bool := bitAt d 39
def dParallel (d : BitVec 256) : Nat := field d 40 7
def dChunk (d : BitVec 256) : Nat := field d 48 16
def dTokens (d : BitVec 256) : Nat := field d 64 32

/-- The document that a descriptor makes of an entry (R229, R233); one of no tokens runs as one heat. -/
def docOf (b : Block) (d : BitVec 256) : Option Doc :=
  if dDocument d && decide (dTokens d ≠ 0) then
    let len := if dChunk d = 0 then dget b 0x3010 2 else dChunk d
    some { tokens := dTokens d, len := len, par := if dParallel d = 0 then dget b 0x3010 5 else dParallel d,
           total := (dTokens d + len - 1) / len, next := 0, again := [], flying := 0, failed := none, skips := false,
           replayed := false }
  else none

/-- BE_DESCRIPTOR_READ_RETURN (R227, R228); beats that the work item does not await, or with other tags than the current ones, are
dropped and counted (R87). -/
def beDescReturn (b : Block) (t : Nat) (h : HeatRead) (d : BitVec 256) : Block :=
  match itemOf b t with
  | none => staleReply b h.g
  | some i => match i.descRd with
    | .flying _ _ =>
      if decide (i.stage = .composer) && heatReadNow b t h then putItem b t { i with descRd := .idle, desc := some d, doc := docOf b d }
      else staleReply b h.g
    | _ => staleReply b h.g

/-- BE_DESCRIPTOR_READ_RETURN. -/
def execBeDescriptorReadReturn (tag : Nat) (h : HeatRead) (d : BitVec 256) (s : State) : Host.Outcome State Fault Refusal :=
  liftReply [.read (.beDesc tag)] (fun b => beDescReturn b tag h d) s

/-- A BE heat, or the next chunk of a document, that has reached the composer and not started. -/
def beWaits (i : Item) : Bool :=
  decide (i.kind = .heat) && !eLc i.entry && hasProgram i.entry && (match i.doc with
    | none => decide (i.stage = .composer)
    | some d => (decide (i.stage = .composer) || decide (i.stage = .running)) && (pendingChunk d).isSome)

/-- The ready BE heats of a partition (R223). -/
def beReady (b : Block) (p : Nat) : List (Nat × Item) :=
  b.sb.items.filter (fun x => decide (x.2.part = p) && beWaits x.2 && x.2.desc.isSome && ctxRuns? b x.2.ctx)

/-- The order in which ready BE heats are considered: first claim, then the contexts that do not yield, then readiness (R232,
R240). -/
def beFirst (b : Block) (x y : Nat × Item) : Bool :=
  let yields (z : Nat × Item) : Bool := (ctxOf b z.2.ctx).any (fun c => c.yielding)
  (x.2.starved && !y.2.starved) || (x.2.starved = y.2.starved &&
    ((!yields x && yields y) || (yields x = yields y && readyFirst x y)))

/-- `BUDGET_NS` fits before the next occurrence that includes the cluster (R230). -/
def beFits (b : Block) (p c budget : Nat) : Bool :=
  if budget = 0 then !reservedCluster b p c
  else match nextOccurrence b p c with
    | none => true
    | some t => decide (b.tide.time + budget ≤ t)

/-- The clusters of the partition that a BE heat could use (R230, R359). -/
def beUsable (b : Block) (p : Nat) (i : Item) : List Nat :=
  (partClusters b p).filter (fun c => !withdrawn b c && beFits b p c (dBudget (i.desc.getD 0)))

/-- Clusters for which an occurrence waits (R226). -/
def lateClaims (b : Block) : List Nat := b.comp.lateWait.flatMap (fun y => resClusters y.res)

/-- Clusters that starved heats of a partition which satisfy `f` could use (R232). -/
def starveClaims (b : Block) (p : Nat) (f : Nat × Item → Bool) : List Nat :=
  ((beReady b p).filter (fun y => y.2.starved && f y)).flatMap (fun y => beUsable b p y.2)

/-- Clusters of units whose tests are due (R362). -/
def testClaims (b : Block) : List Nat := (b.rel.units.filter (fun x => x.2.due && x.2.testing.isNone)).map (fun x => unitCluster x.1)

/-- Clusters that one of the starved heats before `x` could use, for which an occurrence waits, or, against a heat that is
not starved, whose units' tests are due (R226, R232, R362). -/
def claimed (b : Block) (p : Nat) (x : Nat × Item) : List Nat :=
  starveClaims b p (fun y => decide (y.1 ≠ x.1) && beFirst b y x) ++ lateClaims b ++ (if x.2.starved then [] else testClaims b)

/-- The eligible clusters of a BE heat (R231). -/
def beEligible (b : Block) (p : Nat) (x : Nat × Item) : List Nat :=
  let no := claimed b p x
  (beUsable b p x.2).filter (fun c => !clusterHeld b c && decide ((pwrOf b c).state ≥ 2) && !no.contains c)

/-- The rank of a cluster for an entry (R231). -/
def beRank (b : Block) (i : Item) (c : Nat) : Nat :=
  if eAffCluster i.entry = c then 0
  else if (coreOf b c).lastCtx = some i.ctx then 1
  else if eAffStack i.entry ≤ 15 ∧ dget b 0x1011 (c + 1) = eAffStack i.entry then 2
  else 3

/-- Clusters that the heat asks for (R229). -/
def beCount (b : Block) (p : Nat) (i : Item) : Nat :=
  min (max 1 (dClusters (i.desc.getD 0))) (partClusters b p).length

/-- Where a BE heat is placed, if it can be (R231). -/
def bePlacement (b : Block) (p : Nat) (x : Nat × Item) : Option (List Nat) :=
  let l := beEligible b p x
  let ranked := [0, 1, 2, 3].flatMap (fun k => l.filter (fun c => decide (beRank b x.2 c = k)))
  let n := beCount b p x.2
  if n ≤ ranked.length then some (ranked.take n) else none

/-- BE starts are open: no hold, no LC throttling, no apply of the partition (R223, R246, R291). -/
def beOpen (b : Block) (p : Nat) : Bool := startsOpen b && decide (capState b ≠ 2) && !applyBars b p

/-- The BE heat that the composer starts next, with its clusters; one that cannot be placed is passed over (R232). -/
def bePick (b : Block) (p : Nat) : Option (Nat × Item × List Nat) :=
  if beOpen b p then
    match firstItem (beFirst b) ((beReady b p).filter (fun x => (bePlacement b p x).isSome)) with
    | none => none
    | some x => (bePlacement b p x).map (fun cs => (x.1, x.2, cs))
  else none

/-- A BE heat, or the next chunk of a document, starts (R223, R233, R234). -/
def beStart (b : Block) (t : Nat) (i : Item) (cs : List Nat) : Act :=
  let budget := dBudget (i.desc.getD 0)
  let i := { i with starved := false, starveBy := b.tide.clock + dget b 0x3010 3 * 1000 }
  let r := match i.doc with
    | none => startPrimary b t i cs none false none none budget
    | some d => match pendingChunk d with
      | some k => startPrimary b t { i with doc := some (takeChunk d k) } cs none false (some (chunkOf d k)) none budget
      | none => startPrimary b t i cs none false none none budget
  endIfOver r.2 r.1

/-- BE_PLACE (R231, R232). -/
def bePlace (b : Block) (p : Nat) : Act :=
  match bePick b p with
  | some (t, i, cs) => beStart b t i cs
  | none => act b

/-- BE_PLACE. -/
def execBePlace (part : Nat) (s : State) : Host.Outcome State Fault Refusal := liftRA (fun b => bePlace b part) s

/-- CHUNK_START (R234): the next chunk of a document, when the composer's turn is its. -/
def chunkStart (b : Block) (t : Nat) : Act :=
  match itemOf b t with
  | none => act b
  | some i => match bePick b i.part with
    | some (u, j, cs) => if u = t ∧ j.doc.isSome then beStart b t j cs else act b
    | none => act b

/-- CHUNK_START. -/
def execChunkStart (tag : Nat) (s : State) : Host.Outcome State Fault Refusal := liftRA (fun b => chunkStart b tag) s

/-- BE_STARVE (R232): the heat has first claim. -/
def beStarve (b : Block) (t : Nat) : Block :=
  match itemOf b t with
  | none => b
  | some i =>
    if beWaits i && !i.starved then cnt (putItem (passTo b i.starveBy) t { i with starved := true }) cBeStarve else b

/-- BE_STARVE. -/
def execBeStarve (tag : Nat) (s : State) : Host.Outcome State Fault Refusal := liftR (fun b => beStarve b tag) s

/-! ## Execution slots (R36 to R38, R237 to R240) -/

/-- The context of a partition that is given a slot next (R237). -/
def slotNext (b : Block) (p : Nat) : Option Ctx :=
  firstBy (fun x y =>
      (slotLc b x && !slotLc b y) || (slotLc b x = slotLc b y && decide (x.slotWait.getD 0 < y.slotWait.getD 0)))
    (slotWaiters b p)

/-- The context's record is in the HCT (R36). -/
def inHct (b : Block) (c : Ctx) : Bool := b.obj.hct.contains (field c.handle 0 20)

/-- A slot is given to a context, whose items without a program end (R38, R221). Of the 64 numbers it takes the lowest that no context
holds (DESIGN CHOICE: R37 lets a context take any slot of its partition, and no rule names which). -/
def slotGive (b : Block) (c : Ctx) : Act :=
  match lowestFree ((b.obj.ctxs.map Prod.snd).filterMap (fun x => x.slot)) 0 64 with
  | none => act b
  | some n =>
    let b := hctTouch (putCtx b { c with state := .resident, slot := some n, slotWait := none }) (field c.handle 0 20)
    (b, (b.sb.items.filter (fun x => x.2.ctx = c.handle && decide (x.2.kind = .heat) && decide (x.2.stage = .composer) &&
      !hasProgram x.2.entry)).map (fun x => Task.work x.1 stDone))

/-- SLOT_ASSIGN (R237 steps 1 and 2): a free slot, or that of a Resident context without admitted work. -/
def slotAssign (b : Block) (p : Nat) : Act :=
  match slotNext b p with
  | none => act b
  | some c =>
    if !inHct b c then act b
    else if slotFree b p then slotGive b c
    else match idleHolder b p with
      | some v => slotGive (leaveSlot b v .created) c
      | none => act b

/-- SLOT_ASSIGN. -/
def execSlotAssign (part : Nat) (s : State) : Host.Outcome State Fault Refusal := liftRA (fun b => slotAssign b part) s

/-- HCT_RECORD_READ_RETURN (R36): the record of a context that waits for a slot. -/
def hctReturn (b : Block) (id : Nat) : Block :=
  match fmGet? b.obj.ctxs id with
  | some c => if c.slotWait.isSome && !inHct b c then hctTouch b id else b
  | none => b

/-- HCT_RECORD_READ_RETURN. -/
def execHctRecordReadReturn (ctx : Nat) (s : State) : Host.Outcome State Fault Refusal := liftReply [.hct ctx] (fun b => hctReturn b ctx) s

/-- When every holder of a partition's slots is Blocked, the instant at which the last has been so past its threshold. -/
def evictionDue (b : Block) (p : Nat) : Nat :=
  let l := slotHolders b p
  if l.all (fun c => decide (c.state = .blocked)) && !l.any (fun c => c.yielding) then
    l.foldl (fun m c => max m c.evictAt) 0
  else 0

/-- EVICTION (R238, R240): the slot of the evicted context goes to the one that waits. -/
def eviction (b : Block) (p : Nat) : Act :=
  match slotNext b p with
  | none => act b
  | some c =>
    if !inHct b c || slotFree b p || (idleHolder b p).isSome then act b
    else
      let b := passTo b (evictionDue b p)
      match evictable b p with
      | some v => slotGive (cnt (leaveSlot b v .created) cSlotEvict) c
      | none => act b

/-- EVICTION. -/
def execEviction (part : Nat) (s : State) : Host.Outcome State Fault Refusal := liftRA (fun b => eviction b part) s

end Sys2Proof.Machine
end

