-- ==== Sys2Proof/Machine/Tables.lean ====
section
/-! DEFINITION. Live tables: update blocks, staging, seals, windows and applies, and the control commands
(spec/11_table_updates.md). Sealing goes with frames and stands in Tide.lean. -/

namespace Sys2Proof.Machine

open Sys2Proof

/-! ## The staging ring (R296) -/

/-- Bytes that a record takes of the ring: its row padded to a multiple of 8. -/
def stageSize (data : List Byte) : Nat := roundUp data.length 8

/-- Every staged record. -/
def stagedAll (b : Block) : List StagedRec :=
  b.live.flatMap (fun x => x.2.queue ++ x.2.recs ++ (match x.2.apply with
    | some a => a.recs
    | none => []))

/-- `n` bytes from a position lie in the ring and in no staged record. -/
def stageOpen (b : Block) (pos n : Nat) : Bool :=
  decide (pos + n ≤ 2 ^ dget b 0x3040 4) &&
    (stagedAll b).all (fun r => decide (pos + n ≤ r.pos) || decide (r.pos + stageSize r.data ≤ pos))

/-- Bytes that the rows of an update message take. -/
def transitSize (m : GzOut) : Nat :=
  match m.msg with
  | .updateData _ _ recs => (recs.map (fun r => stageSize r.data)).sum
  | _ => 0

/-- Bytes of the ring that records in transit through the chip take: those of messages of other chips that wait at a port, or are not
yet acknowledged there. -/
def transitBytes (b : Block) : Nat :=
  let out := b.fab.ports.flatMap (fun p => p.2.waiting ++ p.2.copies.map Prod.snd) ++ b.fab.resend
  ((out.filter (fun m => decide (m.src ≠ chipNo b))).map transitSize).sum

/-- A row put in the ring: where it lies; none when the ring is full or absent. -/
def stagePut (b : Block) (data : List Byte) : Option (Nat × Block) :=
  let n := stageSize data
  let used := ((stagedAll b).map (fun r => stageSize r.data)).sum + transitBytes b
  let put (pos : Nat) : Nat × Block := (pos, wrOwn { b with stagePos := pos + n } (dget b 0x3040 3 + pos) data)
  if decide (dget b 0x3040 3 = 0) || decide (used + n > 2 ^ dget b 0x3040 4) then none
  else if stageOpen b b.stagePos n then some (put b.stagePos)
  else if stageOpen b 0 n then some (put 0)
  else none

/-! ## Update blocks on the source (R283 to R285, R288) -/

/-- Fields of a block header (R284). -/
def uLive (h : BitVec 256) : Nat := field h 0 12
def uAdd (h : BitVec 256) : Bool := bitAt h 12
def uCount (h : BitVec 256) : Nat := field h 32 32
def uId (h : BitVec 256) : Nat := field h 64 64

/-- Bytes of a record of a table. -/
def recSize (l : Live) : Nat := 8 + roundUp (tRowBytes l.dir) 8

/-- The header passes its check (R285). -/
def headerOk (b : Block) (i : Item) (h : BitVec 256) : Bool :=
  match liveOf b (uLive h) with
  | none => false
  | some l =>
    decide (field h 13 3 = 0) && decide (field h 16 16 = 0) && decide (field h 128 128 = 0) && l.inService && isSource b l &&
      decide (1 ≤ uCount h) && decide (uCount h ≤ 1048576) && decide (8 * eLength i.entry = 32 + uCount h * recSize l) &&
      (!uAdd h || tyFloat (tType l.dir))

/-- The TABLE_UPDATE work item whose block is taken next (R285). -/
def blockNext (b : Block) : Option (Nat × Item) :=
  firstItem readyFirst (b.sb.items.filter (fun x => decide (x.2.stage = .updating) && !fmHas b.upd x.1))

/-- The pages of a block translate to local device memory (R285, R468). -/
def blockReads (b : Block) (i : Item) (len : Nat) : Bool :=
  let va := eProgram i.entry
  (translateOwn b i.ctx va false).isSome && (translateOwn b i.ctx (va + len - 1) false).isSome &&
    (List.range (len / 0x10000 + 1)).all (fun k =>
      decide (va + k * 0x10000 ≥ va + len) || (translateOwn b i.ctx (va + k * 0x10000) false).isSome)

/-- Records staged in order at the end of a table's queue (R285): rows outside the table are dropped; none when the ring
cannot take one of them. The number staged and dropped. -/
def stageRecs (id tag uid : Nat) (add : Bool) : List UpdRec → Block → Nat × Nat → Option (Block × Nat × Nat)
  | [], b, n => some (b, n)
  | r :: rs, b, (k, d) => match liveOf b id with
    | none => none
    | some l =>
      if r.row.toNat ≥ tRows l.dir then stageRecs id tag uid add rs (cnt b cUpdRowSkip) (k, d + 1)
      else match stagePut b r.data with
        | none => none
        | some (pos, b) =>
          let s : StagedRec := { uid := uid, pos := pos, row := r.row.toNat, data := r.data, add := add, tag := some tag }
          stageRecs id tag uid add rs (cnt (putLive b id { l with queue := l.queue ++ [s] }) cUpdStaged) (k + 1, d)

/-- UPDATE_HEADER_READ_RETURN: the next block's header is checked and its records staged; a block that the ring cannot take
waits (R285, R296). Beats that no block awaits, or with other tags than the current ones, are dropped and counted (R87). -/
def updateRead (b : Block) (t : Nat) (g : HeatRead) (h : BitVec 256) (recs : List UpdRec) : Act :=
  match blockNext b with
  | none => act (staleReply b g.g)
  | some (u, i) =>
    if decide (u ≠ t) || !heatReadNow b t g then act (staleReply b g.g)
    else if !blockReads b i 32 then (b, [.work t stPageFault, .lose i.ctx stPageFault])
    else if !headerOk b i h then (cnt b cUpdBlockBad, [.work t stSkips])
    else if !blockReads b i (8 * eLength i.entry) then (b, [.work t stPageFault, .lose i.ctx stPageFault])
    else match liveOf b (uLive h) with
      | none => act b
      | some l =>
        if recs.length ≠ uCount h ∨ !recs.all (fun r => decide (r.data.length = tRowBytes l.dir)) then act b
        else match stageRecs (uLive h) t (uId h) (uAdd h) recs b (0, 0) with
          | none => act b
          | some (b, k, d) =>
            if k = 0 then (b, [.work t stSkips])
            else act { b with upd := fmSet b.upd t { left := k, skips := decide (d ≠ 0) } }

/-- UPDATE_HEADER_READ_RETURN. -/
def execUpdateHeaderReadReturn (tag : Nat) (h : HeatRead) (hdr : BitVec 256) (recs : List UpdRec) (s : State) :
    Host.Outcome State Fault Refusal := 
  liftReplyA [.read (.updBlock tag)] (fun b => updateRead b tag h hdr recs) s

/-! ## Update messages at a replica (R287, R289, R291, R293) -/

/-- UPDATE_DATA at a replica in service: the records are staged; one that the ring cannot take is lost, so that the replica
misses its window (R289, R293). -/
def onUpdateData (b : Block) (id : Nat) (add : Bool) (recs : List UpdRec) : Block :=
  recs.foldl (fun b r => match liveOf b id with
    | none => b
    | some l =>
      if l.inService && !isSource b l then
        match stagePut b r.data with
        | some (pos, b) =>
          putLive b id { l with recs := l.recs ++ [({ uid := 0, pos := pos, row := r.row.toNat, data := r.data, add := add, tag := none } : StagedRec)] }
        | none => b
      else b) b

/-- A change of a replica in service that is not the source. -/
def onReplica (b : Block) (id : Nat) (f : Live → Live) : Block :=
  match liveOf b id with
  | some l => if l.inService && !isSource b l then putLive b id (f l) else b
  | none => b

/-- EPOCH_SEAL at a replica. -/
def onEpochSeal (b : Block) (e : Seal) : Block := onReplica b e.liveId (fun l => keepSeal l e)

/-- SOURCE_SUSPEND at a replica. -/
def onSourceSuspend (b : Block) (id frame : Nat) : Block := onReplica b id (fun l => { l with suspend := some frame })

/-- SOURCE_RESUME at a replica. -/
def onSourceResume (b : Block) (id : Nat) (epoch : BitVec 32) (frame : Nat) : Block :=
  onReplica b id (fun l => resumeLive l epoch frame)

/-! ## Windows (R291, R293) -/

/-- A SOURCE_SUSPEND that the replica holds covers frame `A` (R293). -/
def covered (l : Live) (A : Nat) : Bool :=
  l.suspend.any (fun f => frameReached A ((f + 1) % 2 ^ 48)) ||
    l.gaps.any (fun g => frameReached A ((g.last + 1) % 2 ^ 48) && !frameReached A g.frame)

/-- The table follows a seal for a later frame (R294). -/
def beforeFirst (l : Live) (A : Nat) : Bool :=
  match l.first with
  | none => true
  | some F => !frameReached A F

/-- The window in frame `A` is not served at all. -/
def windowIdle (l : Live) (A : Nat) : Bool := covered l A || beforeFirst l A

/-- The replica is ready to apply a seal (R291). -/
def sealReady (l : Live) (e : Seal) : Bool :=
  let rs := l.recs.take e.count
  decide (rs.length = e.count) && decide (crc32c (rs.flatMap recBytes) = e.crc) &&
    (if e.count = 0 then decide (e.epoch = l.epoch) else decide (e.epoch = l.epoch + 1))

/-- The window of a table in frame `A` begins: an empty epoch is written at once, another begins its apply; a replica that is
not ready, or that has no staging ring, misses the window (R291, R293, R297). -/
def windowServe (b : Block) (id : Nat) (l : Live) (A : Nat) : Act :=
  let b := putLive b id { l with served := some A }
  if covered l A then act b
  else if dget b 0x3040 3 = 0 then missWindow b id
  else if beforeFirst l A then act b
  else
    let resumed := (l.gaps.filter (fun g => frameReached A g.frame)).all (fun g => decide (g.epoch = l.epoch + 1))
    let l := { l with served := some A, gaps := l.gaps.filter (fun g => !frameReached A g.frame) }
    let b := putLive b id l
    match l.seals.find? (fun e => decide (e.frame = A)) with
    | none => missWindow b id
    | some e =>
      if !resumed || !sealReady l e then missWindow b id
      else
        let recs := l.recs.take e.count
        let l := { l with seals := l.seals.filter (fun x => decide (x ≠ e)), recs := l.recs.drop e.count }
        if e.count = 0 then act (putLive b id { l with epoch := e.epoch, frame := A })
        else if l.apply.isSome then missWindow b id
        else
          let a : Apply := { frame := A, epoch := e.epoch, started := false,
                             recs := recs, flying := 0, tags := [] }
          act (putLive b id { l with apply := some a })

/-- WINDOW_BEGIN: at its offset in the current frame, once; an epoch sealed for a frame in which the active sheet has no
window for the table is missed (R286, R291, R293). -/
def windowBegin (b : Block) (id : Nat) : Act :=
  match liveOf b id with
  | none => act b
  | some l =>
    let A := b.tide.frame
    if !l.inService || !framesRun b || decide (l.served = some A) then act b
    else match windowIn b l.part id A with
      | some w => windowServe (passRef b (frameStart b A + w.offset)) id l A
      | none => if l.seals.any (fun e => decide (e.frame = A)) && !windowIdle l A then missWindow b id else act b

/-- WINDOW_BEGIN. -/
def execWindowBegin (liveId : Nat) (s : State) : Host.Outcome State Fault Refusal := liftRA (fun b => windowBegin b liveId) s

/-! ## The apply (R291, R292) -/

/-- The number under which a table's apply stands at a cluster port, beside runs and calls. -/
def applyRun (id : Nat) : Nat := 2 ^ 32 + id

/-- The table whose apply a queued entry or a baton belongs to. -/
def applyOf (run : Nat) : Option Nat := if run ≥ 2 ^ 32 then some (run - 2 ^ 32) else none

/-- The D position of an apply (R291). -/
def applyD (b : Block) (c : Nat) : Option Nat := [10, 11].find? (present b c)

/-- The COPY of a row from the staging ring to the apply area. -/
def applyCopy (b : Block) (id : Nat) (l : Live) (r : StagedRec) (pos : Nat) : Block :=
  let g := dget b 0x3040 3 + r.pos
  let row := tRowBytes l.dir
  let slot := slotBits 0x60 0 (descWord 0 (tDim l.dir) 0 (tType l.dir) ||| (1#64 <<< 62))
    (descWord l.spad (tDim l.dir) 0 (tType l.dir)) 0 1
  let e := pushEnt CoreSt.fresh pos slot (0, 0, 0) (.one g) [(partBucket b g, chargeBytes row)]
  xqPush b l.cluster { call := applyRun id, run := applyRun id, work := .gather e [] }

/-- The pages of a row to be written; none when one does not translate or is read-only. -/
def rowPages (b : Block) (l : Live) (va ext : Nat) : Option MemRes :=
  let writable (a : Nat) : Bool := (pageOf b l.ctx a).any (fun t => t.writable)
  match pagesNow b l.ctx va ext with
  | .one g => if writable va then some (.one g) else none
  | .two ga gb s => if writable va && writable (va + s) then some (.two ga gb s) else none
  | _ => none

/-- The SCATTER of a row from the apply area to the table. -/
def applyScatter (b : Block) (id : Nat) (l : Live) (r : StagedRec) (pos : Nat) (m : MemRes) : Block :=
  let row := tRowBytes l.dir
  let slot := slotBits 0x02 (b2n r.add) (descWord l.spad (tDim l.dir) 0 (tType l.dir))
    (descWord 0 (tDim l.dir) 0 (tType l.dir) ||| (1#64 <<< 62)) 0 1
  let e := pushEnt CoreSt.fresh pos slot (0, 0, 0) m (memCharge b m row)
  xqPush b l.cluster { call := applyRun id, run := applyRun id, work := .gather e [] }

/-- An apply that cannot go on is given up: the table leaves service, and `APPLY_IN_PROGRESS` stays set until a RESYNC
(R291, R293). -/
def applyGiveUp (b : Block) (id : Nat) (lost : Bool) : Act :=
  match liveOf b id with
  | none => act b
  | some l =>
    let stop (b : Block) : Act :=
      match liveOf b id with
      | some l => lateStart (putLive b id { l with apply := none })
      | none => act b
    andThen (andThen (missWindow b id) stop) (fun b => (b, if lost then [.lose l.ctx stPageFault] else []))

/-- The next baton of an apply: the COPY of its first record, or that record's SCATTER. -/
def applyGo (b : Block) (id : Nat) (l : Live) (a : Apply) : Act :=
  match a.recs with
  | [] => act b
  | r :: _ =>
    if a.flying = 0 then
      match applyD b l.cluster with
      | some pos => act (applyCopy (putLive b id { l with apply := some { a with flying := 1 } }) id l r pos)
      | none => applyGiveUp b id false
    else match rowPages b l (tRowVa l.dir r.row) (tRowBytes l.dir) with
      | none => applyGiveUp b id true
      | some m => match gatherPos b l.cluster (tStack l.dir r.row) with
        | some pos =>
          if memRouted b m then
            act (applyScatter (putLive b id { l with apply := some { a with flying := 2 } }) id l r pos m)
          else applyGiveUp b id false
        | none => applyGiveUp b id false

/-- A baton of an apply has ended: the row's SCATTER follows its COPY, and the next record follows its SCATTER. -/
def applyStep (b : Block) (id : Nat) : Act :=
  match liveOf b id with
  | none => act b
  | some l => match l.apply with
    | none => act b
    | some a =>
      if a.flying = 1 then applyGo b id l a
      else
        let tag := (a.recs.head?).bind (fun r => r.tag)
        let a := { a with recs := a.recs.drop 1, flying := 0, tags := a.tags ++ tag.toList }
        let l := { l with apply := some a }
        applyGo (cnt (putLive b id l) cUpdApplied) id l a

/-- APPLY: no heat of the partition is in flight and no cluster of it is held; the apply takes them all (R291 steps 2 to 4). -/
def applyBegin (b : Block) (id : Nat) : Act :=
  match liveOf b id with
  | none => act b
  | some l => match l.apply with
    | none => act b
    | some a =>
      if a.started || (partClusters b l.part).any (clusterHeld b) ||
          b.comp.runs.any (fun x => decide (x.2.part = l.part) && x.2.endedAt.isNone) then act b
      else
        let a := { a with started := true }
        let l := { l with applying := true, apply := some a }
        applyGo (putLive b id l) id l a

/-- APPLY. -/
def execTblApply (liveId : Nat) (s : State) : Host.Outcome State Fault Refusal := liftRA (fun b => applyBegin b liveId) s

/-- Records of a work item have been applied; the item ends with its last (R288). -/
def updDone (b : Block) (tags : List Nat) : Act :=
  actEach b tags.eraseDups (fun b t => match fmGet? b.upd t with
    | none => act b
    | some u =>
      let n := (tags.filter (fun x => decide (x = t))).length
      if u.left ≤ n then
        ({ b with upd := fmErase b.upd t }, [.work t (if u.skips then stSkips else stDone)])
      else act { b with upd := fmSet b.upd t { u with left := u.left - n } })

/-- APPLY_END: the epoch and frame are written, the clusters released, and late heats start (R291 step 5, R292). -/
def applyEnd (b : Block) (id : Nat) : Act :=
  match liveOf b id with
  | none => act b
  | some l => match l.apply with
    | none => act b
    | some a =>
      if a.started && a.recs.isEmpty then
        let b := cnt (putLive b id { l with epoch := a.epoch, frame := a.frame, applying := false, apply := none }) cUpdEpoch
        let b := (partClusters b l.part).foldl noteUnused b
        andThen (updDone b a.tags) lateStart
      else act b

/-- APPLY_END. -/
def execApplyEnd (liveId : Nat) (s : State) : Host.Outcome State Fault Refusal := liftRA (fun b => applyEnd b liveId) s

/-! ## Holding and resynchronising (R294) -/

/-- The row's own write of `CTL_CMD`. -/
def ctlCmd (a : DictAcc) (v : Nat) : Bool := a.idx = 0x3041 && a.sub = 3 && decide (a.value % 256 = v)

/-- `CTL_RESULT` after a command. -/
def ctlResult (b : Block) (r : Nat) : Block := dput b 0x3041 4 r

/-- `HELD` set or cleared on the source. -/
def holdSet (b : Block) (v : Bool) : Block :=
  let id := dget b 0x3041 1
  match liveOf b id with
  | some l => if isSource b l then ctlResult (putLive b id { l with held := v }) 0 else ctlResult b 3
  | none => ctlResult b 3

/-- The row's own write. -/
def rowTblHold (a : DictAcc) : DictRow where
  mine := ctlCmd a 1
  cond := fun _ => none
  run := fun b => act (holdSet b true)

/-- HOLD. -/
def execTblHold (a : DictAcc) (s : State) : Host.Outcome State Fault Refusal :=
  dictRow .write a (rowTblHold a) s

/-- The row's own write. -/
def rowTblRelease (a : DictAcc) : DictRow where
  mine := ctlCmd a 2
  cond := fun _ => none
  run := fun b => act (holdSet b false)

/-- RELEASE. -/
def execTblRelease (a : DictAcc) (s : State) : Host.Outcome State Fault Refusal :=
  dictRow .write a (rowTblRelease a) s

/-- Why RESYNC refuses an entry as it and its directory entry read: none, or the `CTL_RESULT`. -/
def resyncCheck (b : Block) (id : Nat) (reg dir : BitVec 256) : Option Nat :=
  let part := field reg 16 5
  let c := field reg 24 6
  let h : BitVec 24 := reg.extractLsb' 32 24
  let usable := match partOf b part, ctxOf b h with
    | some p, some x => p.clusters.getLsbD c && decide (x.part = part) && decide (x.state ≠ .lost) && decide (x.state ≠ .destroying)
    | _, _ => false
  if !bitAt reg 12 || !usable || (applyD b c).isNone || (presentIn b c 0 4).isEmpty ||
      decide (field reg 128 24 + 0x10000 > spadSize) then some 1
  else if (translateOwn b h (field reg 64 48) false).isNone || !dirUsable dir || !tLive dir || decide (tLiveId dir ≠ id) ||
      decide (tRowBytes dir > 32768) then some 2
  else if (liveOf b id).any (fun l => l.apply.isSome) then some 4
  else none

/-- RESYNC accepted: the table is in service at `CTL_EPOCH` and follows the next seal. On the source the work items with
staged records end. -/
def resyncDo (b : Block) (id : Nat) (reg dir : BitVec 256) : Act :=
  let old := liveOf b id
  let tags := match old with
    | some l => if isSource b l then liveTags l else []
    | none => []
  let epoch := BitVec.ofNat 32 (dget b 0x3041 2)
  let l : Live := {
    source := field reg 0 12, part := field reg 16 5, cluster := field reg 24 6, ctx := reg.extractLsb' 32 24,
    dirVa := field reg 64 48, spad := field reg 128 24, dir := dir, inService := true, applying := false,
    held := (old.map (fun l => l.held)).getD false, missed := false, epoch := epoch,
    frame := (old.map (fun l => l.frame)).getD 0, lastSeal := epoch, lastFrame := old.bind (fun l => l.lastFrame),
    served := none, first := none, queue := [], recs := [], seals := [],
    suspend := old.bind (fun l => if isSource b l then l.suspend else none), gaps := [], apply := none }
  ({ putLive b id l with upd := b.upd.filter (fun x => !tags.contains x.1) }, tags.map (fun t => Task.work t stPeerFault))

/-- The row's own write. -/
def rowResync (a : DictAcc) (reg dir : BitVec 256) : DictRow where
  mine := ctlCmd a 3
  cond := fun _ => none
  run := fun b =>
    let id := dget b 0x3041 1
    match resyncCheck b id reg dir with
    | some r => act (ctlResult b r)
    | none => resyncDo (ctlResult b 0) id reg dir

/-- RESYNC. -/
def execResync (a : DictAcc) (reg dir : BitVec 256) (s : State) : Host.Outcome State Fault Refusal :=
  dictRow (.resync reg dir) a (rowResync a reg dir) s

/-- `IN_SERVICE` cleared in every entry of a registry (R281). -/
def registryClear (b : Block) (base : Nat) : Block :=
  if !isLocal b base then b
  else { b with mem := b.mem.filterMap (fun x =>
      if base ≤ x.1 ∧ x.1 < base + 0x20000 ∧ (x.1 - base) % 32 = 0x1E then
        let v := x.2 &&& 0xFE
        if v = 0 then none else some (x.1, v)
      else some x) }

/-- The row's own write. -/
def rowLiveRegistryBase (a : DictAcc) : DictRow where
  mine := a.idx = 0x3040 && a.sub = 1
  cond := fun b => stateIf (!b.live.any (fun x => x.2.inService))
  run := fun b => act (registryClear b (a.value % 2 ^ 64))

/-- LIVE_REGISTRY_BASE (R281): accepted only while no table is in service. -/
def execLiveRegistryBase (a : DictAcc) (s : State) : Host.Outcome State Fault Refusal :=
  dictRow .write a (rowLiveRegistryBase a) s

end Sys2Proof.Machine
end

