-- ==== Sys2Proof/Machine/Crossbar.lean ====
section
/-! DEFINITION. The dispatch crossbar: arbitration at a cluster port, credits, holds, the hand-over of batons and scratchpad
writes, engine reports, releases by breakwater and power cap, and the COPY batons of a capture (R17, R188 to R193, R215,
R244, R246, R355, R431, R452). -/

namespace Sys2Proof.Machine

open Sys2Proof

/-! ## What waits at a port -/

/-- What the head of a source asks for. -/
inductive HeadWork
  | baton (e : PushEnt) (slots : List Nat) (bag : Option Nat)
  | write (addr : Nat) (bytes : List Byte)
  deriving DecidableEq, Repr

/-- The head of a source: its run, or the apply it belongs to, its class, the partition whose breakwater it charges and the
one its baton names (R188, R349), and the expander call. -/
structure Head where
  run  : Nat
  lc   : Bool
  part : Nat
  tell : Nat
  call : Option Nat
  work : HeadWork
  deriving DecidableEq, Repr

/-- The oldest entry of the core's push queue. -/
def coreHead (b : Block) (c : Nat) : Option Head :=
  let k := coreOf b c
  match k.pushQ, k.run with
  | e :: _, some n => (runOf b n).map (fun r =>
      { run := n, lc := r.lc, part := r.part, tell := heatPart b r, call := none, work := .baton e [] none })
  | _, _ => none

/-- The oldest entry of the expander at the port; a brownout hold bars those of BE calls (R423). -/
def xHead (b : Block) (c : Nat) : Option Head :=
  match (portOf b c).xq with
  | [] => none
  | x :: _ =>
    let work := match x.work with
      | .gather e slots => HeadWork.baton e slots none
      | .pool e bag => .baton e [] (some bag)
      | .write a bs _ => .write a bs
    match applyOf x.run with
    | some id => (liveOf b id).map (fun l =>
        { run := x.run, lc := true, part := l.part, tell := l.part, call := some x.call, work := work })
    | none => match runOf b x.run with
      | some r =>
        if boundaryHeld b r then none
        else some { run := x.run, lc := r.lc, part := r.part, tell := heatPart b r, call := some x.call, work := work }
      | none => none

/-- The head of a source. -/
def headOf (b : Block) (c : Nat) (xp : Bool) : Option Head := if xp then xHead b c else coreHead b c

/-- An engine's credit (R192). -/
def creditOf (p : CPort) (pos : Nat) : Nat := fmGet p.credit pos 64

/-! ## Inputs under capture (R355) -/

/-- The record under capture that the head of a source belongs to: its primary run and sample, when the head is a baton of the
capture run at the disputed rank and position, and its inputs have not been captured. -/
def capWanted (b : Block) (c : Nat) (xp : Bool) (h : Head) : Option (Nat × Sample × Corpus × PushEnt) :=
  match h.work, runOf b h.run, sampleOf b h.run with
  | .baton e _ _, some r, some (p, x) => match x.unit, x.corpus with
    | some (_, rank, pos), some k =>
      if r.kind = .capture && r.abort.isNone && decide (rankOf r c = rank) && decide (e.pos = pos) && !k.cut &&
          decide ((portOf b c).capX ≠ some xp) then some (p, x, k, e)
      else none
    | _, _ => none
  | _, _, _ => none

/-- The descriptors that a patched slot reads (R181): what it does not write, and what it reads as well. -/
def readIdx (e : PushEnt) : List Nat :=
  let op := gOpcode e.slot
  [0, 1, 2].filter (fun i => match (roles e.slot).getD i none with
    | none => false
    | some r => !r.write || decide (op = 0x20) || decide (op = 0x22) || (decide (op = 0x02) && decide (gSelect e.slot = 1)))

/-- The operands that a patched slot reads, as rows: descriptor, rows, and whether it lies in memory. An operand read by index
takes every row that the index may name. -/
def readOperands (e : PushEnt) : List (Word × Nat × Bool) :=
  (readIdx e).map (fun i =>
    let d := gDesc e.slot i
    let rows := (((roles e.slot).getD i none).map (fun r => r.rows)).getD 0
    (d, if dInd d then min 65535 e.idxLimit else rows, dMem d))

/-- A COPY baton at D position `pos`. -/
def copyEnt (pos : Nat) (src dst : Word) (rows : Nat) (m : MemRes) : PushEnt :=
  pushEnt CoreSt.fresh pos (slotBits 0x60 0 src dst 0 rows) (0, 0, 0) m []

/-- A descriptor's `MEM` bit alone. -/
def memBit : Word := 1#64 <<< 62

/-- The COPY batons that bring one operand to `at_` in memory: from the scratchpad at once, from memory through the staging
area (R355). The rows are packed. -/
def copyOperand (b : Block) (pos at_ : Nat) (e : PushEnt) (o : Word × Nat × Bool) : List PushEnt :=
  let d := o.1
  let row := (rowBytes (dType d) (dSize d)).getD 0
  let out := descWord 0 (dSize d) row (dType d) ||| memBit
  let stage := descWord (dget b 0x6010 8) (dSize d) row (dType d)
  if o.2.2 then
    let m : MemRes := if e.split = 0 then .one e.gA.toNat else .two e.gA.toNat e.gB.toNat e.split
    [copyEnt pos (descWord 0 (dSize d) (dStride d) (dType d) ||| memBit) stage o.2.1 m,
     copyEnt pos stage out o.2.1 (.one at_)]
  else [copyEnt pos (descWord (dAddr d) (dSize d) (dStride d) (dType d)) out o.2.1 (.one at_)]

/-- The bytes of an operand, packed. -/
def operandBytes (o : Word × Nat × Bool) : Nat := o.2.1 * (rowBytes (dType o.1) (dSize o.1)).getD 0

/-- The index vector of an indirect slot, as an operand of one row. -/
def indexOperand (e : PushEnt) : List (Word × Nat × Bool) :=
  match idxSize e.idxType with
  | some n => if e.idxLimit = 0 then []
      else [(descWord (e.idxAddr + n * e.idxFirst) (gRepeat e.slot) 0 e.idxType, 1, false)]
  | none => []

/-- Each operand with the offset in the record at which it lies, from `used` on; each begins at a multiple of 64. -/
def layOut : Nat → List (Word × Nat × Bool) → List ((Word × Nat × Bool) × Nat)
  | _, [] => []
  | used, o :: os => (o, used) :: layOut (used + roundUp (operandBytes o) 64) os

/-- The head's inputs are captured before it is handed over: its slot joins the record and its COPY batons wait at the port.
A record that would grow past its limit, an operand larger than the staging area and a cluster without a D position end
the capture (R355). -/
def capPrepare (b : Block) (c : Nat) (xp : Bool) (p : Nat) (x : Sample) (k : Corpus) (e : PushEnt) : Block :=
  let ops := readOperands e ++ indexOperand e
  let laid := layOut k.used ops
  let used := k.used + (ops.map (fun o => roundUp (operandBytes o) 64)).sum
  let cut (b : Block) : Block := putSample b p { x with corpus := some { k with cut := true } }
  match applyD b c with
  | none => cut b
  | some pos =>
    if decide (used > k.limit) || decide (k.slots.length ≥ k.room) || ops.any (fun o => o.2.2 && decide (operandBytes o > 65536)) then
      cut b
    else
      let res := match x.third.bind (runOf b), x.unit with
        | some t, some (_, rank, dpos) => fmGet t.results (resultKey rank dpos xp e.num) 0
        | _, _ => 0
      let s : CapSlot := { ent := e, offs := laid.map Prod.snd, xp := xp, result := res }
      let at_ := dget b 0x6010 4 + k.base
      let b := putSample b p { x with corpus := some { k with used := used, slots := k.slots ++ [s] } }
      putPort b c { portOf b c with capX := some xp, copies := laid.flatMap (fun o => copyOperand b pos (at_ + o.2) e o.1) }

/-! ## Holds -/

/-- The marks of a source's head. -/
def markOf (b : Block) (c : Nat) (xp : Bool) : HeldMark := if xp then (portOf b c).xHeld else (portOf b c).coreHeld

/-- The marks of a source's head replaced. -/
def putMark (b : Block) (c : Nat) (xp : Bool) (m : HeldMark) : Block :=
  let p := portOf b c
  putPort b c (if xp then { p with xHeld := m } else { p with coreHeld := m })

/-- A hold of the head by a zero credit, a bucket or the power cap, each counted once (R192, R244, R246). -/
def holdCredit (b : Block) (c : Nat) (xp : Bool) : Block :=
  let m := markOf b c xp
  if m.credit then b else cnt (putMark b c xp { m with credit := true }) cCreditHold

def holdBucket (b : Block) (c : Nat) (xp : Bool) : Block :=
  let m := markOf b c xp
  if m.bucket then b else cnt (putMark b c xp { m with bucket := true }) cBwHold

def holdCap (b : Block) (c : Nat) (xp : Bool) (lc : Bool) : Block :=
  let m := markOf b c xp
  let b := capNote b lc
  if m.cap.isSome then b
  else cnt (putMark b c xp { m with cap := some lc }) (if lc then cCapHoldLc else cCapHoldBe)

/-- Whether a baton to a position may pass now: the cluster is ACTIVE, there is credit, every bucket and the power cap pass
it (R17, R192, R244, R246, R431). -/
def passes (b : Block) (c : Nat) (pos part : Nat) (lc : Bool) (charge : List (Nat × Nat)) : Bool :=
  decide ((pwrOf b c).state = 3) && decide (creditOf (portOf b c) pos > 0) && bktPassAll b part lc charge && capPass b lc

/-- A baton that may not pass is held: its cluster is ordered ACTIVE, and the hold is counted. -/
def holdBaton (b : Block) (c : Nat) (xp : Bool) (pos part : Nat) (lc : Bool) (charge : List (Nat × Nat)) : Block :=
  if (pwrOf b c).state ≠ 3 then orderPower b c 3
  else if creditOf (portOf b c) pos = 0 then holdCredit b c xp
  else if !bktPassAll b part lc charge then holdBucket b c xp
  else holdCap b c xp lc

/-! ## Hand-over -/

/-- The 544-bit word of a baton (R188). -/
def batonWord (e : PushEnt) (lc : Bool) (part id : Nat) : BitVec 544 :=
  BitVec.ofNat 544 (packFields [(0, 256, e.slot.toNat), (256, 64, e.gA.toNat), (320, 64, e.gB.toNat), (384, 22, e.split),
    (406, 1, if lc then 1 else 0), (407, 5, part), (416, 24, e.idxAddr), (440, 4, e.idxType), (448, 32, e.idxLimit),
    (480, 32, e.idxFirst), (512, 16, id), (528, 4, e.pos)])

/-- A baton that an engine accepts: its ID is free, a credit and a token are taken, and its buckets charged (R188, R192,
R244, R246). -/
def acceptBaton (b : Block) (c : Nat) (h : Head) (e : PushEnt) (slots : List Nat) (bag : Option Nat) (copy : Bool) : Block :=
  let p := portOf b c
  let k := coreOf b c
  let id := (lowestFree (p.out.map (fun x => x.id)) 0 65536).getD 0
  let x : Baton := { id := id, ent := e, run := h.run, order := k.pushed - k.pushQ.length, call := h.call, slots := slots,
                     bag := bag, since := stamp b, copy := copy, cancelled := false,
                     deadline := b.tide.clock + (if isL e.pos then dget b 0x2030 1 else dget b 0x6000 3) * 1000 }
  let b := putPort b c { p with credit := fmSet p.credit e.pos (creditOf p e.pos - 1), out := p.out ++ [x] }
  let b := capTake (bktTakeAll b h.part e.charge)
  let b := if copy || (applyOf h.run).isSome then b
    else putCore b c { coreOf b c with batonCnt := satInc 32 (coreOf b c).batonCnt }
  emit (cnt b cBatonPush) (.baton c (batonWord e h.lc h.tell id))

/-- The source has handed over its head; it went last, and its holds are over. -/
def headGone (b : Block) (c : Nat) (xp : Bool) : Block :=
  let b := putMark b c xp HeldMark.clear
  let p := portOf b c
  if xp then putPort b c { p with xq := p.xq.drop 1, lastX := true, capX := none }
  else
    let k := coreOf b c
    putCore (putPort b c { p with lastX := false, capX := none }) c { k with pushQ := k.pushQ.drop 1 }

/-- What a source does when its turn comes: hold its head, or hand over the head or a COPY before it. The result says
whether something passed. DESIGN CHOICE: R17 and R355 do not say whose turn a capture's COPY batons take; they go at the turns of the
source whose baton they precede, and do not count as its turn, so `lastX` stays (log entry 66). -/
def offer (b : Block) (c : Nat) (xp : Bool) (h : Head) : Bool × Block :=
  let give (b : Block) (e : PushEnt) (slots : List Nat) (bag : Option Nat) : Bool × Block :=
    if passes b c e.pos h.part h.lc e.charge then (true, headGone (acceptBaton b c h e slots bag false) c xp)
    else (false, holdBaton b c xp e.pos h.part h.lc e.charge)
  match h.work with
  | .write a bs =>
    let p := portOf b c
    (true, headGone (emit (putPort b c { p with scratch := memWriteBytes p.scratch a bs }) (.scratch c a bs)) c xp)
  | .baton e slots bag =>
    let b := match capWanted b c xp h with
      | some (p, x, k, e) => capPrepare b c xp p x k e
      | none => b
    let p := portOf b c
    if p.capX = some xp then
      match p.copies with
      | q :: qs =>
        if passes b c q.pos h.part h.lc [] then
          let b := putMark (acceptBaton b c h q [] none true) c xp HeldMark.clear
          (true, putPort b c { portOf b c with copies := qs })
        else (false, holdBaton b c xp q.pos h.part h.lc [])
      | [] => if p.out.any (fun x => x.copy && decide (x.run = h.run)) then (false, b) else give b e slots bag
    else give b e slots bag

/-- The order in which the two sources are tried (R17): an LC baton before a BE one, otherwise the source that did not go
last. -/
def sourceOrder (lastX : Bool) (hc hx : Option Head) : List (Bool × Head) :=
  match hc, hx with
  | some h, some g =>
    if h.lc && !g.lc then [(false, h), (true, g)]
    else if g.lc && !h.lc then [(true, g), (false, h)]
    else if lastX then [(false, h), (true, g)] else [(true, g), (false, h)]
  | some h, none => [(false, h)]
  | none, some g => [(true, g)]
  | none, none => []

/-- Sources tried in order until one passes something. -/
def offerAll (b : Block) (c : Nat) : List (Bool × Head) → Block
  | [] => b
  | (xp, h) :: l =>
    let r := offer b c xp h
    if r.1 then r.2 else offerAll r.2 c l

/-- BATON_HANDSHAKE: one hand-over of a cluster port, while the batons outstanding leave an ID. -/
def handshake (b : Block) (c : Nat) : Block :=
  if (portOf b c).out.length < 65536 && decide (c < 64) then
    offerAll b c (sourceOrder (portOf b c).lastX (headOf b c false) (headOf b c true))
  else b

/-- BATON_HANDSHAKE (R17). -/
def execBatonHandshake (c : Nat) (s : State) : Host.Outcome State Fault Refusal := liftR (fun b => handshake b c) s

/-! ## Releases (R244, R246) -/

/-- A core held for the bucket of a line or table read issues it once it passes. -/
def retryFetch (b : Block) (c : Nat) : Act :=
  let k := coreOf b c
  match k.run.bind (runOf b) with
  | none => act b
  | some r =>
    let retry (host : Bool) (va len : Nat) : Act := match runCharge b r host va len with
      | some l => if bktPassAll b r.part true l then goOn b c else act b
      | none => goOn b c
    match k.hold with
    | .line va host false => retry host va lineBytes
    | .table va n false => retry false va (16 * n)
    | _ => act b

/-- The read that a call of the core waits to issue is issued once its buckets pass it. -/
def retryCall (b : Block) (c : Nat) : Act :=
  match curCall b c with
  | none => act b
  | some (id, x) => match callRun b x with
    | some r => if x.issued || (xRanges x).isEmpty then act b else xIssue b x.run r id x true
    | none => act b

/-- Every queue whose index read waits. -/
def waitingReads (b : Block) : List QRef :=
  (b.q.sqs.filter (fun x => decide (x.2.rd = .wanted))).map (fun x => QRef.q x.1) ++
    (b.q.aqs.filter (fun x => decide (x.2.sq.rd = .wanted))).map (fun x => QRef.aq x.1)

/-- Some head of the port waits for its bucket. -/
def bucketHeld (b : Block) (c : Nat) : Bool := (portOf b c).coreHeld.bucket || (portOf b c).xHeld.bucket

/-- BREAKWATER_RELEASE: whatever waits for a bucket at cluster `c`, and the reads of queues and descriptors that wait, go on
if their buckets pass them now. -/
def breakwaterRelease (b : Block) (c : Nat) : Act :=
  let b := (waitingReads b).foldl readIssue b
  andThen (actEach b (fmKeys b.sb.items) descIssue) (fun b =>
    andThen (retryFetch b c) (fun b =>
      andThen (retryCall b c) (fun b => act (if bucketHeld b c then handshake b c else b))))

/-- BREAKWATER_RELEASE (R244). -/
def execBreakwaterRelease (c : Nat) (s : State) : Host.Outcome State Fault Refusal := liftRA (fun b => breakwaterRelease b c) s

/-- CAP_RELEASE: a baton that the power cap holds at the port passes if the cap lets it now. -/
def execCapRelease (c : Nat) (s : State) : Host.Outcome State Fault Refusal :=
  liftR (fun b => if (portOf b c).coreHeld.cap.isSome || (portOf b c).xHeld.cap.isSome then handshake b c else b) s

/-- CAP_STATE_TIMEOUT: ten microseconds after the last hold of the class that decides `CAP_STATE`, it falls (R246). -/
def capTimeout (b : Block) : Block :=
  let cls := decide (capState b = 2)
  if capHolding b cls || decide (capState b = 0) then b
  else match if cls then b.cap.heldLc else b.cap.heldBe with
    | none => b
    | some t =>
      let b := passTo b (t + 10000)
      if cls then { b with cap := { b.cap with heldLc := none } } else { b with cap := { b.cap with heldBe := none } }

/-- CAP_STATE_TIMEOUT. -/
def execCapStateTimeout (s : State) : Host.Outcome State Fault Refusal := liftU capTimeout s

/-! ## Reports (R189, R190, R192) -/

/-- The `FREE` field of a report; above 64 it is 0 and counted (R189). -/
def takeFree (b : Block) (c pos : Nat) (report : BitVec 32) : Block :=
  let f := field report 19 7
  let b := if f > 64 then cnt b cBatonProtocol else b
  let p := portOf b c
  putPort b c { p with free := fmSet p.free pos (if f > 64 then 0 else f) }

/-- What an ended baton leaves its run: its result in the digest, and its status (R190, R346, R351); the status of a cancelled L
baton infers no fault (R316). -/
def batonResult (b : Block) (c : Nat) (x : Baton) (st : Nat) (wcrc : BitVec 32) : Act :=
  let pos := x.ent.pos
  match runOf b x.run with
  | none => act b
  | some r =>
    let b := if x.copy then b else putRun b x.run
      { digestResult r c pos x.call.isSome x.ent.num (if st = 1 then 1 else 0) wcrc with skips := r.skips || decide (st = 1) }
    let b := if st = 1 then cnt b cIndexRange else b
    if st ≥ 2 && !x.cancelled then
      let b := cnt b cEngineFault
      andThen (unitEvent b (unitNo c pos) htEngineFault (some r.ctx) 0 x.id r.tag) (fun b => faultRun b x.run)
    else act b

/-- An expander GATHER's slots are ready (R213). -/
def slotsReady (b : Block) (c : Nat) (x : Baton) : Block :=
  if x.call.isNone || x.slots.isEmpty then b
  else match winOf b c x.run with
    | some w => putWin b c { w with ready := w.ready ++ x.slots }
    | none => b

/-- The status of an apply's baton that has ended: a fault is counted and is an event of its engine (R198, R358). -/
def applyStatus (b : Block) (c id : Nat) (x : Baton) (st : Nat) : Act :=
  let b := if st = 1 then cnt b cIndexRange else b
  if st ≥ 2 then unitEvent (cnt b cEngineFault) (unitNo c x.ent.pos) htEngineFault ((liveOf b id).map (fun l => l.ctx)) 0 x.id 0
  else act b

/-- BATON_END: a report of KIND 0. In a recovery sequence the baton ends, its status is counted and marks its heat, and nothing
settles or goes on after it (R329, R331). -/
def batonEnd (b : Block) (c : Nat) (report wcrc : BitVec 32) : Act :=
  if report.getLsbD 18 || decide (c ≥ 64) then act b
  else match (portOf b c).out.find? (fun x => decide (x.id = field report 0 16)) with
    | none => act (cnt b cBatonProtocol)
    | some x =>
      let st := field report 16 2
      let b := if st = 3 then cnt b cBatonProtocol else b
      let b := takeFree b c x.ent.pos report
      let p := portOf b c
      let b := putPort b c { p with credit := fmSet p.credit x.ent.pos (min 64 (creditOf p x.ent.pos + 1)),
                                    out := p.out.filter (fun y => decide (y.id ≠ x.id)) }
      let b := offIfLoose (noteUnused b c) c
      match applyOf x.run with
      | some id =>
        let r := applyStatus b c id x st
        if decide (b.rcv.stage ≠ .idle) then act r.1 else andThen r (fun b => applyStep b id)
      | none =>
        let r := batonResult (slotsReady b c x) c x st wcrc
        if decide (b.rcv.stage ≠ .idle) then act r.1 else r

/-- BATON_END. -/
def execBatonEnd (c : Nat) (report writeCrc : BitVec 32) (s : State) : Host.Outcome State Fault Refusal :=
  liftA (fun b => batonEnd b c report writeCrc) s

/-- DEPTH_REPORT: a report of KIND 1 of an engine; a `STATUS` of 3 is counted in it too (R189). -/
def execDepthReport (c pos : Nat) (report : BitVec 32) (s : State) : Host.Outcome State Fault Refusal :=
  lift (fun b =>
    if report.getLsbD 18 && decide (c < 64) && decide (pos < 14) then
      takeFree (if field report 16 2 = 3 then cnt b cBatonProtocol else b) c pos report
    else b) s

end Sys2Proof.Machine
end

