-- ==== Sys2Proof/Machine/Debug.lean ====
section
/-! DEFINITION. Commands to a stopped core, `HALT_REQ` and the breakpoint timeout (R438, R441). -/

namespace Sys2Proof.Machine

open Sys2Proof

/-- A stopped core leaves the stop and goes on at step 3 of the stopped SLW; `step` makes it stop again before step 3 of the
next one (R441). In a recovery sequence a stop ends at the fence step only. -/
def stopLeave (b : Block) (c cause : Nat) (step : Bool) : Act :=
  let k := coreOf b c
  if k.brkStop.isSome && decide (b.rcv.stage = .idle) then
    let b := traceResume b c k cause
    slwIssue (putCore b c { k with brkStop := none, stepping := step }) c
  else act b

/-- `CONTINUE` for a core (R441). -/
def brkContinue (b : Block) (c : Nat) : Act := stopLeave b c 0 false

/-- `STEP` for a core (R441). -/
def brkStep (b : Block) (c : Nat) : Act := stopLeave b c 1 true

/-- `HALT_REQ` for a core: pending while the core runs its part of a primary run, no effect otherwise (R438). -/
def brkHalt (b : Block) (c : Nat) : Act :=
  let k := coreOf b c
  match k.run.bind (runOf b) with
  | some r =>
    if decide (r.kind = .primary) && r.endedAt.isNone && !r.partsEnded.contains c && !k.ended then
      act (putCore b c { k with haltReq := true })
    else act b
  | none => act b

/-- A write of `SC_BRK_CMD`: each set bit in the order of the register, for the selected core (R440). -/
def brkCmd (b : Block) (data : Nat) : Act :=
  let c := b.regs.coreSel % 64
  let a := if data.testBit 0 then brkContinue b c else act b
  let a := if data.testBit 1 then andThen a (fun b => brkStep b c) else a
  if data.testBit 2 then andThen a (fun b => brkHalt b c) else a

/-- BRK_TIMEOUT: a stop without a command for `BRK_TIMEOUT_US` (R441). -/
def brkTimeout (b : Block) (c : Nat) : Act :=
  match (coreOf b c).brkStop with
  | some st =>
    if decide (c < 64) && decide (b.rcv.stage = .idle) then
      stopLeave (cnt (passTo b (st.since + dget b 0x8010 1 * 1000)) cBrkTimeout) c 2 false
    else act b
  | none => act b

/-- BRK_TIMEOUT. -/
def execBrkTimeout (c : Nat) (s : State) : Host.Outcome State Fault Refusal := liftA (fun b => brkTimeout b c) s

end Sys2Proof.Machine
end

