-- ==== Sys2Proof/Machine/Power.lean ====
section
/-! DEFINITION. Supply monitors, brownout hold, delay monitors and margin advisories, lengthening, cluster power states
(R421 to R434). -/

namespace Sys2Proof.Machine

open Sys2Proof

/-! ## Supply (R421 to R425) -/

def warnMv (b : Block) : Nat := dget b 0x7000 1
def resetMv (b : Block) : Nat := dget b 0x7000 2

/-- The release level. -/
def releaseMv (b : Block) : Nat := warnMv b + dget b 0x7000 3

/-- A supply sample: the last, the lowest, and during a hold the lowest of the hold and the start of the interval of R424. -/
def supplySample (b : Block) (mv : Nat) : Block :=
  let p := b.pwr
  { b with pwr := { p with nowMv := mv, minMv := min p.minMv mv, holdMin := if p.hold then min p.holdMin mv else p.holdMin,
                           aboveFrom := if mv < releaseMv b then b.tide.clock else p.aboveFrom } }

/-- BROWNOUT_HOLD: a sample below the warning level; the first enters the hold (R423). -/
def brownoutHold (b : Block) (mv : Nat) : Block :=
  let b := supplySample b mv
  if b.pwr.hold || decide (mv ≥ warnMv b) then b
  else
    let t := b.tide
    let b := { b with pwr := { b.pwr with hold := true, holdFrom := t.clock, holdMin := mv, holdFrame := t.frame,
                                          holdCount := b2n t.inFrames },
                      tide := { t with holdFrames := if t.inFrames then noteFrame b t.holdFrames t.frame else t.holdFrames } }
    powerRec (cnt b cHold) 0x01 0 mv 0 0

/-- BROWNOUT_HOLD. -/
def execBrownoutHold (mv : Nat) (s : State) : Host.Outcome State Fault Refusal := lift (fun b => brownoutHold b mv) s

/-- HOLD_RELEASE: a sample at or above the release level `HOLD_RELEASE_US` after the last below it ends the hold; every frame from the one
in which it began to this one was touched (R424). -/
def holdRelease (b : Block) (mv : Nat) : Block :=
  let b := supplySample b mv
  if !b.pwr.hold || decide (mv < releaseMv b) then b
  else
    let b := passTo b (b.pwr.aboveFrom + dget b 0x7000 4 * 1000)
    let held := b.tide.clock - b.pwr.holdFrom
    let b := { b with pwr := { b.pwr with hold := false } }
    powerRec (cntAdd b cHoldTime (held / 1000)) 0x02 0 b.pwr.holdMin held b.pwr.holdCount

/-- HOLD_RELEASE. -/
def execHoldRelease (mv : Nat) (s : State) : Host.Outcome State Fault Refusal := lift (fun b => holdRelease b mv) s

/-- The level signals once every unit has stopped: RESET_REQ asserted, every bypass output released (R338, R422). -/
def Pins.stop (p : Pins) : Pins := { p with stopped := true, resetReq := true, bypX := false, bypY := false, bypZ := false }

/-- SUPPLY_RESET: a sample below the reset level stops every unit at once (R422). -/
def execSupplyReset (mv : Nat) (s : State) : Host.Outcome State Fault Refusal :=
  .next (if alive s && decide (mv < resetMv s.blk) then { s with pin := s.pin.stop, blk := supplySample s.blk mv } else s)

/-! ## Delay monitors (R427 to R429) -/

/-- `MON_OFFSET` of a monitor, signed. -/
def monOffset (b : Block) (i : Nat) : Int := (BitVec.ofNat 16 (dget b 0x7002 (i + 1))).toInt

/-- The numerator of the ageing ratio of monitor `i`, in units of 2^-16. -/
def ratioTop (b : Block) (i stressed : Nat) : Nat := ((stressed : Int) * (65536 + monOffset b i)).toNat

/-- The ratio lies between 0.95 and 1.50. -/
def ratioValid (b : Block) (i stressed ref : Nat) : Bool :=
  decide (ref ≠ 0) && decide (95 * 65536 * ref ≤ 100 * ratioTop b i stressed) &&
    decide (ratioTop b i stressed ≤ 98304 * ref)

/-- A number put at its place in an ascending list. -/
def insertNat (x : Nat) : List Nat → List Nat
  | [] => [x]
  | y :: l => if x ≤ y then x :: y :: l else y :: insertNat x l

/-- The median of eight ratios, in units of 1/1,024 (log entry 23); none while fewer are held. -/
def ratioMedian (l : List Nat) : Option Nat :=
  let s := l.foldr insertNat []
  if l.length < 8 then none else some ((s.getD 3 0 + s.getD 4 0) / 128)

/-- One monitor of a pass: its ratio kept, or recorded as invalid (R427). The result says whether it takes part. -/
def monitorOne (b : Block) (i stressed ref : Nat) : Bool × Block :=
  let ratio := ratioTop b i stressed / ref
  if ratioValid b i stressed ref then
    (true, { b with pwr := { b.pwr with ratios := fmSet b.pwr.ratios i ((fmGet b.pwr.ratios i [] ++ [ratio]).reverse.take 8).reverse } })
  else (false, powerRec (cnt b cMonitorFault) 0x05 i ratio 0 0)

/-- The monitors of a pass from number `i` on: the largest median of those that take part. -/
def monitorAll (b : Block) (i : Nat) (best : Option Nat) : List (Nat × Nat) → Option Nat × Block
  | [] => (best, b)
  | (st, rf) :: l =>
    let r := monitorOne b i st rf
    let m := if r.1 then ratioMedian (fmGet r.2.pwr.ratios i []) else none
    monitorAll r.2 (i + 1) (match best, m with
      | some x, some y => some (max x y)
      | none, m => m
      | x, none => x) l

/-- End-of-life ageing in units of 1/1,024 (R426). -/
def eolFactor : Nat := 1147

/-- The quotient rounded up. -/
def ceilDiv (n d : Nat) : Nat := (n + d - 1) / d

/-- The factor of the newest generation. -/
def advFactor (b : Block) : Nat := b.pwr.factors.headD 1024

/-- The factor of a generation: those of the last 16 are kept, an older one is 1,024 (R428). -/
def genFactor (b : Block) (g : Nat) : Nat :=
  if b.pwr.gen < g then Config.laterFactor g else b.pwr.factors.getD (b.pwr.gen - g) 1024

/-- The advisory steps of R428. -/
def advise (b : Block) : Block :=
  let a := b.pwr.ageing
  let k := advFactor b
  let new := ceilDiv (a * (1024 + dget b 0x7020 5)) eolFactor
  if a * 1024 * 1024 ≥ eolFactor * k * dget b 0x7020 4 && decide (new > k) then
    let gen := (b.pwr.gen + 1) % 2 ^ 32
    let b := { b with pwr := { b.pwr with gen := gen, factors := (new :: b.pwr.factors).take 16 } }
    let b := powerRec (cnt b cAdvisory) 0x03 0 a new gen
    { b with tide := { b.tide with sheets := b.tide.sheets.map (fun x => (x.1, match x.2.active with
      | some s => { x.2 with stale := x.2.stale || decide (s.advGen < gen) }
      | none => x.2)) } }
  else b

/-- The floor that R429 computes: r and F; none without an active sheet or when r does not exceed `HARD_LIMIT`. -/
def lengthenFloor (b : Block) : Option (Nat × Nat) :=
  let act := b.tide.sheets.filterMap (fun x => x.2.active)
  match act with
  | [] => none
  | s :: l =>
    let g := l.foldl (fun m x => min m x.advGen) s.advGen
    let len := act.foldl (fun m x => max m x.frameLen) 0
    let r := ceilDiv (b.pwr.ageing * 1048576) (eolFactor * genFactor b g)
    if dget b 0x7020 8 = 1 ∧ r > dget b 0x7020 6 then some (r, min 10000000 (10 * ceilDiv (len * r) 10240)) else none

/-- Lengthening after a pass (R429): a higher floor is recorded and asked for; a member whose floor exceeds the length
announced to it asks again. -/
def lengthen (b : Block) : Block :=
  let ask (b : Block) : Block := askLength (if timeMaster b then b else cnt b cLengthen) b.tide.myFloor
  match lengthenFloor b with
  | some (r, F) =>
    if F > max b.tide.myFloor b.tide.floor then
      ask (powerRec { b with tide := { b.tide with myFloor := F } } 0x04 0 r F 0)
    else if b.tide.myFloor > b.tide.length then ask b else b
  | none => if b.tide.myFloor > b.tide.length then ask b else b

/-- MONITOR_PASS: `MON_PERIOD_MS` after the last, the stressed and the reference period of the 32 monitors. -/
def monitorPass (b : Block) (periods : List (Nat × Nat)) : Block :=
  if periods.length ≠ 32 then b
  else
    let b := passTo b (b.pwr.monAt + dget b 0x7020 7 * 1000000)
    let b := { b with pwr := { b.pwr with monAt := b.tide.clock } }
    let r := monitorAll b 0 none periods
    let b := match r.1 with
      | some a => { r.2 with pwr := { r.2.pwr with ageing := a } }
      | none => r.2
    lengthen (advise b)

/-- MONITOR_PASS (R427). -/
def execMonitorPass (periods : List (Nat × Nat)) (s : State) : Host.Outcome State Fault Refusal :=
  liftU (fun b => monitorPass b periods) s

/-! ## Cluster power (R430, R431) -/

/-- No heat holds the cluster and no baton of it is outstanding. -/
def clusterUnused (b : Block) (c : Nat) : Bool := !clusterHeld b c && (portOf b c).out.isEmpty

/-- CLUSTER_IDLE: a cluster of a partition unused for `IDLE_AFTER_US` is ordered `IDLE`. -/
def clusterIdle (b : Block) (c : Nat) : Block :=
  let x := pwrOf b c
  if (clusterPart b c).isSome && decide (x.order = 3) && clusterUnused b c then
    orderPower (passTo b (x.unused + dget b 0x7010 1 * 1000)) c 2
  else b

/-- CLUSTER_IDLE (R430). -/
def execClusterIdle (c : Nat) (s : State) : Host.Outcome State Fault Refusal := liftU (fun b => clusterIdle b c) s

/-- The next occurrence that includes the cluster, or window that it applies, in reference time. -/
def nextNeed (b : Block) (p c : Nat) : Option Nat :=
  nextBegin b p c (fun w => (liveOf b w.live).any (fun l => decide (l.cluster = c)))

/-- How long before a need a cluster is woken: from `OFF`, and from `IDLE`. -/
def wakeOffLead (b : Block) : Nat := dget b 0x7010 4 + dget b 0x7010 3 + dget b 0x7010 5
def wakeIdleLead (b : Block) : Nat := dget b 0x7010 3 + dget b 0x7010 5

/-- CLUSTER_OFF: a cluster that has been `IDLE` for `OFF_AFTER_US` is ordered `OFF`, unless it is needed soon. -/
def clusterOff (b : Block) (c : Nat) : Block :=
  let x := pwrOf b c
  match clusterPart b c with
  | none => b
  | some p =>
    if decide (x.order = 2) && decide (x.state = 2) && clusterUnused b c && decide (dget b 0x7010 2 ≠ 0xFFFFFFFF) then
      let t := max b.tide.clock (x.idle + dget b 0x7010 2 * 1000)
      if (nextNeed b p c).all (fun n => decide (t + wakeOffLead b < clockAt b n)) then orderPower (passTo b t) c 0 else b
    else b

/-- CLUSTER_OFF (R430). -/
def execClusterOff (c : Nat) (s : State) : Host.Outcome State Fault Refusal := liftU (fun b => clusterOff b c) s

/-- The clusters with which the composer completes the set of the partition's oldest ready BE heat that cannot be placed:
those that wake already, then `OFF` ones in the order of R231. -/
def wakeSet (b : Block) (p : Nat) : List Nat :=
  match firstItem readyFirst (beReady b p) with
  | none => []
  | some x =>
    let l := beEligible b p x
    let n := beCount b p x.2
    if n ≤ l.length then []
    else
      let no := claimed b p x
      let cand := (beUsable b p x.2).filter (fun c => !clusterHeld b c && decide ((pwrOf b c).state < 2) && !no.contains c)
      let ranked := [0, 1, 2, 3].flatMap (fun k => cand.filter (fun c => decide (beRank b x.2 c = k)))
      let sorted := ranked.filter (fun c => decide ((pwrOf b c).order ≠ 0)) ++ ranked.filter (fun c => decide ((pwrOf b c).order = 0))
      if n ≤ l.length + sorted.length then sorted.take (n - l.length) else []

/-- CLUSTER_WAKE: the composer wakes a cluster for a BE heat, or the tide unit wakes one ahead of its next need. -/
def clusterWake (b : Block) (c : Nat) : Block :=
  match clusterPart b c with
  | none => b
  | some p =>
    let o := (pwrOf b c).order
    if o = 0 && (wakeSet b p).contains c then orderPower b c 2
    else match nextNeed b p c with
      | none => b
      | some t =>
        if o = 0 then orderPower (passRef b (t - wakeOffLead b)) c 2
        else if o = 2 then orderPower (passRef b (t - wakeIdleLead b)) c 3
        else b

/-- CLUSTER_WAKE (R431). -/
def execClusterWake (c : Nat) (s : State) : Host.Outcome State Fault Refusal := liftU (fun b => clusterWake b c) s

/-- POWER_STATE_REPORT: the group reports a cluster's state; a late wake is recorded once `ACTIVE` is reported (R430, R431). -/
def powerReport (b : Block) (c st : Nat) : Block :=
  if c ≥ 64 ∨ st > 3 then b
  else
    let x := pwrOf b c
    let late := if st = 3 then none else x.late
    let b := if x.state = st then b else tableChanged b
    let y := { x with state := st, idle := if st = 2 ∧ x.state ≠ 2 then b.tide.clock else x.idle, late := late }
    let b := { b with pwr := { b.pwr with clusters := fmSet b.pwr.clusters c y } }
    match x.late with
    | some begun => if st = 3 then powerRec b 0x06 c begun (stamp b) 0 else b
    | none => b

/-- POWER_STATE_REPORT (R430, R452). -/
def execPowerStateReport (c st : Nat) (s : State) : Host.Outcome State Fault Refusal := lift (fun b => powerReport b c st) s

end Sys2Proof.Machine
end

