-- ==== Sys2Proof/Machine/FenceCmds.lean ====
section
/-! DEFINITION. The events of the dependency engine (spec/05_fences_dependencies.md): replies of memory, messages of other
chips about fences, deadlines of remote waits, stall reports and the wait-cycle walker. The rows of messages stand in
Receive.lean. -/

namespace Sys2Proof.Machine

open Sys2Proof

/-! ## Memory (R119, R122, R123) -/

/-- Operations meet a fence of value `c` in the order in which they reached it; the value that each leaves is the next one's (R115,
R116). -/
def applyAll (b : Block) (a c : Word) (ops : List FMiss) : Act × Word :=
  ops.foldl (fun (x : Act × Word) m => (andThen x.1 (fun b => applyFence b a x.2 m.op m.held), valueAfter x.2 m.op)) (act b, c)

/-- Operations meet a fence that has been read: it enters the cache if there is room (R119, R122), and leaves it again if its page has
left the mappings since and nothing has pinned it (R124). -/
def serveRead (b : Block) (a v : Word) (ops : List FMiss) (drop : Bool) : Act :=
  let b := if (fenceEnt b a).isSome then b else fenceInsert b a v false
  let r := (applyAll b a (((fenceEnt b a).map (fun e => e.value)).getD v) ops).1
  if drop then
    (fenceSweep { r.1 with fen := { r.1.fen with cache := fmMod r.1.fen.cache a.toNat (fun e => { e with drop := true }) } }, r.2)
  else r

/-- The read of a fence returns after a miss: the operations that waited for it take effect in the order in which they reached it
(R116, R119, R122). Those that came after the fence's page had left the mappings wait for a read of their own, unless the fence is
still pinned in the cache (R124). -/
def missReturn (b : Block) (a v : Word) : Act :=
  let ops := b.fen.misses.filter (fun m => m.addr = a)
  let old := ops.filter (fun m => m.drop)
  let new := ops.filter (fun m => !m.drop)
  let b := { b with fen := { b.fen with misses := b.fen.misses.filter (fun m => decide (m.addr ≠ a)) } }
  if ops.isEmpty then act b
  else if old.isEmpty then serveRead b a v new false
  else andThen (serveRead b a v old true) (fun b => match fenceEnt b a with
    | some e => (applyAll b a e.value new).1
    | none => act { b with fen := { b.fen with misses := b.fen.misses ++ new } })

/-- FENCE_MISS_READ_RETURN (R119). -/
def execFenceMissReadReturn (addr value : Word) (s : State) : Host.Outcome State Fault Refusal :=
  lift (fun b => if b.rcv.stage = .idle then finish (missReturn b addr value) else retire b [.fence addr]) s

/-- The oldest issued write-through of a fence, with the writes before and after it. -/
def ackSplit (a : Word) : List FWrite → Option (List FWrite × FWrite × List FWrite)
  | [] => none
  | w :: t =>
    if w.addr = a then (if w.deps.isEmpty then some ([], w, t) else none)
    else (ackSplit a t).map (fun x => (w :: x.1, x.2))

/-- What was held back by write-throughs that are all acknowledged now (R330). -/
def ackFire (b : Block) (x : AckThen) : Block :=
  match x with
  | .done t => completeItem b t
  | .remote a v s => remoteSend b a v s

/-- A write-through is acknowledged: memory holds the value, what follows the signal comes about (R123), and writes, completions and
signals to other chips that had to follow this one go on (R330). -/
def writeAck (b : Block) (a : Word) : Act :=
  match ackSplit a b.fen.writes with
  | none => act b
  | some (pre, w, post) =>
    let rest (l : List (Word × Word)) : List (Word × Word) := l.filter (fun y => decide (y ≠ (w.addr, w.value)))
    let free (x : FWrite) : FWrite :=
      if x.deps.contains (w.addr, w.value) then
        { x with deps := rest x.deps, due := if (rest x.deps).isEmpty then b.tide.clock + dget b 0x6000 5 * 1000 else x.due }
      else x
    let acks := b.fen.acks.map (fun x => { x with deps := rest x.deps })
    let b := wrLE b a.toNat 8 w.value.toNat
    let b := { b with fen := { b.fen with writes := (pre ++ post).map free, acks := acks.filter (fun x => !x.deps.isEmpty) } }
    ((acks.filter (fun x => x.deps.isEmpty)).foldl (fun b x => ackFire b x.next) b, w.after.map Task.after)

/-- FENCE_WRITE_ACK (R14, R123, R330). -/
def execFenceWriteAck (addr : Word) (s : State) : Host.Outcome State Fault Refusal := liftA (fun b => writeAck b addr) s

/-! ## Messages of other chips (R131 to R133) -/

/-- FENCE_SIGNAL at its home chip. -/
def onFenceSignal (b : Block) (h : GzHdr) (a v : Word) (ctx : BitVec 24) : Act :=
  if isLocal b a.toNat then
    (b, [.fence a (.signal v { chip := h.src, ctx := ctx, tag := 0, part := 0, deps := [], after := .applied h.src h.seq 0 })])
  else act b

/-- FENCE_APPLIED at the signaller: the signal is done, whatever its outcome (R132). -/
def onFenceApplied (b : Block) (h : GzHdr) (seq : BitVec 32) : Act :=
  let mine (x : RSignal) : Bool := x.chip = h.src && x.seq = seq
  let done := b.fen.signals.filter mine
  ({ b with fen := { b.fen with signals := b.fen.signals.filter (fun x => !mine x) } }, done.map (fun x => Task.after x.after))

/-- FENCE_WATCH at the home chip: refused with FENCE_BUSY for an uncached fence while every cached fence is pinned. -/
def onFenceWatch (b : Block) (h : GzHdr) (a v : Word) : Act :=
  if !isLocal b a.toNat then act b
  else if b.fen.waits.any (fun w => w.addr = a && w.value = v && decide (w.who = .chip h.src)) then act b
  else if (fenceEnt b a).isNone && !fenceRoom b a then act (gzSend b h.src (.fenceBusy a))
  else (b, [.fence a (.wait (.chip h.src) v)])

/-- FENCE_REACHED at the waiting chip: every local waiter that the value has reached is released. -/
def onFenceReached (b : Block) (h : GzHdr) (a v : Word) : Act :=
  if decide (gchip a.toNat ≠ h.src) || isLocal b a.toNat then act b
  else
    let freed := b.fen.waits.filter (fun w => w.addr = a && reached v w.value)
    ({ b with fen := { b.fen with waits := b.fen.waits.filter (fun w => !(w.addr = a && reached v w.value)),
                                  watches := b.fen.watches.filter (fun w => !(w.addr = a && reached v w.value)) } },
     freed.map (fun w => Task.satisfied w.who a v))

/-- The first watch of a fence that waits for an answer is to be sent again after `REMOTE_WATCH_RETRY_US`. -/
def busyMark (a : Word) (t : Nat) : List RWatch → List RWatch
  | [] => []
  | w :: ws => if w.addr = a && w.sent && w.retry.isNone then { w with retry := some t } :: ws else w :: busyMark a t ws

/-- FENCE_BUSY at the waiting chip. -/
def onFenceBusy (b : Block) (h : GzHdr) (a : Word) : Act :=
  if gchip a.toNat = h.src then
    act (cnt { b with fen := { b.fen with watches := busyMark a (b.tide.clock + dget b 0x2030 5 * 1000) b.fen.watches } } cWatchBusy)
  else act b

/-- FENCE_UNWATCH at the home chip. -/
def onFenceUnwatch (b : Block) (h : GzHdr) (a v : Word) : Act :=
  act (fenceSweep { b with fen := { b.fen with
    waits := b.fen.waits.filter (fun w => !(w.addr = a && w.value = v && decide (w.who = .chip h.src))),
    misses := b.fen.misses.filter (fun m => !(m.addr = a && decide (m.op = .wait (.chip h.src) v))) } })

/-- A refused watch is sent again (R133), or held while its home has no route (R468). -/
def watchRetry (b : Block) (a v : Word) : Block :=
  match b.fen.watches.find? (fun w => w.addr = a && w.value = v) with
  | some w => match w.retry with
    | some t =>
      let b := passTo b t
      let ok := routed b (gchip a.toNat)
      let b := { b with fen := { b.fen with watches := b.fen.watches.map (fun x =>
        if x.addr = a && x.value = v then { x with sent := ok, retry := none } else x) } }
      if ok then gzSend b (gchip a.toNat) (.fenceWatch a v) else b
    | none => b
  | none => b

/-- REMOTE_WATCH_RETRY (R133). -/
def execRemoteWatchRetry (addr value : Word) (s : State) : Host.Outcome State Fault Refusal :=
  liftR (fun b => watchRetry b addr value) s

/-! ## Deadlines of remote waits (R134) -/

/-- A remote wait of a run has reached its deadline: the record, the end of the heat, and propagation. -/
def remoteExpired (b : Block) (c n : Nat) (addr : Nat) (cur val : Word) : Act :=
  match runOf b n with
  | none => act b
  | some r =>
    let b := depRec b 5 (chipNo b) (some c) r.ctx.toNat addr cur.toNat val.toNat r.tag r.part 0
    (b, [.kill n stRemoteWait, .propagate r.part (remoteDeps b n)])

/-- REMOTE_WAIT_DEADLINE for a core's wait on a remote fence, an FREAD of one included (DEDUCED: it waits for the fence's home as an
FWAIT does; log entry 20), or for an accepted L baton. -/
def remoteDeadline (b : Block) (x : RemoteWaitRef) : Act :=
  match x with
  | .core c =>
    let k := coreOf b c
    match k.hold, k.run with
    | .remoteFence a v d _, some n => remoteExpired (passTo b d) c n a.toNat (Config.remoteFence a) v
    | .remoteRead a d, some n => remoteExpired (passTo b d) c n a.toNat (Config.remoteFence a) 0
    | _, _ => act b
  | .baton c id => match (portOf b c).out.find? (fun x => x.id = id && isL x.ent.pos) with
    | some x => remoteExpired (passTo b x.deadline) c x.run 0 0 0
    | none => act b

/-- REMOTE_WAIT_DEADLINE (R134). -/
def execRemoteWaitDeadline (r : RemoteWaitRef) (s : State) : Host.Outcome State Fault Refusal :=
  liftRA (fun b => remoteDeadline b r) s

/-! ## Stall reports (R128) -/

/-- The scoreboard, or a partition's quota, has stayed full for its report period: one SCOREBOARD_STALL record, and the next period
begins, of the length that is in force then (R128, R143). -/
def sbStall (b : Block) (part : Option Nat) : Block :=
  match part with
  | none => match b.sb.fullSince with
    | some (t, period) =>
      let b := passTo b (t + period)
      depRec { b with sb := { b.sb with fullSince := some (b.tide.clock, stallPeriod b) } } 2 (chipNo b) none 0xFFFFFF 0 0 0 0x1FFFF 0 0
    | none => b
  | some p => match fmGet? b.sb.quota p with
    | some (t, period) =>
      if b.sb.full then b
      else
        let b := passTo b (t + period)
        depRec { b with sb := { b.sb with quota := fmSet b.sb.quota p (b.tide.clock, stallPeriod b) } } 2 (chipNo b) none 0xFFFFFF
          0 0 0 0 p 0
    | none => b

/-- SCOREBOARD_STALL (R128). -/
def execScoreboardStall (part : Option Nat) (s : State) : Host.Outcome State Fault Refusal := liftR (fun b => sbStall b part) s

/-! ## The wait-cycle walker (R136 to R138) -/

/-- The credit waits of this chip: core, run, credit, awaited value. -/
def creditWaits (b : Block) : List (Nat × Nat × Word × Word) :=
  b.cores.filterMap (fun x => match x.2.hold, x.2.run with
    | .localFence a v true, some n => some (x.1, n, a, v)
    | .remoteFence a v _ true, some n => some (x.1, n, a, v)
    | .pinned a v true, some n => some (x.1, n, a, v)
    | _, _ => none)

/-- The credits that a heat has declared, on cores whose parts have ended and on the others. -/
def creditsOf (b : Block) (n : Nat) (r : Run) : List Word :=
  r.credits ++ (b.cores.filter (fun x => x.2.run = some n)).flatMap (fun x => x.2.credits)

/-- The heats that have declared a credit; a declaration holds until the heat ends (R136). -/
def creditSigners (b : Block) (a : Word) : List Nat :=
  (b.comp.runs.filter (fun x => isHeatRun x.2 && !x.2.done && (creditsOf b x.1 x.2).contains a)).map Prod.fst

/-- The value of a credit: cached at home; the waiting chip holds no copy of a remote one (R131). -/
def creditValue (b : Block) (a : Word) : Word :=
  if isLocal b a.toNat then ((fenceEnt b a).map (fun e => e.value)).getD 0 else Config.remoteFence a

/-- The edges of the wait graph: a waiting run to each waiting run that declared its credit. -/
def creditEdges (b : Block) : List (Nat × Nat) :=
  let ws := creditWaits b
  ws.flatMap (fun w => ((creditSigners b w.2.2.1).filter (fun s => ws.any (fun x => x.2.1 = s))).map (fun s => (w.2.1, s)))

/-- The runs reachable from a set along edges, in at most `fuel` rounds. -/
def reachable (edges : List (Nat × Nat)) : Nat → List Nat → List Nat
  | 0, l => l
  | k + 1, l =>
    let next := (edges.filter (fun e => l.contains e.1 && !l.contains e.2)).map Prod.snd
    if next.isEmpty then l else reachable edges k (l ++ next.eraseDups)

/-- The runs that a run reaches along at least one edge. -/
def successors (edges : List (Nat × Nat)) (n : Nat) : List Nat :=
  reachable edges edges.length ((edges.filter (fun e => e.1 = n)).map Prod.snd).eraseDups

/-- The cycles: largest sets of runs in which each reaches every other (R137), each as an ascending list. -/
def creditCycles (b : Block) : List (List Nat) :=
  let edges := creditEdges b
  let nodes := ((edges.map Prod.fst).eraseDups).mergeSort (· ≤ ·)
  let sets := nodes.filterMap (fun n =>
    let s := successors edges n
    if s.contains n then some (nodes.filter (fun m => s.contains m && (successors edges m).contains n)) else none)
  sets.eraseDups

/-- The credits that a set waits for, with their values. -/
def creditValues (b : Block) (set : List Nat) : List (Word × Word) :=
  (((creditWaits b).filter (fun w => set.contains w.2.1)).map (fun w => w.2.2.1)).eraseDups.map (fun a =>
    (a, creditValue b a))

/-- The youngest waiter of a set: the latest start, then the higher scoreboard tag. -/
def youngest (b : Block) (set : List Nat) : Option Nat :=
  ((set.filterMap (fun n => (runOf b n).map (fun r => (n, r)))).foldl (fun (m : Option (Nat × Run)) x => match m with
    | none => some x
    | some y => if y.2.start < x.2.start || (y.2.start = x.2.start && decide (y.2.tag < x.2.tag)) then some x else some y) none).map
    Prod.fst

/-- A cycle as a pass finds it. -/
def creditSet (b : Block) (set : List Nat) : CreditSet :=
  let n := (youngest b set).getD 0
  let c := (((creditWaits b).find? (fun w => w.2.1 = n)).map Prod.fst).getD 0
  { runs := set, values := creditValues b set, young := n, core := c, since := (coreOf b c).holdFrom }

/-- A pass of the walker takes the graph as it stands at its start, a whole multiple of `WALKER_PERIOD_US` of reference time, or of
the local oscillator's count while reference time does not run (R3). -/
def walkerStart (b : Block) : Block :=
  let p := dget b 0x2030 2 * 1000
  let now := if timeRuns b then b.tide.time else b.tide.clock
  let t := if now ≤ b.walk.due ∧ b.walk.due ≤ now + 100000000 then b.walk.due else roundUp now p
  let b := passTo b (b.tide.clock + (t - now))
  if b.walk.pass.isSome then b
  else { b with walk := { b.walk with due := (t / p + 1) * p, pass := some ((creditCycles b).map (creditSet b)) } }

/-- WALKER_PASS (R137). -/
def execWalkerPass (s : State) : Host.Outcome State Fault Refusal := liftR walkerStart s

/-- One cycle, found unchanged by two passes, is broken at its youngest waiter, unless that one has left its credit wait. -/
def breakCycle (b : Block) (x : CreditSet) : Act :=
  match runOf b x.young, (creditWaits b).find? (fun w => w.1 = x.core && w.2.1 = x.young) with
  | some r, some (c, _, a, v) =>
    if r.abort.isSome || r.endedAt.isSome || decide ((coreOf b c).holdFrom ≠ x.since) then act b
    else
      let b := depRec b 3 (chipNo b) (some c) r.ctx.toNat a.toNat (creditValue b a).toNat v.toNat r.tag r.part x.runs.length
      (cnt b cCreditCycle, [.abort x.young stCreditCycle, .lose r.ctx stCreditCycle])
  | _, _ => act b

/-- The credit waits that no declared signaller can end any more, the last one having ended by abort (R138). -/
def orphans (b : Block) : List (Nat × Nat × Word × Word) :=
  (creditWaits b).filter (fun w => (creditSigners b w.2.2.1).isEmpty && fmGet b.walk.enders w.2.2.1.toNat false)

/-- An orphaned credit wait ends its heat with ABORT_PEER_FAULT (R138). -/
def endOrphan (b : Block) (w : Nat × Nat × Word × Word) : Act :=
  match runOf b w.2.1 with
  | none => act b
  | some r =>
    if r.abort.isSome then act b
    else
      let cur := creditValue b w.2.2.1
      (depRec b 4 (chipNo b) (some w.1) r.ctx.toNat w.2.2.1.toNat cur.toNat w.2.2.2.toNat r.tag r.part 0,
       [.abort w.2.1 stPeerFault])

/-- The end of a pass: cycles that the pass before found too, with unchanged credits, are broken, and orphaned waits end. -/
def walkerEnd (b : Block) : Act :=
  match b.walk.pass with
  | none => act b
  | some found =>
    let same (x y : CreditSet) : Bool := decide (x.runs = y.runs) && decide (x.values = y.values)
    let sure := found.filter (fun x => b.walk.prev.any (same x))
    let b := { b with walk := { b.walk with pass := none, prev := found } }
    let lost := orphans b
    andThen (actEach b sure breakCycle) (fun b => actEach b lost endOrphan)

/-- WALKER_PASS_END (R137, R138). -/
def execWalkerPassEnd (s : State) : Host.Outcome State Fault Refusal := liftRA walkerEnd s

end Sys2Proof.Machine
end

