-- ==== Sys2Proof/Machine/Micro.lean ====
section
/-! DEFINITION. Microsequencers, customer handlers and microcode images (spec/15_microcode.md), and the parameter reads that
the admin executor waits for (R104). -/

namespace Sys2Proof.Machine

open Sys2Proof

/-! ## Fields of microwords, nano words and descriptors (R367, R372, R375) -/

def mwDelay (w : BitVec 32) : Nat := field w 0 3
def mwGroup (w : BitVec 32) : Nat := field w 3 3
def mwNext (w : BitVec 32) : Nat := field w 6 14
def mwNano (w : BitVec 32) : Nat := field w 20 12
def nwOp (w : BitVec 256) : Nat := field w 0 8
def nwSrcA (w : BitVec 256) : Nat := field w 8 6
def nwSrcB (w : BitVec 256) : Nat := field w 14 6
def nwDst (w : BitVec 256) : Nat := field w 20 6
def nwService (w : BitVec 256) : Nat := field w 28 4
def nwSize (w : BitVec 256) : Nat := field w 32 4
def nwMinDelay (w : BitVec 256) : Nat := field w 36 3
def nwConst (w : BitVec 256) : Word := w.extractLsb' 42 64
def dsLoaded (d : BitVec 64) : Bool := bitAt d 0
def dsPriv (d : BitVec 64) : Bool := bitAt d 1
def dsMayPend (d : BitVec 64) : Bool := bitAt d 2
def dsContext (d : BitVec 64) : Bool := bitAt d 3
def dsStates (d : BitVec 64) : Nat := field d 4 6
def dsLimit (d : BitVec 64) : Nat := field d 16 16 * 1024
def dsEntry (d : BitVec 64) : Nat := field d 32 14

/-- The range of EXTRACT and INSERT: first byte and number of bytes (R372). -/
def nwRange (w : BitVec 256) : Nat × Nat := (field (nwConst w) 0 6, field (nwConst w) 6 4 + 1)

/-- A micro address in the customer region (R374). -/
def inRegion (a : Nat) : Bool := decide (0x3000 ≤ a) && decide (a ≤ 0x3FFF)

/-- The descriptor of a customer opcode, submission or admin (R375). -/
def descOf (b : Block) (admin : Bool) (opcode : Nat) : BitVec 64 :=
  fmGet b.mic.desc (opcode % 128 + if admin then 128 else 0) 0

/-! ## Images (R379 to R381) -/

/-- The bytes cut into `n` words of `size` bytes. -/
def imgWords (size : Nat) : Nat → List Byte → List Nat
  | 0, _ => []
  | n + 1, bs => leValue (bs.take size) :: imgWords size n (bs.drop size)

def imgHasVendor (bs : List Byte) : Bool := (bytesField bs 6 2).testBit 0
def imgHasCustomer (bs : List Byte) : Bool := (bytesField bs 6 2).testBit 1

/-- Where the customer part starts. -/
def imgCustomerAt (bs : List Byte) : Nat := if imgHasVendor bs then 147648 else 0x40

/-- Microwords and nano words of the vendor part. -/
def imgVendorMicro (bs : List Byte) : List Nat := imgWords 4 12288 (bs.drop 0x40)
def imgVendorNano (bs : List Byte) : List Nat := imgWords 32 3072 (bs.drop (0x40 + 49152))

/-- Descriptors, microwords and nano words of the customer part. -/
def imgDesc (bs : List Byte) : List Nat := imgWords 8 256 (bs.drop (imgCustomerAt bs))
def imgMicro (bs : List Byte) : List Nat := imgWords 4 4096 (bs.drop (imgCustomerAt bs + 2048))
def imgNano (bs : List Byte) : List Nat := imgWords 32 1024 (bs.drop (imgCustomerAt bs + 18432))

/-- Check 1 of R381: header, at least one part, offsets, padding and length (R379, R380). -/
def imgShape (bs : List Byte) (len : Nat) : Bool :=
  let v := imgHasVendor bs
  let c := imgHasCustomer bs
  decide (bs.length = len) && decide (bytesField bs 0 4 = 0x55434353) && decide (bytesField bs 4 2 = 1) &&
    decide (bytesField bs 6 2 < 4) && (v || c) && decide (bytesField bs 0x1C 36 = 0) && decide (bytesField bs 0x18 4 = len) &&
    decide (len = if v && c then 199040 else if v then 147616 else 51456) &&
    decide (bytesField bs 0x10 4 = if v then 0x40 else 0) &&
    decide (bytesField bs 0x14 4 = if c then imgCustomerAt bs else 0) && (!(v && c) || decide (bytesField bs 147616 32 = 0))

/-- What every nano word meets at load: no reserved operation, size or service (R372). -/
def nanoAny (w : BitVec 256) : Bool :=
  !(decide (0x0B ≤ nwOp w) && decide (nwOp w ≤ 0x7F)) && decide (nwSize w ≤ 3) && decide (nwService w ≤ 12)

/-- What a customer nano word meets besides (R372, R373). -/
def nanoCustomer (w : BitVec 256) : Bool :=
  decide (field w 106 150 = 0) && decide (nwOp w ≤ 0x0A) && decide (nwService w ≤ 5) && decide (nwSrcA w < 32) &&
    decide (nwSrcB w < 32) && decide (nwDst w < 32) &&
    (!(decide (nwOp w = 8) || decide (nwOp w = 9)) || decide ((nwRange w).1 + (nwRange w).2 ≤ 64))

/-- A microword's delay covers the nano word that it names (R369). -/
def delayCovers (nano : Nat → BitVec 256) (w : BitVec 32) : Bool := decide (nwMinDelay (nano (mwNano w)) ≤ mwDelay w)

/-- What a customer microword meets (R374): a customer nano word, a next address in the region or an export under group 0,
no group 6. -/
def microCustomer (w : BitVec 32) : Bool :=
  decide (0xC00 ≤ mwNano w) && decide (mwGroup w ≠ 6) &&
    (inRegion (mwNext w) || (decide (0x10 ≤ mwNext w) && decide (mwNext w ≤ 0x13) && decide (mwGroup w = 0)))

/-- What a descriptor meets (R375). -/
def descFits (admin : Bool) (d : BitVec 64) : Bool :=
  if dsLoaded d then
    decide (field d 10 6 = 0) && decide (field d 46 18 = 0) && decide (field d 16 16 ≠ 0) && inRegion (dsEntry d) &&
      (admin || decide (field d 1 9 = 0))
  else decide (d = 0)

/-- Check 4 of R381, with the refusals of R369 and R372 that hold of every image. `nano` is the nano store after the
load. -/
def imgCode (b : Block) (bs : List Byte) : Bool :=
  let vn := if imgHasVendor bs then (imgVendorNano bs).map (BitVec.ofNat 256) else []
  let cn := if imgHasCustomer bs then (imgNano bs).map (BitVec.ofNat 256) else []
  let vm := if imgHasVendor bs then (imgVendorMicro bs).map (BitVec.ofNat 32) else []
  let cm := if imgHasCustomer bs then (imgMicro bs).map (BitVec.ofNat 32) else []
  let nano (i : Nat) : BitVec 256 :=
    if i < 0xC00 then vn.getD i (fmGet b.mic.nano i 0) else cn.getD (i - 0xC00) (fmGet b.mic.nano i 0)
  vn.all nanoAny && cn.all (fun w => nanoAny w && nanoCustomer w) && vm.all (delayCovers nano) &&
    cm.all (fun w => delayCovers nano w && microCustomer w) &&
    (!imgHasCustomer bs || ((imgDesc bs).zipIdx.all (fun x => descFits (decide (x.2 ≥ 128)) (BitVec.ofNat 64 x.1))))

/-- The 96 bytes at an offset as two big-endian numbers: a public key, or r and s of a signature (R380). -/
def imgPair (bs : List Byte) (off : Nat) : Nat × Nat :=
  (beValue ((bs.drop off).take 48), beValue ((bs.drop (off + 48)).take 48))

/-- The signature of a part over the header and the part up to its signature verifies (R380). -/
def imgSigned (bs : List Byte) (part len : Nat) (key : Nat × Nat) : Bool :=
  let sig := imgPair bs (part + len - 96)
  ecdsaVerify key (sha384 (bs.take 0x40 ++ (bs.drop part).take (len - 96))) sig.1 sig.2

/-- The image's own key hashes to `CUSTOMER_KEY_HASH`, which is not zero (R381). -/
def imgKeyed (b : Block) (bs : List Byte) : Bool :=
  let h := b.mic.keyHash.getD 0
  decide (h ≠ 0) && decide (sha384 ((bs.drop (imgCustomerAt bs + 51200)).take 96) = beValue (leBytes 48 h))

/-- The checks of R381 in order; the boot loader leaves out 2 and 3 (R382). -/
def imageCheck (b : Block) (bs : List Byte) (len : Nat) (boot secure : Bool) : Option AdminErr :=
  let v := imgHasVendor bs
  let c := imgHasCustomer bs
  if !imgShape bs len then some (stAdminFailed, dtImageFormat)
  else if v && !boot && !secure then some (stNotOwner, dtRights)
  else if v && !boot && (b.q.aqs.any (fun x => x.2.enabled) || !b.obj.ctxs.isEmpty) then some (stBadState, dtState)
  else if !imgCode b bs then some (stAdminFailed, dtImageFormat)
  else if c && decide ((if v then bytesField bs 8 4 else b.mic.vendorV) < bytesField bs 0xC 4) then some (stAdminFailed, dtImageFormat)
  else if c && !imgKeyed b bs then some (stAdminFailed, dtSignature)
  else if (v && !imgSigned bs 0x40 147552 Config.prihornKey) ||
      (c && !imgSigned bs (imgCustomerAt bs) 51392 (imgPair bs (imgCustomerAt bs + 51200))) then some (stAdminFailed, dtSignature)
  else none

/-- Words of a part placed in a store from an address; zero words are not listed. -/
def storeWords (n : Nat) (at_ : Nat) (l : List Nat) : FMap (BitVec n) :=
  l.zipIdx.filterMap (fun x => if x.1 = 0 then none else some (at_ + x.2, BitVec.ofNat n x.1))

/-- The parts of an image replace their regions (R380). -/
def imageInstall (b : Block) (bs : List Byte) : Block :=
  let ver := bytesField bs 8 4
  let m := b.mic
  let m := if imgHasVendor bs then { m with
      micro := storeWords 32 0 (imgVendorMicro bs) ++ m.micro.filter (fun x => decide (x.1 ≥ 0x3000)),
      nano := storeWords 256 0 (imgVendorNano bs) ++ m.nano.filter (fun x => decide (x.1 ≥ 0xC00)), vendorV := ver } else m
  let m := if imgHasCustomer bs then { m with
      micro := m.micro.filter (fun x => decide (x.1 < 0x3000)) ++ storeWords 32 0x3000 (imgMicro bs),
      nano := m.nano.filter (fun x => decide (x.1 < 0xC00)) ++ storeWords 256 0xC00 (imgNano bs),
      desc := storeWords 64 0 (imgDesc bs), custV := ver } else m
  cnt { b with mic := m } cUcodeLoad

/-! ## MICROCODE_LOAD (R109, R381) -/

/-- MICROCODE_LOAD before its image is read. -/
def microcodeLoad (b : Block) (e : BitVec 512) : AdminRes :=
  if field e 64 64 % 64 ≠ 0 then .fail (stBadState, dtAlign)
  else if b.mic.image.isSome then .fail (stBadState, dtState)
  else .wait .image b

/-- MICROCODE_LOAD. -/
def execMicrocodeLoad (x : AdminIn) (s : State) : Host.Outcome State Fault Refusal :=
  adminRun x 0x20 [(64, 64), (128, 32), (160, 1)] allLegal allLegal true noCtx [] (fun b e _ => microcodeLoad b e) s

/-- The image has been read into staging: a failed check ends the command; otherwise it pends (R105, R109). -/
def imageArrived (b : Block) (src : Nat) (e : BitVec 512) (bs : List Byte) : AdminRes :=
  match imageCheck b bs (field e 128 32) false (decide (src = 4)) with
  | some err => .fail err
  | none =>
    let x : ImageLoad := { src := src, tag := aTag e, bytes := bs, passed := false }
    .pend .microcode (act { b with mic := { b.mic with image := some x } })

/-- A parameter read, or the write of CONTEXT_QUERY, has ended (R104); what comes with other tags than those of the command under way
is dropped (R87). -/
def paramReturn (b : Block) (g : ReadTag) (r : ParamRead) : Act :=
  match b.adm.busy with
  | none => act (staleReply b g)
  | some x =>
    if !tagsNow b x.gen g.t then act (staleReply b g)
    else
      let go (res : AdminRes) : Act := adminFinish { b with adm := { b.adm with busy := none } } x.src x.entry res
      let free : Block := { b with adm := { b.adm with busy := none } }
      match r, x.wait with
      | .failed, _ => go (.fail (stAdminFailed, dtReadError))
      | .members l, .members g n => if l.length < n then act b else go (groupDefine free g n l)
      | .image bs, .image => go (imageArrived free x.src x.entry bs)
      | .written, .query st bs =>
        let host := bitAt x.entry 88
        go (.ok (act (wr free (memKey host (adminOrg b x.src x.entry).serve (field x.entry 128 64)) bs)) st)
      | _, _ => act b

/-- ADMIN_PARAMETER_READ_RETURN (R104). -/
def execAdminParameterReadReturn (g : ReadTag) (r : ParamRead) (s : State) : Host.Outcome State Fault Refusal :=
  liftReplyA [.param] (fun b => paramReturn b g r) s

/-- The pending MICROCODE_LOAD ends. -/
def loadEnd (b : Block) (status detail : Nat) : Block :=
  let b := { b with mic := { b.mic with image := none } }
  (b.adm.pend.filter (fun p => decide (p.kind = .microcode))).foldl (fun b p => pendEnd b p status detail 0) b

/-- The checks of a loaded image have been made: customer entries are held from now on (R109). -/
def checksPassed (b : Block) : Block :=
  match b.mic.image with
  | some x =>
    if x.passed then b
    else match imageCheck b x.bytes x.bytes.length false (decide (x.src = 4)) with
      | some err => loadEnd b err.1 err.2
      | none => { b with mic := { b.mic with image := some { x with passed := true } } }
  | none => b

/-- MICROCODE_CHECKS_PASSED (R109, R381). -/
def execMicrocodeChecksPassed (s : State) : Host.Outcome State Fault Refusal := liftR checksPassed s

/-- A customer handler runs or pends. -/
def handlersRun (b : Block) : Bool :=
  b.mic.seqs.any (fun x => x.2.who.isSome) || b.adm.pend.any (fun p => match p.kind with
    | .customer _ _ _ => true
    | _ => false)

/-- The image is installed once every running handler has ended, and the command completes (R109). -/
def microcodeInstall (b : Block) : Block :=
  match b.mic.image with
  | some x => if x.passed && !handlersRun b then loadEnd (imageInstall b x.bytes) stAdminOk dtNone else b
  | none => b

/-- MICROCODE_INSTALL. -/
def execMicrocodeInstall (s : State) : Host.Outcome State Fault Refusal := liftR microcodeInstall s

/-! ## Customer handlers (R375, R376) -/

/-- The 64 bytes of an entry in registers 0 to 7, with registers 8 and 9 (R376). -/
def handlerRegs (e : BitVec 512) (origin who : Nat) : FMap Word :=
  (List.range 8).map (fun i => (i, e.extractLsb' (64 * i) 64)) ++ [(8, BitVec.ofNat 64 origin), (9, BitVec.ofNat 64 who)]

/-- A handler at its entry point. -/
def handlerNew (who : HandlerFor) (e : BitVec 512) (ctx : Option (BitVec 24)) (d : BitVec 64) (regs : FMap Word) : MicroSeq :=
  { MicroSeq.fresh with who := some who, entry := e, ctx := ctx, pc := dsEntry d, regs := regs, limit := dsLimit d }

/-- A microsequencer takes an invocation. -/
def seqPut (b : Block) (m : Nat) (x : MicroSeq) : Block := { b with mic := { b.mic with seqs := fmSet b.mic.seqs m x } }

/-- The customer submission at the front of an SQ starts its handler once it has passed R76 and R39 (R72, R376); a value
with no handler completes REJECT_BAD_STATE. -/
def customerSubmission (b : Block) (n : Nat) : Block :=
  match frontEntry b n, fmGet? b.q.sqs n with
  | some e, some s =>
    if eOpcode e < 0x80 || entryReserved e || imageHolds b (eOpcode e) || fmHas b.mic.seqs (n % 2) then b
    else
      let d := descOf b false (eOpcode e)
      if !dsLoaded d then rejectFront b n e
      else match admitTest b s e with
        | some st =>
          let took := entryTake b n e true
          rejectEntry took.2 n took.1 e st
        | none =>
          seqPut b (n % 2) (handlerNew (.sub n) e (some (eCtx e)) d
            (handlerRegs e (originId { port := s.ownerPort, fn := s.ownerFn, priv := 0 }) n))
  | _, _ => b

/-- CUSTOMER_SUBMISSION. -/
def execCustomerSubmission (sq : Nat) (s : State) : Host.Outcome State Fault Refusal := liftR (fun b => customerSubmission b sq) s

/-- The context states that a descriptor accepts (R375). -/
def dsCtxStates (d : BitVec 64) : List CtxState :=
  [CtxState.free, .created, .resident, .blocked, .lost, .destroying].filter (fun st => (dsStates d).testBit (ctxCode st))

/-- The customer admin command at the front of a source starts its handler once the checks of R103 have passed (R376). -/
def customerAdmin (b : Block) (x : AdminIn) : Act :=
  match adminFront b x.src with
  | none => act b
  | some e =>
    if aOpcode e < 0x80 then act b
    else
      let d := descOf b true (aOpcode e)
      let o := adminOrg b x.src e
      let ctx := if dsContext d then some (pHandle e) else none
      let b := adminTake b x.src
      match adminCheck b x e o (dsLoaded d && reservedClear x.src e [(64, 448)]) (dsPriv d) ctx (dsCtxStates d) with
      | some err => adminFinish b x.src e (.fail err)
      | none =>
        let priv := if o.secure then 3 else if o.priv then 1 else 0
        act (seqPut b 2 (handlerNew (.admin x.src (aTag e) (aOpcode e) o.serve) e ctx d
          (handlerRegs e (originId { port := o.port, fn := aFunction e, priv := priv }) x.src)))

/-- CUSTOMER_ADMIN. -/
def execCustomerAdmin (x : AdminIn) (s : State) : Host.Outcome State Fault Refusal := liftRA (fun b => customerAdmin b x) s

/-! ## The end of an invocation -/

/-- A microsequencer leaves an invocation; a hold that waited for its entry takes effect (R86). -/
def seqLeave (b : Block) (m : Nat) (who : HandlerFor) : Block :=
  let b := { b with mic := { b.mic with seqs := fmErase b.mic.seqs m } }
  match who with
  | .sub n => if (fmGet? b.q.sqs n).any (fun s => s.holdReq) then sqHold b (.q n) else b
  | _ => b

/-- An invocation ends with a status and, for an admin command, `DETAIL` and `RESULT`: a submission entry completes and is
not admitted; the entry of a queue under destruction is abandoned (R107). -/
def handlerEnd (b : Block) (m : Nat) (ms : MicroSeq) (status detail result : Nat) : Block :=
  match ms.who with
  | none => b
  | some (.sub n) =>
    if (fmGet? b.q.sqs n).any (fun s => !s.dying) then
      let took := entryTake b n ms.entry true
      seqLeave (rejectEntry took.2 n took.1 ms.entry status) m (.sub n)
    else seqLeave b m (.sub n)
  | some (.admin src tag op p) => adminReport (seqLeave b m (.admin src tag op p)) src tag op (aFunction ms.entry) status detail result true

/-- A bad status, or an export of the other kind of handler (R377). -/
def badStatus (b : Block) (m : Nat) (ms : MicroSeq) : Block :=
  let b := cnt b cUcodeBadStatus
  match ms.who with
  | some (.sub _) => handlerEnd b m ms stBadState dtNone 0
  | _ => handlerEnd b m ms stAdminFailed dtNone 0

/-- A fault or timeout of a service operation (R376). -/
def handlerFault (b : Block) (m : Nat) (ms : MicroSeq) (timeout : Bool) : Act :=
  match ms.who with
  | some (.sub _) =>
    let st := if timeout then stFetchTimeout else stPageFault
    (handlerEnd b m ms st dtNone 0, [.lose (eCtx ms.entry) st])
  | _ => act (handlerEnd b m ms stAdminFailed dtReadError 0)

/-! ## A step (R367, R370 to R372) -/

/-- A working register. -/
def wreg (ms : MicroSeq) (i : Nat) : Word := fmGet ms.regs i 0

/-- The second operand. -/
def aluB (ms : MicroSeq) (w : BitVec 256) : Word := if bitAt w 27 then nwConst w else wreg ms (nwSrcB w)

/-- Working registers 0 to 7 as one little-endian string of 64 bytes. -/
def regBytes (ms : MicroSeq) : List Byte := (List.range 8).flatMap (fun i => leBytes 8 (wreg ms i).toNat)

/-- Result and carry of the ALU; what the spec does not state is free (log entry 13). -/
def aluStep (ms : MicroSeq) (w : BitVec 256) : Word × Bool :=
  let op := nwOp w
  let a := wreg ms (nwSrcA w)
  let x := aluB ms w
  let free := Config.aluResult op a x
  let c := Config.aluCarry op a x
  match op with
  | 0 => (x, c)
  | 1 => (a + x, decide (a.toNat + x.toNat ≥ 2 ^ 64))
  | 2 => (a - x, c)
  | 3 => (a &&& x, c)
  | 4 => (a ||| x, c)
  | 5 => (a ^^^ x, c)
  | 6 => (if x.toNat < 64 then a <<< x.toNat else free, c)
  | 7 => (if x.toNat < 64 then a >>> x.toNat else free, c)
  | 8 =>
    let r := nwRange w
    (if r.2 ≤ 8 then BitVec.ofNat 64 (leValue (((regBytes ms).drop r.1).take r.2)) else free, false)
  | _ => (free, c)

/-- INSERT: the low bytes of `SRC_A` in the range; bytes beyond the register's eight are free (log entry 13). -/
def aluInsert (ms : MicroSeq) (w : BitVec 256) : FMap Word :=
  if nwOp w = 9 then
    let r := nwRange w
    let a := wreg ms (nwSrcA w)
    let src := (leBytes 8 a.toNat ++ leBytes 8 (Config.aluResult 9 a (nwConst w)).toNat).take r.2
    let bs := regBytes ms
    let new := bs.take r.1 ++ src ++ bs.drop (r.1 + r.2)
    (List.range 8).foldl (fun m i => fmSet m i (BitVec.ofNat 64 (leValue ((new.drop (8 * i)).take 8)))) ms.regs
  else ms.regs

/-- CMP_FENCE: `SRC_A` as the fence value, the second operand as the offered value (R370, R372). -/
def fenceCompare (c v : Word) : Nat :=
  match signalOutcome v c with
  | 0 => 1
  | 1 => 2
  | _ => 3

/-- The end of a service operation: done, with the value it returns and its reply code, or a fault or timeout. -/
inductive SvcEnd
  | done (a : Act) (v : Option Word) (reply : Option Nat)
  | fault
  | timeout

/-- The keys of the bytes of a service access: through the handler context, or on the port of an admin handler without one
(R376, R468). -/
def svcBytes (b : Block) (ms : MicroSeq) (addr n : Nat) (write : Bool) : Option (List Nat) :=
  let one (i : Nat) : Option Nat := match ms.ctx, ms.who with
    | some h, _ => translateOwn b h (addr + i) write
    | none, some (.admin _ _ _ p) => some (hostKey p (addr + i))
    | none, _ => none
  (List.range n).foldr (fun i l => match one i, l with
    | some k, some t => some (k :: t)
    | _, _ => none) (some [])

/-- The fence at a working register's address (R376); a fence lies in device memory, so a handler without a context
reaches none. -/
def svcFence (b : Block) (ms : MicroSeq) (addr : Word) (write : Bool) : Option Nat :=
  match ms.ctx with
  | some h => (translate b h addr.toNat write).filter (fun g => routed b (gchip g))
  | none => none

/-- A fence has been read: the value is the cache's, or the one that memory or the home chip returned (R119). -/
def svcFenceRead (b : Block) (g : Nat) (v least : Word) : SvcEnd :=
  let a := BitVec.ofNat 64 g
  let fin (b : Block) (v : Word) : SvcEnd := .done (act b) (some v) (some (if reached v least then 0 else 1))
  if isLocal b g then
    match fenceEnt b a with
    | some e => fin (fenceTouch b a) e.value
    | none => fin (fenceInsert (cnt b cFenceMiss) a v false) v
  else fin b v

/-- The service operation of a nano word (R372), with the reply that it brings; none while that reply is missing. A fence in the cache
needs none. -/
def svcStep (b : Block) (ms : MicroSeq) (w : BitVec 256) (r : SvcReply) : Option SvcEnd :=
  let a := wreg ms (nwSrcA w)
  let n := 2 ^ nwSize w
  match nwService w with
  | 0 => some (.done (act b) none none)
  | 1 => match svcBytes b ms a.toNat n false, r with
    | none, _ => some .fault
    | some _, .ok v => some (.done (act b) (some (BitVec.ofNat 64 (v.toNat % 2 ^ (8 * n)))) (some 0))
    | some _, .timeout => some .timeout
    | some _, .none => none
  | 2 => match svcBytes b ms a.toNat n true, r with
    | none, _ => some .fault
    | some l, .ok _ =>
      let b := (l.zip (leBytes n (wreg ms (nwSrcB w)).toNat)).foldl (fun b x => wr b x.1 [x.2]) b
      some (.done (act b) none (some 0))
    | some _, .timeout => some .timeout
    | some _, .none => none
  | 3 => match svcFence b ms a false with
    | none => some .fault
    | some g =>
      if isLocal b g && (fenceEnt b (BitVec.ofNat 64 g)).isSome then some (svcFenceRead b g 0 (wreg ms (nwSrcB w)))
      else match r with
        | .ok v => some (svcFenceRead b g v (wreg ms (nwSrcB w)))
        | .timeout => some .timeout
        | .none => none
  | 4 => match svcFence b ms a true with
    | none => some .fault
    | some g =>
      let who : SigBy := { chip := chipNo b, ctx := ms.ctx.getD 0, tag := 0x1FFFF,
                           part := ((ms.ctx.bind (ctxOf b)).map (fun c => c.part)).getD 0, deps := [], after := .nothing }
      some (.done (b, [.fence (BitVec.ofNat 64 g) (.signal (wreg ms (nwSrcB w)) who)]) none (some 0))
  | 5 => some (.done (act b) (some (BitVec.ofNat 64 b.tide.time)) (some 0))
  | _ => some .fault

/-- The condition bits of a branch group (R370). Group 6 is refused at load. -/
def branchBits (ms : MicroSeq) (group : Nat) : Nat :=
  match group with
  | 1 => 2 * b2n (decide (ms.result = 0)) + b2n ms.carry
  | 2 => ms.reply
  | 3 => field ms.result 0 4
  | 4 => field ms.result 4 4
  | 5 => ms.fence
  | 7 => b2n (decide (ms.count = 0))
  | _ => 0

/-- The registers, conditions and next address after a step whose service operation is done (R370 to R372). -/
def seqNext (ms : MicroSeq) (mw : BitVec 32) (w : BitVec 256) (v : Option Word) (reply : Option Nat) : MicroSeq :=
  let alu := aluStep ms w
  let regs := aluInsert ms w
  let regs := if bitAt w 26 then fmSet regs (nwDst w) alu.1 else regs
  let regs := match v with
    | some x => fmSet regs (nwDst w) x
    | none => regs
  let count := if bitAt w 39 then alu.1.toNat else ms.count
  let ms := { ms with regs := regs, result := alu.1, carry := alu.2, reply := reply.getD ms.reply,
                      count := if bitAt w 40 then count - 1 else count, steps := ms.steps + 1,
                      fence := if nwOp w = 10 then fenceCompare (wreg ms (nwSrcA w)) (aluB ms w) else ms.fence }
  { ms with pc := mwNext mw ||| branchBits ms (mwGroup mw) }

/-- A handler that runs on a microsequencer and has not reached its step limit. -/
def seqRuns (b : Block) (m : Nat) : Option MicroSeq :=
  (fmGet? b.mic.seqs m).filter (fun ms => ms.who.isSome && decide (ms.steps < ms.limit))

/-- One microword of a handler. -/
def microStep (b : Block) (m : Nat) (r : SvcReply) : Act :=
  match seqRuns b m with
  | none => act b
  | some ms =>
    if inRegion ms.pc then
      let mw := fmGet b.mic.micro ms.pc 0
      let w := fmGet b.mic.nano (mwNano mw) 0
      match svcStep b ms w r with
      | none => act b
      | some .fault => handlerFault b m ms false
      | some .timeout => handlerFault b m ms true
      | some (.done a v reply) => (seqPut a.1 m (seqNext ms mw w v reply), a.2)
    else act b

/-- MICROWORD (R365 to R373, R376). -/
def execMicroword (m : Nat) (r : SvcReply) (s : State) : Host.Outcome State Fault Refusal := liftRA (fun b => microStep b m r) s

/-! ## Exports and the step limit (R377, R378) -/

/-- A handler stands at an export. -/
def seqAt (b : Block) (m addr : Nat) : Option MicroSeq := (seqRuns b m).filter (fun ms => decide (ms.pc = addr))

/-- A status that COMPLETE_ENTRY accepts: an abort or a rejection (R8, R377). -/
def entryStatus (st : Nat) : Bool := isAbort st || (decide (0x20 ≤ st) && decide (st ≤ 0x22))

/-- COMPLETE_ENTRY. -/
def completeEntry (b : Block) (m : Nat) : Block :=
  match seqAt b m 0x10 with
  | none => b
  | some ms =>
    let st := field (wreg ms 13) 0 8
    match ms.who with
    | some (.sub _) => if entryStatus st then handlerEnd b m ms st dtNone 0 else badStatus b m ms
    | _ => badStatus b m ms

/-- COMPLETE_ENTRY (R377). -/
def execCompleteEntry (m : Nat) (s : State) : Host.Outcome State Fault Refusal := liftR (fun b => completeEntry b m) s

/-- The entry that ADMIT_AS admits: registers 0 to 7 under the opcode in register 13. -/
def admitEntry (ms : MicroSeq) : BitVec 512 :=
  BitVec.ofNat 512 (leValue (BitVec.ofNat 8 (field (wreg ms 13) 0 8) :: (regBytes ms).drop 1))

/-- ADMIT_AS: the checks of R76 again, an unchanged context handle, and admission, which may wait for a tag (R126). -/
def admitAs (b : Block) (m : Nat) : Act :=
  match seqAt b m 0x11 with
  | none => act b
  | some ms => match ms.who with
    | some (.sub n) =>
      let e := admitEntry ms
      match fmGet? b.q.sqs n, entryKind e with
      | some s, some kind =>
        if s.dying then act (seqLeave b m (.sub n))
        else if eCtx e ≠ eCtx ms.entry then act (handlerEnd b m ms stBadState dtNone 0)
        else
          let r := submit b n e kind
          if (fmGet? r.1.q.sqs n).any (fun t => decide (t.ordinal = s.ordinal)) then r
          else (seqLeave r.1 m (.sub n), r.2)
      | _, _ => act (handlerEnd b m ms stBadState dtNone 0)
    | _ => act (badStatus b m ms)

/-- ADMIT_AS (R377). -/
def execAdmitAs (m : Nat) (s : State) : Host.Outcome State Fault Refusal := liftRA (fun b => admitAs b m) s

/-- A status that ADMIN_FINAL accepts (R101, R377). -/
def finalStatus (st : Nat) : Bool :=
  st = stAdminOk || st = stAdminFailed || st = stNotOwner || st = stNoResource || st = stBadState

/-- ADMIN_FINAL. -/
def adminFinal (b : Block) (m : Nat) : Block :=
  match seqAt b m 0x12 with
  | none => b
  | some ms =>
    let st := field (wreg ms 13) 0 8
    let dt := field (wreg ms 13) 8 8
    match ms.who with
    | some (.admin _ _ _ _) =>
      if finalStatus st && decide (dt ≤ 0x0E) then handlerEnd b m ms st dt (wreg ms 14).toNat else badStatus b m ms
    | _ => badStatus b m ms

/-- ADMIN_FINAL (R377). -/
def execAdminFinal (m : Nat) (s : State) : Host.Outcome State Fault Refusal := liftR (fun b => adminFinal b m) s

/-- PEND_ON_FENCE: ADMIN_PENDING is written once for a command (R105), the executor is free, and the fence is waited
for. -/
def pendOnFence (b : Block) (m : Nat) : Act :=
  match seqAt b m 0x13 with
  | none => act b
  | some ms => match ms.who with
    | some (.admin src tag op port) =>
      let resume := field (wreg ms 13) 0 14
      if !dsMayPend (descOf b true op) || !inRegion resume then act (handlerEnd b m ms stAdminFailed dtState 0)
      else match svcFence b ms (wreg ms 14) false with
        | none => handlerFault b m ms false
        | some g =>
          let a := BitVec.ofNat 64 g
          let v := wreg ms 15
          let b := seqLeave b m (.admin src tag op port)
          let b := if ms.pend then b else adminReport b src tag op (aFunction ms.entry) stAdminPending dtNone 0 false
          let no := b.adm.pendNo
          let p : Pend := { no := no, src := src, tag := tag, opcode := op, fn := aFunction ms.entry, port := port,
                            kind := .customer { ms with pc := resume, pend := true } a v }
          ({ b with adm := { b.adm with pendNo := no + 1, pend := b.adm.pend ++ [p] } }, [.fence a (.wait (.handler no) v)])
    | _ => act (badStatus b m ms)

/-- PEND_ON_FENCE (R377). -/
def execPendOnFence (m : Nat) (s : State) : Host.Outcome State Fault Refusal := liftRA (fun b => pendOnFence b m) s

/-- The wait of a pending handler, which its number names, is still open. -/
def handlerWaits (b : Block) (no : Nat) : Bool :=
  b.fen.waits.any (fun w => decide (w.who = .handler no)) ||
    b.fen.misses.any (fun x => match x.op with
      | .wait w _ => decide (w = .handler no)
      | _ => false)

/-- A pending handler whose fence has been reached resumes once the executor is free; of several under one `TAG`, the one that has
pended longest. -/
def pendResume (b : Block) (src : Nat) (tag : BitVec 16) : Block :=
  if b.adm.busy.isSome || fmHas b.mic.seqs 2 then b
  else match b.adm.pend.findSome? (fun p => match p.kind with
      | .customer ms _ _ => if p.src = src && p.tag = tag && !handlerWaits b p.no then some (p, ms) else none
      | _ => none) with
    | some (p, ms) => seqPut { b with adm := { b.adm with pend := b.adm.pend.erase p } } 2 ms
    | none => b

/-- PEND_RESUME (R377). -/
def execPendResume (src : Nat) (tag : BitVec 16) (s : State) : Host.Outcome State Fault Refusal :=
  liftR (fun b => pendResume b src tag) s

/-- The invocation has run as many microwords as its limit allows (R378). -/
def stepLimit (b : Block) (m : Nat) : Block :=
  match fmGet? b.mic.seqs m with
  | none => b
  | some ms =>
    if ms.who.isSome && decide (ms.steps ≥ ms.limit) then
      let b := cnt b cUcodeStepLimit
      match ms.who with
      | some (.sub _) => handlerEnd b m ms stHang dtNone 0
      | _ => handlerEnd b m ms stAdminFailed dtLimit 0
    else b

/-- STEP_LIMIT (R378). -/
def execStepLimit (m : Nat) (s : State) : Host.Outcome State Fault Refusal := liftR (fun b => stepLimit b m) s

end Sys2Proof.Machine
end

