-- ==== Sys2Proof/Machine/Fabric.lean ====
section
/-! DEFINITION. The mesh: link ports and the plan check, LINK_STATE and routes, the flood bound, link failure and resending,
link tests, the installation plan (R299 to R322). -/

namespace Sys2Proof.Machine

open Sys2Proof

/-! ## Geometry (R299, R301) -/

/-- The class that the plan gives a port of a chip; none when the chip is not in the plan. -/
def planReach (b : Block) (c p : Nat) : Option Nat := (planChip b c).map (fun x => nfield x.reach (3 * p) 3)

/-- The neighbour that the plan gives a port that it uses: chip and facing port. -/
def expected (b : Block) (p : Nat) : Option (Nat × Nat) :=
  if reachOf b p = 0 then none else (meshStep (chipNo b) p 1).map (fun c => (c, facing p))

/-! ## LINK_IDENT (R305, R313) -/

def idChip (w : Word) : Nat := field w 0 12
def idPort (w : Word) : Nat := field w 12 3
def idClass (w : Word) : Nat := field w 24 8
def idVersion (w : Word) : Nat := field w 32 32

/-- The protocol class of this Scehione: major 2, minor 1. -/
def ownClass : Nat := 0x21

/-- The version of the active plan, 0 when none. -/
def planVersion (b : Block) : Nat := (b.fab.plan.map (fun p => p.version)).getD 0

/-- The word of this chip's LINK_IDENT on a port. -/
def identWord (b : Block) (p : Nat) : Word :=
  BitVec.ofNat 64 (packFields [(0, 12, chipNo b), (12, 3, p), (16, 6, b.rcv.resetGen.toNat), (24, 8, ownClass), (32, 32, planVersion b)])

/-! ## The plan check (R305, R306) -/

def crNoPlan : Nat := 1
def crUnexpected : Nat := 2
def crIncompatible : Nat := 3
def crSwapped : Nat := 4
def crBypassed : Nat := 5
def crWrong : Nat := 6
def crMismatch : Nat := 7
def crPrevious : Nat := 8
def crMatch : Nat := 9
def crMatchLower : Nat := 10

/-- The chips further along a port's direction are reached through bypassed ones: the reporting chip is `k` ≥ 2 steps away and
every plan chip in between has both ports of the axis in use. -/
def bypassed (b : Block) (p : Nat) (w : Word) : Bool :=
  let me := chipNo b
  let axis := [2 * (p / 2), 2 * (p / 2) + 1]
  decide (idPort w = facing p) && ((List.range 16).any (fun k => decide (2 ≤ k) && decide (meshStep me p k = some (idChip w)) &&
    (List.range k).all (fun j => decide (j = 0) || (match (meshStep me p j).bind (planChip b) with
      | some x => axis.all (fun q => decide (nfield x.reach (3 * q) 3 ≠ 0))
      | none => true))))

/-- Another port that reports the neighbour which the plan gives this one, while this one reports that port's (R305). -/
def swappedWith (b : Block) (p : Nat) (w : Word) : Option Nat :=
  sixPorts.find? (fun q =>
    let l := linkOf b q
    decide (q ≠ p) && l.trained && l.heardId && decide (expected b p = some (idChip l.ident, idPort l.ident)) &&
      decide (expected b q = some (idChip w, idPort w)))

/-- The first outcome that applies (R305). The converse of `COMPAT_PREVIOUS` is the neighbour's to know (log entry 29). -/
def checkOutcome (b : Block) (p : Nat) (w : Word) : Nat :=
  match b.fab.plan with
  | none => crNoPlan
  | some pl =>
    if idVersion w = 0 then crNoPlan
    else if reachOf b p = 0 then crUnexpected
    else if idClass w / 16 ≠ ownClass / 16 then crIncompatible
    else if (swappedWith b p w).isSome then crSwapped
    else if bypassed b p w then crBypassed
    else if expected b p ≠ some (idChip w, idPort w) then crWrong
    else
      let lower := decide (idClass w ≠ ownClass)
      if idVersion w = pl.version then (if lower then crMatchLower else crMatch)
      else if (pl.compat && decide (idVersion w + 1 = pl.version)) || decide (idVersion w = pl.version + 1) then
        (if lower then crMatchLower else crPrevious)
      else crMismatch

/-- An outcome admits a link, with the port's `OVERRIDE` (R305, R306). -/
def admits (outcome : Nat) (override : Bool) : Bool :=
  decide (outcome = crBypassed) || decide (crPrevious ≤ outcome) ||
    (override && (decide (outcome = crUnexpected) || decide (outcome = crWrong) || decide (outcome = crMismatch)))

/-- `OVERRIDE` of a port. -/
def overrideOf (b : Block) (p : Nat) : Bool := decide (dget b (0x5010 + p) 4 ≠ 0)

/-! ## LINK_STATE and routes (R307, R309) -/

/-- The ports that this end has admitted. -/
def ownMask (b : Block) : BitVec 6 :=
  BitVec.ofNat 6 ((sixPorts.map (fun p => if (linkOf b p).admitted then 2 ^ p else 0)).sum)

/-- The mask of a chip: this chip's own, or its latest LINK_STATE's. -/
def maskOf (b : Block) (c : Nat) : BitVec 6 :=
  if c = chipNo b then ownMask b else (fmGet b.fab.graph c (0, 0, 0)).2.2

/-- Both ends have admitted a port's link (R307). -/
def inRouting (b : Block) (p : Nat) : Bool :=
  let l := linkOf b p
  l.admitted && (maskOf b (idChip l.ident)).getLsbD (idPort l.ident)

/-- A port admitted by override to a chip that is neither the plan's neighbour nor a bypassed one (R306). -/
def oddPort (b : Block) (p : Nat) : Bool :=
  let l := linkOf b p
  (decide (l.result = crWrong) || decide (l.result = crUnexpected)) &&
    decide ((expected b p).map Prod.fst ≠ some (idChip l.ident)) && !bypassed b p l.ident

/-- The chip at the other end of a link of the graph: for this chip the reported one, for another the first along the port's
direction that reports the facing port admitted. -/
def linkEnd (b : Block) (c p : Nat) : Option Nat :=
  let me := chipNo b
  if c = me then (if inRouting b p && !oddPort b p then some (idChip (linkOf b p).ident) else none)
  else if (maskOf b c).getLsbD p then
    (((List.range 15).map (fun k => meshStep c p (k + 1))).filterMap (fun d => d)).find? (fun d =>
      (maskOf b d).getLsbD (facing p) &&
        (decide (d ≠ me) || (inRouting b (facing p) && decide (idChip (linkOf b (facing p)).ident = c))))
  else none

/-- Hop counts towards a chip. -/
def distTo (b : Block) (d : Nat) : FMap Nat := distIn (linkEnd b) d

/-- The next hop of any chip towards `d`: port and neighbour. -/
def hopAt (b : Block) (dist : FMap Nat) (c d : Nat) : Option (Nat × Nat) := hopIn (linkEnd b) dist c d

/-- This chip's route to a chip: port and hops. An odd port leads to its reported chip alone (R306). -/
def routeTo (b : Block) (d : Nat) : Option (Nat × Nat) :=
  let me := chipNo b
  let odd (p : Nat) : Bool := inRouting b p && oddPort b p && decide (idChip (linkOf b p).ident = d)
  let dist := distTo b d
  if sixPorts.any odd then
    ((portOrder me d).find? (fun p => odd p || decide (linkEnd b me p = some d))).map (fun p => (p, 1))
  else match hopAt b dist me d, fmGet? dist me with
    | some (p, _), some k => some (p, k)
    | _, _ => none

/-- The chips to which routes are computed. -/
def routeChips (b : Block) : List Nat :=
  ((fmKeys b.fab.graph ++ (sixPorts.filter (inRouting b)).map (fun p => idChip (linkOf b p).ident)).eraseDups).filter
    (fun c => decide (c ≠ chipNo b))

/-- Every route, none while no plan is installed (R300, R468). -/
def allRoutes (b : Block) : FMap (Nat × Nat) :=
  if b.fab.plan.isNone then []
  else (routeChips b).foldl (fun m d => match routeTo b d with
    | some r => fmSet m d r
    | none => m) []

/-! ## The flood bound (R318) -/

/-- The recorded latency of a reach class (R302, R417). -/
def reachNs (b : Block) (cls : Nat) : Nat := if 1 ≤ cls ∧ cls ≤ 4 then dget b 0x1010 cls else 0

/-- What a hop out of a port of a chip costs at [W]: forwarding and link latency. -/
def hopNs (b : Block) (c p : Nat) : Nat := 38 + reachNs b ((planReach b c p).getD 0)

/-- The cost of a routed path in a graph. -/
def pathNs (b : Block) (link : Nat → Nat → Option Nat) (dist : FMap Nat) (d : Nat) : Nat → Nat → Nat
  | 0, _ => 0
  | fuel + 1, c =>
    if c = d then 0
    else match hopIn link dist c d with
      | some (p, n) => hopNs b c p + pathNs b link dist d fuel n
      | none => 0

/-- The cost of the route on the fault-free mesh of a plan (R304, R309). -/
def meshNs (b : Block) (p : Plan) (c d : Nat) : Nat := pathNs b (planEnd p) (distIn (planEnd p) d) d 4096 c

/-- The cost of a tree edge: on its route, or on the fault-free mesh while the graph has none. -/
def edgeNs (b : Block) (c d : Nat) : Nat :=
  let dist := distTo b d
  if fmHas dist c then pathNs b (linkEnd b) dist d 4096 c
  else match b.fab.plan with
    | some p => meshNs b p c d
    | none => 0

/-- The tree neighbours of a member. -/
def treeOf (p : Plan) (c : Nat) : List Nat :=
  (p.chips.filter (fun x => x.member && decide (x.chip = c) && decide (x.parent ≠ c))).map (fun x => x.parent) ++
    (p.chips.filter (fun x => x.member && decide (x.parent = c) && decide (x.chip ≠ c))).map (fun x => x.chip)

/-- The largest cost of a tree path that begins at the chips of a list (chip, the one before it, cost so far). -/
def treeMax (next : Nat → List Nat) (cost : Nat → Nat → Nat) : Nat → List (Nat × Nat × Nat) → Nat → Nat
  | 0, _, m => m
  | fuel + 1, front, m =>
    if front.isEmpty then m
    else
      let new := front.flatMap (fun x => ((next x.1).filter (fun c => decide (c ≠ x.2.1))).map (fun c => (c, x.1, x.2.2 + cost x.1 c)))
      treeMax next cost fuel new ((new.map (fun x => x.2.2)).foldl max m)

/-- `FLOOD_BOUND_NS`: the declaration row of R264 and the dearest tree path between two members. -/
def floodBound (b : Block) : Nat :=
  match b.fab.plan with
  | none => 0
  | some p =>
    let ms := (p.chips.filter (fun x => x.member)).map (fun x => x.chip)
    if ms.length ≤ 1 then 0
    else 48 + (ms.map (fun u => treeMax (treeOf p) (edgeNs b) 512 [(u, u, 0)] 0)).foldl max 0

/-- A new flood bound; a frame too short for it is to be lengthened (R318). -/
def newBound (b : Block) : Block :=
  let b := { b with fab := { b.fab with flood := floodBound b } }
  if b.fab.flood > 0 && decide (b.tide.length < lengthLeast b) then askLength b (roundUp (lengthLeast b) 10) else b

/-! ## Recomputing routes (R309, R310, R468) -/

/-- The watches held for want of a route are sent (R468). -/
def watchesSend (b : Block) : Block :=
  (b.fen.watches.filter (fun w => !w.sent && w.retry.isNone && routed b (gchip w.addr.toNat))).foldl (fun b w =>
    gzSend { b with fen := { b.fen with watches := b.fen.watches.map (fun x =>
      if x.addr = w.addr && x.value = w.value then { x with sent := true } else x) } } (gchip w.addr.toNat) (.fenceWatch w.addr w.value)) b

/-- The controller of a port learns the port of the new route of each L-engine packet that it has returned (R315). -/
def packetsName (b : Block) (p : Nat) : Block :=
  let l := linkOf b p
  l.packets.foldl (fun b d => match nextPort b d with
    | some q => emit b (.packetPort p d q)
    | none => b) (putLink b p { l with packets := [] })

/-- Messages that waited go out on the new routes, and the controllers learn the ports of their packets (R315). -/
def resendAll (b : Block) : Block :=
  let l := b.fab.resend
  let b := sixPorts.foldl (fun b p => if (linkOf b p).packets.isEmpty then b else packetsName b p) b
  l.foldl gzRoute { b with fab := { b.fab with resend := [] } }

/-- Every heat with an outstanding remote dependency on a chip that `f` admits ends, and raises propagation (R310, R316). -/
def endDependents (b : Block) (f : Nat → Bool) : List Task :=
  (remoteRuns b none f).flatMap (fun x => [Task.kill x.1 stPeerFault, .propagate (heatPart b x.2) (remoteDeps b x.1)])

/-- Plan chips, other than this one, without a route. -/
def unreachable (b : Block) : Nat :=
  match b.fab.plan with
  | none => 0
  | some p => (p.chips.filter (fun x => !routed b x.chip)).length

/-- New routes: supplied to the link controllers, recorded, with what waited for them; chips that became unreachable end what
depends on them. -/
def recompute (b : Block) : Act :=
  let old := b.fab.routes
  let b := { b with fab := { b.fab with routes := allRoutes b, stale := false } }
  let gone := (fmKeys old).filter (fun c => !fmHas b.fab.routes c)
  let b := sixPorts.foldl (fun b p => if (linkOf b p).trained then emit b (.routes p) else b) b
  let b := newBound (cnt b cRouteChange)
  let b := fabRec b 0x06 7 b.fab.cause.1 0 (b.fab.cause.1 + b.fab.cause.2.toNat * 2 ^ 32) b.fab.flood (unreachable b)
  (watchesSend (resendAll b), endDependents b gone.contains)

/-- ROUTE_RECOMPUTE: after a change of the graph (R309, R310, R318, R468). -/
def execRouteRecompute (s : State) : Host.Outcome State Fault Refusal :=
  liftUA (fun b => if b.fab.stale then recompute b else act b) s

/-! ## Admission (R305 to R309, R340) -/

/-- A LINK_STATE on one port. -/
def floodOn (b : Block) (p : Nat) (m : GzOut) : Block :=
  putOnPort b p { m with dst := idChip (linkOf b p).ident }

/-- This chip's admission has changed: LINK_STATE to every admitted neighbour, and the routes are due (R309). -/
def linkStateSend (b : Block) : Block :=
  let v := b.fab.version + 1
  let b := cnt { b with fab := { b.fab with version := v, stale := true, cause := (chipNo b, v) } } cGzTx
  let m := gzOwn b 0 false 0 (.linkState (chipNo b) v (ownMask b))
  (sixPorts.filter (fun p => (linkOf b p).admitted)).foldl (fun b p => floodOn b p m) b

/-- The state that a port shows while its link is not trained. -/
def idleState (b : Block) (p : Nat) : Nat := if b.fab.plan.isSome && decide (reachOf b p = 0) then 7 else 1

/-- The outcome of a check is written to the port and the fabric log (R305, R306). -/
def noteOutcome (b : Block) (p outcome : Nat) (ok : Bool) : Block :=
  let l := linkOf b p
  let b := putLink b p { l with result := outcome, state := if ok then 3 else 4, admitted := ok, passed := ok,
                                lower := decide (idClass l.ident / 16 = ownClass / 16) && decide (idClass l.ident < ownClass) }
  let chip := idChip l.ident
  if outcome = crSwapped then b
  else if ok && !admits outcome false then
    audit (fabRec b 0x05 p chip outcome l.ident.toNat 0 0) { type := auLinkOverride, idx := 0x5010 + p, sub := 4, new := 1, detail := l.ident.toNat }
  else fabRec b (if ok then 0x02 else 0x03) p chip outcome l.ident.toNat 0 0

/-- The outcome of a port that is swapped with `q`: both are refused, unless an outcome that comes first applies to `q`, and one record names
them; none when `q`, checked before in the same pass, has written it. -/
def noteSwap (b : Block) (p q : Nat) (pass : Bool) : Block :=
  let both := decide (checkOutcome b q (linkOf b q).ident = crSwapped)
  let b := noteOutcome (if both then noteOutcome b q crSwapped false else b) p crSwapped false
  if pass && both && decide (q < p) then b else fabRec b 0x04 7 0 crSwapped (min p q) (max p q) 0

/-- The plan check of a trained port whose neighbour has been heard (R305). No link is admitted before the reset generation is written
(R340). `pass` says that every port is being checked, in ascending order. -/
def checkPort (b : Block) (pass : Bool) (p : Nat) : Block :=
  let l := linkOf b p
  if !l.trained || !l.heardId then b
  else
    let mask := ownMask b
    let o := checkOutcome b p l.ident
    let b := match o == crSwapped, swappedWith b p l.ident with
      | true, some q => noteSwap b p q pass
      | _, _ => noteOutcome b p o (admits o (overrideOf b p) && b.rcv.genWritten)
    if ownMask b = mask then b else linkStateSend b

/-- LINK_TRAINED: the counts of the link start again, and LINK_IDENT is sent (R305, R308, R315). A port that the plan does not use never
trains (R301). -/
def linkTrained (b : Block) (p : Nat) : Block :=
  let l := linkOf b p
  if p < 6 && !l.trained && decide (l.state ≠ 6) && decide (l.state ≠ 5) && decide (idleState b p ≠ 7) then
    let b := putLink b p { l with trained := true, state := 2, heardId := false, rxCount := 0, txCount := 0, copies := [],
                                  waiting := [], lastRx := b.tide.clock, lastHb := b.tide.clock }
    gzLink b p (.linkIdent (identWord b p))
  else b

/-- LINK_TRAINED. -/
def execLinkTrained (port : Nat) (s : State) : Host.Outcome State Fault Refusal := lift (fun b => linkTrained b port) s

/-- A message has arrived on a port; one that is no link message counts (R308, R315). -/
def heard (b : Block) (p : Nat) (counts : Bool) : Block :=
  let l := linkOf b p
  putLink b p { l with lastRx := b.tide.clock, rxCount := if counts then l.rxCount + 1 else l.rxCount }

/-- LINK_IDENT (R305). -/
def execLinkIdent (port : Nat) (w : Word) (s : State) : Host.Outcome State Fault Refusal :=
  lift (fun b =>
    if port < 6 && (linkOf b port).trained then
      let b := heard b port false
      checkPort (putLink b port { linkOf b port with ident := w, heardId := true }) false port
    else b) s

/-- A LINK_STATE not yet seen: of a new generation, or with a later version. -/
def newerState (b : Block) (c : Nat) (gen : BitVec 6) (v : BitVec 32) : Bool :=
  match fmGet? b.fab.graph c with
  | none => true
  | some (g, w, _) => decide (g ≠ gen) || (decide (v ≠ w) && decide ((v - w).toNat < 2 ^ 31))

/-- LINK_STATE: kept, and forwarded on every other admitted port, within the hop limit (R309, R312). -/
def linkStateRead (b : Block) (h : GzHdr) (c : Nat) (v : BitVec 32) (mask : BitVec 6) : Block :=
  if decide (h.port < 6) && (linkOf b h.port).trained then
    let b := heard b h.port true
    if h.hops ≥ 63 then cnt b cGzHop
    else if decide (c ≠ chipNo b) && newerState b c h.gen v then
      let b := { b with fab := { b.fab with graph := fmSet b.fab.graph c (h.gen, v, mask), stale := true, cause := (c, v) } }
      let m : GzOut := { src := h.src, gen := h.gen, dst := 0, tree := false, hops := h.hops, detoured := false, seq := h.seq,
                         msg := .linkState c v mask }
      let out := sixPorts.filter (fun p => (linkOf b p).admitted && decide (p ≠ h.port))
      if h.hops + 1 ≥ 63 then cntAdd b cGzHop out.length else out.foldl (fun b p => floodOn b p m) b
    else b
  else b

/-- LINK_STATE. -/
def execLinkState (h : GzHdr) (chip : Nat) (version : BitVec 32) (mask : BitVec 6) (s : State) : Host.Outcome State Fault Refusal :=
  lift (fun b => linkStateRead b h chip version mask) s

/-- The row's own write. -/
def rowLinkOverride (a : DictAcc) (port : Nat) : DictRow where
  mine := decide (port < 6) && a.idx = 0x5010 + port && a.sub = 4
  cond := fun _ => none
  run := fun b => act (checkPort b false port)

/-- OVERRIDE: a trained link is checked at once (R306). -/
def execLinkOverride (a : DictAcc) (port : Nat) (s : State) : Host.Outcome State Fault Refusal :=
  dictRow .write a (rowLinkOverride a port) s

/-- The row's own write. -/
def rowChipNumber (a : DictAcc) : DictRow where
  mine := a.idx = 0x5000 && a.sub = 7
  cond := fun b => stateIf (ownMask b = 0)
  run := act

/-- CHIP_NUMBER: refused while any link is admitted (R300). -/
def execChipNumber (a : DictAcc) (s : State) : Host.Outcome State Fault Refusal :=
  dictRow .write a (rowChipNumber a) s

/-! ## Heartbeats (R308, R315) -/

/-- Messages that wait for room among the copies of a PACKAGE link are sent while there is some. -/
def sendWaiting (b : Block) (p : Nat) : Nat → Block
  | 0 => b
  | fuel + 1 =>
    let l := linkOf b p
    match l.waiting with
    | m :: ms => if l.copies.length < 256 then sendWaiting (putOnPort (putLink b p { l with waiting := ms }) p m) p fuel else b
    | [] => b

/-- LINK_HEARTBEAT: the copies that the neighbour has received are released (R315). -/
def heartbeatRead (b : Block) (p : Nat) (count : BitVec 32) : Block :=
  if p < 6 && (linkOf b p).trained then
    let b := heard b p false
    let l := linkOf b p
    let b := putLink b p { l with copies := l.copies.filter (fun x => decide ((count - x.1 - 1).toNat ≥ 2 ^ 31)) }
    sendWaiting b p l.waiting.length
  else b

/-- LINK_HEARTBEAT. -/
def execLinkHeartbeat (port : Nat) (count : BitVec 32) (s : State) : Host.Outcome State Fault Refusal :=
  lift (fun b => heartbeatRead b port count) s

/-- HEARTBEAT_TIMER: a microsecond without another message, and on a PACKAGE port once every microsecond (R308). -/
def heartbeatSend (b : Block) (p : Nat) : Block :=
  let l := linkOf b p
  if p < 6 && l.trained then
    let b := passTo b ((if reachOf b p = 1 then l.lastHb else max l.lastHb l.lastTx) + 1000)
    let b := gzLink b p (.heartbeat (linkOf b p).rxCount)
    putLink b p { linkOf b p with lastHb := b.tide.clock }
  else b

/-- HEARTBEAT_TIMER. -/
def execHeartbeatTimer (port : Nat) (s : State) : Host.Outcome State Fault Refusal := lift (fun b => heartbeatSend b port) s

/-! ## Links that go down (R308, R315) -/

/-- Messages ordered by sequence number within each space, otherwise as they stand. -/
def bySeq (l : List GzOut) : List GzOut :=
  l.foldl (fun acc m => ins m acc) []
where
  /-- A message put before the first later one of its space. -/
  ins (m : GzOut) : List GzOut → List GzOut
    | [] => [m]
    | x :: xs =>
      if x.src = m.src && x.dst = m.dst && x.tree = m.tree && decide (m.seq.toNat < x.seq.toNat) then m :: x :: xs
      else x :: ins m xs

/-- Messages to be sent again wait ahead of any newer one, and go out at once when the routes are not about to change. -/
def reinject (b : Block) (l : List GzOut) : Block :=
  let b := { b with fab := { b.fab with resend := bySeq l ++ b.fab.resend } }
  if b.fab.stale then b else resendAll b

/-- The port through which what chip `c` sends here arrives: the end of its route (R309). -/
def arrivalPort (b : Block) (dist : FMap Nat) : Nat → Nat → Option Nat
  | 0, _ => none
  | fuel + 1, c => match hopAt b dist c (chipNo b) with
    | some (p, n) => if n = chipNo b then some (facing p) else arrivalPort b dist fuel n
    | none => none

/-- The data of an accepted L baton cross a port: a SEND's leave through it, those of a RECV or RECV_ADD arrive through it (R177, R182). -/
def dataOver (b : Block) (p : Nat) (x : Baton) : Bool :=
  let c := (batonPeer x.ent).1
  isL x.ent.pos && decide ((if gOpcode x.ent.slot = 0x70 then nextPort b c else arrivalPort b (distTo b (chipNo b)) 4096 c) = some p)

/-- The heats with an accepted L baton whose data cross a PACKAGE link that failed end, and raise propagation (R315, R316). -/
def packageLost (b : Block) (p : Nat) : List Task :=
  (b.comp.runs.filter (fun x => x.2.endedAt.isNone && liveForPeers x.2 && x.2.clusters.any (fun c =>
    (portOf b c).out.any (fun y => decide (y.run = x.1) && dataOver b p y)))).flatMap (fun x =>
      [Task.kill x.1 stPeerFault, .propagate (heatPart b x.2) (remoteDeps b x.1)])

/-- A port leaves routing and goes down; the 16th time within a second it is held (R308, R315), whatever took it down. -/
def portDown (b : Block) (p cause : Nat) : Act :=
  let l := linkOf b p
  if p < 6 && l.trained then
    let downs := b.tide.clock :: l.downs.filter (fun t => decide (b.tide.clock < t + 1000000000))
    let held := decide (downs.length ≥ 16)
    let lost := if reachOf b p = 1 then packageLost b p else []
    let again := l.copies.map Prod.snd ++ l.waiting
    let b := putLink b p { l with trained := false, state := if held then 6 else idleState b p, admitted := false,
                                  downs := downs, copies := [], waiting := [] }
    let b := fabRec (cnt b cLinkDown) 0x01 p (idChip l.ident) 0 cause 0 downs.length
    let b := if held then fabRec b 0x0A p (idChip l.ident) 0 0 0 downs.length else b
    let b := if l.admitted then linkStateSend b else b
    (if again.isEmpty then b else reinject b again, lost)
  else act b

/-- LINK_DEAD: no message for `LINK_DEAD_US`. -/
def execLinkDead (port : Nat) (s : State) : Host.Outcome State Fault Refusal :=
  liftA (fun b => portDown (if port < 6 && (linkOf b port).trained then passTo b ((linkOf b port).lastRx + dget b 0x5020 1 * 1000)
    else b) port 1) s

/-- LINK_DOWN: the controller reports the link down. -/
def execLinkDown (port : Nat) (s : State) : Host.Outcome State Fault Refusal := liftA (fun b => portDown b port 0) s

/-- CRC_ERR: a bad frame takes a PACKAGE link down; a retry link's controller sends it again (R27, R308, R312). -/
def execCrcErr (port : Nat) (s : State) : Host.Outcome State Fault Refusal :=
  liftA (fun b => if reachOf b port = 1 then portDown b port 2 else act b) s

/-- What a retry link's controller returns after the link went down: unacknowledged messages, which have not taken the hop after all, and
the destinations of unacknowledged L-engine packets (R311, R315). -/
def retryReturn (b : Block) (p : Nat) (msgs : List GzOut) (packets : List Nat) : Block :=
  if p < 6 && !(linkOf b p).trained && decide (reachOf b p ≠ 1) then
    let b := putLink b p { linkOf b p with packets := (linkOf b p).packets ++ packets }
    reinject b (msgs.map (fun m => { m with hops := m.hops - 1 }))
  else b

/-- RETRY_RETURN (R315). -/
def execRetryReturn (port : Nat) (msgs : List GzOut) (packets : List Nat) (s : State) : Host.Outcome State Fault Refusal :=
  lift (fun b => retryReturn b port msgs packets) s

/-! ## Forwarding (R310 to R314) -/

/-- GRIZIN_FORWARD: a message for another chip goes on, unless its hops are spent or its type is reserved; an odd port carries none in
transit (R306, R312, R313). -/
def forward (b : Block) (h : GzHdr) (type : BitVec 8) (payload : List Byte) : Block :=
  if decide (h.port < 6) && (linkOf b h.port).admitted && decide (h.dst ≠ chipNo b) && !oddPort b h.port then
    let b := heard b h.port true
    if !gzKnown type.toNat then cnt b cGzCrcDrop
    else gzRoute b { src := h.src, gen := h.gen, dst := h.dst, tree := h.tree, hops := h.hops, detoured := h.detoured, seq := h.seq,
                     msg := .transit type payload }
  else b

/-- GRIZIN_FORWARD. -/
def execGrizinForward (h : GzHdr) (type : BitVec 8) (payload : List Byte) (s : State) : Host.Outcome State Fault Refusal :=
  lift (fun b => forward b h type payload) s

/-- GRIZIN_CRC_DROP: a bad CRC or a reserved type is counted; a bad CRC takes a PACKAGE link down (R312, R313). -/
def crcDrop (b : Block) (p : Nat) (type : BitVec 8) (ok : Bool) : Act :=
  if p < 6 && (linkOf b p).trained && (!ok || !gzKnown type.toNat) then
    let b := cnt b cGzCrcDrop
    if !ok && decide (reachOf b p = 1) then portDown b p 2 else act (heard b p ok)
  else act b

/-- GRIZIN_CRC_DROP. -/
def execGrizinCrcDrop (port : Nat) (type : BitVec 8) (crcOk : Bool) (s : State) : Host.Outcome State Fault Refusal :=
  liftA (fun b => crcDrop b port type crcOk) s

/-! ## Link tests (R320) -/

/-- The degree of a pattern's polynomial and its other tap: x^7 + x^6 + 1, x^15 + x^14 + 1, x^31 + x^28 + 1. -/
def prbsTaps (pattern : Nat) : Nat × Nat := if pattern = 0 then (7, 6) else if pattern = 1 then (15, 14) else (31, 28)

/-- The generator's next bit after its last bits, of which the newest is bit 0. -/
def prbsNext (t : Nat × Nat) (x : Nat) : Bool := x.testBit (t.1 - 1) != x.testBit (t.2 - 1)

/-- The last bits of a generator after one more. -/
def prbsStep (t : Nat × Nat) (x : Nat) : Nat := (2 * x + b2n (prbsNext t x)) % 2 ^ t.1

/-- The seed of a checker: the first bits that it receives. -/
def prbsSeed (line : Nat → Bool) (n : Nat) : Nat := (List.range n).foldl (fun x i => 2 * x + b2n (line i)) 0

/-- The mismatches among `k` bits of the line from bit `i` on, for a checker whose last bits are `x`. -/
def prbsErrors (t : Nat × Nat) (line : Nat → Bool) : Nat → Nat → Nat → Nat
  | 0, _, _ => 0
  | k + 1, i, x => b2n (line i != prbsNext t x) + prbsErrors t line k (i + 1) (prbsStep t x)

/-- What a checker shows after `n` bits: checked bits, mismatched bits, which saturate, and whether it has seeded itself. -/
def prbsCheck (pattern : Nat) (line : Nat → Bool) (n : Nat) : Nat × Nat × Bool :=
  let t := prbsTaps pattern
  (n - t.1, min (prbsErrors t line (n - t.1) t.1 (prbsSeed line t.1)) (2 ^ 32 - 1), decide (t.1 ≤ n))

/-- `TEST_BITS`, `TEST_ERRORS` and `TEST_SYNC` of a port now: its checker's while it tests, otherwise what the last test left. -/
def testNow (b : Block) (p : Nat) : Nat × Nat × Bool :=
  let l := linkOf b p
  if l.state = 5 then prbsCheck l.pattern (Config.testLine p l.testFrom) (Config.testRate * (b.tide.clock - l.testFrom) / 1000)
  else (l.bits, l.errors, l.sync)

/-- A port enters the test: it leaves routing, and its generator runs. DESIGN CHOICE: a test start that is the port's 16th down within a second
holds it down, and it does not test (R308; log entry 70). -/
def testEnter (b : Block) (p pattern : Nat) : Act :=
  andThen (portDown b p 3) (fun b => act (if (linkOf b p).state = 6 then b
    else emit (putLink b p { linkOf b p with
      state := 5, pattern := pattern, testFrom := b.tide.clock, bits := 0, errors := 0, sync := false }) (.prbs p pattern)))

/-- A test ends with what its checker counted: recorded, and the port trains again. -/
def testLeave (b : Block) (p : Nat) : Block :=
  let l := linkOf b p
  if l.state = 5 then
    let (bits, errors, sync) := testNow b p
    let b := putLink b p { l with state := idleState b p, bits := bits, errors := errors, sync := sync }
    fabRec b 0x09 p (idChip l.ident) 0 bits errors l.pattern
  else b

/-- A write of `TEST_CMD` releases a held port (R308). -/
def testRelease (b : Block) (p : Nat) : Block :=
  let l := linkOf b p
  if l.state = 6 then putLink b p { l with state := idleState b p, downs := [] } else b

/-- The row's own write. -/
def rowLinkTestStart (a : DictAcc) (port : Nat) : DictRow where
  mine := decide (port < 6) && a.idx = 0x5010 + port && a.sub = 7 && a.value % 256 = 1
  cond := fun b => stateIf (!((linkOf b port).lower && decide (dget b (0x5010 + port) 6 = 2)))
  run := fun b =>
    if (linkOf b port).trained then
      testEnter (gzLink b port (.testCtl (dget b (0x5010 + port) 6) true)) port (dget b (0x5010 + port) 6)
    else act (testRelease b port)

/-- LINK_TEST_START: PRBS-31 is refused at minor 0; a held port is released (R308, R320). -/
def execLinkTestStart (a : DictAcc) (port : Nat) (s : State) : Host.Outcome State Fault Refusal :=
  dictRow .write a (rowLinkTestStart a port) s

/-- The row's own write. -/
def rowLinkTestStop (a : DictAcc) (port : Nat) : DictRow where
  mine := decide (port < 6) && a.idx = 0x5010 + port && a.sub = 7 && a.value % 256 = 2
  cond := fun _ => none
  run := fun b =>
    act (if (linkOf b port).state = 5 then testLeave (gzLink b port (.testCtl (linkOf b port).pattern false)) port
      else testRelease b port)

/-- LINK_TEST_STOP: the test ends here and at the neighbour; a held port is released. -/
def execLinkTestStop (a : DictAcc) (port : Nat) (s : State) : Host.Outcome State Fault Refusal :=
  dictRow .write a (rowLinkTestStop a port) s

/-- LINK_TEST_CTL: the neighbour starts or ends a test. -/
def execLinkTestCtl (port pattern : Nat) (start : Bool) (s : State) : Host.Outcome State Fault Refusal :=
  liftA (fun b =>
    if start then (if port < 6 && (linkOf b port).trained then testEnter (heard b port false) port pattern else act b)
    else act (testLeave b port)) s

/-- TEST_DURATION_EXPIRY. -/
def execTestDurationExpiry (port : Nat) (s : State) : Host.Outcome State Fault Refusal :=
  lift (fun b => if (linkOf b port).state = 5 then testLeave (passTo b ((linkOf b port).testFrom + dget b 0x5020 3 * 1000000)) port else b) s

end Sys2Proof.Machine
end

