-- ==== Sys2Proof/Machine/Plan.lean ====
section
/-! DEFINITION. The installation plan: format, the checks of INSTALL and what an accepted plan changes (R303, R304). -/

namespace Sys2Proof.Machine

open Sys2Proof

/-! ## Status codes (R304) -/

def psLoading : Nat := 1
def psActive : Nat := 2
def psRead : Nat := 3
def psCrc : Nat := 4
def psFormat : Nat := 5
def psChip : Nat := 6
def psGeometry : Nat := 7
def psDomain : Nat := 8
def psTree : Nat := 9
def psGroup : Nat := 10
def psAnnounce : Nat := 11
def psSheets : Nat := 12

/-! ## Format (R303) -/

/-- A chip record at an offset, with whether it is well formed. -/
def planChipAt (bs : List Byte) (o : Nat) : PlanChip × Bool :=
  let w := bytesField bs o 2
  let t := bytesField bs (o + 2) 2
  let r := bytesField bs (o + 4) 4
  ({ chip := nfield w 0 12, member := w.testBit 12, rack := nfield w 13 1, parent := nfield t 0 12, reach := nfield r 0 18 },
   decide (nfield w 14 2 = 0) && decide (nfield t 12 4 = 0) && decide (nfield r 18 14 = 0) && decide (bytesField bs (o + 8) 8 = 0) &&
     sixPorts.all (fun p => decide (nfield r (3 * p) 3 ≤ 4)))

/-- A group record at an offset: number, members (kind, value), and whether it is well formed. -/
def planGroupAt (bs : List Byte) (o : Nat) : (Nat × List (Nat × Nat)) × Bool :=
  let w := bytesField bs o 2
  let c := bytesField bs (o + 2) 1
  let n := nfield c 0 7
  let mem (i : Nat) : Nat := bytesField bs (o + 8 + 4 * i) 4
  ((nfield w 0 10, (List.range n).map (fun i => (nfield (mem i) 16 2, nfield (mem i) 0 16))),
   decide (nfield w 10 6 = 0) && decide (nfield c 7 1 = 0) && decide (1 ≤ n) && decide (n ≤ 64) && decide (bytesField bs (o + 3) 5 = 0) &&
     (List.range 64).all (fun i => if i < n then decide (nfield (mem i) 18 14 = 0) else decide (mem i = 0)))

/-- The chip and group records of a plan. -/
def planChipList (bs : List Byte) : List (PlanChip × Bool) :=
  (List.range (bytesField bs 0x10 2)).map (fun i => planChipAt bs (bytesField bs 0x14 4 + 16 * i))
def planGroupList (bs : List Byte) : List ((Nat × List (Nat × Nat)) × Bool) :=
  (List.range (bytesField bs 0x12 2)).map (fun i => planGroupAt bs (bytesField bs 0x18 4 + 264 * i))

/-- Magic, version, counts, offsets and reserved bits are valid. -/
def planFormat (bs : List Byte) (len : Nat) : Bool :=
  let f (o n : Nat) : Nat := bytesField bs o n
  let nc := f 0x10 2
  let ng := f 0x12 2
  decide (f 0 4 = 0x4E414C50) && decide (f 4 2 = 1) && decide (nfield (f 6 2) 2 14 = 0) && decide (f 8 4 ≠ 0) &&
    decide (nfield (f 0xC 2) 12 4 = 0) && decide (nfield (f 0xE 2) 12 4 = 0) && decide (1 ≤ nc) && decide (nc ≤ 4096) &&
    decide (ng ≤ 1024) && decide (f 0x14 4 % 16 = 0) && decide (f 0x18 4 % 8 = 0) && decide (f 0x1C 4 = len) && decide (64 ≤ len) &&
    decide (len ≤ 4194304) && decide (f 0x20 28 = 0) && decide (64 ≤ f 0x14 4) && decide (f 0x14 4 + 16 * nc ≤ len) &&
    (decide (ng = 0) || (decide (64 ≤ f 0x18 4) && decide (f 0x18 4 + 264 * ng ≤ len))) &&
    (planChipList bs).all Prod.snd && (planGroupList bs).all Prod.snd

/-- A chip of a plan by number. -/
def chipIn (l : List PlanChip) (c : Nat) : Option PlanChip := l.find? (fun x => decide (x.chip = c))

/-- The class of a chip's port. -/
def chipReach (x : PlanChip) (p : Nat) : Nat := nfield x.reach (3 * p) 3

/-- Every used port faces a chip of the plan with the same class, across racks if and only if it is OPTICAL. -/
def planGeometry (l : List PlanChip) : Bool :=
  l.all (fun x => sixPorts.all (fun p => decide (chipReach x p = 0) || (match (meshStep x.chip p 1).bind (chipIn l) with
    | some y => decide (chipReach y (facing p) = chipReach x p) && (decide (chipReach x p = 4) == decide (x.rack ≠ y.rack))
    | none => false)))

/-- Parents lead from a member to the time master within the members. -/
def leadsTo (l : List PlanChip) (master : Nat) : Nat → Nat → Bool
  | 0, _ => false
  | fuel + 1, c => match chipIn l c with
    | none => false
    | some x => x.member && (if c = master then decide (x.parent = c) else leadsTo l master fuel x.parent)

/-- The tree of the domain (R304). -/
def planTree (l : List PlanChip) (master leader : Nat) (two : Bool) : Bool :=
  (chipIn l master).any (fun x => x.member) && l.all (fun x => !x.member || leadsTo l master 513 x.chip) &&
    (!two || (chipIn l leader).any (fun x => x.member && decide (x.rack = 1) && sixPorts.any (fun p => decide (chipReach x p = 4))))

/-- The chips of a domain group, flattened; none when its members do not exist or close a cycle (R58, R59). -/
def flatGroup (chips : List PlanChip) (gs : List (Nat × List (Nat × Nat))) : Nat → Nat → Option (List Nat)
  | 0, _ => none
  | fuel + 1, g => match gs.find? (fun x => decide (x.1 = g)) with
    | none => none
    | some (_, ms) => ms.foldl (fun acc m => match acc with
      | none => none
      | some l =>
        if m.1 = 2 then (if (chipIn chips m.2).isSome then some (l ++ [m.2]) else none)
        else if m.1 = 3 ∧ 0x8000 ≤ m.2 ∧ m.2 < 0x8400 then (flatGroup chips gs fuel (m.2 - 0x8000)).map (fun k => l ++ k)
        else none) (some [])

/-- The groups of a plan (R58 to R60); none when one breaks a rule. Keys are group IDs. -/
def planGroups (chips : List PlanChip) (gs : List (Nat × List (Nat × Nat))) : Option (FMap Group) :=
  if distinct (gs.map Prod.fst) then
    gs.foldl (fun acc g => match acc, flatGroup chips gs (gs.length + 1) g.1 with
      | some m, some l => some (fmSet m (0x8000 + g.1) { members := g.2, flat := l.eraseDups })
      | _, _ => none) (some [])
  else none

/-- The plan that bytes spell, but for its groups. -/
def planOfBytes (bs : List Byte) (groups : FMap Group) : Plan where
  version := bytesField bs 8 4
  twoRack := (bytesField bs 6 2).testBit 0
  compat := (bytesField bs 6 2).testBit 1
  timeMaster := nfield (bytesField bs 0xC 2) 0 12
  rackLeader := nfield (bytesField bs 0xE 2) 0 12
  crc := bytesField bs 0x3C 4
  chips := (planChipList bs).map Prod.fst
  groups := groups

/-- Members and racks (R304). -/
def planDomain (p : Plan) : Bool :=
  let ms := p.chips.filter (fun x => x.member)
  decide (ms.length ≤ 512) && [0, 1].all (fun r => decide ((ms.filter (fun x => decide (x.rack = r))).length ≤ 256)) &&
    (p.twoRack || ms.all (fun x => decide (x.rack = 0)))

/-- The dearest tree path from the time master on the fault-free mesh takes at most half an FSYNC period (R252). -/
def planAnnounce (b : Block) (p : Plan) : Bool :=
  let b' := { b with fab := { b.fab with plan := some p } }
  decide (2 * treeMax (treeOf p) (meshNs b' p) 513 [(p.timeMaster, p.timeMaster, 0)] 0 ≤ dget b 0x4000 1 * 1000)

/-- No sheet names another plan. -/
def planSheets (b : Block) (v : Nat) : Bool :=
  let ok (s : Sheet) : Bool := decide (s.planVer = 0) || decide (s.planVer = v)
  b.tide.sheets.all (fun x => x.2.active.all ok && x.2.staged.all (fun y => ok y.1))

/-- The checks of R304 on the bytes read: the plan, or the status of the first failure. The CRC covers `TOTAL_LEN` bytes (R303); a read that
brings fewer bytes than `PLAN_LEN` has failed. -/
def planCheck (b : Block) (len : Nat) (bs : List Byte) : Except Nat Plan :=
  let chips := (planChipList bs).map Prod.fst
  let total := bytesField bs 0x1C 4
  if bs.length ≠ len then .error psRead
  else if total > bs.length ∨ crcWithout (bs.take total) 0x3C ≠ bytesField bs 0x3C 4 then .error psCrc
  else if !planFormat bs len then .error psFormat
  else if !distinct (chips.map (fun x => x.chip)) ∨ (chipIn chips (chipNo b)).isNone then .error psChip
  else
    let p := planOfBytes bs []
    if !planGeometry chips then .error psGeometry
    else if !planDomain p then .error psDomain
    else if !planTree chips p.timeMaster p.rackLeader p.twoRack then .error psTree
    else match planGroups chips ((planGroupList bs).map Prod.fst) with
      | none => .error psGroup
      | some gs =>
        if !planAnnounce b p then .error psAnnounce
        else if !planSheets b p.version then .error psSheets
        else .ok { p with groups := gs }

/-! ## Installing -/

/-- An accepted plan takes effect: domain groups, routes, the flood bound, the classes that the controllers see, held ports, the
check of every trained link (R301, R304, R308). A member that the plan leaves out, or whose sheets break the slack of a two-rack
domain, leaves the domain; a planned member outside it whose sheets break the slack does not join, and writes the record alone (R273).
LINK_IDENT tells each neighbour of the new version (log entry 29). -/
def planTake (b : Block) (p : Plan) : Act :=
  let b := wgenUp { b with fab := { b.fab with plan := some p, status := psActive, loading := none } }
  let b := if b.tide.member && (!memberOf b (chipNo b) || !slackHolds b) then leaveDomain b tcPlan
    else if p.twoRack && memberOf b (chipNo b) && !slackHolds b then tideRec b { type := tyLeave, cause := tcPlan, frame := b.tide.frame }
    else b
  let b := fabRec b 0x0B 7 (chipNo b) 0 p.version psActive 0
  let b := sixPorts.foldl (fun b i =>
    let l := linkOf b i
    let b := emit b (.reach i (reachOf b i))
    if l.trained then gzLink b i (.linkIdent (identWord b i))
    else if l.state = 5 then putLink b i { l with passed := false }
    else putLink b i { l with state := idleState b i, passed := false, downs := if l.state = 6 then [] else l.downs }) b
  let b := sixPorts.foldl (fun b i => checkPort b true i) b
  recompute b

/-- A refused plan: its status, and an audit record (R304, R418). -/
def planRefuse (b : Block) (a : DictAcc) (st : Nat) : Block :=
  audit { b with fab := { b.fab with status := st, loading := none } }
    { type := auActionRefused, result := drState, path := a.path, org := a.org, idx := a.idx, sub := a.sub, detail := st }

/-- The row's own write. -/
def rowPlanInstall (a : DictAcc) : DictRow where
  mine := a.idx = 0x5000 && a.sub = 3 && a.value % 256 = 1
  cond := fun b => stateIf (decide (b.fab.status ≠ psLoading))
  run := fun b =>
    let addr := dget b 0x5000 1
    if isLocal b addr then act { b with fab := { b.fab with status := psLoading, loading := some (a, addr, dget b 0x5000 2) } }
    else act (planRefuse b a psRead)

/-- PLAN_INSTALL: the plan is read from local device memory (R468). -/
def execPlanInstall (a : DictAcc) (s : State) : Host.Outcome State Fault Refusal :=
  dictRow .write a (rowPlanInstall a) s

/-- The plan has been read, or the read failed or timed out. -/
def planRead (b : Block) (bytes : Option (List Byte)) : Act :=
  match b.fab.loading with
  | none => act b
  | some (a, _, len) => match bytes with
    | none => act (planRefuse b a psRead)
    | some bs => match planCheck b len bs with
      | .error st => act (planRefuse b a st)
      | .ok p => planTake b p

/-- PLAN_READ_RETURN (R304). -/
def execPlanReadReturn (bytes : Option (List Byte)) (s : State) : Host.Outcome State Fault Refusal :=
  lift (fun b => retire (finish (planRead b bytes)) [.plan]) s

end Sys2Proof.Machine
end

