-- ==== Sys2Proof/Machine/Recovery.lean ====
section
/-! DEFINITION. Watchdogs, uncorrectable memory errors, and the recovery sequence: trigger, fence, drain, dump, propagation
and RESET_REQ (R323 to R344). -/

namespace Sys2Proof.Machine

open Sys2Proof

/-! ## The trigger (R327, R328) -/

/-- The partitions that have an in-flight heat with an outstanding remote dependency, and the chips it names (R337). -/
def remoteParts (b : Block) : List (Nat × List Nat) :=
  (remoteRuns b none (fun _ => true)).map (fun x => (heatPart b x.2, remoteDeps b x.1))

/-- The reads of the queues that have not returned: driver indexes, and the entries of fetches, those given up included. -/
def queueAccesses (b : Block) : List Access :=
  (allSqs b).flatMap (fun x =>
      (match x.2.rd with
       | .flying _ _ => [Access.read (.producer x.1)]
       | _ => [])
      ++ x.2.fetches.flatMap (fun f => (f.missing ++ f.drop).map (fun i => Access.entry x.1 i)))
    ++ b.q.late.flatMap (fun l => l.missing.map (fun i => Access.entry l.q i))
    ++ (b.q.cqs.map (fun x => (QRef.q x.1, x.2)) ++ b.q.aqs.map (fun x => (QRef.aq x.1, x.2.cq))).flatMap (fun x => match x.2.rd with
      | .flying _ _ => [Access.read (.cqConsumer x.1)]
      | _ => [])

/-- The reads that a core is held for: a program line or a fragment table, a page walk. -/
def coreAccesses (b : Block) (c : Nat) : List Access :=
  match (coreOf b c).hold with
  | .line _ _ true => [.read (.program c)]
  | .table _ _ true => [.read (.program c)]
  | .walk va w => match (coreOf b c).run.bind (runOf b) with
    | some r => [.walk r.ctx va w]
    | none => []
  | _ => []

/-- Every access that Scehione has issued and that has not completed, but for the write-throughs of fences (R331). -/
def openAccesses (b : Block) : List Access :=
  queueAccesses b ++ (List.range 64).flatMap (coreAccesses b)
    ++ ((List.range 64).filter (fun c => (curCall b c).any (fun x => x.2.issued))).map (fun c => Access.read (.expander c))
    ++ b.sb.items.filterMap (fun x => match x.2.descRd with
      | .flying _ _ => some (Access.read (.beDesc x.1))
      | _ => none)
    ++ (blockNext b).toList.map (fun x => Access.read (.updBlock x.1))
    ++ (b.fen.misses.map (fun m => m.addr)).eraseDups.map Access.fence
    ++ (if b.adm.busy.isSome then [Access.param] else [])
    ++ (b.obj.ctxs.map Prod.snd).filterMap (fun c =>
        if c.slotWait.isSome && decide (c.state = .created) && !inHct b c then some (Access.hct (field c.handle 0 20)) else none)
    ++ b.tide.sheets.filterMap (fun x => if x.2.loading.isSome then some (Access.sheet x.1) else none)
    ++ (if b.fab.loading.isSome then [Access.plan] else [])
    ++ b.q.aqs.filterMap (fun x => if x.2.enabling.isSome then some (Access.enable x.1) else none)

/-- A trigger: the sequence starts, or while one runs a secondary cause is kept, at most seven, every one counted (log
entry 31). -/
def trigger (b : Block) (cause detail : Nat) (hung : Option Nat) : Block :=
  let r := b.rcv
  if r.stage = .idle then
    { b with rcv := { r with stage := .fence, cause := cause, detail := detail, t0 := stamp b, from_ := b.tide.clock,
                             frame := b.tide.frame, secondary := [], secCount := 0, buffers := b.adm.dumpBufs, remote := remoteParts b,
                             access := openAccesses b, hungTag := hung, badUnits := [], badPorts := [], drainExp := false, lost := [] } }
  else
    { b with rcv := { r with secondary := if r.secondary.length < 7 then r.secondary ++ [cause] else r.secondary,
                             secCount := min 255 (r.secCount + 1) } }

/-! ## Pending work and progress (R324, R335) -/

/-- The operations that wait at a unit or that it has begun, by its ID (R335: DEDUCED; log entry 72). -/
def unitOps (b : Block) (u : Nat) : Nat :=
  let n {α : Type} (l : List α) : Nat := l.length
  match u with
  | 0x00 => n (queueAccesses b) + ((allSqs b).map (fun x => n x.2.cache)).sum + (b.q.cqs.map (fun x => n x.2.hold)).sum
  | 0x05 => n b.sb.items + n b.fen.waits + n b.fen.misses + n b.fen.writes + n b.fen.acks
  | 0x06 => n (b.sb.items.filter (fun x => decide (x.2.stage = .composer))) + n b.comp.lateWait
  | 0x07 => n (b.obj.ctxs.filter (fun x => x.2.slotWait.isSome))
  | 0x08 => n b.tide.decls + n (b.tide.sheets.filter (fun x => x.2.loading.isSome))
  | 0x09 => n b.xp.calls
  | 0x0A => n b.upd + n (b.live.filter (fun x => x.2.apply.isSome))
  | 0x0B => (b.ports.map (fun x => n x.2.xq + n x.2.out)).sum + (b.cores.map (fun x => n x.2.pushQ)).sum
  | 0x0C => n (b.cores.filter (fun x => match x.2.hold with
      | .walk _ _ => true
      | _ => false))
  | 0x0D => n (b.ports.filter (fun x => x.2.coreHeld.bucket || x.2.xHeld.bucket || x.2.coreHeld.cap.isSome || x.2.xHeld.cap.isSome))
  | 0x0E => n b.adm.pend + b2n b.adm.busy.isSome + b2n b.adm.mbEntry.isSome + n b.mgt.notify
  | 0x0F => n b.rel.samples
  | _ =>
    if u < 0x10 then b2n ((fmGet? b.mic.seqs (u - 1)).any (fun ms => ms.who.isSome))
    else b2n (coreOf b (u - 0x10)).run.isSome + n (coreOf b (u - 0x10)).held

/-- The steps that a unit would take by itself on what it holds, each without a reply, a release or another unit's step. -/
def unitSteps (b : Block) (u : Nat) : List (Block → Block) :=
  let parts := fmKeys b.obj.parts
  let clusters := List.range 64
  match u with
  | 0x00 => (allSqs b).map (fun x b => fetchIssue b x.1) ++ b.q.sqs.map (fun x b => submitRest 1 b x.1)
      ++ b.q.cqs.map (fun x b => completionWrite b x.1)
  | 0x05 => (if b.walk.due ≤ b.tide.clock then [walkerStart] else []) ++ clusters.map (fun c b => (heldApply b c).1)
  | 0x06 => parts.map (fun p b => (bePlace b p).1) ++ (fmKeys b.sb.items).map (fun t b => (chunkStart b t).1)
  | 0x07 => parts.map (fun p b => (slotAssign b p).1)
  | 0x08 => match frameAt b b.tide.time with
    | some f => if b.tide.frame < f then [frameBegin] else []
    | none => []
  | 0x09 => clusters.map (fun c b => poolIssue b c) ++ clusters.map (fun c b => xcallEnd b c) ++ clusters.map (fun c b => (windowTurnover b c).1)
  | 0x0A => b.live.map (fun x b => (applyBegin b x.1).1) ++ b.live.map (fun x b => (applyEnd b x.1).1)
  | 0x0B => (clusters.filter (fun c => [coreHead b c, xHead b c].any (fun x => x.any (fun y => match y.work with
      | .write _ _ => true
      | .baton _ _ _ => false)))).map (fun c b => handshake b c)
  | 0x0C => []
  | 0x0D => clusters.map (fun c b => (breakwaterRelease b c).1)
  | 0x0E => (List.range 5).filterMap (fun a => (adminFront b a).map (fun _ b => adminTake b a))
  | 0x0F => []
  | _ =>
    if u < 0x10 then [fun b => (microStep b (u - 1) .none).1]
    else [fun b => (slwIssue b (u - 0x10)).1, fun b => (corePartEnd b (u - 0x10)).1]

/-- A unit holds pending work that waits on nothing which another watchdog or timeout covers: it could complete a step now
(R324). In a recovery sequence, and before the microsequencers issue steps, nothing is due from any unit (R329, R382). -/
def unitPending (b : Block) (u : Nat) : Bool :=
  ready b && decide (b.rcv.stage = .idle) && (unitSteps b u).any (fun f => !unitSame b (f b) u)

/-- The units whose steps bring about, beside its own, what a unit waits for. -/
def unitInputs (u : Nat) : List Nat :=
  match u with
  | 0x00 => [0x05, 0x07, 0x0D, 0x0E]
  | 0x05 => [0x06, 0x0B]
  | 0x06 => [0x00, 0x05, 0x07, 0x08, 0x0B, 0x0D, 0x0F] ++ (List.range 64).map (fun c => 0x10 + c)
  | 0x07 => [0x00, 0x05, 0x06]
  | 0x09 => [0x0B, 0x0D] ++ (List.range 64).map (fun c => 0x10 + c)
  | 0x0A => [0x06, 0x08, 0x0B]
  | 0x0B => [0x09] ++ (List.range 64).map (fun c => 0x10 + c)
  | 0x0D => [0x0B]
  | 0x0E => [0x01, 0x02, 0x03, 0x04]
  | _ => if u < 0x10 then [0x0E] else [0x05, 0x06, 0x09, 0x0B, 0x0D]

/-- The last step of a unit; at reset none, with the default of either interval (R343). -/
def lastStep (b : Block) (u : Nat) : UnitStep := (fmGet? b.rcv.prog u).getD { clock := 0, time := 0, due := 1000000 }

/-- The later of two steps: the watched condition begins at it. -/
def laterStep (m x : UnitStep) : UnitStep :=
  if m.clock < x.clock || (m.clock = x.clock && m.due ≤ x.due) then x else m

/-- When the progress watchdog of a unit expires: the interval after the last step of the unit and of every unit that it waits for, so
not before the watched condition has lasted that long (R323; log entry 72). The interval is the one in force at that step (R343). -/
def unitDue (b : Block) (u : Nat) : Nat :=
  ((unitInputs u).foldl (fun m x => laterStep m (lastStep b x)) (lastStep b u)).due

/-! ## Watchdogs (R323 to R325, R44) -/

/-- UNIT_PROGRESS_WATCHDOG: a unit ID of R335 that holds pending work and completes no step. -/
def unitHang (b : Block) (u : Nat) : Block :=
  if u < 0x50 && unitPending b u then trigger (passTo b (unitDue b u)) rcUnitHang u none else b

/-- UNIT_PROGRESS_WATCHDOG (R323, R324). -/
def execUnitProgressWatchdog (unit : Nat) (s : State) : Host.Outcome State Fault Refusal := lift (fun b => unitHang b unit) s

/-- The local wait of a core that the core-wait watchdog covers: fence, awaited value, credit. -/
def localWait (k : CoreSt) : Option (Word × Word × Bool) :=
  match k.hold with
  | .localFence a v c => some (a, v, c)
  | .pinned a v c => some (a, v, c)
  | .fenceRead a => some (a, 0, false)
  | _ => none

/-- CORE_WAIT_WATCHDOG: the heat ends with ABORT_HANG, and the core that waited is at a boundary, an FREAD's too (R325). -/
def coreWaitHang (b : Block) (c : Nat) : Act :=
  let k := coreOf b c
  match localWait k, k.run with
  | some (a, v, cr), some n => match runOf b n with
    | none => act b
    | some r =>
      let b := passTo b k.waitBy
      let now := match fenceEnt b a with
        | some e => e.value
        | none => BitVec.ofNat 64 (rdLE b a.toNat 8)
      let b := trace (cnt b cCoreWaitHang) 2 1 (some c) [(0, 24, r.ctx.toNat), (32, 17, r.tag), (64, 64, a.toNat),
        (128, 64, v.toNat), (192, 64, now.toNat), (256, 1, b2n cr)]
      (endStream b c, [.abort n stHang])
  | _, _ => act b

/-- CORE_WAIT_WATCHDOG. -/
def execCoreWaitWatchdog (c : Nat) (s : State) : Host.Outcome State Fault Refusal := liftRA (fun b => coreWaitHang b c) s

/-- `CAUSE_DETAIL` of a baton (R333). -/
def batonDetail (c pos id : Nat) : Nat := packFields [(0, 6, c), (8, 4, pos), (16, 16, id)]

/-- BATON_WATCHDOG: a baton of a G, M, V or D engine has not ended. -/
def batonHang (b : Block) (c id : Nat) : Block :=
  match (portOf b c).out.find? (fun x => decide (x.id = id)) with
  | none => b
  | some x =>
    if isL x.ent.pos then b
    else trigger (passTo b x.deadline) rcBatonHang (batonDetail c x.ent.pos id) ((runOf b x.run).map (fun r => r.tag))

/-- BATON_WATCHDOG (R323). -/
def execBatonWatchdog (c id : Nat) (s : State) : Host.Outcome State Fault Refusal := lift (fun b => batonHang b c id) s

/-- The baton that a cluster port holds for an engine with credit. -/
def portHeld (b : Block) (c : Nat) : Option PushEnt :=
  ((sourceOrder (portOf b c).lastX (headOf b c false) (headOf b c true)).filterMap (fun x => match x.2.work with
    | .baton e _ _ => some e
    | .write _ _ => none)).find? (fun e => decide (creditOf (portOf b c) e.pos > 0))

/-- DISPATCH_PORT_WATCHDOG: the interval has passed since the port last changed, or another baton came to its head; the ID is the one that
the baton would take. -/
def portHang (b : Block) (c : Nat) : Block :=
  match portHeld b c with
  | none => b
  | some e => trigger (passTo b (lastStep b (0x50 + c)).due) rcPortHang (batonDetail c e.pos ((lowestFree ((portOf b c).out.map (fun x => x.id)) 0 65536).getD 0)) none

/-- DISPATCH_PORT_WATCHDOG (R323). -/
def execDispatchPortWatchdog (c : Nat) (s : State) : Host.Outcome State Fault Refusal := lift (fun b => if c < 64 then portHang b c else b) s

/-- `WRITE_ACK_WD_US` for a write issued at an instant: a changed value applies to the writes issued after the change (R343). -/
def ackWdAt (b : Block) (t : Nat) : Nat :=
  match b.rcv.ackWas.find? (fun x => decide (t ≤ x.1)) with
  | some x => x.2
  | none => dget b 0x6000 5

/-- WRITE_ACK_WATCHDOG: a write-through issued and not acknowledged, or another write, issued at the instant that the command brings,
whose acknowledgement is no command (log entry 71). -/
def ackHang (b : Block) (a : Word) (issued : Option Nat) : Block :=
  match issued with
  | some t => if t ≤ b.tide.clock then trigger (passTo b (t + ackWdAt b t * 1000)) rcWriteAck a.toNat none else b
  | none => match b.fen.writes.find? (fun w => decide (w.addr = a) && w.deps.isEmpty) with
    | none => b
    | some w => trigger (passTo b w.due) rcWriteAck a.toNat none

/-- WRITE_ACK_WATCHDOG (R323). -/
def execWriteAckWatchdog (addr : Word) (issued : Option Nat) (s : State) : Host.Outcome State Fault Refusal :=
  lift (fun b => ackHang b addr issued) s

/-- DESTRUCTION_WATCHDOG: a destruction has not completed by its bound (R44). -/
def destroyHang (b : Block) (id : Nat) : Block :=
  match fmGet? b.obj.ctxs id with
  | none => b
  | some c => if c.state = .destroying then trigger (passTo b c.destroyBy) rcDestroyTimeout c.handle.toNat none else b

/-- DESTRUCTION_WATCHDOG. -/
def execDestructionWatchdog (ctx : Nat) (s : State) : Host.Outcome State Fault Refusal := lift (fun b => destroyHang b ctx) s

/-! ## Uncorrectable memory errors (R326) -/

/-- A copy of memory on the block discarded, so that it is read again: 0 a fence, by address, unless it is pinned; 1 an HCT
record, by context ID, unless its context holds a slot; 2 an entry-cache entry, by SQ × 2^32 + index, which is fetched again;
3 a program line, by core × 2^48 + address; 4 a translation, by context × 2^48 + address; 5 a directory entry, by expander
call × 2^16 + table. The copy may be absent: none. The SQ of port p is numbered 2^16 + p. -/
def copyDrop (b : Block) (what key : Nat) : Option Block :=
  match what with
  | 0 => if fmHas b.fen.cache key && !fencePinned b key then
      some { b with fen := { b.fen with cache := fmErase b.fen.cache key } } else none
  | 1 => if b.obj.hct.contains key && !(fmGet? b.obj.ctxs key).any (fun c => c.slot.isSome) then
      some { b with obj := { b.obj with hct := b.obj.hct.filter (fun x => decide (x ≠ key)) } } else none
  | 2 =>
    let i := BitVec.ofNat 32 key
    let n := key / 2 ^ 32
    let r : QRef := if n < 0x10000 then .q n else .aq (n - 0x10000)
    match sqOf b r with
    | none => none
    | some s =>
      if s.cache.any (fun x => x.1 = i) then
        let b := hostAcc b s.ringHost s.hostPort s.ownerFn (s.ringAddr + 64 * (i.toNat % 2 ^ s.log2)) 64 false
        some (putSq b r { s with cache := s.cache.filter (fun x => decide (x.1 ≠ i)),
                                 fetches := s.fetches ++ [{ missing := [i], drop := [], issued := b.tide.clock }] })
      else none
  | 3 =>
    let k := coreOf b (key / 2 ^ 48)
    if k.lines.any (fun l => l.va = key % 2 ^ 48) then
      some (putCore b (key / 2 ^ 48) { k with lines := k.lines.filter (fun l => decide (l.va ≠ key % 2 ^ 48)) })
    else none
  | 4 =>
    let h := BitVec.ofNat 24 (key / 2 ^ 48)
    if tlbHit b h (key % 2 ^ 48) then some (tlbDrop b h (key % 2 ^ 48) 1) else none
  | 5 => match fmGet? b.xp.calls (key / 2 ^ 16) with
    | none => none
    | some x => if fmHas x.dirs (key % 2 ^ 16) then
        some (putCall b (key / 2 ^ 16) { x with dirs := fmErase x.dirs (key % 2 ^ 16) }) else none
  | _ => none

/-- State of a heat on a cluster, by its structure code: the run that holds it meets a detected fault (R351); with no run it
affects none. A data window is cleared before the core's next run. -/
def heatStateBad (b : Block) (c code : Nat) : Act :=
  let b := if code = 1 then putCore b c { coreOf b c with wipe := true } else b
  match (coreOf b c).run with
  | none => act (cnt b cSramRefetch)
  | some n => match runOf b n with
    | none => act (cnt b cSramRefetch)
    | some r =>
      if r.endedAt.isSome then act (cnt b cSramRefetch)
      else
        let unit := if code ≤ 4 then unitNo c 15 else unitXp
        andThen (unitEvent b unit htHeatState (some r.ctx) 0 code r.tag) (fun b => faultRun b n)

/-- SRAM_UNCORRECTABLE. -/
def sramBad (b : Block) (x : SramWord) : Act :=
  match x with
  | .corrected => act (cnt b cSramCorrected)
  | .copy what key => match copyDrop b what key with
    | some b => act (cnt b cSramRefetch)
    | none => act b
  | .heatState c code => if c < 64 ∧ 1 ≤ code ∧ code ≤ 6 then heatStateBad b c code else act b
  | .other u => act (if u < 0x50 then trigger b rcSram u none else b)

/-- SRAM_UNCORRECTABLE (R326), and a corrected symbol, which is counted. -/
def execSramUncorrectable (x : SramWord) (s : State) : Host.Outcome State Fault Refusal := liftA (fun b => sramBad b x) s

/-- The row's own write. -/
def rowRecoveryStart (a : DictAcc) : DictRow where
  mine := a.idx = 0x6000 && a.sub = 9 && a.value % 256 = 1
  cond := fun _ => none
  run := fun b => act (if b.rcv.stage = .idle then trigger b rcOperator 0 none else b)

/-- RECOVERY_START: START is ignored while a sequence runs (R327, R343). -/
def execRecoveryStart (a : DictAcc) (s : State) : Host.Outcome State Fault Refusal :=
  dictRow .write a (rowRecoveryStart a) s

/-! ## Fence and drain (R329 to R331) -/

/-- A core stopped: its hold, its SLW, its push queue, held signals and credits are gone, and a stop ends (R441). -/
def coreFenced (k : CoreSt) : CoreSt :=
  { k with slw := none, hold := .none, pushQ := [], held := [], sending := 0, credits := [], syncCall := [], brkStop := none,
           haltReq := false, stepping := false }

/-- A port stripped of whatever has not been handed over. -/
def portFenced (p : CPort) : CPort :=
  { p with xq := [], capX := none, copies := [], coreHeld := HeldMark.clear, xHeld := HeldMark.clear }

/-- The actions of the fence step (R329). -/
def fenceAll (b : Block) : Block :=
  let b := b.cores.foldl (fun b x => traceResume b x.1 x.2 3) b
  let b := (fmKeys b.ports).foldl (cancelAt (fun _ => true)) b
  let b := dropWaits b (fun w => match w with
    | .core _ _ => true
    | _ => false)
  { b with cores := b.cores.map (fun x => (x.1, coreFenced x.2)), ports := b.ports.map (fun x => (x.1, portFenced x.2)) }

/-- FENCE_COMPLETE: the drain begins. -/
def fenceComplete (b : Block) : Block :=
  if b.rcv.stage = .fence then
    let b := fenceAll b
    { b with rcv := { b.rcv with stage := .drain, fenceAt := b.tide.clock } }
  else b

/-- FENCE_COMPLETE (R329). -/
def execFenceComplete (s : State) : Host.Outcome State Fault Refusal := lift fenceComplete s

/-- Every accepted baton has ended, cancelled ones included, every access has completed or been retired, and every write-through has been
acknowledged. -/
def drained (b : Block) : Bool := b.ports.all (fun p => p.2.out.isEmpty) && b.fen.writes.isEmpty && b.rcv.access.isEmpty

/-- The dump begins; the write-throughs not acknowledged are lost (R330). -/
def dumpBegin (b : Block) (expired : Bool) : Block :=
  { b with rcv := { b.rcv with stage := .dump, dumpAt := b.tide.clock, drainExp := expired,
                               lost := b.fen.writes.map (fun w => (w.addr.toNat, w.value)) } }

/-- DRAIN_COMPLETE (R331). -/
def execDrainComplete (s : State) : Host.Outcome State Fault Refusal :=
  lift (fun b => if b.rcv.stage = .drain && drained b then dumpBegin b false else b) s

/-- DRAIN_DEADLINE (R331). -/
def execDrainDeadline (s : State) : Host.Outcome State Fault Refusal :=
  lift (fun b => if b.rcv.stage = .drain then dumpBegin (passTo b (b.rcv.fenceAt + dget b 0x6000 6 * 1000)) true else b) s

/-! ## The dump (R332 to R336) -/

/-- A read of the dump step by number: the units of R335, then from 0x100 the engines in cluster.position order. -/
def engineRead (c pos : Nat) : Nat := 0x100 + 14 * c + pos

/-- A UNITS item: the private state, whose layout R335 leaves open, is free (log entry 12). -/
def unitItem (b : Block) (u : Nat) : List Byte :=
  let bad := b.rcv.badUnits.contains u
  leBytes 16 (packFields [(0, 8, u), (8, 8, b2n bad), (32, 32, min (2 ^ 32 - 1) (unitOps b u)),
    (64, 64, (lastStep b u).time)])
    ++ (List.range 240).map (fun i => if bad then 0 else Config.unitPrivate u i)

/-- An ENGINES item. -/
def engineItem (b : Block) (c pos : Nat) : List Byte :=
  let p := portOf b c
  let l := p.out.filter (fun x => decide (x.ent.pos = pos))
  let st := if b.rcv.badUnits.contains (engineRead c pos) then 3 else if !l.isEmpty then 1 else if present b c pos then 0 else 2
  let old := l.head?
  leBytes 16 (packFields [(0, 6, c), (8, 4, pos), (16, 8, st), (24, 7, min 127 l.length), (32, 7, creditOf p pos),
    (48, 16, (old.map (fun x => x.id)).getD 0), (64, 64, (old.map (fun x => x.since)).getD 0)])

/-- A fence that released the work item was not written before the drain ended (R330). -/
def fenceLost (b : Block) (i : Item) : Bool := i.freed.any (fun f => b.rcv.lost.contains (f.1.toNat, f.2))

/-- A WORK_ITEMS item (R336). -/
def workItem (b : Block) (t : Nat) (i : Item) : List Byte :=
  let ended := i.stage = .ended || i.stage = .signalling
  let st := if ended then i.status else if b.rcv.cause = rcBatonHang ∧ b.rcv.hungTag = some t then stHang else stChipReset
  let time := if ended then i.endAt.getD b.rcv.t0 else b.rcv.t0
  leBytes 32 (packFields [(0, 16, i.sq), (16, 16, (eTag i.entry).toNat), (32, 24, i.ctx.toNat), (56, 8, st), (64, 17, t),
    (81, 1, b2n i.started), (82, 1, b2n ended), (83, 1, b2n (fenceLost b i)), (96, 32, i.frame), (128, 64, time)])

/-- The port that owns a queue. -/
def sqPort (b : Block) (n : Nat) : Option Nat := (fmGet? b.q.sqs n).map (fun s => s.ownerPort)

/-- An ADMIN item. -/
def adminItem (src : Nat) (tag : BitVec 16) (opcode fn : Nat) : List Byte :=
  leBytes 16 (packFields [(0, 3, src), (16, 16, tag.toNat), (32, 8, opcode), (40, 8, fn), (48, 8, stChipReset)])

/-- The admin commands without a final completion of a port: submitted at the mailbox and not yet taken, under way, in a handler,
pending, or ended with a completion that waits. -/
def adminItems (b : Block) (p : Nat) : List (List Byte) :=
  let item (src : Nat) (e : BitVec 512) : List (List Byte) :=
    if (adminOrg b src e).serve = p then [adminItem src (aTag e) (aOpcode e) (aFunction e)] else []
  (match b.adm.mbEntry with
   | some e => item 4 e
   | none => [])
  ++ (match b.adm.busy with
   | some x => item x.src x.entry
   | none => [])
  ++ b.mic.seqs.filterMap (fun x => match x.2.who with
    | some (.admin src tag op q) => if q = p then some (adminItem src tag op (aFunction x.2.entry)) else none
    | _ => none)
  ++ (b.adm.pend.filter (fun x => decide (x.port = p))).map (fun x => adminItem x.src x.tag x.opcode x.fn)
  ++ (match aqOf b p with
    | some a => (a.cq.aHold.filter (fun x => !x.event && decide (x.status ≠ stAdminPending))).map (fun x =>
        adminItem p x.tag x.opcode x.fn)
    | none => [])

/-- An OPEN_BATCHES item; the index of the first entry follows from its ordinal. -/
def batchItem (s : Sq) (n first ended nonDone : Nat) : List Byte :=
  leBytes 16 (packFields [(0, 16, n), (16, 16, min 65535 nonDone), (32, 32, (s.consumer - BitVec.ofNat 32 (s.ordinal - first)).toNat),
    (64, 32, ended)])

/-- The batches of a port's queues begun and not reported: open or unfinished, or with a completion that waits. -/
def batchItems (b : Block) (p : Nat) : List (List Byte) :=
  b.q.sqs.flatMap (fun x =>
    if x.2.ownerPort = p then
      let held := ((fmGet? b.q.cqs x.2.cq).map (fun c => c.hold)).getD []
      (held.filter (fun e => decide (e.kind = .batch) && decide (e.sq = x.1))).map (fun e => batchItem x.2 x.1 e.first e.entries e.nonDone)
        ++ x.2.batches.map (fun y => batchItem x.2 x.1 y.first y.ended y.nonDone)
    else [])

/-- The items of every section for a port's buffer, in the order of R334: type, item size, items. -/
def dumpSections (b : Block) (p : Nat) : List (Nat × Nat × List (List Byte)) :=
  [(1, 256, (List.range 80).map (unitItem b)),
   (2, 16, (List.range 64).flatMap (fun c => (List.range 14).map (fun pos => engineItem b c pos))),
   (3, 32, (b.sb.items.filter (fun x => decide (sqPort b x.2.sq = some p))).map (fun x => workItem b x.1 x.2)),
   (4, 16, adminItems b p),
   (5, 16, batchItems b p),
   (6, 16, b.rcv.lost.map (fun f => leBytes 16 (packFields [(0, 64, f.1), (64, 64, f.2.toNat)])))]

/-- The sections begun when only `n` items could be written: the last of them is truncated (R332). -/
def cutSections : Nat → List (Nat × Nat × List (List Byte)) → List (Nat × Nat × List (List Byte) × Bool)
  | _, [] => []
  | n, (t, k, l) :: rest =>
    if l.length ≤ n then (t, k, l, false) :: cutSections (n - l.length) rest
    else if n = 0 then [] else [(t, k, l.take n, true)]

/-- The sections laid out from an offset in a buffer of `room` bytes, each 64-byte aligned, with whole items only (R332,
R334): section headers and the bytes from 0x1000 on. -/
def placeSections (room : Nat) : Nat → List (Nat × Nat × List (List Byte) × Bool) → List (List Byte) × List Byte
  | _, [] => ([], [])
  | off, (t, k, l, cut) :: rest =>
    let fit := l.take ((room - off) / k)
    let cut := cut || decide (fit.length < l.length)
    let body := fit.flatten
    let next := roundUp (off + body.length) 64
    let r := placeSections room next rest
    let head := leBytes 16 (packFields [(0, 8, t), (8, 1, b2n cut), (16, 16, k), (32, 32, fit.length), (64, 32, off)])
    (head :: r.1, body ++ (if rest.isEmpty then [] else List.replicate (next - off - body.length) 0) ++ r.2)

/-- The dump header (R333) but for its CRC. -/
def dumpHeader (b : Block) (p count total : Nat) (expired : Bool) : Nat :=
  let r := b.rcv
  packFields ([(0, 32, 0x504D5544), (32, 16, 1), (48, 12, chipNo b), (64, 6, r.resetGen.toNat), (72, 8, r.cause), (80, 2, p),
    (82, 1, b2n expired), (83, 1, b2n r.drainExp), (88, 8, r.secCount), (96, 32, total), (128, 64, r.t0), (192, 64, r.detail),
    (256, 48, r.frame), (304, 16, count), (320, 32, r.badUnits.length)]
    ++ (r.secondary.take 7).zipIdx.map (fun x => (352 + 8 * x.2, 8, x.1)))

/-- The bytes of a port's dump, header first. -/
def dumpImage (b : Block) (p room : Nat) (expired : Bool) (secs : List (Nat × Nat × List (List Byte) × Bool)) : List Byte :=
  let r := placeSections room 0x1000 secs
  let heads := r.1.flatten
  let body := heads ++ List.replicate (0x1000 - 0x40 - heads.length) 0 ++ r.2
  let h := dumpHeader b p r.1.length (0x40 + body.length) expired
  let crc := crc32c (leBytes 64 h ++ body)
  leBytes 64 (h + crc.toNat * 2 ^ 480) ++ body

/-- A port's dump written: a buffer whose write reached its limit keeps some items and no header, how many being free (R332; log
entry 12). -/
def dumpPort (b : Block) (expired : Bool) (p : Nat) (buf : Nat × Nat) : Block :=
  let all := dumpSections b p
  let whole := all.map (fun x => (x.1, x.2.1, x.2.2, false))
  let key := hostKey p buf.1
  if b.rcv.badPorts.contains p then
    let r := placeSections buf.2 0x1000 (cutSections (Config.dumpItems p) all)
    wr b (key + 0x1000) r.2
  else wr b key (dumpImage b p buf.2 expired (if expired then cutSections (Config.dumpItems p) all else whole))

/-- The dump ends: every buffer is written, and propagation begins. -/
def dumpEnd (b : Block) (expired : Bool) : Block :=
  let b := b.rcv.buffers.foldl (fun b x => dumpPort b expired x.1 x.2) b
  let b := noteStamp b ((b.rcv.prog.map (fun x => x.2.time)).foldl max b.rcv.t0)
  { b with rcv := { b.rcv with stage := .propagate, expired := expired } }

/-- DUMP_ACCESS_LIMIT: an unreadable item, or a buffer whose remaining writes stop (R332). -/
def dumpLimit (b : Block) (x : DumpAccess) : Block :=
  if b.rcv.stage = .dump then
    match x with
    | .read u => if (decide (u < 0x50) || (decide (0x100 ≤ u) && decide (u < 0x100 + 896))) && !b.rcv.badUnits.contains u then
        { b with rcv := { b.rcv with badUnits := b.rcv.badUnits ++ [u] } } else b
    | .write p => if fmHas b.rcv.buffers p && !b.rcv.badPorts.contains p then
        { b with rcv := { b.rcv with badPorts := b.rcv.badPorts ++ [p] } } else b
  else b

/-- DUMP_ACCESS_LIMIT. -/
def execDumpAccessLimit (x : DumpAccess) (s : State) : Host.Outcome State Fault Refusal := lift (fun b => dumpLimit b x) s

/-- DUMP_BUDGET_EXPIRY (R332). -/
def execDumpBudgetExpiry (s : State) : Host.Outcome State Fault Refusal :=
  lift (fun b => if b.rcv.stage = .dump then dumpEnd (passTo b (b.rcv.dumpAt + dget b 0x6000 8 * 1000000)) true else b) s

/-- DUMP_COMPLETE (R332). -/
def execDumpComplete (s : State) : Host.Outcome State Fault Refusal :=
  lift (fun b => if b.rcv.stage = .dump then dumpEnd b false else b) s

/-! ## Propagation and RESET_REQ (R337, R338, R459) -/

/-- PEER_ABORT for one partition: a fresh number, on the tree and to the non-member chips concerned (R316, R337). -/
def peerAbortSend (b : Block) (part : Nat) (chips : List Nat) : Block :=
  let num := b.fab.abortNum
  let msg := GzMsg.peerAbort (chipNo b) part num
  let b := gzTree { b with fab := { b.fab with abortNum := num + 1 } } msg
  (chips.eraseDups.filter (fun c => !memberOf b c)).foldl (fun b c => gzSend b c msg) b

/-- PEER_ABORT once for each partition that had a remote dependency at T0. -/
def propagateAll (b : Block) : Block :=
  ((b.rcv.remote.map Prod.fst).eraseDups).foldl (fun b p =>
    peerAbortSend b p ((b.rcv.remote.filter (fun x => decide (x.1 = p))).flatMap Prod.snd)) b

/-- RESET_REQ asserted and every unit stopped; the bypass outputs stay as they are (R319, R459). -/
def resetRequest (s : State) (b : Block) : State := { s with pin := { s.pin with stopped := true, resetReq := true }, blk := b }

/-- PROPAGATE_COMPLETE. -/
def execPropagateComplete (s : State) : Host.Outcome State Fault Refusal :=
  .next (if alive s && decide (s.blk.rcv.stage = .propagate) then
      resetRequest s { propagateAll s.blk with rcv := { s.blk.rcv with stage := .done } }
    else s)

/-- RESET_REQ_TIMER: the timer that does not depend on the microsequencers (R338). -/
def execResetReqTimer (s : State) : Host.Outcome State Fault Refusal :=
  .next (if alive s && decide (s.blk.rcv.stage ≠ .idle) then
      resetRequest s (passTo s.blk (s.blk.rcv.from_ + dget s.blk 0x6000 6 * 1000 + dget s.blk 0x6000 8 * 1000000 + 1000000))
    else s)

/-! ## Generations (R340) -/

/-- The generation is written: each trained port sends it in LINK_IDENT, and its plan check may admit it now (R305, R340). -/
def genWrite (b : Block) (g : BitVec 6) : Block :=
  let b := { b with rcv := { b.rcv with resetGen := g, genWritten := true } }
  let l := sixPorts.filter (fun p => (linkOf b p).trained)
  l.foldl (checkPort · true ·) (l.foldl (fun b p => gzLink b p (.linkIdent (identWord b p))) b)

/-- The row's own write. -/
def rowResetGeneration (a : DictAcc) : DictRow where
  mine := a.idx = 0x6000 && a.sub = 0x0A
  cond := fun b => stateIf (!b.rcv.genWritten)
  run := fun b => act (genWrite b (BitVec.ofNat 6 a.value))

/-- RESET_GENERATION: the first write after reset is taken, later ones are refused. -/
def execResetGeneration (a : DictAcc) (s : State) : Host.Outcome State Fault Refusal :=
  dictRow .write a (rowResetGeneration a) s

end Sys2Proof.Machine
end

