-- ==== Sys2Proof/Machine/Capability.lean ====
section
/-! DEFINITION. The capability table, and the value of every dictionary entry as a read returns it (R404, R406, R415 to R419 and
the tables of the owning chapters). -/

namespace Sys2Proof.Machine

open Sys2Proof

/-! ## The calibration set (R415, R420) -/

/-- An entry in the form of part 5 of R400. -/
def entryForm (b : Block) (idx sub : Nat) : List Byte :=
  match dictDesc idx sub with
  | none => []
  | some d => leBytes 2 idx ++ leBytes 1 sub ++ leBytes 1 d.type ++ leBytes 2 d.bytes ++ leBytes d.bytes (dget b idx sub)

/-- `CAL_CRC`. -/
def calCrc (b : Block) : Nat := (crc32c (calEntries.flatMap (fun e => entryForm b e.1 e.2))).toNat

/-! ## The table (R415, R416) -/

/-- The capacities of R22, in the order of R415. -/
def capacities : List Nat :=
  [65536, 16384, 1048576, 16384, 64, 32, 131072, 32768, 16384, 1048576, 16, 4096, 1024, 4096, 4194304, 0]

/-- The bits of a cluster's positions for which something holds. -/
def posMask (f : Nat → Bool) : Nat := packFields ((List.range 14).map (fun p => (p, 1, b2n (f p))))

/-- The 32 bytes of a cluster record. -/
def clusterRecord (b : Block) (c : Nat) : Nat :=
  let w := withdrawn b c
  let part := clusterPart b c
  packFields [(0, 14, posMask (fusePresent b c)), (16, 14, posMask (fun p => decide ((unitOf b (unitNo c p)).state = 2))),
    (31, 1, b2n w), (32, 14, posMask (fun p => !present b c p)), (48, 1, b2n w), (49, 1, b2n part.isSome),
    (56, 8, part.getD 0xFF), (64, 4, dget b 0x1011 (c + 1)), (72, 8, (pwrOf b c).state)]

/-- The fields of the table below the cluster records: offset, length, value. -/
def tableFields (b : Block) : List (Nat × Nat × Nat) :=
  [(0x00, 4, 0x50414356), (0x04, 2, 1), (0x06, 2, 0x0640), (0x08, 2, 0x0100), (0x0A, 1, 0x21), (0x0C, 2, chipNo b), (0x0E, 1, 64),
   (0x10, 4, 0x00800000), (0x14, 4, b.tableGen), (0x18, 1, packFields [(0, 1, b2n b.pwr.calLoaded), (1, 1, b2n b.pwr.calMod)]),
   (0x1C, 4, calCrc b)]
  ++ capacities.zipIdx.map (fun x => (0x40 + 4 * x.2, 4, x.1))
  ++ (List.range 7).map (fun i => (0x80 + 4 * i, 4, dget b 0x1010 (i + 1)))
  ++ [(0x9C, 2, dget b 0x1010 8), (0xA0, 4, dget b 0x1010 9)]
  ++ (List.range 16).map (fun i => (0xB0 + i, 1, dget b 0x1010 (0x10 + i)))
  ++ sixPorts.map (fun p => (0xC0 + p, 1, reachOf b p))

/-- A byte of the table; locations not listed read zero. -/
def tableByte (b : Block) (a : Nat) : Nat :=
  if 0x400 ≤ a ∧ a < 0xC00 then nfield (clusterRecord b ((a - 0x400) / 32)) (8 * ((a - 0x400) % 32)) 8
  else match (tableFields b).find? (fun f => decide (f.1 ≤ a) && decide (a < f.1 + f.2.1)) with
    | some f => nfield f.2.2 (8 * (a - f.1)) 8
    | none => 0

/-- `n` bytes of the table from an offset, little-endian. -/
def tableRead (b : Block) (a n : Nat) : Nat := leValue ((List.range n).map (fun i => BitVec.ofNat 8 (tableByte b (a + i))))

/-! ## Values of entries -/

/-- An `I32` value as stored. -/
def asI32 (x : Int) : Nat := (BitVec.ofInt 32 x).toNat

/-- The audit record that `AUDIT_SELECT` names, if it is held (R419). -/
def auditHeld (b : Block) : Option (BitVec 512) :=
  let sel := dget b 0x9000 2
  if (b.aud.seq % 2 ^ 32 + 2 ^ 33 - 1 - sel) % 2 ^ 32 < 4096 then fmGet? b.aud.ring (sel % 4096) else none

/-- Read-only entries of 0x3000 to 0x4FFF. -/
def roSched (b : Block) (idx sub : Nat) : Option Nat :=
  if idx = 0x3030 ∧ sub = 4 then some (capState b)
  else if 0x3100 ≤ idx ∧ idx ≤ 0x311F ∧ 0x31 ≤ sub ∧ sub ≤ 0x3E then
    some (asI32 ((bktLevel b (idx - 0x3100) (sub - 0x31)) / 64000))
  else if idx = 0x4000 ∧ sub = 4 then some b.tide.time
  else if idx = 0x4010 ∧ sub = 4 then some b.tide.frame
  else if idx = 0x4010 ∧ sub = 5 then some b.tide.length
  else if idx = 0x4010 ∧ sub = 6 then some b.tide.floor
  else if idx = 0x4020 ∧ sub = 4 then some (if rackLeader b then asI32 b.tide.corr else 0)
  else if idx = 0x4020 ∧ sub = 6 then some b.fab.flood
  else if idx = 0x4030 ∧ sub = 3 then some (b.tide.seq % 2 ^ 32)
  else if 0x4100 ≤ idx ∧ idx ≤ 0x411F then
    let x := sheetOf b (idx - 0x4100)
    (match sub with
     | 5 => some x.status
     | 6 => some ((x.active.map (fun s => s.id)).getD 0xFFFFFFFF)
     | 7 => some ((x.staged.map (fun s => s.1.id)).getD 0xFFFFFFFF)
     | 8 => some (b2n x.stale)
     | _ => none)
  else none

/-- Read-only entries of 0x5000 to 0x7FFF. -/
def roFabric (b : Block) (idx sub : Nat) : Option Nat :=
  if idx = 0x5000 then
    (match sub with
     | 4 => some b.fab.status
     | 5 => some (planVersion b)
     | _ => none)
  else if 0x5010 ≤ idx ∧ idx ≤ 0x5015 then
    let l := linkOf b (idx - 0x5010)
    (match sub with
     | 1 => some l.state
     | 2 => some l.result
     | 3 => some l.ident.toNat
     | 5 => some (reachOf b (idx - 0x5010))
     | 8 => some ((testNow b (idx - 0x5010)).1 % 2 ^ 64)
     | 9 => some (testNow b (idx - 0x5010)).2.1
     | 10 => some (b2n (testNow b (idx - 0x5010)).2.2)
     | _ => none)
  else if idx = 0x7000 then
    (match sub with
     | 5 => some b.pwr.nowMv
     | 6 => some b.pwr.minMv
     | 7 => some (b2n b.pwr.hold)
     | _ => none)
  else if idx = 0x7020 then
    (match sub with
     | 1 => some b.pwr.ageing
     | 2 => some b.pwr.gen
     | 3 => some (advFactor b)
     | _ => none)
  else if idx = 0x7030 ∧ sub = 3 then some (b.pwr.seq % 2 ^ 32)
  else none

/-- Read-only entries of 0x1000 to 0x1FFF and of 0x8000 to 0xAFFF. -/
def roOther (b : Block) (idx sub : Nat) : Option Nat :=
  if idx = 0x1001 then some (tableRead b (64 * sub) 64)
  else if idx = 0x8000 ∧ sub = 3 then some b.traceSeq
  else if idx = 0x8020 ∧ sub = 3 then some (b.skipSeq % 2 ^ 32)
  else if idx = 0x9000 then
    (match sub with
     | 1 => some (b.aud.seq % 2 ^ 32)
     | 3 => some (((auditHeld b).map BitVec.toNat).getD 0)
     | 5 => some b.aud.overrun
     | _ => none)
  else if idx = 0xA000 then
    (match sub with
     | 1 => some b.mic.vendorV
     | 2 => some b.mic.custV
     | 7 => some b.mic.status
     | 8 => some b.mic.selftest
     | _ => none)
  else none

/-- The value that a read of an entry returns: the live value of a read-only one, 0 of a command entry, the value held otherwise. -/
def dictValue (b : Block) (idx sub : Nat) : Nat :=
  if isCmdEntry idx sub then 0
  else match roSched b idx sub with
    | some v => v
    | none => match roFabric b idx sub with
      | some v => v
      | none => match roOther b idx sub with
        | some v => v
        | none => entryNow b idx sub

end Sys2Proof.Machine
end

