-- ==== Sys2Proof/Machine/Reliability.lean ====
section
/-! DEFINITION. Shadow runs, arbitration, corpus capture, structural and corpus tests, unit states and the scan pattern set
(R347 to R364). -/

namespace Sys2Proof.Machine

open Sys2Proof

/-! ## Placing the runs of a sample (R349, R353) -/

/-- The present positions of a cluster. -/
def presentSet (b : Block) (c : Nat) : List Nat := presentIn b c 0 14

/-- Clusters of a partition that a run of budget `budget` of an entry may take, in the order of R231. -/
def placeRanked (b : Block) (p : Nat) (i : Item) (budget : Nat) (no : List Nat) : List Nat :=
  let no := no ++ starveClaims b p (fun _ => true) ++ lateClaims b ++ testClaims b
  let l := (partClusters b p).filter (fun c => !withdrawn b c && beFits b p c budget && !clusterHeld b c &&
    decide ((pwrOf b c).state ≥ 2) && !no.contains c)
  [0, 1, 2, 3].flatMap (fun k => l.filter (fun c => decide (beRank b i c = k)))

/-- For each cluster of the primary, in rank order, the first cluster left whose present positions equal its own. -/
def matchRanks (b : Block) : List Nat → List Nat → Option (List Nat)
  | [], _ => some []
  | c :: cs, l => match l.find? (fun d => decide (presentSet b d = presentSet b c)) with
    | none => none
    | some d => (matchRanks b cs (l.filter (fun e => decide (e ≠ d)))).map (fun ds => d :: ds)

/-- The clusters of another run of a primary's heat in a partition; none are free, or BE starts are barred there. -/
def placeOther (b : Block) (part : Nat) (r : Run) (i : Item) (budget : Nat) (no : List Nat) : Option (List Nat) :=
  if beOpen b part then matchRanks b r.clusters (placeRanked b part i budget no) else none

/-- Another run of a primary's heat starts: a BE heat that holds no tag and no slot of its own (R349). -/
def startOther (b : Block) (kind : RunKind) (r : Run) (i : Item) (part : Nat) (cs : List Nat) : Nat × Block :=
  addRun b { newRun b kind r.tag i part false cs with chunk := r.chunk, res := r.res }

/-- `SHADOW_START_US` in nanoseconds. -/
def shadowNs (b : Block) : Nat := dget b 0x6010 2 * 1000

/-- SHADOW_START: within `SHADOW_START_US` of the primary's start. -/
def shadowStart (b : Block) (n : Nat) : Act :=
  match fmGet? b.rel.samples n, runOf b n with
  | some x, some r =>
    if decide (x.stage = .runs) && x.shadow.isNone && decide (b.tide.clock ≤ x.since + shadowNs b) then
      match itemOf b r.tag with
      | none => act b
      | some i => match placeOther b (shadowPart b r.part) r i x.budget [] with
        | none => act b
        | some cs =>
          let y := startOther b .shadow r i (shadowPart b r.part) cs
          act (putSample y.2 n { x with shadow := some y.1 })
    else act b
  | _, _ => act b

/-- SHADOW_START (R349). -/
def execShadowStart (run : Nat) (s : State) : Host.Outcome State Fault Refusal := liftRA (fun b => shadowStart b run) s

/-- SHADOW_START_TIMEOUT: a sample without a shadow run is abandoned; a mismatch without a third run stays unresolved (R349,
R353). -/
def shadowTimeout (b : Block) (n : Nat) : Act :=
  match fmGet? b.rel.samples n, runOf b n with
  | some x, some p =>
    let b' := passTo b (x.since + shadowNs b)
    match x.stage with
    | .runs => if x.shadow.isNone then (b', [.settle n]) else act b
    | .arbitrate =>
      if x.third.isNone then
        match x.shadow.bind (runOf b) with
        | some q => unresolved b' n x p q none false
        | none => act b
      else act b
    | .capture _ => act b
  | _, _ => act b

/-- SHADOW_START_TIMEOUT. -/
def execShadowStartTimeout (run : Nat) (s : State) : Host.Outcome State Fault Refusal :=
  liftRA (fun b => shadowTimeout b run) s

/-- ARBITRATION_START: a third run, first in the shadow partition and then in the primary's, on clusters of neither run
(R353). It counts with the replays. -/
def arbitrationStart (b : Block) (n : Nat) : Act :=
  match fmGet? b.rel.samples n, runOf b n with
  | some x, some r =>
    if decide (x.stage = .arbitrate) && x.third.isNone && decide (b.tide.clock ≤ x.since + shadowNs b) then
      match itemOf b r.tag with
      | none => act b
      | some i =>
        let no := r.clusters ++ (match x.shadow.bind (runOf b) with
          | some q => q.clusters
          | none => [])
        let try_ (part : Nat) : Option (Nat × List Nat) := (placeOther b part r i x.budget no).map (fun cs => (part, cs))
        match (try_ (shadowPart b r.part)).orElse (fun _ => try_ r.part) with
        | none => act b
        | some (part, cs) =>
          let y := startOther (cnt b cReplayRun) .arbitration r i part cs
          act (putSample y.2 n { x with third := some y.1 })
    else act b
  | _, _ => act b

/-- ARBITRATION_START. -/
def execArbitrationStart (run : Nat) (s : State) : Host.Outcome State Fault Refusal :=
  liftRA (fun b => arbitrationStart b run) s

/-! ## Corpus capture (R355) -/

/-- The corpus records that a new record of the ring overwrites. -/
def overlaps (k : Corpus) (base limit : Nat) : Bool := decide (k.base < base + limit) && decide (base < k.base + k.limit)

/-- The record of a capture: as many slots as the winning third run pushed at the disputed position, at the ring's next
place, which takes the room of a whole record (log entry 27). -/
def newCorpus (b : Block) (t : Run) (u rank pos : Nat) : Corpus :=
  let room := (fmGet t.digest (digestKey rank pos 3) 0).toNat + (fmGet t.digest (digestKey rank pos 4) 0).toNat
  let size := 2 ^ dget b 0x6010 5
  let limit := min (dget b 0x6010 9 * 1024) size
  let base := if b.rel.corpusPos + limit ≤ size then b.rel.corpusPos else 0
  { unit := u, base := base, room := min room ((limit - 64) / 64), used := 64 * (min room ((limit - 64) / 64) + 1), limit := limit,
    slots := [], cut := decide (room > (limit - 64) / 64) }

/-- CORPUS_CAPTURE: the heat runs once more on the winning third run's clusters, its memory writes redirected. -/
def corpusCapture (b : Block) (n : Nat) : Act :=
  match fmGet? b.rel.samples n, runOf b n with
  | some x, some r => match x.stage, x.captureRun, x.unit, x.third.bind (runOf b) with
    | .capture _, none, some (u, rank, pos), some t =>
      if startsOpen b && !t.clusters.any (fun c => b.comp.runs.any (fun y => decide (some y.1 ≠ x.third) && !y.2.released &&
          y.2.clusters.contains c)) && !applyBars b t.part then
        match itemOf b r.tag with
        | none => act b
        | some i =>
          let k := newCorpus b t u rank pos
          let b := { b with rel := { b.rel with corpusPos := k.base + k.limit,
                                                corpora := b.rel.corpora.filter (fun y => !overlaps y.2 k.base k.limit) } }
          let y := startOther b .capture r i t.part t.clusters
          act (putSample y.2 n { x with captureRun := some y.1, corpus := some k })
      else act b
    | _, _, _, _ => act b
  | _, _ => act b

/-- CORPUS_CAPTURE. -/
def execCorpusCapture (run : Nat) (s : State) : Host.Outcome State Fault Refusal := liftRA (fun b => corpusCapture b run) s

/-! ## The scan pattern set (R361; the places of its fields: log entry 28) -/

/-- A set that passes its checks: per kind (core, G, M, V, D, L) pattern offset, length, budget and signature. -/
def scanSet (bs : List Byte) : Option (List (Nat × Nat × Nat × Nat)) :=
  let f (off n : Nat) : Nat := bytesField bs off n
  let body := bs.take 12 ++ List.replicate 4 0 ++ bs.drop 16
  if bs.length ≥ 256 && decide (f 0 4 = 0x4E414353) && decide (f 8 4 = 6) && decide ((crc32c body).toNat = f 12 4) then
    some ((List.range 6).map (fun i => (f (64 + 32 * i) 4, f (68 + 32 * i) 4, f (72 + 32 * i) 4, f (80 + 32 * i) 8)))
  else none

/-- The row's own write. -/
def rowScanBase (a : DictAcc) (bytes : List Byte) : DictRow where
  mine := a.idx = 0x6040 && a.sub = 1
  cond := fun b =>
    stateIf (decide (a.value % 2 ^ 64 = 0) || (decide (bytes.length = dget b 0x6040 2) && (scanSet bytes).isSome))
  run := fun b =>
    act { b with rel := { b.rel with scan := if a.value % 2 ^ 64 = 0 then none else scanSet bytes } }

/-- SCAN_BASE (R361): the set is checked when its base is written; 0 disables tests. -/
def execScanBase (a : DictAcc) (bytes : List Byte) (s : State) : Host.Outcome State Fault Refusal :=
  dictRow (.scan bytes) a (rowScanBase a bytes) s

/-- The kind of a unit among the scan set's (R361): none for the expander. -/
def unitKind (u : Nat) : Option Nat :=
  match unitPos u with
  | 15 => some 0
  | 14 => none
  | p => match classOf p with
    | .g => some 1
    | .m => some 2
    | .v => some 3
    | .d => some 4
    | .l => some 5

/-- The kind record of a unit. -/
def scanOf (b : Block) (u : Nat) : Option (Nat × Nat × Nat × Nat) :=
  match b.rel.scan, unitKind u with
  | some l, some k => l[k]?
  | _, _ => none

/-! ## Structural tests (R358, R362) -/

/-- A unit that may be tested: a core or present engine, not of a withdrawn cluster. -/
def testable (b : Block) (u : Nat) : Bool :=
  decide (u < 1024) && (scanOf b u).isSome && !withdrawn b (unitCluster u) &&
    (decide (unitPos u = 15) || present b (unitCluster u) (unitPos u))

/-- When a unit's next test falls due. -/
def testAt (b : Block) (u : Nat) : Nat :=
  (unitOf b u).lastTest + dget b 0x6040 (if (unitOf b u).state = 1 then 4 else 3) * 1000000000

/-- TEST_DUE (R362). -/
def testDue (b : Block) (u : Nat) : Block :=
  let x := unitOf b u
  if testable b u && !x.due && x.testing.isNone then putUnit (passTo b (testAt b u)) u { x with due := true } else b

/-- TEST_DUE. -/
def execTestDue (unit : Nat) (s : State) : Host.Outcome State Fault Refusal := liftR (fun b => testDue b unit) s

/-- A unit number (R357). -/
def isUnit (u : Nat) : Bool := decide (u = unitXp) || (decide (u < 1024) && decide (unitPos u ≠ 14))

/-- The row's own write. -/
def rowTestCmd (a : DictAcc) : DictRow where
  mine := a.idx = 0x6040 && a.sub = 9
  cond := fun _ => if isUnit (a.value % 65536) then none else some (drRange, 6)
  run := fun b =>
    let u := a.value % 65536
    act (if testable b u && (unitOf b u).testing.isNone then putUnit b u { unitOf b u with due := true } else b)

/-- TEST_CMD (R362): the unit's test is due at once. -/
def execTestCmd (a : DictAcc) (s : State) : Host.Outcome State Fault Refusal :=
  dictRow .write a (rowTestCmd a) s

/-- The run under which a test holds its cluster: no heat's. -/
def testRun (b : Block) (p c : Nat) : Run where
  kind := .test
  tag := 2 ^ 32
  ctx := 0xFFFFFF
  part := p
  lc := false
  res := 0
  clusters := [c]
  start := stamp b
  from_ := b.tide.clock
  frame := b.tide.frame
  occ := b.tide.frame
  deadline := none
  due := 0
  late := false
  chunk := none
  bound := none
  partsEnded := []
  skips := false
  faulted := false
  abort := none
  attempts := 0
  digest := []
  results := []
  sample := none
  credits := []
  overrun := false
  released := false
  remote := false
  endedAt := none
  done := false

/-- STRUCTURAL_TEST_START: a due test takes its cluster as a BE heat of its budget, a heat start of its core (R436); an engine's pattern
goes out on the test channel, and a core is scanned within (R362, R452). -/
def testStart (b : Block) (u : Nat) : Block :=
  let x := unitOf b u
  let c := unitCluster u
  match scanOf b u, clusterPart b c with
  | some (_, len, budget, _), some p =>
    if x.due && x.testing.isNone && testable b u && beOpen b p && beFits b p c budget && !clusterHeld b c &&
        decide ((pwrOf b c).state ≥ 2) && !(starveClaims b p (fun _ => true) ++ lateClaims b).contains c then
      let k := coreOf b c
      let y := addRun (putCore b c { k with slwCnt := 0, batonCnt := 0, holdNs := 0, heatSeq := (k.heatSeq + 1) % 2 ^ 32 }) (testRun b p c)
      let b := putUnit (cnt y.2 cStructTest) u { x with testing := some y.1, due := false }
      if unitPos u = 15 then b else emit b (.scan c (unitPos u) (len / 8))
    else b
  | _, _ => b

/-- STRUCTURAL_TEST_START. -/
def execStructuralTestStart (unit : Nat) (s : State) : Host.Outcome State Fault Refusal := liftR (fun b => testStart b unit) s

/-- A test is over: its cluster is free, and a scanned core's data window is cleared (R147, R362). -/
def testOver (b : Block) (u n : Nat) : Act :=
  let c := unitCluster u
  let b := putUnit b u { unitOf b u with testing := none, lastTest := b.tide.clock }
  let b := if unitPos u = 15 then putCore b c { coreOf b c with data := [], lastCtx := none } else b
  lateStart (noteUnused { b with comp := { b.comp with runs := fmErase b.comp.runs n } } c)

/-- A structural test has failed: the unit is Quarantined (R358). -/
def testFail (b : Block) (u n : Nat) (sig expected : Nat) : Act :=
  let x := unitOf b u
  -- the record carries the state after the event
  let b := histRec (putUnit (cnt b cStructFail) u { x with state := 2 }) htTestFail hcPending u none 0 sig expected
  andThen (setUnit (putUnit b u x) u 2 hcPermanent none) (fun b => testOver b u n)

/-! ## Corpus tests (R356) -/

/-- A rebased slot: a scratchpad operand is read from its place in the staging area, or written behind the inputs; a memory operand is
read from the packed copy that the record holds, or written into the sink. -/
def rebaseSlot (e : PushEnt) (stage : Nat) (reads : List (Nat × Nat)) : BitVec 256 :=
  [0, 1, 2].foldl (fun s i =>
    let d := gDesc s i
    if ((roles e.slot).getD i none).isNone then s
    else if dMem d then
      if (reads.any (fun r => decide (r.1 = i))) then
        setDesc s i (descWord 0 (dSize d) ((rowBytes (dType d) (dSize d)).getD 0) (dType d) ||| memBit ||| (d &&& (1#64 <<< 61)))
      else s
    else
      let row := (rowBytes (dType d) (dSize d)).getD 0
      setDesc s i (descWord ((reads.find? (fun r => decide (r.1 = i))).elim stage Prod.snd) (dSize d) row (dType d) |||
        (d &&& (1#64 <<< 61)))) e.slot

/-- The batons of one captured slot: its inputs into the staging area, then the slot itself, its operands rebased. A
scratchpad operand is loaded, a memory operand is read from the copy; what is written goes behind the inputs, or into the
sink of the unit's partition. -/
def corpusBatons (b : Block) (u : Nat) (k : Corpus) (s : CapSlot) : List PushEnt :=
  let c := unitCluster u
  let at_ := dget b 0x6010 4 + k.base
  let stage := dget b 0x6010 8
  let ops := readOperands s.ent ++ indexOperand s.ent
  let places := layOut stage ops
  let loads := (places.zip s.offs).filterMap (fun y =>
    let o := y.1.1
    let row := (rowBytes (dType o.1) (dSize o.1)).getD 0
    if o.2.2 then none
    else (applyD b c).map (fun pos => copyEnt pos (descWord 0 (dSize o.1) row (dType o.1) ||| memBit)
      (descWord y.1.2 (dSize o.1) row (dType o.1)) o.2.1 (.one (at_ + y.2))))
  let reads := (readIdx s.ent).zip (places.map Prod.snd)
  let behind := stage + (ops.map (fun o => roundUp (operandBytes o) 64)).sum
  let memOff := ((ops.zip s.offs).find? (fun y => y.1.2.2)).map Prod.snd
  let sink := match clusterPart b c with
    | some p => shadowSink b p
    | none => 0
  let g : Nat := match memOff with
    | some off => at_ + off
    | none => sink
  let mem := [0, 1, 2].any (fun i => dMem (gDesc s.ent.slot i))
  let idxAt := ((places.drop (readOperands s.ent).length).head?).elim 0 Prod.snd
  loads ++ [{ s.ent with slot := rebaseSlot s.ent behind reads, gA := if mem then BitVec.ofNat 64 g else 0, gB := 0, split := 0,
                         idxAddr := if s.ent.idxLimit = 0 then 0 else idxAt, idxFirst := 0, charge := [] }]

/-- The first captured slot whose contribution differs, given the status and `WRITE_CRC` of each. -/
def corpusMiss (k : Corpus) (reports : List (Nat × BitVec 32)) : Option Nat :=
  (k.slots.zipIdx).findSome? (fun y => match reports[y.2]? with
    | some (st, w) => if resultCrc y.1.xp y.1.ent.num st w = y.1.result then none else some y.2
    | none => some y.2)

/-- The corpora of a unit, by sequence number. -/
def corporaOf (b : Block) (u : Nat) : List (Nat × Corpus) := b.rel.corpora.filter (fun x => decide (x.2.unit = u))

/-- The statuses that the batons of a corpus test end with are counted (R189, R198); a fault among them shows in its record's
contributions and is that record's one event (log entry 67). -/
def corpusStatus (b : Block) (st : Nat) : Block :=
  let b := if st = 1 then cnt b cIndexRange else if st ≥ 2 then cnt b cEngineFault else b
  if st = 3 then cnt b cBatonProtocol else b

/-- The corpus tests of a unit: their batons go out and end, and each record whose contributions differ is an event (R356, R358). -/
def corpusTests (b : Block) (u : Nat) (reports : List (List (Nat × BitVec 32))) : Bool × Act :=
  let ks := corporaOf b u
  let b := ks.foldl (fun b k => k.2.slots.foldl (fun b s => (corpusBatons b u k.2 s).foldl (fun b e =>
    emit b (.test (unitCluster u) e)) b) b) b
  let b := ((reports.take ks.length).flatten).foldl (fun b x => corpusStatus b x.1) b
  let bad := (ks.zipIdx).filterMap (fun y => (corpusMiss y.1.2 (reports.getD y.2 [])).map (fun i => (y.1.1, i)))
  (bad.isEmpty, actEach b bad (fun b y => unitEvent b u htCorpusFail none 0 y.1 y.2))

/-- TEST_SIGNATURE_RETURN (R358, R362): a signature that differs fails; one that agrees passes, and the corpus tests follow. A
test whose corpora pass too counts toward clearing a Suspect unit. -/
def testReturn (b : Block) (u : Nat) (sig : Nat) (reports : List (List (Nat × BitVec 32))) : Act :=
  match (unitOf b u).testing, scanOf b u with
  | some n, some (_, _, _, expected) =>
    if sig = expected then
      let b := histRec b htTestPass hcPending u none 0 sig 0
      let r := corpusTests b u reports
      andThen (andThen r.2 (fun b =>
          let x := unitOf b u
          act (if r.1 then unitClear (putUnit b u { x with passes := x.passes + 1, structOk := true }) u else b)))
        (fun b => testOver b u n)
    else testFail b u n sig expected
  | some n, none => testOver b u n
  | _, _ => act b

/-- TEST_SIGNATURE_RETURN. -/
def execTestSignatureReturn (unit : Nat) (sig : Word) (corpus : List (List (Nat × BitVec 32))) (s : State) :
    Host.Outcome State Fault Refusal := liftRA (fun b => testReturn b unit sig.toNat corpus) s

/-- TEST_BUDGET_EXPIRY: the test port has not answered within `TEST_BUDGET_NS`, and the test fails (R362). -/
def testExpiry (b : Block) (u : Nat) : Act :=
  match (unitOf b u).testing, scanOf b u with
  | some n, some (_, _, budget, expected) => match runOf b n with
    | some r => testFail (passTo b (r.from_ + budget)) u n 0 expected
    | none => act b
  | _, _ => act b

/-- TEST_BUDGET_EXPIRY. -/
def execTestBudgetExpiry (unit : Nat) (s : State) : Host.Outcome State Fault Refusal := liftRA (fun b => testExpiry b unit) s

/-! ## Unit states (R360) -/

/-- The entry that holds a unit's state. -/
def unitEntry (u : Nat) : Nat × Nat :=
  if u = unitXp then (0x6140, 1) else (0x6100 + unitCluster u, unitPos u + (if unitPos u = 15 then 0 else 1))

/-- The unit that an entry is `UNIT_STATE` of. -/
def entryUnit (idx sub : Nat) : Nat :=
  if idx = 0x6140 then unitXp else unitNo (idx - 0x6100) (if sub = 15 then 15 else sub - 1)

/-- The row's own write. -/
def rowUnitState (a : DictAcc) (unit : Nat) : DictRow where
  mine := isUnit unit && decide ((a.idx, a.sub) = unitEntry unit)
  cond := fun _ => none
  run := fun b => setUnit b unit (a.value % 256) hcOperator none

/-- UNIT_STATE (R360). -/
def execUnitState (a : DictAcc) (unit : Nat) (s : State) : Host.Outcome State Fault Refusal :=
  dictRow .write a (rowUnitState a unit) s

end Sys2Proof.Machine
end

