-- ==== Sys2Proof/Machine/Dictionary.lean ====
section
/-! DEFINITION. Dictionary reads, descriptions and writes, admin queue enables, boot loading, calibration, MCTP control messages
and NOTIFY (R32, R96, R382, R404 to R414, R420, R454, R462). -/

namespace Sys2Proof.Machine

open Sys2Proof

/-! ## READ and INFO (R406, R407, R411, R412) -/

/-- Steps 2 to 4 and 7 for a read or a description. -/
def readCheck (b : Block) (a : DictAcc) (value : Bool) : Option (Nat × Nat) :=
  match dictDesc a.idx a.sub with
  | none => some (drNoEntry, 2)
  | some _ =>
    if !ready b && decide (a.idx ≠ 0xA000) then some (drUnavailable, 3)
    else if !mayRead b a then some (drNoRights, 4)
    else if value && decide (a.idx = 0x9000 ∧ a.sub = 3) && (auditHeld b).isNone then some (drState, 7)
    else none

/-- READ: the value of one instant, in the response and in the data registers. -/
def dictReadOp (b : Block) (a : DictAcc) : Block :=
  match readCheck b a true, dictDesc a.idx a.sub with
  | some e, _ => dictRefuse b a false e.1 e.2
  | none, some d =>
    let v := dictValue b a.idx a.sub % 2 ^ (8 * d.bytes)
    winDone (dictReply b a drOk (leBytes d.bytes v)) a v (winStatus drOk d.type 0 false false d.bytes)
  | none, none => b

/-- INFO: type, access, flags, length and default. -/
def dictInfoOp (b : Block) (a : DictAcc) : Block :=
  match readCheck b a false, dictDesc a.idx a.sub with
  | some e, _ => dictRefuse b a false e.1 e.2
  | none, some d =>
    let cov := isCovered d a.idx a.sub
    winDone (emit b (.info a.path a.org a.tag d.type d.access (packFields [(0, 1, b2n d.cal), (1, 1, b2n cov)]) d.bytes d.dflt)) a
      d.dflt (winStatus drOk d.type d.access d.cal cov d.bytes)
  | none, none => b

/-- DICT_READ. -/
def execDictRead (a : DictAcc) (s : State) : Host.Outcome State Fault Refusal :=
  liftA (fun b => dictTurn b .read a (fun b => act (dictReadOp b a))) s

/-- DICT_INFO. -/
def execDictInfo (a : DictAcc) (s : State) : Host.Outcome State Fault Refusal :=
  liftA (fun b => dictTurn b .info a (fun b => act (dictInfoOp b a))) s

/-- Step 1 of R407 fails, without an audit record. -/
def dictMalformed (b : Block) (a : DictAcc) : Block :=
  winDone (dictReply b a drBadRequest []) a a.value (winStatus drBadRequest 0 0 false false 0)

/-- DICT_BAD_REQUEST: answered at once (R411), on an MCTP path after the answers to the requests before it (R413). -/
def dictBad (b : Block) (a : DictAcc) : Block :=
  if !reachesDict a || decide (b.mic.selftest = 0) then b
  else if winBusy b a then cnt (noted b a) cAccessDrop
  else if pathOps b a ≠ 0 then dictQueue (noted b a) .bad a
  else dictMalformed (noted b a) a

/-- DICT_BAD_REQUEST (R407, R411, R412). -/
def execDictBadRequest (a : DictAcc) (s : State) : Host.Outcome State Fault Refusal := lift (fun b => dictBad b a) s

/-! ## Entries without a row of their own -/

/-- A write of the entry has a row of its own. -/
def ownRow (a : DictAcc) : Bool :=
  let v := a.value % 256
  let i := a.idx
  let k := a.sub
  (i = 0x2010 && k = 1) || (decide (0x2040 ≤ i) && decide (i ≤ 0x2043) && k = 8) || (i = 0x3040 && k = 1)
    || (i = 0x3041 && k = 3 && decide (1 ≤ v) && decide (v ≤ 3)) || (i = 0x4000 && k = 3)
    || (i = 0x4010 && decide (1 ≤ k) && decide (k ≤ 3))
    || (decide (0x4100 ≤ i) && decide (i ≤ 0x411F) && k = 4 && (v = 1 || v = 2))
    || (i = 0x5000 && (k = 7 || (k = 3 && v = 1)))
    || (decide (0x5010 ≤ i) && decide (i ≤ 0x5015) && (k = 4 || (k = 7 && (v = 1 || v = 2))))
    || (i = 0x6000 && (k = 0x0A || (k = 9 && v = 1))) || (i = 0x6040 && (k = 1 || k = 9))
    || (decide (0x6100 ≤ i) && decide (i ≤ 0x613F) && decide (1 ≤ k) && decide (k ≤ 15)) || (i = 0x6140 && k = 1)
    || (i = 0xA000 && (k = 3 || (k = 6 && v = 1))) || calEntries.contains (i, k)

/-- The admin queue of a port is enabled. -/
def aqOn (b : Block) (p : Nat) : Bool := (aqOf b p).any (fun a => a.enabled)

/-- The trace ring at a base would overlap an existing partition (R443). -/
def traceOverlaps (b : Block) (base : Nat) : Bool :=
  let len := 64 * 2 ^ dget b 0x8000 2
  isLocal b base && b.obj.parts.any (fun p => p.2.ranges.any (fun r =>
    decide (r.1 * 0x200000 < goff base + len) && decide (goff base < (r.1 + r.2) * 0x200000)))

/-- The condition of a value that must lie in the range that another entry bounds (log entry 35). -/
def rangeIf (ok : Bool) : Option (Nat × Nat) := if ok then none else some (drRange, 6)

/-- The conditions of an entry that the table of ranges does not hold (R95, R245, R246, R259, R273, R347, R382, R385, R417, R421,
R443, R462). -/
def entryCond (b : Block) (i k v : Nat) : Option (Nat × Nat) :=
  if i = 0x1010 ∨ i = 0x1011 then stateIf (!b.adm.everEnabled)
  else if i = 0x2000 then stateIf (!aqOn b (k - 0x11))
  else if 0x2040 ≤ i ∧ i ≤ 0x2043 then stateIf (!aqOn b (i - 0x2040))
  else if i = 0x3030 ∧ k = 3 then rangeIf (decide (v < dget b 0x3030 2))
  else if 0x3100 ≤ i ∧ i ≤ 0x311F ∧ 0x11 ≤ k ∧ k ≤ 0x1E then rangeIf (decide (dget b i (k + 0x10) < v))
  else if 0x3100 ≤ i ∧ i ≤ 0x311F ∧ 0x21 ≤ k then rangeIf (decide (v < dget b i (k - 0x10)))
  else if i = 0x4020 ∧ k = 1 then rangeIf (decide (dget b 0x4020 2 ≤ v))
  else if 0x4100 ≤ i ∧ i ≤ 0x411F then stateIf (decide ((sheetOf b (i - 0x4100)).status ≠ 1))
  else if 0x6020 ≤ i ∧ i ≤ 0x603F ∧ k = 3 then rangeIf (decide (v ≠ i - 0x6020))
  else if 0x6020 ≤ i ∧ i ≤ 0x603F ∧ k = 4 then rangeIf (decide (v = 0) || inPart b (dget b i 3) v 0x400000)
  else if i = 0x7000 ∧ k = 1 then rangeIf (decide (dget b 0x7000 2 + 30 ≤ v))
  else if i = 0x7000 ∧ k = 2 then rangeIf (decide (v + 30 ≤ dget b 0x7000 1))
  else if i = 0x8000 ∧ k = 1 then stateIf (decide (v = 0) || !traceOverlaps b v)
  else if i = 0xA000 ∧ k = 6 then stateIf (decide (b.mic.selftest = 1) && !ready b && decide (b.mic.status ≠ 1))
  else none

/-- Before a write of a rate or a size of a bucket, and after it, the bucket's level is brought up to date: a new rate applies from
here on, and a lower `BURST` clips (R245, R246). -/
def settleBucket (b : Block) (i k : Nat) : Block :=
  if 0x3100 ≤ i ∧ i ≤ 0x311F ∧ 1 ≤ k ∧ k ≤ 0x0E then bktTake b (i - 0x3100) (k - 1) 0
  else if 0x3100 ≤ i ∧ i ≤ 0x311F ∧ 0x11 ≤ k ∧ k ≤ 0x1E then bktTake b (i - 0x3100) (k - 0x11) 0
  else if i = 0x3030 ∧ k ≤ 2 then { b with cap := { b.cap with level := capLevel b, at_ := b.tide.clock } }
  else b

/-- A new quota applies to every partition at once: one that it makes full, or no longer full, is noted (R128, R143). -/
def settleQuota (b : Block) (i k : Nat) : Block :=
  if i = 0x2030 ∧ k = 3 then (fmKeys b.obj.parts).foldl (fun b p => quotaNote b p false) b else b

/-- A write of `TEST_CMD` that starts and ends no test releases a held port all the same (R308). -/
def settleTestCmd (b : Block) (i k : Nat) : Block :=
  if 0x5010 ≤ i ∧ i ≤ 0x5015 ∧ k = 7 then testRelease b (i - 0x5010) else b

/-- A reserved `CTL_CMD` is refused and sets `CTL_RESULT` (R294); which of the refusals it names is not stated: a free value (log entry
73). -/
def ctlReserved (b : Block) (a : DictAcc) : Block :=
  if a.idx = 0x3041 && a.sub = 3 && decide ((writeCheck b a).map Prod.fst = some drRange) then
    ctlResult b (1 + Config.ctlRefused (a.value % 256) % 4)
  else b

/-- A write of an entry under R407 and its owner's conditions. -/
def dictWriteOp (b : Block) (a : DictAcc) : Act :=
  let v := match dictDesc a.idx a.sub with
    | some d => writeValue a d
    | none => 0
  match writeCheck b a, entryCond b a.idx a.sub v with
  | none, none => dictWrite (settleBucket b a.idx a.sub) a (fun _ => none)
      (fun b => act (settleTestCmd (settleQuota (settleBucket b a.idx a.sub) a.idx a.sub) a.idx a.sub))
  | _, _ => dictWrite (ctlReserved b a) a (fun b => entryCond b a.idx a.sub v) act

/-- DICT_WRITE: an entry without a row of its own. -/
def execDictWrite (a : DictAcc) (s : State) : Host.Outcome State Fault Refusal :=
  liftA (fun b => if ownRow a then act b else dictTurn b .write a (fun b => dictWriteOp b a)) s

/-- CAL_WRITE: a calibration entry (R420, R421). -/
def execCalWrite (a : DictAcc) (s : State) : Host.Outcome State Fault Refusal :=
  liftA (fun b => if calEntries.contains (a.idx, a.sub) then dictTurn b .write a (fun b => dictWriteOp b a) else act b) s

/-- The row's own write. -/
def rowContextTableBase (a : DictAcc) : DictRow where
  mine := a.idx = 0x2010 && a.sub = 1
  cond := fun b => stateIf b.obj.ctxs.isEmpty
  run := act

/-- CONTEXT_TABLE_BASE: accepted only while no context exists (R32). -/
def execContextTableBase (a : DictAcc) (s : State) : Host.Outcome State Fault Refusal :=
  dictRow .write a (rowContextTableBase a) s

/-! ## Admin queues (R96, R463) -/

/-- The admin SQ of a port as its entries configure it, with the `PRODUCER` that was read. -/
def aqSq (b : Block) (p : Nat) (producer : BitVec 32) : Sq where
  ownerPort := p
  ownerFn := 0
  hostPort := p
  cq := 0
  home := 0
  homeGone := true
  rung := false
  probe := []
  part := 0
  high := false
  pollUs := 0
  nextPoll := 0
  log2 := dget b (0x2040 + p) 5
  ringHost := true
  qcbHost := true
  ringAddr := dget b (0x2040 + p) 1
  qcbAddr := dget b (0x2040 + p) 3
  consumer := producer
  producer := producer
  fetchPtr := producer
  gen := 0
  st := .active
  rejected := 0
  lastEvent := stamp b
  rd := .idle
  fetches := []
  cache := []
  sinceWb := 0
  ordinal := producer.toNat
  batches := []
  dying := false
  abortAll := false
  holdReq := false
  pinHeld := false
  bwHeld := false

/-- The admin CQ of a port, with the completions that it still holds. -/
def aqCq (b : Block) (p : Nat) (held : List AdminCompl) : Cq where
  ownerPort := p
  ownerFn := 0
  hostPort := p
  log2 := dget b (0x2040 + p) 6
  ringHost := true
  qcbHost := true
  ringAddr := dget b (0x2040 + p) 2
  qcbAddr := dget b (0x2040 + p) 4
  producer := 0
  consumer := 0
  full := false
  fullEvents := 0
  gen := 0
  rd := .idle
  lastRead := 0
  bad := false
  hold := []
  aHold := held
  unreported := 0
  oldest := none
  vector := dget b (0x2040 + p) 7
  count := 0
  timeUs := 0
  lcImm := false
  intEn := true

/-- An admin queue pair replaced. -/
def putAq (b : Block) (p : Nat) (a : Aq) : Block := { b with q := { b.q with aqs := fmSet b.q.aqs p a } }

/-- An admin queue pair that has never been enabled. -/
def aqFresh (b : Block) (p : Nat) : Aq := { enabled := false, enabling := none, sq := aqSq b p 0, cq := aqCq b p [] }

/-- A write of `AQ_ENABLE`: 0 stops the queue, 1 starts the reads that its answer waits for, its window reading `BUSY`. -/
def aqEnableWrite (b : Block) (a : DictAcc) (p : Nat) : Block :=
  match writeCheck b a, dictDesc a.idx a.sub with
  | some e, _ => dictRefuse b a true e.1 e.2
  | none, none => b
  | none, some d =>
    let q := (aqOf b p).getD (aqFresh b p)
    if a.value % 256 = 0 then
      let b := dictStore b a d
      if q.enabled then putAq b p { q with enabled := false } else b
    else if q.enabled || !b.pwr.calLoaded || !b.rcv.genWritten || decide (ownerMode b p = 0) then dictRefuse b a true drState 7
    else
      let qcb (b : Block) (k : Nat) : Block := hostAcc b true p 0 (dget b (0x2040 + p) k) 4 false
      winDone (putAq (qcb (qcb b 3) 4) p { q with enabling := some a }) a a.value 1

/-- AQ_ENABLE. -/
def execAqEnable (a : DictAcc) (port : Nat) (s : State) : Host.Outcome State Fault Refusal :=
  lift (fun b => if port < 4 ∧ a.idx = 0x2040 + port ∧ a.sub = 8 then (dictTurn b .write a (fun b => act (aqEnableWrite b a port))).1 else b) s

/-- The end of an operation through a window that read `BUSY` changes its status, and after a READ or INFO its data: its other registers
keep what was written since (R411). -/
def keepWindow (was now : Block) (a : DictAcc) (data : Bool) : Block :=
  match isWindow a.path, fmGet? was.regs.wins (winKey a.path a.org), fmGet? now.regs.wins (winKey a.path a.org) with
  | true, some w, some x =>
    let w := { w with status := x.status, data := if data && decide (nfield x.status 8 8 = drOk) then x.data else w.data }
    { now with regs := { now.regs with wins := fmSet now.regs.wins (winKey a.path a.org) w } }
  | _, _, _ => now

/-- The queue pair enabled: both halves written, then what the CQ still holds (R96). Fetch requests of the time before it was stopped
are given up. -/
def aqStart (b : Block) (p : Nat) (producer : BitVec 32) : Block :=
  let held := ((aqOf b p).map (fun a => a.cq.aHold)).getD []
  let b := match aqOf b p with
    | some a => giveUpFetches b (.aq p) a.sq true
    | none => b
  let b := putAq b p { enabled := true, enabling := none, sq := aqSq b p producer, cq := aqCq b p held }
  let b := cqWriteback (sqWriteback b (.aq p)) (.aq p)
  adminFlush { b with adm := { b.adm with everEnabled := true } } p

/-- AQ_ENABLE_READ_COMPLETE: the queue is enabled, or the write refused. -/
def aqReadDone (b : Block) (p : Nat) (ok : Bool) (producer consumer : BitVec 32) : Block :=
  match aqOf b p with
  | none => b
  | some q => match q.enabling with
    | none => b
    | some a =>
      let b0 := putAq b p { q with enabling := none }
      if ok && decide (consumer = 0) then
        match dictDesc a.idx a.sub with
        | some d => keepWindow b (aqStart (dictStore b0 a d) p producer) a false
        | none => b0
      else keepWindow b (dictRefuse b0 a true drState 7) a false

/-! ## Boot (R382, R462) -/

/-- `LOAD_STATUS` changes: SEC_EVENT pulses (R454). -/
def loadStatus (b : Block) (st : Nat) : Block := emit { b with mic := { b.mic with status := st } } .secEvent

/-- The row's own write. -/
def rowBootLoad (a : DictAcc) : DictRow where
  mine := a.idx = 0xA000 && a.sub = 6 && a.value % 256 = 1
  cond := fun b => entryCond b 0xA000 6 1
  run := fun b => act (loadStatus b (if isLocal b (dget b 0xA000 4) then 1 else 5))

/-- BOOT_LOAD: BOOT_CMD LOAD, refused until the self-test has passed, during a load and once READY. The image lies in local device
memory, which alone Scehione's own accesses reach (R468): at another chip's address the read fails. -/
def execBootLoad (a : DictAcc) (s : State) : Host.Outcome State Fault Refusal :=
  dictRow .write a (rowBootLoad a) s

/-- The status code that a failed check gives. -/
def bootFailure (e : AdminErr) : Nat := if e.2 = dtSignature then 4 else 3

/-- BOOT_LOAD_COMPLETE: the image as read, or a read that failed. -/
def bootDone (b : Block) (bytes : Option (List Byte)) : Block :=
  if b.mic.status = 1 then
    match bytes with
    | none => loadStatus b 5
    | some bs =>
      if bs.length ≠ dget b 0xA000 5 then loadStatus b 5
      else if !imgHasVendor bs then loadStatus b 3
      else match imageCheck b bs bs.length true true with
        | some e => loadStatus b (bootFailure e)
        | none => loadStatus (imageInstall b bs) 2
  else b

/-- BOOT_LOAD_COMPLETE. -/
def execBootLoadComplete (bytes : Option (List Byte)) (s : State) : Host.Outcome State Fault Refusal := lift (fun b => bootDone b bytes) s

/-- The row's own write. -/
def rowCustomerKeyHash (a : DictAcc) : DictRow where
  mine := a.idx = 0xA000 && a.sub = 3
  cond := fun b => stateIf b.mic.keyHash.isNone
  run := fun b => act { b with mic := { b.mic with keyHash := some (a.value % 2 ^ 384) } }

/-- CUSTOMER_KEY_HASH: written once after each chip reset. -/
def execCustomerKeyHash (a : DictAcc) (s : State) : Host.Outcome State Fault Refusal :=
  dictRow .write a (rowCustomerKeyHash a) s

/-! ## Operations that waited for the arbiter (R408, R411, R413) -/

/-- The rows whose own write an access can be, but for the enables of admin queues. -/
def dictRows (op : DictOp) (a : DictAcc) : List DictRow :=
  let port := a.idx - 0x5010
  let part := a.idx - 0x4100
  [rowContextTableBase a, rowBootLoad a, rowCustomerKeyHash a, rowLinkOverride a port, rowChipNumber a, rowLinkTestStart a port,
   rowLinkTestStop a port, rowPlanInstall a, rowRecoveryStart a, rowResetGeneration a, rowTestCmd a, rowUnitState a (entryUnit a.idx a.sub),
   rowSheetInstall a part, rowSheetRemove a part, rowTblHold a, rowTblRelease a, rowLiveRegistryBase a, rowFrameLengthNs a,
   rowFrameChangeAt a, rowFrameOriginNs a, rowTimeSetNs a]
  ++ (match op with
      | .scan bytes => [rowScanBase a bytes]
      | .resync reg dir => [rowResync a reg dir]
      | _ => [])

/-- An operation that waited is performed. -/
def dictPerform (b : Block) (op : DictOp) (a : DictAcc) : Act :=
  let write : Act :=
    if 0x2040 ≤ a.idx && a.idx ≤ 0x2043 && a.sub = 8 then act (aqEnableWrite b a (a.idx - 0x2040))
    else match (dictRows op a).find? (fun r => r.mine) with
      | some r => rowWrite b a r
      | none => dictWriteOp b a
  match op with
  | .read => act (dictReadOp b a)
  | .info => act (dictInfoOp b a)
  | .bad => act (dictMalformed b a)
  | .write => write
  | .scan _ => write
  | .resync _ _ => write

/-- The operations that waited are performed in the order in which they came, until one of them keeps the arbiter itself. -/
def dictDrain : Nat → Block → Act
  | 0, b => act b
  | n + 1, b => match b.regs.dictQ with
    | [] => act b
    | w :: rest =>
      if dictBusy b then act b
      else
        let b := { b with regs := { b.regs with dictQ := rest } }
        let done := dictPerform b w.op w.acc
        andThen (keepWindow b done.1 w.acc (decide (w.op = .read) || decide (w.op = .info)), done.2) (dictDrain n)

/-- AQ_ENABLE_READ_COMPLETE (R96), and the operations that waited for its end. -/
def execAqEnableReadComplete (port : Nat) (ok : Bool) (producer consumer : BitVec 32) (s : State) :
    Host.Outcome State Fault Refusal :=
  liftA (fun b =>
    let b := retire (aqReadDone b port ok producer consumer) [.enable port]
    dictDrain b.regs.dictQ.length b) s

/-! ## MCTP control and NOTIFY (R412, R414, R454; the contents of the answers: log entry 34) -/

/-- The path carries MCTP. -/
def mctpPath (p : Path) : Bool :=
  match p with
  | .i3c => true
  | .vdm => true
  | _ => false

/-- An answer to a control message, from the end of the self-test (R461). -/
def mctpAnswer (b : Block) (path : Path) (cmd code : Nat) (data : List Nat) : Block :=
  if mctpPath path && decide (b.mic.selftest ≠ 0) then emit b (.mctp path cmd code data) else b

/-- The endpoint ID of a path. -/
def eidOf (b : Block) (path : Path) : Nat := fmGet b.mgt.eids (pathCode path) 0

/-- SET_ENDPOINT_ID: operations 0 and 1 set the ID, which must be neither null, reserved nor broadcast. -/
def setEid (b : Block) (path : Path) (op eid : Nat) : Block :=
  if mctpPath path && decide (b.mic.selftest ≠ 0) && decide (op ≤ 1) && decide (8 ≤ eid) && decide (eid ≤ 0xFE) then
    mctpAnswer { b with mgt := { b.mgt with eids := fmSet b.mgt.eids (pathCode path) eid } } path 1 0 [0, eid, 0]
  else mctpAnswer b path 1 2 []

/-- SET_ENDPOINT_ID. -/
def execSetEndpointId (path : Path) (op eid : Nat) (s : State) : Host.Outcome State Fault Refusal := lift (fun b => setEid b path op eid) s

/-- GET_ENDPOINT_ID. -/
def execGetEndpointId (path : Path) (s : State) : Host.Outcome State Fault Refusal :=
  lift (fun b => mctpAnswer b path 2 0 [eidOf b path, 0, 0]) s

/-- GET_MCTP_VERSION_SUPPORT: the base, control messages and type 0x7F. -/
def execGetMctpVersionSupport (path : Path) (type : Nat) (s : State) : Host.Outcome State Fault Refusal :=
  lift (fun b => if type = 0xFF ∨ type = 0 ∨ type = 0x7F then mctpAnswer b path 4 0 (Config.mctpVersions type)
    else mctpAnswer b path 4 0x80 []) s

/-- GET_MESSAGE_TYPE_SUPPORT: one type, 0x7F. -/
def execGetMessageTypeSupport (path : Path) (s : State) : Host.Outcome State Fault Refusal :=
  lift (fun b => mctpAnswer b path 5 0 [1, 0x7F]) s

/-- ERROR_UNSUPPORTED_CMD: any control command but the four that are answered. -/
def execErrorUnsupportedCmd (path : Path) (cmd : Nat) (s : State) : Host.Outcome State Fault Refusal :=
  lift (fun b => if cmd = 1 ∨ cmd = 2 ∨ cmd = 4 ∨ cmd = 5 then b else mctpAnswer b path cmd 5 []) s

/-- IN_BAND_INTERRUPT_READ: the oldest NOTIFY is sent; the interrupt stays raised while another waits. -/
def notifySend (b : Block) : Block :=
  match b.mgt.notify with
  | [] => b
  | (k, q) :: rest => emit { b with mgt := { b.mgt with notify := rest } } (.notify k q)

/-- IN_BAND_INTERRUPT_READ (R414, R454). -/
def execInBandInterruptRead (s : State) : Host.Outcome State Fault Refusal := lift notifySend s

end Sys2Proof.Machine
end

