-- ==== Sys2Proof/Machine/Ports.lean ====
section
/-! DEFINITION. Chip reset, its release and the self-test, and the bypass outputs (R319, R338, R339, R456 to R462). -/

namespace Sys2Proof.Machine

open Sys2Proof

/-- The block after an assertion of CHIP_RST_N: nothing that it held remains. Memory is not the block's and keeps its contents
(log entry 37), and what was driven before stays driven in the record of the outputs. -/
def Block.afterReset (b : Block) : Block :=
  { Block.fresh with ports := b.ports.map (fun x => (x.1, { CPort.fresh with scratch := x.2.scratch })), mem := b.mem, out := b.out }

/-- CHIP_RESET_ASSERT: at once, without any clock (R458, R461). -/
def execChipResetAssert (s : State) : Host.Outcome State Fault Refusal :=
  .next { s with pin := Pins.inReset, blk := s.blk.afterReset }

/-- A held release takes effect once the assertion has lasted 1 µs and the supply is above its reset level: the fuse vector is
sampled, and the self-test runs (R457, R458, R462). -/
def tryRelease (s : State) : State :=
  match s.pin.release with
  | some f =>
    if s.pin.long && !s.pin.low then
      let b := { s.blk with fuse := f }
      { s with pin := { s.pin with rst := false, release := none }, blk := if f = 0 then b else tableChanged b }
    else s
  | none => s

/-- CHIP_RESET_RELEASE, with the fuse vector and the core supply in mV. -/
def execChipResetRelease (fuses : BitVec 896) (supplyMv : Nat) (s : State) : Host.Outcome State Fault Refusal :=
  .next (if s.pin.rst && s.pin.release.isNone then
      tryRelease { s with pin := { s.pin with release := some fuses, low := decide (supplyMv < resetMv s.blk) } }
    else s)

/-- SUPPLY_ABOVE_RESET_LEVEL: the release held for the supply is honoured. -/
def execSupplyAboveResetLevel (mv : Nat) (s : State) : Host.Outcome State Fault Refusal :=
  .next (if s.pin.rst && s.pin.release.isSome && s.pin.low && decide (resetMv s.blk < mv) then
      tryRelease { s with pin := { s.pin with low := false } }
    else s)

/-- RESET_ASSERTION_MINIMUM: 1 µs of LOSC since the assertion. -/
def execResetAssertionMinimum (s : State) : Host.Outcome State Fault Refusal :=
  .next (if s.pin.rst && !s.pin.long then tryRelease { s with pin := { s.pin with long := true } } else s)

/-- SELFTEST_END: PASS or FAIL; only a chip reset repeats the test (R462). -/
def execSelftestEnd (pass : Bool) (s : State) : Host.Outcome State Fault Refusal :=
  lift (fun b => if b.mic.selftest = 0 then { b with mic := { b.mic with selftest := if pass then 1 else 2 } } else b) s

/-- The ports of an axis that the plan uses. -/
def axisPorts (b : Block) (axis : Nat) : List Nat := [2 * axis, 2 * axis + 1].filter (fun p => decide (reachOf b p ≠ 0))

/-- A port has passed the plan check with an admitting outcome. -/
def passedCheck (b : Block) (p : Nat) : Bool := (linkOf b p).passed

/-- The bypass output of an axis may be driven (R319). -/
def mayDrive (b : Block) (axis : Nat) : Bool :=
  b.fab.plan.isSome && !(axisPorts b axis).isEmpty && (axisPorts b axis).all (passedCheck b)

/-- The bypass output of an axis, driven low. -/
def Pins.drive (p : Pins) (axis : Nat) : Pins :=
  if axis = 0 then { p with bypX := true } else if axis = 1 then { p with bypY := true } else if axis = 2 then { p with bypZ := true } else p

/-- BYPASS_DRIVE (R319, R460). -/
def execBypassDrive (axis : Nat) (s : State) : Host.Outcome State Fault Refusal :=
  .next (if alive s && decide (axis < 3) && mayDrive s.blk axis then { s with pin := s.pin.drive axis } else s)

end Sys2Proof.Machine
end

