-- ==== Sys2Proof/Machine/Receive.lean ====
section
/-! DEFINITION. Receiving Grizin messages: generations, order, gaps, the tree, delivery, and the commands for each message
(R312 to R316, R329). -/

namespace Sys2Proof.Machine

open Sys2Proof

/-! ## Delivery -/

/-- What a message does at its destination. -/
def deliverMsg (b : Block) (h : GzHdr) (m : GzMsg) : Act :=
  match m with
  | .fenceSignal a v ctx => onFenceSignal b h a v ctx
  | .fenceApplied seq _ => onFenceApplied b h seq
  | .fenceWatch a v => onFenceWatch b h a v
  | .fenceReached a v => onFenceReached b h a v
  | .fenceBusy a => onFenceBusy b h a
  | .fenceUnwatch a v => onFenceUnwatch b h a v
  | .announce a => act (onTimeAnnounce b h a)
  | .beacon t1 t2 => act (onTimeBeacon b h t1 t2)
  | .beaconReply t1 t2 t3 t4 => act (onTimeBeaconReply b t1 t2 t3 t4)
  | .lateFrame f c cause _ => act (onLateFrame b f c cause)
  | .lengthRequest len => act (onLengthRequest b len)
  | .tideLeave c rack cause => act (onTideLeave b c rack cause)
  | .tideJoin c => act (onTideJoin b c)
  | .tideJoinAccept f => act (onTideJoinAccept b f)
  | .updateData l add recs => act (onUpdateData b l add recs)
  | .epochSeal e => act (onEpochSeal b e)
  | .sourceSuspend l f => act (onSourceSuspend b l f)
  | .sourceResume l e f => act (onSourceResume b l e f)
  | .peerAbort c p n => peerAct b c p n
  | .linkState _ _ _ => act b
  | .linkIdent _ => act b
  | .heartbeat _ => act b
  | .testCtl _ _ => act b
  | .transit _ _ => act b

/-- The tree neighbour of this chip through which `c` is reached: a child whose subtree holds it, or the parent (R314). -/
def treeToward (p : Plan) (me : Nat) : Nat → Nat → Option Nat
  | 0, _ => none
  | fuel + 1, c => match chipIn p.chips c with
    | none => none
    | some x =>
      if x.parent = me ∧ c ≠ me then some c
      else if x.parent = c then (chipIn p.chips me).map (fun y => y.parent)
      else treeToward p me fuel x.parent

/-- A tree message goes on to each tree neighbour but the one it came from. -/
def treeForward (b : Block) (h : GzHdr) (m : GzMsg) : Block :=
  match b.fab.plan with
  | none => b
  | some p =>
    let from_ := treeToward p (chipNo b) 513 h.src
    ((treeNeighbours b).filter (fun n => decide (some n ≠ from_))).foldl (fun b n =>
      gzRoute b { src := h.src, gen := h.gen, dst := n, tree := true, hops := h.hops, detoured := h.detoured, seq := h.seq, msg := m }) b

/-- A message whose turn has come: sent on along the tree, and delivered unless a recovery sequence runs (R314, R329). -/
def deliver (b : Block) (h : GzHdr) (m : GzMsg) : Act :=
  let b := if h.tree then treeForward b h m else b
  if b.rcv.stage = .idle then deliverMsg b h m else act (cnt b cGzRecoveryDrop)

/-! ## Sequence spaces (R312) -/

/-- The key of an originator's space. -/
def spaceKey (src : Nat) (tree : Bool) : Nat := 2 * src + b2n tree

/-- A space replaced. -/
def putSpace (b : Block) (k : Nat) (x : RxSpace) : Block := { b with fab := { b.fab with rx := fmSet b.fab.rx k x } }

/-- Held messages that follow the last one delivered are delivered in order; what is left is behind a gap. -/
def drainSpace (k : Nat) : Nat → Block → Act
  | 0, b => act b
  | fuel + 1, b => match fmGet? b.fab.rx k with
    | none => act b
    | some x => match x.held.find? (fun y => decide (y.1 = x.next) && decide (y.2.2.gen = x.gen)) with
      | some (_, m, h) =>
        andThen (deliver (putSpace b k { x with next := x.next + 1, gap := none, held := x.held.filter (fun y =>
          !(decide (y.1 = x.next) && decide (y.2.2.gen = x.gen))) }) h m) (drainSpace k fuel)
      | none =>
        act (putSpace b k { x with gap := if x.held.any (fun y => decide (y.2.2.gen = x.gen)) then some (x.gap.getD b.tide.clock) else none })

/-- A message held ahead of its turn, up to 64 in a space. -/
def holdMsg (b : Block) (k : Nat) (x : RxSpace) (h : GzHdr) (m : GzMsg) : Block :=
  let x := { x with gap := if h.gen = x.gen then some (x.gap.getD b.tide.clock) else x.gap }
  if x.held.any (fun y => decide (y.1 = h.seq) && decide (y.2.2.gen = h.gen)) then cnt (putSpace b k x) cGzDup
  else if x.held.length ≥ 64 then putSpace b k x
  else putSpace b k { x with held := x.held ++ [(h.seq, m, h)] }

/-- A message in its space: a new generation begins at number 0, the expected message is delivered with what follows it, one
ahead is held, one behind is a duplicate (R312). -/
def sequence (b : Block) (h : GzHdr) (m : GzMsg) : Act :=
  let k := spaceKey h.src h.tree
  let x := (fmGet? b.fab.rx k).getD { gen := h.gen, next := 0, held := [], gap := none }
  if h.gen = x.gen then
    if h.seq = x.next then
      andThen (deliver (putSpace b k { x with next := x.next + 1, gap := none }) h m) (drainSpace k 65)
    else if (h.seq - x.next).toNat < 2 ^ 31 then act (holdMsg b k x h m)
    else act (cnt (putSpace b k x) cGzDup)
  else if h.seq = 0 then
    let old := x.held.filter (fun y => decide (y.2.2.gen ≠ h.gen))
    let b := cntAdd (putSpace b k { gen := h.gen, next := 1, held := x.held.filter (fun y => decide (y.2.2.gen = h.gen)), gap := none })
      cGzStaleGen old.length
    andThen (deliver b h m) (drainSpace k 65)
  else act (holdMsg b k x h m)

/-- A routed or tree message that is addressed to this chip arrives on an admitted port. -/
def receive (h : GzHdr) (m : GzMsg) (b : Block) : Act :=
  if decide (h.port < 6) && (linkOf b h.port).admitted && decide (h.dst = chipNo b) then
    let b := heard b h.port true
    if h.hops ≥ 63 then act (cnt b cGzHop) else sequence b h m
  else act b

/-- GAP_TIMEOUT: the gap is skipped, the held messages are delivered, and heats that depend on the originator end (R312, R316). -/
def gapTimeout (b : Block) (src : Nat) (tree : Bool) : Act :=
  let k := spaceKey src tree
  match fmGet? b.fab.rx k with
  | none => act b
  | some x => match x.gap, least ((x.held.filter (fun y => decide (y.2.2.gen = x.gen))).map (fun y => (y.1 - x.next).toNat)) with
    | some t, some n =>
      let b := passTo b (t + dget b 0x5020 2 * 1000)
      let b := fabRec (cnt b cGzGap) 0x07 7 src 0 src x.next.toNat n
      let tasks := endDependents b (fun c => decide (c = src))
      let r := drainSpace k 65 (putSpace b k { x with next := x.next + BitVec.ofNat 32 n, gap := none })
      (r.1, tasks ++ r.2)
    | _, _ => act b

/-- GAP_TIMEOUT. -/
def execGapTimeout (src : Nat) (tree : Bool) (s : State) : Host.Outcome State Fault Refusal := liftA (fun b => gapTimeout b src tree) s

/-! ## The messages (R313) -/

/-- A unicast message's own row. -/
def uni (h : GzHdr) : GzHdr := { h with tree := false }

/-- A tree message's own row. -/
def tre (h : GzHdr) : GzHdr := { h with tree := true }

def execFenceSignal (h : GzHdr) (addr value : Word) (ctx : BitVec 24) (s : State) : Host.Outcome State Fault Refusal :=
  liftA (receive (uni h) (.fenceSignal addr value ctx)) s

def execFenceApplied (h : GzHdr) (seq : BitVec 32) (outcome : BitVec 2) (s : State) : Host.Outcome State Fault Refusal :=
  liftA (receive (uni h) (.fenceApplied seq outcome.toNat)) s

def execFenceWatch (h : GzHdr) (addr value : Word) (s : State) : Host.Outcome State Fault Refusal :=
  liftA (receive (uni h) (.fenceWatch addr value)) s

def execFenceReached (h : GzHdr) (addr value : Word) (s : State) : Host.Outcome State Fault Refusal :=
  liftA (receive (uni h) (.fenceReached addr value)) s

def execFenceBusy (h : GzHdr) (addr : Word) (s : State) : Host.Outcome State Fault Refusal :=
  liftA (receive (uni h) (.fenceBusy addr)) s

def execFenceUnwatch (h : GzHdr) (addr value : Word) (s : State) : Host.Outcome State Fault Refusal :=
  liftA (receive (uni h) (.fenceUnwatch addr value)) s

def execTimeAnnounce (h : GzHdr) (a : Announce) (s : State) : Host.Outcome State Fault Refusal :=
  liftA (receive (tre h) (.announce a)) s

def execTimeBeacon (h : GzHdr) (t1 t2 : Nat) (s : State) : Host.Outcome State Fault Refusal :=
  liftA (receive (uni h) (.beacon t1 t2)) s

def execTimeBeaconReply (h : GzHdr) (t1 t2 t3 t4 : Nat) (s : State) : Host.Outcome State Fault Refusal :=
  liftA (receive (uni h) (.beaconReply t1 t2 t3 t4)) s

def execLateFrame (h : GzHdr) (frame chip cause flags : Nat) (s : State) : Host.Outcome State Fault Refusal :=
  liftA (receive (tre h) (.lateFrame frame chip cause flags)) s

def execFrameLengthRequest (h : GzHdr) (len : Nat) (s : State) : Host.Outcome State Fault Refusal :=
  liftA (receive (uni h) (.lengthRequest len)) s

def execTideLeave (h : GzHdr) (chip : Nat) (rack : Bool) (cause : Nat) (s : State) : Host.Outcome State Fault Refusal :=
  liftA (receive (tre h) (.tideLeave chip rack cause)) s

def execTideJoin (h : GzHdr) (chip : Nat) (s : State) : Host.Outcome State Fault Refusal :=
  liftA (receive (uni h) (.tideJoin chip)) s

def execTideJoinAccept (h : GzHdr) (frame : Nat) (s : State) : Host.Outcome State Fault Refusal :=
  liftA (receive (uni h) (.tideJoinAccept frame)) s

def execUpdateData (h : GzHdr) (liveId : Nat) (additive : Bool) (recs : List UpdRec) (s : State) : Host.Outcome State Fault Refusal :=
  liftA (receive (tre h) (.updateData liveId additive recs)) s

def execEpochSeal (h : GzHdr) (e : Seal) (s : State) : Host.Outcome State Fault Refusal :=
  liftA (receive (tre h) (.epochSeal e)) s

def execSourceSuspend (h : GzHdr) (liveId frame : Nat) (s : State) : Host.Outcome State Fault Refusal :=
  liftA (receive (tre h) (.sourceSuspend liveId frame)) s

def execSourceResume (h : GzHdr) (liveId : Nat) (epoch : BitVec 32) (frame : Nat) (s : State) : Host.Outcome State Fault Refusal :=
  liftA (receive (tre h) (.sourceResume liveId epoch frame)) s

/-- PEER_ABORT comes on the tree, and to a non-member by unicast (R316). -/
def execPeerAbort (h : GzHdr) (chip part : Nat) (num : BitVec 32) (s : State) : Host.Outcome State Fault Refusal :=
  liftA (receive h (.peerAbort chip part num)) s

end Sys2Proof.Machine
end

