-- ==== Sys2Proof/Machine/Registers.lean ====
section
/-! DEFINITION. The register views: decode, guards, write masks, the secure mailbox, snapshots, the configuration CRC and the debug
region (R384, R386 to R403, R435 to R440, R455). -/

namespace Sys2Proof.Machine

open Sys2Proof

/-! ## Accesses (R388, R389, R391) -/

/-- A 4-byte access within an access: offset in the view and data. -/
def regParts (r : RegAcc) : List (Nat × Nat) :=
  if r.width = 4 ∧ r.off % 4 = 0 then [(r.off, r.data.toNat % 2 ^ 32)]
  else if r.width = 8 ∧ r.off % 8 = 0 then [(r.off, r.data.toNat % 2 ^ 32), (r.off + 4, r.data.toNat / 2 ^ 32)]
  else []

/-- The regions of a view but for the doorbells (R388). -/
inductive Region
  | table | control | snap | dict | debug | doorbell | none
  deriving DecidableEq, Repr

/-- The region of a block of 64 KiB. -/
def regionOf (off : Nat) : Region :=
  let k := off / 0x10000
  if k = 0 then .table
  else if k = 1 then .control
  else if k = 8 then .snap
  else if k = 0x0C then .dict
  else if k = 0x0E then .debug
  else if k = 2 ∨ k = 4 ∨ k = 5 ∨ (0x10 ≤ k ∧ k ≤ 0x17) then .doorbell
  else .none

/-- The location that an offset reaches in its region: regions mirror (R389). -/
def regionOff (off : Nat) : Nat :=
  match regionOf off with
  | .table => off % 0x4000
  | .control => off % 0x1000
  | .snap => off % 0x400
  | .dict => off % 0x100
  | .debug => off % 0x4000
  | _ => off

/-- The view that an access reaches: 0 to 3 the host ports', 4 the secure one, 5 the debug/trace port's. -/
def viewIdx (r : RegAcc) : Option Nat :=
  match r.path with
  | .view => some (r.org.port % 4)
  | .secure => some 4
  | .dbg => some 5
  | _ => none

/-- A view's own registers. -/
def viewOf (b : Block) (v : Nat) : View := (fmGet? b.regs.views v).getD View.fresh

/-- A view's own registers replaced. -/
def putView (b : Block) (v : Nat) (x : View) : Block := { b with regs := { b.regs with views := fmSet b.regs.views v x } }

/-- The access comes from the secure master. -/
def isSecure (r : RegAcc) : Bool := decide (r.path = .secure)

/-- A guarded access is granted: the privileged master of the view's port, or the secure master; the debug/trace port holds its
rights (R393, R455). -/
def granted (b : Block) (r : RegAcc) : Bool :=
  match r.path with
  | .view => isPrivileged b r.org.port r.org
  | .secure => true
  | .dbg => true
  | _ => false

/-- A record of an access, limited to one in a millisecond for `who` (R390, R393, R397). -/
def dropRecord (b : Block) (r : RegAcc) (type who off data : Nat) : Block :=
  auditLim (cnt b cAccessDrop) (limitKey type who) { type := type, path := r.path, org := r.org, new := data, detail := off }

/-- The key of an origin for a limit. -/
def whoOrigin (r : RegAcc) : Nat := pathCode r.path * 4096 + auditOrigin r.path r.org

/-- The key of a port for a limit. -/
def whoPort (r : RegAcc) : Nat := 0x80000 + (if isSecure r then 4 else r.org.port % 4)

/-! ## Write masks (R10) -/

/-- A WM register after a write: bits [31:16] select which of bits [15:0] take the written value; `used` are its defined bits. -/
def wmValue (old data used : Nat) : Nat := ((old &&& (0xFFFF ^^^ (data / 2 ^ 16))) ||| (data &&& (data / 2 ^ 16) &&& 0xFFFF)) &&& used

/-- A write that changes a WM/G register is audited (R418). -/
def wmRecord (b : Block) (r : RegAcc) (off old new : Nat) : Block :=
  if old = new then b else audit b { type := auRegWrite, path := r.path, org := r.org, old := old, new := new, detail := off }

/-! ## The configuration CRC (R400 to R403) -/

/-- Part 2 of R400 for one partition. -/
def crcPartition (b : Block) (p : Nat) : List Byte :=
  match partOf b p with
  | none => [0]
  | some x =>
    let ranges := (List.range 4).flatMap (fun i =>
      let g := x.ranges.getD i (0, 0)
      leBytes 4 g.1 ++ leBytes 4 g.2)
    let sheet := match (sheetOf b p).covered with
      | some s => leBytes 4 s.1 ++ leBytes 4 s.2
      | none => leBytes 4 0xFFFFFFFF ++ leBytes 4 0
    [1] ++ leBytes 8 x.clusters.toNat ++ leBytes 1 x.slots ++ leBytes 1 x.portMask ++ leBytes 1 (b2n x.remoteMap)
      ++ leBytes 1 x.ranges.length ++ ranges ++ sheet

/-- Part 3 of R400. -/
def crcGroups (b : Block) : List Byte :=
  b.obj.groups.flatMap (fun g => leBytes 2 g.1 ++ leBytes 8 (g.2.flat.map (fun c => 2 ^ c)).sum)

/-- Part 4 of R400. -/
def crcPlan (b : Block) : List Byte :=
  match b.fab.plan with
  | some p => leBytes 4 p.version ++ leBytes 4 p.crc
  | none => leBytes 8 0

/-- The indices at which covered entries lie, ascending. -/
def coveredIndices : List Nat :=
  [0x1010, 0x1011, 0x2000, 0x2010, 0x2020, 0x2030, 0x2040, 0x2041, 0x2042, 0x2043, 0x3010, 0x3030, 0x3040]
  ++ (List.range 32).map (fun p => 0x3100 + p) ++ [0x4000, 0x4010, 0x4020, 0x4030] ++ (List.range 32).map (fun p => 0x4100 + p)
  ++ [0x5000] ++ sixPorts.map (fun p => 0x5010 + p) ++ [0x5020, 0x5030, 0x6000, 0x6010]
  ++ (List.range 32).map (fun p => 0x6020 + p) ++ [0x6040, 0x7000, 0x7001, 0x7002, 0x7010, 0x7020, 0x7030, 0x8000, 0x8010, 0x8020]

/-- The covered entries, ascending by index, then subindex. -/
def coveredEntries : List (Nat × Nat) :=
  coveredIndices.flatMap (fun i => ((List.range 256).filter (fun k => match dictDesc i k with
    | some d => isCovered d i k
    | none => false)).map (fun k => (i, k)))

/-- The bytes of the covered configuration. -/
def coveredBytes (b : Block) : List Byte :=
  [1, 0] ++ (List.range 32).flatMap (crcPartition b) ++ crcGroups b ++ crcPlan b ++ coveredEntries.flatMap (fun e => entryForm b e.1 e.2)

/-- `REF_STALE`. -/
def refStale (b : Block) : Bool := b.regs.refValid && decide (b.regs.wgen ≠ b.regs.refGen)

/-- `CHECKING`. -/
def checking (b : Block) : Bool := b.regs.crcOn && b.regs.refValid && !refStale b

/-- A pass ends, and the next one starts (R403): compared when comparison was in force at its start and is at its end. -/
def crcPass (b : Block) : Block :=
  let crc := (crc32c (coveredBytes b)).toNat
  let bad := b.regs.passOk && checking b && decide (crc ≠ b.regs.refActive)
  let b := { b with regs := { b.regs with crcNow := crc, passOk := checking b } }
  if bad then trigger (audit b { type := auIntegrity, detail := b.regs.wgen }) rcConfigCrc 0 none else b

/-- CRC_PASS. -/
def execCrcPass (s : State) : Host.Outcome State Fault Refusal := lift crcPass s

/-- A commit of the reference that a view has staged (R402). An accepted one commits a wide value, which has a record of its own beside
the commit's (R418; DEDUCED, log entry 74). -/
def cfgcrcCommit (b : Block) (r : RegAcc) (v off : Nat) : Block :=
  let x := viewOf b v
  let new := x.refLo + 2 ^ 16 * x.refHi
  let rec_ (result : Nat) : AuditEv :=
    { type := auCfgCommit, result := result, path := r.path, org := r.org, old := b.regs.refActive, new := new, detail := x.refGen }
  if x.refGen = b.regs.wgen then
    let b := audit b { type := auRegWrite, path := r.path, org := r.org, old := b.regs.refActive, new := new, detail := off }
    audit { b with regs := { b.regs with refActive := new, refGen := x.refGen, refValid := true, refused := false } } (rec_ drOk)
  else audit { b with regs := { b.regs with refused := true } } (rec_ drState)

/-! ## Global control (R396, R397) -/

/-- A register of the secure mailbox. -/
def smbReg (o : Nat) : Bool := (decide (0x800 ≤ o) && decide (o ≤ 0x847)) || (decide (0x860 ≤ o) && decide (o ≤ 0x87F))

/-- The mailbox entry as its registers hold it. -/
def smbEntry (b : Block) : BitVec 512 :=
  BitVec.ofNat 512 (packFields ((List.range 16).map (fun i => (32 * i, 32, fmGet b.adm.mbRegs i 0))))

/-- A write of SUBMIT (R397). -/
def smbSubmit (b : Block) (r : RegAcc) (off data : Nat) : Block :=
  if b.adm.mbBusy then audit b { type := auMailboxDrop, path := r.path, org := r.org, new := data, detail := off }
  else { b with adm := { b.adm with mbBusy := true, mbDone := false, mbCompl := 0, mbEntry := some (smbEntry b) } }

/-- A write to the mailbox by the secure master. -/
def smbWrite (b : Block) (r : RegAcc) (off data o : Nat) : Block :=
  if o < 0x840 then { b with adm := { b.adm with mbRegs := fmSet b.adm.mbRegs ((o - 0x800) / 4) data } }
  else if o = 0x840 ∧ data % 2 = 1 then smbSubmit b r off data
  else b

/-- A staged part of the reference written. -/
def stageWrite (b : Block) (r : RegAcc) (v off data o : Nat) : Block :=
  let x := viewOf b v
  let old := if o = 0x14 then x.refLo else if o = 0x18 then x.refHi else x.refGen
  let new := wmValue old data 0xFFFF
  let x := if o = 0x14 then { x with refLo := new } else if o = 0x18 then { x with refHi := new } else { x with refGen := new }
  wmRecord (putView b v x) r off old new

/-- `CRC_ENABLE` written: only the secure master clears it (R396). -/
def crcCtlWrite (b : Block) (r : RegAcc) (off data : Nat) : Block :=
  let old := b2n b.regs.crcOn
  let new := wmValue old data 1
  if old = 1 ∧ new = 0 ∧ !isSecure r then audit b { type := auRegDrop, path := r.path, org := r.org, new := data, detail := off }
  else wmRecord { b with regs := { b.regs with crcOn := decide (new = 1) } } r off old new

/-- A granted write to the global control region; to the mailbox, the secure master's. -/
def controlWrite (b : Block) (r : RegAcc) (v off data : Nat) : Block :=
  let o := regionOff off
  if smbReg o then smbWrite b r off data o
  else if o = 0x10 then crcCtlWrite b r off data
  else if o = 0x14 ∨ o = 0x18 ∨ o = 0x1C then stageWrite b r v off data o
  else if o = 0x20 ∧ data % 2 = 1 then cfgcrcCommit b r v off
  else b

/-! ## Snapshots (R398, R435 to R437) -/

/-- The per-port counters of the snapshot window (R398). -/
def perPort : List Nat := [cDbDrop, cStaleBeat]

/-- What a view's holding register of a per-port counter takes: its port's, or the sum in the secure and the debug view. -/
def perPortValue (b : Block) (v key : Nat) : Nat :=
  if v < 4 then fmGet b.ctr (portKey key v) 0
  else [0, 1, 2, 3].foldl (fun n p => satAdd 32 n (fmGet b.ctr (portKey key p) 0)) 0

/-- The key of a heat counter of a core in a holding set: its offset in the view (R436). -/
def heatKey (c i : Nat) : Nat := 0xE1000 + 16 * c + 4 * i

/-- The heat counters of a core now. -/
def heatCounters (b : Block) (c : Nat) (k : CoreSt) : FMap Nat :=
  [(heatKey c 0, k.slwCnt), (heatKey c 1, k.batonCnt), (heatKey c 2, satAdd 32 k.holdNs (heldTime k b.tide.clock)),
   (heatKey c 3, k.heatSeq % 2 ^ 32)]

/-- `SC_HOLD_TIME_US` now: the holds that have ended, and the one in force (R424). -/
def holdTimeNow (b : Block) : Nat :=
  satAdd 32 (fmGet b.ctr cHoldTime 0) (if b.pwr.hold then (b.tide.clock - b.pwr.holdFrom) / 1000 else 0)

/-- Every SNAP counter of the chip, as a view's holding set takes it. -/
def snapSet (b : Block) (v : Nat) : FMap Nat :=
  perPort.foldl (fun m k => fmSet m k (perPortValue b v k)) (fmSet (b.ctr.filter (fun x => decide (x.1 < 0x400))) cHoldTime (holdTimeNow b))
    ++ b.cores.flatMap (fun x => heatCounters b x.1 x.2)

/-- A snapshot into a view's holding set. No heat start falls in its step (log entry 36). -/
def snapTake (b : Block) (v : Nat) : Block :=
  let x := viewOf b v
  putView (noteStamp b (stamp b)) v { x with hold := snapSet b v, snapSeq := (x.snapSeq + 1) % 2 ^ 32, snapTime := stamp b, seen := false, coreSeen := 0 }

/-! ## The dictionary window's registers (R410, R411) -/

/-- A register of a window but for its command. -/
def windowWrite (b : Block) (r : RegAcc) (data o : Nat) : Block :=
  let key := winKey r.path r.org
  let w := (fmGet? b.regs.wins key).getD DictWin.fresh
  let put (w : DictWin) : Block := { b with regs := { b.regs with wins := fmSet b.regs.wins key w } }
  if o = 0 then put { w with index := wmValue w.index data 0xFFFF }
  else if o = 4 then put { w with sub := wmValue w.sub data 0xFF }
  else if o = 8 then put { w with len := wmValue w.len data 0x7F }
  else if 0x40 ≤ o ∧ o < 0x80 then
    let i := (o - 0x40) / 4
    put { w with data := w.data - nfield w.data (32 * i) 32 * 2 ^ (32 * i) + data * 2 ^ (32 * i) }
  else b

/-! ## The debug region (R440) -/

/-- `SC_BRK_ENABLE` with 16 of its bits replaced. -/
def brkSet (b : Block) (k new : Nat) : Block :=
  let m : BitVec 64 := (0xFFFF#64) <<< (16 * k)
  { b with regs := { b.regs with brkEnable := (b.regs.brkEnable &&& ~~~m) ||| (BitVec.ofNat 64 new <<< (16 * k)) } }

/-- A granted write to the debug region. -/
def debugWrite (b : Block) (r : RegAcc) (off data : Nat) : Act :=
  let o := regionOff off
  if o < 0x10 then
    let k := o / 4
    let old := field b.regs.brkEnable (16 * k) 16
    let new := wmValue old data 0xFFFF
    act (wmRecord (brkSet b k new) r off old new)
  else if o = 0x10 then
    let new := wmValue b.regs.coreSel data 0x3F
    act (wmRecord { b with regs := { b.regs with coreSel := new } } r off b.regs.coreSel new)
  else if o = 0x14 then brkCmd b data
  else if o = 0x30 then
    let new := wmValue b.regs.page data 0x3FF
    act (wmRecord { b with regs := { b.regs with page := new } } r off b.regs.page new)
  else act b

/-! ## A write (R384, R386, R390, R391, R393, R455) -/

/-- The writes that the debug/trace port may make. -/
def dbgWritable (off : Nat) : Bool :=
  (decide (regionOf off = .snap) && decide (regionOff off = 0)) ||
    (decide (regionOf off = .debug) && (decide (regionOff off ≤ 0x14) || decide (regionOff off = 0x30)))

/-- A write into a region whose guard has let it pass. -/
def regionWrite (b : Block) (r : RegAcc) (v off data : Nat) : Act :=
  match regionOf off with
  | .control => act (controlWrite b r v off data)
  | .snap => act (if regionOff off = 0 ∧ data % 2 = 1 then snapTake b v else b)
  | .debug => debugWrite b r off data
  | _ => act b

/-- The offset is one of the secure mailbox's (R397). -/
def inMailbox (off : Nat) : Bool := decide (regionOf off = .control) && smbReg (regionOff off)

/-- The guard lets a write pass: the secure master alone to the mailbox (R393, R397). -/
def guardPasses (b : Block) (r : RegAcc) (off : Nat) : Bool := if inMailbox off then isSecure r else granted b r

/-- A write that the guard refuses is dropped, counted and audited (R393, R397). -/
def guardDrop (b : Block) (r : RegAcc) (off data : Nat) : Block :=
  dropRecord b r (if inMailbox off then auMailboxDrop else auRegDrop) (whoOrigin r) off data

/-- One 4-byte write. -/
def wordWrite (b : Block) (r : RegAcc) (v off data : Nat) : Act :=
  if r.path = .dbg then
    (if dget b 0x8010 2 = 1 && dbgWritable off then regionWrite b r v off data else act (cnt b cAccessDrop))
  else
    let b := if r.path = .view then noteOrigin b r.org else b
    match regionOf off with
    | .table => act b
    | .dict => act (windowWrite b r data (regionOff off))
    | .doorbell => act b
    | .none => act (dropRecord b r auRegDrop (whoPort r) off data)
    | _ => if guardPasses b r off then regionWrite b r v off data else act (guardDrop b r off data)

/-- A write whose width or alignment R391 refuses: dropped and counted, and audited where a write of 4 bytes would be. -/
def narrowWrite (b : Block) (r : RegAcc) : Block :=
  if r.path = .dbg then cnt b cAccessDrop
  else
    let b := if r.path = .view then noteOrigin b r.org else b
    match regionOf r.off with
    | .none => dropRecord b r auRegDrop (whoPort r) r.off r.data.toNat
    | .table => cnt b cAccessDrop
    | .dict => cnt b cAccessDrop
    | .doorbell => cnt b cAccessDrop
    | _ => if guardPasses b r r.off then cnt b cAccessDrop else guardDrop b r r.off r.data.toNat

/-- A write to a view: in 4-byte parts, or dropped and counted for its width or alignment. -/
def regWrite (b : Block) (r : RegAcc) : Act :=
  match viewIdx r with
  | none => act b
  | some v =>
    if r.off ≥ 0x200000 ∨ b.mic.selftest = 0 then act b
    else match regParts r with
      | [] => act (narrowWrite b r)
      | l => actEach b l (fun b x => wordWrite b r v x.1 x.2)

/-! ## The rows -/

/-- An access writes a bit of a register at an offset of a region. -/
def hitsBit (r : RegAcc) (g : Region) (o bit : Nat) : Bool :=
  (regParts r).any (fun x => decide (regionOf x.1 = g) && decide (regionOff x.1 = o) && x.2.testBit bit)

/-- A row that stands for a write of one register bit. -/
def regRow (r : RegAcc) (mine : Bool) (s : State) : Host.Outcome State Fault Refusal :=
  liftA (fun b => if mine then regWrite b r else act b) s

/-- An access with a row other than REGISTER_WRITE: a doorbell, a window command, or one of the register bits below. -/
def regOwnRow (r : RegAcc) : Bool :=
  decide (regionOf r.off = .doorbell) || (regParts r).any (fun x => decide (regionOf x.1 = .dict) && decide (regionOff x.1 = 0x0C))
    || hitsBit r .control 0x840 0 || hitsBit r .control 0x20 0 || hitsBit r .snap 0 0 || hitsBit r .debug 0x14 0
    || hitsBit r .debug 0x14 1 || hitsBit r .debug 0x14 2

/-- SMB_SUBMIT (R397). -/
def execSmbSubmit (r : RegAcc) (s : State) : Host.Outcome State Fault Refusal := regRow r (hitsBit r .control 0x840 0) s

/-- SNAPSHOT (R398). -/
def execSnapshot (r : RegAcc) (s : State) : Host.Outcome State Fault Refusal := regRow r (hitsBit r .snap 0 0) s

/-- CFGCRC_COMMIT (R402). -/
def execCfgcrcCommit (r : RegAcc) (s : State) : Host.Outcome State Fault Refusal := regRow r (hitsBit r .control 0x20 0) s

/-- WIDE_COMMIT (R395): `SC_CFGCRC_REF_COMMIT` is the one commit register of the views. -/
def execWideCommit (r : RegAcc) (s : State) : Host.Outcome State Fault Refusal := regRow r (hitsBit r .control 0x20 0) s

/-- REGISTER_WRITE (R394). -/
def execRegisterWrite (r : RegAcc) (s : State) : Host.Outcome State Fault Refusal := regRow r (!regOwnRow r) s

/-- CONTINUE (R441). -/
def execDbgContinue (r : RegAcc) (s : State) : Host.Outcome State Fault Refusal := regRow r (hitsBit r .debug 0x14 0) s

/-- STEP (R441). -/
def execDbgStep (r : RegAcc) (s : State) : Host.Outcome State Fault Refusal := regRow r (hitsBit r .debug 0x14 1) s

/-- HALT_REQ (R438). -/
def execHaltReq (r : RegAcc) (s : State) : Host.Outcome State Fault Refusal := regRow r (hitsBit r .debug 0x14 2) s

end Sys2Proof.Machine
end

