-- ==== Sys2Proof/Machine/Timeouts.lean ====
section
/-! DEFINITION. FETCH_TIMEOUT: a read that has not completed is retired as an error (R88, R97, R201, R227, R285). -/

namespace Sys2Proof.Machine

open Sys2Proof

/-- The instant at which a read issued at `t` times out. -/
def fetchDue (b : Block) (t : Nat) : Nat := t + dget b 0x2020 1 * 1000

/-- The entries of the cache that follow `CONSUMER` without a gap. -/
def cachePrefix (l : List (BitVec 32 × BitVec 512)) : Nat → BitVec 32 → List (BitVec 32 × BitVec 512)
  | 0, _ => []
  | k + 1, i => match l.find? (fun x => x.1 = i) with
    | some x => x :: cachePrefix l k (i + 1)
    | none => []

/-- An SQ whose read timed out: what had arrived is admitted, and the queue halts with an event; the home context of a submission
queue, if it still exists, is Lost (R63, R88). Its other requests stay outstanding until they return or time out (R83). -/
def sqTimeout (b : Block) (r : QRef) (s : Sq) (issued : Nat) : Act :=
  let b := passTo b (fetchDue b issued)
  let have_ := cachePrefix s.cache s.cache.length s.consumer
  let b := giveUpFetches b r { s with fetches := s.fetches.filter (fun f => decide (b.tide.clock < fetchDue b f.issued)) } false
  let b := putSq b r { s with rd := .idle, rung := false, fetches := [], cache := have_, gen := s.gen + 1, holdReq := false, probe := [],
                              fetchPtr := s.consumer + BitVec.ofNat 32 have_.length }
  match r with
  | .aq _ => act (sqHalt b r 1 stFetchTimeout)
  | .q n =>
    let b := sqHalt (submitRest have_.length b n) r 1 stFetchTimeout
    if s.homeGone then act b else (b, [.lose s.home stFetchTimeout])

/-- A fetch request that its queue had given up has timed out: it retires, and its queue is no further concerned (R83). -/
def lateTimeout (b : Block) (l : LateFetch) : Block :=
  let b := passTo b (fetchDue b l.issued)
  { b with q := { b.q with late := b.q.late.erase l } }

/-- A read of the ring of a queue has timed out: the oldest request, of those given up and those that the queue waits for. -/
def ringTimeout (b : Block) (q : QRef) : Act :=
  let own := (sqOf b q).bind (fun s => s.fetches.head?.map (fun f => (s, f)))
  match b.q.late.find? (fun l => decide (l.q = q)), own with
  | some l, some (s, f) => if l.issued ≤ f.issued then act (lateTimeout b l) else sqTimeout b q s f.issued
  | some l, none => act (lateTimeout b l)
  | none, some (s, f) => sqTimeout b q s f.issued
  | none, none => act b

/-- A CQ whose `CONSUMER` read timed out stays as it was. -/
def cqTimeout (b : Block) (r : QRef) (c : Cq) (issued : Nat) : Block :=
  putCq (passTo b (fetchDue b issued)) r { c with rd := .idle, gen := c.gen + 1 }

/-- A heat whose read timed out ends, and its context is Lost. -/
def runTimeout (b : Block) (n : Nat) (r : Run) (issued : Nat) : Act :=
  (passTo b (fetchDue b issued), [.abort n stFetchTimeout, .lose r.ctx stFetchTimeout])

/-- A core's read of a program line or of a fragment table. -/
def programTimeout (b : Block) (c : Nat) (table : Bool) : Act :=
  let k := coreOf b c
  let mine := match k.hold with
    | .line _ _ true => !table
    | .table _ _ true => true
    | _ => false
  match k.run with
  | none => act b
  | some n => match runOf b n with
    | some r => if mine && r.abort.isNone && r.endedAt.isNone then runTimeout (unhold b c) n r k.holdFrom else act b
    | none => act b

/-- The core that reads the fragment table of a work item's heat. -/
def tableReader (b : Block) (t : Nat) : Option Nat :=
  (List.range 64).find? (fun c => match (coreOf b c).hold, (coreOf b c).run.bind (runOf b) with
    | .table _ _ true, some r => decide (r.tag = t)
    | _, _ => false)

/-- A work item whose read timed out ends, and its context is Lost. -/
def itemTimeout (b : Block) (t : Nat) (i : Item) : Act := (b, [.work t stFetchTimeout, .lose i.ctx stFetchTimeout])

/-- FETCH_TIMEOUT. -/
def fetchTimeout (b : Block) (x : ReadRef) : Act :=
  match x with
  | .producer q => (match sqOf b q with
    | some s => (match s.rd with
      | .flying t _ => sqTimeout b q s t
      | _ => act b)
    | none => act b)
  | .ring q => ringTimeout b q
  | .cqConsumer q => (match cqOf b q with
    | some c => (match c.rd with
      | .flying t _ => act (cqTimeout b q c t)
      | _ => act b)
    | none => act b)
  | .program c => if c < 64 then programTimeout b c false else act b
  | .fragTable t => (match tableReader b t with
    | some c => programTimeout b c true
    | none => act b)
  | .beDesc t => (match itemOf b t with
    | some i => (match i.descRd with
      | .flying u _ => itemTimeout (putItem (passTo b (fetchDue b u)) t { i with descRd := .idle }) t i
      | _ => act b)
    | none => act b)
  | .expander c => (match curCall b c with
    | some (_, y) => (match callRun b y with
      | some r => if y.issued then runTimeout b y.run r y.since else act b
      | none => act b)
    | none => act b)
  | .updBlock t => (match blockNext b with
    | some (u, i) => if u = t then itemTimeout b t i else act b
    | none => act b)

/-- The accesses that a timeout retires while a recovery sequence runs (R331). -/
def timedOut (b : Block) (x : ReadRef) : List Access :=
  match x with
  | .ring q => b.rcv.access.filter (fun a => match a with
    | .entry r _ => decide (r = q)
    | _ => false)
  | .fragTable t => ((List.range 64).filter (fun c => ((coreOf b c).run.bind (runOf b)).any (fun r => decide (r.tag = t)))).map
      (fun c => Access.read (.program c))
  | r => [.read r]

/-- FETCH_TIMEOUT (R88, R331). -/
def execFetchTimeout (r : ReadRef) (s : State) : Host.Outcome State Fault Refusal :=
  lift (fun b => if ready b then (if b.rcv.stage = .idle then finish (fetchTimeout b r) else retire b (timedOut b r)) else b) s

end Sys2Proof.Machine
end

