-- ==== Sys2Proof/Machine/Dispatch.lean ====
section
/-! DEFINITION. One arm per command: a direct call of its meaning, or a rejection by name. -/

namespace Sys2Proof.Machine

open Sys2Proof

/-- What a command does to the block; the queue of waiting commands stays as it is. -/
def exec (i : Instr) (s : State) : Host.Outcome State Fault Refusal :=
  match i with
  | .ring w => Sys2Proof.Machine.execRing w s
  | .holdInvalidate w => Sys2Proof.Machine.execHoldInvalidate w s
  | .consumed w => Sys2Proof.Machine.execConsumed w s
  | .pollExpiry sq => Sys2Proof.Machine.execPollExpiry sq s
  | .producerReadReturn q t value => Sys2Proof.Machine.execProducerReadReturn q t value s
  | .entryFetchIssue q => Sys2Proof.Machine.execEntryFetchIssue q s
  | .fetchBeatReturn q t idx data => Sys2Proof.Machine.execFetchBeatReturn q t idx data s
  | .fetchTimeout r => Sys2Proof.Machine.execFetchTimeout r s
  | .heat sq => Sys2Proof.Machine.execHeat sq s
  | .barrier sq => Sys2Proof.Machine.execBarrier sq s
  | .tableUpdate sq => Sys2Proof.Machine.execTableUpdate sq s
  | .customerSubmission sq => Sys2Proof.Machine.execCustomerSubmission sq s
  | .reservedSubmissionOpcode sq => Sys2Proof.Machine.execReservedSubmissionOpcode sq s
  | .cqFullReread cq => Sys2Proof.Machine.execCqFullReread cq s
  | .cqConsumerReturn cq t value => Sys2Proof.Machine.execCqConsumerReturn cq t value s
  | .completionWrite cq => Sys2Proof.Machine.execCompletionWrite cq s
  | .coalesceTimerExpiry cq => Sys2Proof.Machine.execCoalesceTimerExpiry cq s
  | .interruptRequest port => Sys2Proof.Machine.execInterruptRequest port s
  | .aqEnable a port => Sys2Proof.Machine.execAqEnable a port s
  | .aqEnableReadComplete port ok producer consumer => Sys2Proof.Machine.execAqEnableReadComplete port ok producer consumer s
  | .adminSqRing w => Sys2Proof.Machine.execAdminSqRing w s
  | .adminSqHoldInvalidate w => Sys2Proof.Machine.execAdminSqHoldInvalidate w s
  | .adminCqConsumed w => Sys2Proof.Machine.execAdminCqConsumed w s
  | .smbSubmit r => Sys2Proof.Machine.execSmbSubmit r s
  | .adminNop x => Sys2Proof.Machine.execAdminNop x s
  | .sqCreate x producer => Sys2Proof.Machine.execSqCreate x producer s
  | .sqDestroy x => Sys2Proof.Machine.execSqDestroy x s
  | .sqDestroyComplete sq => Sys2Proof.Machine.execSqDestroyComplete sq s
  | .cqCreate x consumer => Sys2Proof.Machine.execCqCreate x consumer s
  | .cqDestroy x => Sys2Proof.Machine.execCqDestroy x s
  | .contextCreate x => Sys2Proof.Machine.execContextCreate x s
  | .contextDestroy x => Sys2Proof.Machine.execContextDestroy x s
  | .contextDestroyComplete ctx => Sys2Proof.Machine.execContextDestroyComplete ctx s
  | .contextQuery x => Sys2Proof.Machine.execContextQuery x s
  | .partitionCreate x => Sys2Proof.Machine.execPartitionCreate x s
  | .partitionDestroy x => Sys2Proof.Machine.execPartitionDestroy x s
  | .groupDefine x => Sys2Proof.Machine.execGroupDefine x s
  | .groupDelete x => Sys2Proof.Machine.execGroupDelete x s
  | .adminParameterReadReturn g r => Sys2Proof.Machine.execAdminParameterReadReturn g r s
  | .map x => Sys2Proof.Machine.execMap x s
  | .unmap x => Sys2Proof.Machine.execUnmap x s
  | .unmapFenceReached src tag => Sys2Proof.Machine.execUnmapFenceReached src tag s
  | .residencyPreload x => Sys2Proof.Machine.execResidencyPreload x s
  | .residencyRelease x => Sys2Proof.Machine.execResidencyRelease x s
  | .yieldHint x => Sys2Proof.Machine.execYieldHint x s
  | .microcodeLoad x => Sys2Proof.Machine.execMicrocodeLoad x s
  | .microcodeChecksPassed => Sys2Proof.Machine.execMicrocodeChecksPassed s
  | .microcodeInstall => Sys2Proof.Machine.execMicrocodeInstall s
  | .dumpBuffer x => Sys2Proof.Machine.execDumpBuffer x s
  | .customerAdmin x => Sys2Proof.Machine.execCustomerAdmin x s
  | .reservedAdminOpcode x => Sys2Proof.Machine.execReservedAdminOpcode x s
  | .fenceMissReadReturn addr value => Sys2Proof.Machine.execFenceMissReadReturn addr value s
  | .fenceWriteAck addr => Sys2Proof.Machine.execFenceWriteAck addr s
  | .fenceSignal h addr value ctx => Sys2Proof.Machine.execFenceSignal h addr value ctx s
  | .fenceApplied h seq outcome => Sys2Proof.Machine.execFenceApplied h seq outcome s
  | .fenceWatch h addr value => Sys2Proof.Machine.execFenceWatch h addr value s
  | .fenceReached h addr value => Sys2Proof.Machine.execFenceReached h addr value s
  | .fenceBusy h addr => Sys2Proof.Machine.execFenceBusy h addr s
  | .fenceUnwatch h addr value => Sys2Proof.Machine.execFenceUnwatch h addr value s
  | .remoteWatchRetry addr value => Sys2Proof.Machine.execRemoteWatchRetry addr value s
  | .remoteWaitDeadline r => Sys2Proof.Machine.execRemoteWaitDeadline r s
  | .scoreboardStall part => Sys2Proof.Machine.execScoreboardStall part s
  | .walkerPass => Sys2Proof.Machine.execWalkerPass s
  | .walkerPassEnd => Sys2Proof.Machine.execWalkerPassEnd s
  | .slwIssue c => Sys2Proof.Machine.execSlwIssue c s
  | .drainRelease c => Sys2Proof.Machine.execDrainRelease c s
  | .pushQueueRoom c => Sys2Proof.Machine.execPushQueueRoom c s
  | .syncRelease c => Sys2Proof.Machine.execSyncRelease c s
  | .programLineReturn c h va words => Sys2Proof.Machine.execProgramLineReturn c h va words s
  | .translationWalkReturn ctx va write => Sys2Proof.Machine.execTranslationWalkReturn ctx va write s
  | .nop c f => Sys2Proof.Machine.execNop c f s
  | .halt c f => Sys2Proof.Machine.execHalt c f s
  | .brk c f => Sys2Proof.Machine.execBrk c f s
  | .info c f => Sys2Proof.Machine.execInfo c f s
  | .add c f => Sys2Proof.Machine.execAdd c f s
  | .sub c f => Sys2Proof.Machine.execSub c f s
  | .and c f => Sys2Proof.Machine.execAnd c f s
  | .or c f => Sys2Proof.Machine.execOr c f s
  | .xor c f => Sys2Proof.Machine.execXor c f s
  | .shl c f => Sys2Proof.Machine.execShl c f s
  | .shr c f => Sys2Proof.Machine.execShr c f s
  | .sra c f => Sys2Proof.Machine.execSra c f s
  | .mul c f => Sys2Proof.Machine.execMul c f s
  | .minu c f => Sys2Proof.Machine.execMinu c f s
  | .maxu c f => Sys2Proof.Machine.execMaxu c f s
  | .sltu c f => Sys2Proof.Machine.execSltu c f s
  | .slt c f => Sys2Proof.Machine.execSlt c f s
  | .seq c f => Sys2Proof.Machine.execSeq c f s
  | .li c f => Sys2Proof.Machine.execLi c f s
  | .lih c f => Sys2Proof.Machine.execLih c f s
  | .aadd c f => Sys2Proof.Machine.execAadd c f s
  | .amov c f => Sys2Proof.Machine.execAmov c f s
  | .smov c f => Sys2Proof.Machine.execSmov c f s
  | .ali c f => Sys2Proof.Machine.execAli c f s
  | .alih c f => Sys2Proof.Machine.execAlih c f s
  | .ld64 c f => Sys2Proof.Machine.execLd64 c f s
  | .ld32 c f => Sys2Proof.Machine.execLd32 c f s
  | .st64 c f => Sys2Proof.Machine.execSt64 c f s
  | .st32 c f => Sys2Proof.Machine.execSt32 c f s
  | .lda c f => Sys2Proof.Machine.execLda c f s
  | .sta c f => Sys2Proof.Machine.execSta c f s
  | .br c f => Sys2Proof.Machine.execBr c f s
  | .beq c f => Sys2Proof.Machine.execBeq c f s
  | .bne c f => Sys2Proof.Machine.execBne c f s
  | .bltu c f => Sys2Proof.Machine.execBltu c f s
  | .bgeu c f => Sys2Proof.Machine.execBgeu c f s
  | .blt c f => Sys2Proof.Machine.execBlt c f s
  | .bge c f => Sys2Proof.Machine.execBge c f s
  | .loop c f => Sys2Proof.Machine.execLoop c f s
  | .arm c f => Sys2Proof.Machine.execArm c f s
  | .call c f => Sys2Proof.Machine.execCall c f s
  | .ret c f => Sys2Proof.Machine.execRet c f s
  | .fwait c f => Sys2Proof.Machine.execFwait c f s
  | .fsignal c f => Sys2Proof.Machine.execFsignal c f s
  | .cdecl c f => Sys2Proof.Machine.execCdecl c f s
  | .fread c f => Sys2Proof.Machine.execFread c f s
  | .gsend c f => Sys2Proof.Machine.execGsend c f s
  | .fdepth c f => Sys2Proof.Machine.execFdepth c f s
  | .xcall c f => Sys2Proof.Machine.execXcall c f s
  | .reservedOpcode c op f => Sys2Proof.Machine.execReservedOpcode c op f s
  | .heldSignalApply c => Sys2Proof.Machine.execHeldSignalApply c s
  | .batonHandshake c => Sys2Proof.Machine.execBatonHandshake c s
  | .breakwaterRelease c => Sys2Proof.Machine.execBreakwaterRelease c s
  | .capRelease c => Sys2Proof.Machine.execCapRelease c s
  | .capStateTimeout => Sys2Proof.Machine.execCapStateTimeout s
  | .batonEnd c report writeCrc => Sys2Proof.Machine.execBatonEnd c report writeCrc s
  | .depthReport c pos report => Sys2Proof.Machine.execDepthReport c pos report s
  | .corePartEnd c => Sys2Proof.Machine.execCorePartEnd c s
  | .xcallAccept c => Sys2Proof.Machine.execXcallAccept c s
  | .expanderReadReturn c h d => Sys2Proof.Machine.execExpanderReadReturn c h d s
  | .windowTurnover c => Sys2Proof.Machine.execWindowTurnover c s
  | .poolIssue c => Sys2Proof.Machine.execPoolIssue c s
  | .xcallEnd c => Sys2Proof.Machine.execXcallEnd c s
  | .occurrenceBegin part res => Sys2Proof.Machine.execOccurrenceBegin part res s
  | .clusterRelease run => Sys2Proof.Machine.execClusterRelease run s
  | .beDescriptorReadReturn tag h d => Sys2Proof.Machine.execBeDescriptorReadReturn tag h d s
  | .bePlace part => Sys2Proof.Machine.execBePlace part s
  | .beStarve tag => Sys2Proof.Machine.execBeStarve tag s
  | .chunkStart tag => Sys2Proof.Machine.execChunkStart tag s
  | .slotAssign part => Sys2Proof.Machine.execSlotAssign part s
  | .hctRecordReadReturn ctx => Sys2Proof.Machine.execHctRecordReadReturn ctx s
  | .eviction part => Sys2Proof.Machine.execEviction part s
  | .fsync cycles width => Sys2Proof.Machine.execFsync cycles width s
  | .fsyncMissed => Sys2Proof.Machine.execFsyncMissed s
  | .timeAnnounceSend => Sys2Proof.Machine.execTimeAnnounceSend s
  | .timeAnnounce h a => Sys2Proof.Machine.execTimeAnnounce h a s
  | .timeBeacon h t1 t2 => Sys2Proof.Machine.execTimeBeacon h t1 t2 s
  | .timeBeaconReply h t1 t2 t3 t4 => Sys2Proof.Machine.execTimeBeaconReply h t1 t2 t3 t4 s
  | .frameBegin => Sys2Proof.Machine.execFrameBegin s
  | .deadline tag => Sys2Proof.Machine.execDeadline tag s
  | .lateFrame h frame chip cause flags => Sys2Proof.Machine.execLateFrame h frame chip cause flags s
  | .frameLengthRequest h len => Sys2Proof.Machine.execFrameLengthRequest h len s
  | .tideLeave h chip rack cause => Sys2Proof.Machine.execTideLeave h chip rack cause s
  | .tideJoin h chip => Sys2Proof.Machine.execTideJoin h chip s
  | .tideJoinAccept h frame => Sys2Proof.Machine.execTideJoinAccept h frame s
  | .refLoss => Sys2Proof.Machine.execRefLoss s
  | .refLossHoldExpiry => Sys2Proof.Machine.execRefLossHoldExpiry s
  | .refReturn stopNs => Sys2Proof.Machine.execRefReturn stopNs s
  | .sheetInstall a part => Sys2Proof.Machine.execSheetInstall a part s
  | .sheetReadReturn part bytes => Sys2Proof.Machine.execSheetReadReturn part bytes s
  | .sheetRemove a part => Sys2Proof.Machine.execSheetRemove a part s
  | .frameLengthNs a => Sys2Proof.Machine.execFrameLengthNs a s
  | .frameChangeAt a => Sys2Proof.Machine.execFrameChangeAt a s
  | .frameOriginNs a => Sys2Proof.Machine.execFrameOriginNs a s
  | .timeSetNs a => Sys2Proof.Machine.execTimeSetNs a s
  | .updateHeaderReadReturn tag h hdr recs => Sys2Proof.Machine.execUpdateHeaderReadReturn tag h hdr recs s
  | .updateData h liveId additive recs => Sys2Proof.Machine.execUpdateData h liveId additive recs s
  | .epochSeal h e => Sys2Proof.Machine.execEpochSeal h e s
  | .sourceSuspend h liveId frame => Sys2Proof.Machine.execSourceSuspend h liveId frame s
  | .sourceResume h liveId epoch frame => Sys2Proof.Machine.execSourceResume h liveId epoch frame s
  | .windowBegin liveId => Sys2Proof.Machine.execWindowBegin liveId s
  | .tblApply liveId => Sys2Proof.Machine.execTblApply liveId s
  | .applyEnd liveId => Sys2Proof.Machine.execApplyEnd liveId s
  | .tblHold a => Sys2Proof.Machine.execTblHold a s
  | .tblRelease a => Sys2Proof.Machine.execTblRelease a s
  | .resync a reg dir => Sys2Proof.Machine.execResync a reg dir s
  | .liveRegistryBase a => Sys2Proof.Machine.execLiveRegistryBase a s
  | .contextTableBase a => Sys2Proof.Machine.execContextTableBase a s
  | .linkTrained port => Sys2Proof.Machine.execLinkTrained port s
  | .linkIdent port w => Sys2Proof.Machine.execLinkIdent port w s
  | .linkState h chip version mask => Sys2Proof.Machine.execLinkState h chip version mask s
  | .routeRecompute => Sys2Proof.Machine.execRouteRecompute s
  | .linkHeartbeat port count => Sys2Proof.Machine.execLinkHeartbeat port count s
  | .heartbeatTimer port => Sys2Proof.Machine.execHeartbeatTimer port s
  | .linkDead port => Sys2Proof.Machine.execLinkDead port s
  | .linkDown port => Sys2Proof.Machine.execLinkDown port s
  | .crcErr port => Sys2Proof.Machine.execCrcErr port s
  | .retryReturn port msgs packets => Sys2Proof.Machine.execRetryReturn port msgs packets s
  | .grizinForward h type payload => Sys2Proof.Machine.execGrizinForward h type payload s
  | .gapTimeout src tree => Sys2Proof.Machine.execGapTimeout src tree s
  | .peerAbort h chip part num => Sys2Proof.Machine.execPeerAbort h chip part num s
  | .linkTestCtl port pattern start => Sys2Proof.Machine.execLinkTestCtl port pattern start s
  | .linkTestStart a port => Sys2Proof.Machine.execLinkTestStart a port s
  | .linkTestStop a port => Sys2Proof.Machine.execLinkTestStop a port s
  | .testDurationExpiry port => Sys2Proof.Machine.execTestDurationExpiry port s
  | .planInstall a => Sys2Proof.Machine.execPlanInstall a s
  | .planReadReturn bytes => Sys2Proof.Machine.execPlanReadReturn bytes s
  | .linkOverride a port => Sys2Proof.Machine.execLinkOverride a port s
  | .chipNumber a => Sys2Proof.Machine.execChipNumber a s
  | .bypassDrive axis => Sys2Proof.Machine.execBypassDrive axis s
  | .unitProgressWatchdog unit => Sys2Proof.Machine.execUnitProgressWatchdog unit s
  | .coreWaitWatchdog c => Sys2Proof.Machine.execCoreWaitWatchdog c s
  | .batonWatchdog c id => Sys2Proof.Machine.execBatonWatchdog c id s
  | .dispatchPortWatchdog c => Sys2Proof.Machine.execDispatchPortWatchdog c s
  | .writeAckWatchdog addr issued => Sys2Proof.Machine.execWriteAckWatchdog addr issued s
  | .destructionWatchdog ctx => Sys2Proof.Machine.execDestructionWatchdog ctx s
  | .sramUncorrectable x => Sys2Proof.Machine.execSramUncorrectable x s
  | .recoveryStart a => Sys2Proof.Machine.execRecoveryStart a s
  | .fenceComplete => Sys2Proof.Machine.execFenceComplete s
  | .drainComplete => Sys2Proof.Machine.execDrainComplete s
  | .drainDeadline => Sys2Proof.Machine.execDrainDeadline s
  | .dumpAccessLimit x => Sys2Proof.Machine.execDumpAccessLimit x s
  | .dumpBudgetExpiry => Sys2Proof.Machine.execDumpBudgetExpiry s
  | .dumpComplete => Sys2Proof.Machine.execDumpComplete s
  | .propagateComplete => Sys2Proof.Machine.execPropagateComplete s
  | .resetReqTimer => Sys2Proof.Machine.execResetReqTimer s
  | .resetGeneration a => Sys2Proof.Machine.execResetGeneration a s
  | .chipResetAssert => Sys2Proof.Machine.execChipResetAssert s
  | .chipResetRelease fuses supplyMv => Sys2Proof.Machine.execChipResetRelease fuses supplyMv s
  | .selftestEnd pass => Sys2Proof.Machine.execSelftestEnd pass s
  | .shadowStart run => Sys2Proof.Machine.execShadowStart run s
  | .shadowStartTimeout run => Sys2Proof.Machine.execShadowStartTimeout run s
  | .arbitrationStart run => Sys2Proof.Machine.execArbitrationStart run s
  | .corpusCapture run => Sys2Proof.Machine.execCorpusCapture run s
  | .testDue unit => Sys2Proof.Machine.execTestDue unit s
  | .structuralTestStart unit => Sys2Proof.Machine.execStructuralTestStart unit s
  | .testSignatureReturn unit sig corpus => Sys2Proof.Machine.execTestSignatureReturn unit sig corpus s
  | .testBudgetExpiry unit => Sys2Proof.Machine.execTestBudgetExpiry unit s
  | .testCmd a => Sys2Proof.Machine.execTestCmd a s
  | .unitState a unit => Sys2Proof.Machine.execUnitState a unit s
  | .scanBase a bytes => Sys2Proof.Machine.execScanBase a bytes s
  | .microword m r => Sys2Proof.Machine.execMicroword m r s
  | .completeEntry m => Sys2Proof.Machine.execCompleteEntry m s
  | .admitAs m => Sys2Proof.Machine.execAdmitAs m s
  | .adminFinal m => Sys2Proof.Machine.execAdminFinal m s
  | .pendOnFence m => Sys2Proof.Machine.execPendOnFence m s
  | .pendResume src tag => Sys2Proof.Machine.execPendResume src tag s
  | .stepLimit m => Sys2Proof.Machine.execStepLimit m s
  | .bootLoad a => Sys2Proof.Machine.execBootLoad a s
  | .bootLoadComplete bytes => Sys2Proof.Machine.execBootLoadComplete bytes s
  | .customerKeyHash a => Sys2Proof.Machine.execCustomerKeyHash a s
  | .snapshot r => Sys2Proof.Machine.execSnapshot r s
  | .cfgcrcCommit r => Sys2Proof.Machine.execCfgcrcCommit r s
  | .wideCommit r => Sys2Proof.Machine.execWideCommit r s
  | .crcPass => Sys2Proof.Machine.execCrcPass s
  | .registerWrite r => Sys2Proof.Machine.execRegisterWrite r s
  | .dictRead a => Sys2Proof.Machine.execDictRead a s
  | .dictWrite a => Sys2Proof.Machine.execDictWrite a s
  | .dictInfo a => Sys2Proof.Machine.execDictInfo a s
  | .calWrite a => Sys2Proof.Machine.execCalWrite a s
  | .setEndpointId path op eid => Sys2Proof.Machine.execSetEndpointId path op eid s
  | .getEndpointId path => Sys2Proof.Machine.execGetEndpointId path s
  | .getMctpVersionSupport path type => Sys2Proof.Machine.execGetMctpVersionSupport path type s
  | .getMessageTypeSupport path => Sys2Proof.Machine.execGetMessageTypeSupport path s
  | .errorUnsupportedCmd path cmd => Sys2Proof.Machine.execErrorUnsupportedCmd path cmd s
  | .brownoutHold mv => Sys2Proof.Machine.execBrownoutHold mv s
  | .holdRelease mv => Sys2Proof.Machine.execHoldRelease mv s
  | .supplyReset mv => Sys2Proof.Machine.execSupplyReset mv s
  | .monitorPass periods => Sys2Proof.Machine.execMonitorPass periods s
  | .clusterIdle c => Sys2Proof.Machine.execClusterIdle c s
  | .clusterOff c => Sys2Proof.Machine.execClusterOff c s
  | .clusterWake c => Sys2Proof.Machine.execClusterWake c s
  | .powerStateReport c st => Sys2Proof.Machine.execPowerStateReport c st s
  | .dbgContinue r => Sys2Proof.Machine.execDbgContinue r s
  | .dbgStep r => Sys2Proof.Machine.execDbgStep r s
  | .haltReq r => Sys2Proof.Machine.execHaltReq r s
  | .brkTimeout c => Sys2Proof.Machine.execBrkTimeout c s
  | .grizinCrcDrop port type crcOk => Sys2Proof.Machine.execGrizinCrcDrop port type crcOk s
  | .dictBadRequest a => Sys2Proof.Machine.execDictBadRequest a s
  | .inBandInterruptRead => Sys2Proof.Machine.execInBandInterruptRead s
  | .supplyAboveResetLevel mv => Sys2Proof.Machine.execSupplyAboveResetLevel mv s
  | .resetAssertionMinimum => Sys2Proof.Machine.execResetAssertionMinimum s

end Sys2Proof.Machine
end

