-- ==== Sys2Proof/Safety.lean ====
section
/-! DEFINITION. The words in which claims speak of the machine: when commands act at all, when a core may issue, what a command
answers, and the invariant that every step keeps. -/

namespace Sys2Proof.Machine

open Sys2Proof

/-! ## When commands act -/

/-- The chip is out of reset and its units run (R422, R458, R459). -/
def Alive (s : State) : Prop := s.pin.rst = false ∧ s.pin.stopped = false

/-- Besides, the microsequencers issue steps (R382). -/
def Booted (s : State) : Prop := Alive s ∧ s.blk.mic.status = 2

/-- Besides, no recovery sequence is under way (R328, R329): the state in which heats run. -/
def Running (s : State) : Prop := Booted s ∧ s.blk.rcv.stage = .idle

/-- A command answers a next state of which `P` holds. -/
def Gives (o : Host.Outcome State Fault Refusal) (P : State → Prop) : Prop := ∃ t, o = .next t ∧ P t

/-- The state with another block, the steps of its units noted (R324). -/
def State.withBlk (s : State) (b : Block) : State := { s with blk := noteSteps s.blk b }

/-! ## Control cores -/

/-- Core `c` executes run `n`, is between two SLWs, and nothing keeps it from issuing one more: no hold, stop, brownout hold,
outstanding SYNC call or breakpoint (R152, R166, R170, R423, R438). Its next SLW is neither the last of its stream nor in a loop. -/
structure SlotReady (s : State) (c n : Nat) (r : Run) : Prop where
  run : Running s
  core : c < 64
  issues : issuing s.blk c = some (n, r)
  fresh : (coreOf s.blk c).slw = none
  noHold : boundaryHeld s.blk r = false
  known : (curStream (coreOf s.blk c)).table = none
  noSync : syncBusy (coreOf s.blk c) = false
  noBreak : s.blk.regs.brkEnable.getLsbD c = false
  noLoop : (coreOf s.blk c).loops = []
  more : (coreOf s.blk c).off + 16 < (curStream (coreOf s.blk c)).len

/-- The state once core `c` has executed an SLW of one control slot, 16 bytes long, and goes on at stream offset `off`: the
core is `k` but for the SLW's end, and nothing else has changed. -/
def afterSlot (s : State) (c : Nat) (k : CoreSt) (off : Nat) : State :=
  s.withBlk (putCore s.blk c { k with slwCnt := satInc 32 (coreOf s.blk c).slwCnt, off := off, slw := none, syncCall := [] })

/-! ## Accesses -/

/-- An 8-byte doorbell write of a value at an offset of a host port's view, by an origin with defined privilege bits (R77). -/
abbrev DoorbellWrite (w : DbWrite) (off v : Nat) : Prop :=
  w.path = .view ∧ w.width = 8 ∧ w.off = off ∧ w.data.toNat = v ∧ w.org.priv % 4 < 2

/-- An admin command at the front of a source that the executor takes, its reserved bits clear, its function present, with
privileged rights where it needs them, for the context that it names and that is in one of its states (R98 to R103). -/
structure AdminReady (s : State) (x : AdminIn) (op : Nat) (e : BitVec 512) (fields : List (Nat × Nat)) (privOnly : Bool)
    (ctx : Option (BitVec 24)) (states : List CtxState) : Prop where
  run : Running s
  front : adminFront s.blk x.src = some e
  opcode : aOpcode e = op
  clear : reservedClear x.src e fields = true
  shown : aFunction e = 0 ∨ x.presented = true
  rights : privOnly = true → (adminOrg s.blk x.src e).priv = true
  owns : ∀ h, ctx = some h → ∃ c, ctxOf s.blk h = some c ∧ adminOwns (adminOrg s.blk x.src e) c = true ∧ c.state ∈ states

/-- The state once an admin command has been taken and has ended with ADMIN_OK and a `RESULT`; `f` is its effect on the block (R101,
R105). -/
def adminOk (s : State) (x : AdminIn) (e : BitVec 512) (f : Block → Block) (result : Nat) : State :=
  s.withBlk (adminReport (f (adminTake s.blk x.src)) x.src (aTag e) (aOpcode e) (aFunction e) 0x30 0 result true)

/-- The state once an admin command has been taken and pends: `d` is the block with its effect up to now, and ADMIN_PENDING is reported
(R105). -/
def adminPends (s : State) (x : AdminIn) (e : BitVec 512) (d : Block) (k : PendKind) : State :=
  let p : Pend := { no := d.adm.pendNo, src := x.src, tag := aTag e, opcode := aOpcode e, fn := aFunction e,
                    port := (adminOrg d x.src e).serve, kind := k }
  s.withBlk (adminReport { d with adm := { d.adm with pendNo := d.adm.pendNo + 1, pend := d.adm.pend ++ [p] } } x.src (aTag e) (aOpcode e) (aFunction e) 0x31 0 0 false)

/-- The state once an admin command has been taken and the executor waits for one of its parameters (R104). -/
def adminWaits (s : State) (x : AdminIn) (e : BitVec 512) (w : ParamWait) : State :=
  let d := adminTake s.blk x.src
  let y : AdminBusy := { src := x.src, entry := e, wait := w, gen := ((aqOf d x.src).map (fun a => a.sq.gen)).getD 0 }
  s.withBlk { d with adm := { d.adm with busy := some y } }

/-- A write of a dictionary entry that passes steps 1 to 6 of R407 and finds the arbiter free. -/
structure DictReady (s : State) (a : DictAcc) (d : Desc) : Prop where
  alive : Alive s
  tested : s.blk.mic.selftest ≠ 0
  path : reachesDict a = true
  idle : dictBusy s.blk = false
  quiet : winBusy s.blk a = false
  entry : dictDesc a.idx a.sub = some d
  checks : writeCheck s.blk a = none

/-- A dictionary operation reaches the arbiter, tested and free (R408, R411, R461). -/
structure DictArrives (s : State) (a : DictAcc) : Prop where
  alive : Alive s
  tested : s.blk.mic.selftest ≠ 0
  path : reachesDict a = true
  idle : dictBusy s.blk = false
  quiet : winBusy s.blk a = false

/-- A 4-byte write of `data` at location `o` of a region of view `v` (R388 to R391). -/
structure RegReaches (s : State) (r : RegAcc) (g : Region) (o v data : Nat) : Prop where
  alive : Alive s
  tested : s.blk.mic.selftest ≠ 0
  view : viewIdx r = some v
  width : r.width = 4
  aligned : r.off % 4 = 0
  inside : r.off < 0x200000
  region : regionOf r.off = g
  location : regionOff r.off = o
  value : r.data.toNat % 2 ^ 32 = data

/-- The region's guard lets a write pass (R393, R455). -/
def RegGuard (s : State) (r : RegAcc) : Prop :=
  if r.path = .dbg then dget s.blk 0x8010 2 = 1 ∧ dbgWritable r.off = true else granted s.blk r = true

/-- The block as a register write finds it: an origin with undefined privilege bits has been counted (R384). -/
def regNoted (b : Block) (r : RegAcc) : Block := if r.path = .view then noteOrigin b r.org else b

/-- A Grizin message for this chip arrives on an admitted port in its turn, with nothing held ahead of it, while no recovery sequence
is under way (R311, R312, R329); `tree` says whether it came on the tree. -/
structure InTurn (s : State) (h : GzHdr) (tree : Bool) : Prop where
  alive : Alive s
  idle : s.blk.rcv.stage = .idle
  port : h.port < 6
  admitted : (linkOf s.blk h.port).admitted = true
  here : h.dst = chipNo s.blk
  hops : h.hops < 63
  turn : match fmGet? s.blk.fab.rx (spaceKey h.src tree) with
    | some x => x.gen = h.gen ∧ x.next = h.seq ∧ x.held = []
    | none => h.seq = 0

/-- The block once a message has arrived and been taken in its turn, and a tree message sent on along the tree (R312, R314). -/
def arrived (b : Block) (h : GzHdr) (m : GzMsg) : Block :=
  let k := spaceKey h.src h.tree
  let x := (fmGet? b.fab.rx k).getD { gen := h.gen, next := 0, held := [], gap := none }
  let b := putSpace (heard b h.port true) k { x with next := x.next + 1, gap := none }
  if h.tree then treeForward b h m else b

/-- The space of a message's originator expects the next number. -/
def Turned (t : State) (h : GzHdr) (tree : Bool) : Prop :=
  (fmGet? t.blk.fab.rx (spaceKey h.src tree)).map (fun x => (x.gen, x.next, x.held)) = some (h.gen, h.seq + 1, [])

/-! ## The invariant -/

/-- While CHIP_RST_N is asserted, the block holds nothing but its reset values (R461) and the scratchpads, which a chip reset leaves
(R196), and no unit has stopped. Out of reset
no release is held. RESET_REQ is asserted exactly when every unit has stopped (R422, R459). -/
def ResetInv (s : State) : Prop :=
  (s.pin.rst = true →
    s.blk = { Block.fresh with ports := s.blk.ports.map (fun x => (x.1, { CPort.fresh with scratch := x.2.scratch })),
                               mem := s.blk.mem, out := s.blk.out } ∧ s.pin.stopped = false ∧
    s.pin.bypX = false ∧ s.pin.bypY = false ∧ s.pin.bypZ = false) ∧
  (s.pin.rst = false → s.pin.release = none ∧ s.pin.long = true ∧ s.pin.low = false) ∧
  s.pin.resetReq = s.pin.stopped

end Sys2Proof.Machine
end

