-- ==== Sys2Proof/WellFormed.lean ====
section
/-! DEFINITION. Well-formed commands: every operand names something that the spec gives the block. A meaning leaves the
state unchanged where an operand names nothing (log entry 1); this file says, for all commands at once, which operands do. -/

namespace Sys2Proof

/-- A cluster, its control core or its dispatch port (R11, R17): 64 of each. -/
def wfCore (c : Nat) : Bool := decide (c < 64)

/-- An engine position of a cluster (R11). -/
def wfPos (p : Nat) : Bool := decide (p < 14)

/-- A partition (R22, R27): 32. -/
def wfPart (p : Nat) : Bool := decide (p < 32)

/-- A host port (R449): 4. -/
def wfPort (p : Nat) : Bool := decide (p < 4)

/-- A link port, two to an axis (R301). -/
def wfLink (p : Nat) : Bool := decide (p < 6)

/-- An axis of the mesh (R301). -/
def wfAxis (a : Nat) : Bool := decide (a < 3)

/-- A chip number X4 Y4 Z4 (R299). -/
def wfChip (n : Nat) : Bool := decide (n < 4096)

/-- A microsequencer (R365). -/
def wfSequencer (m : Nat) : Bool := decide (m < 4)

/-- A unit number (R357): an engine, a control core, or the expander. -/
def wfUnit (u : Nat) : Bool := decide (u < 1024) && (decide (u / 64 ≠ 14) || decide (u = 0x380))

/-- A power state that a cluster can report (R430). -/
def wfPower (s : Nat) : Bool := decide (s < 4)

/-- Queues (R22): 65,536 and 16,384. -/
def wfSq (q : Nat) : Bool := decide (q < 65536)
def wfCq (q : Nat) : Bool := decide (q < 16384)

/-- A scoreboard tag (R22): 131,072. -/
def wfTag (t : Nat) : Bool := decide (t < 131072)

/-- A context ID (R31): 20 bits. -/
def wfCtx (c : Nat) : Bool := decide (c < 1048576)

/-- A table's `LIVE_ID` (R283): 12 bits. -/
def wfLive (n : Nat) : Bool := decide (n < 4096)

/-- A reservation's `RES_REF` (R257): 16 bits. -/
def wfRes (n : Nat) : Bool := decide (n < 65536)

/-- A frame number (R253): 48 bits. -/
def wfFrame (n : Nat) : Bool := decide (n < 2 ^ 48)

/-- A `BATON_ID` (R188): 16 bits. -/
def wfBaton (n : Nat) : Bool := decide (n < 65536)

/-- An admin source (R336): AQ0 to AQ3, or the mailbox. -/
def wfSource (s : Nat) : Bool := decide (s < 5)

/-- An origin (R384): port code, function, privilege bits. -/
def wfOrigin (o : Origin) : Bool := decide (o.port < 4) && decide (o.fn < 256) && decide (o.priv < 4)

/-- The width of one register access (R391). -/
def wfWidth (n : Nat) : Bool := decide (n = 1) || decide (n = 2) || decide (n = 4) || decide (n = 8)

/-- A doorbell write or register access: one origin, a width, and data that fits it. -/
def wfDb (w : DbWrite) : Bool := wfOrigin w.org && wfWidth w.width && decide (w.data.toNat < 2 ^ (8 * w.width))
def wfReg (r : RegAcc) : Bool := wfOrigin r.org && wfWidth r.width && decide (r.data.toNat < 2 ^ (8 * r.width))

/-- A dictionary operation (R404, R407): 16-bit index, 8-bit subindex, a value of the length it carries. -/
def wfDict (a : DictAcc) : Bool :=
  wfOrigin a.org && decide (a.idx < 65536) && decide (a.sub < 256) && decide (a.value < 2 ^ (8 * a.len))

/-- A queue, or the admin queue of a host port. -/
def wfQ : QRef → Bool
  | .q n => wfSq n
  | .aq p => wfPort p

/-- A read that can reach the fetch timeout. -/
def wfRead : ReadRef → Bool
  | .producer q | .ring q | .cqConsumer q => wfQ q
  | .program c | .expander c => wfCore c
  | .fragTable t | .beDesc t | .updBlock t => wfTag t

/-- An admin command's source (R99, R336). -/
def wfAdmin (x : AdminIn) : Bool := wfSource x.src

/-- A Grizin header (R311): it came in at a link port, from a chip, for a chip. -/
def wfHdr (h : GzHdr) : Bool := wfLink h.port && wfChip h.src && wfChip h.dst

/-- TIME_ANNOUNCE names a frame of 48 bits (R252, R253). -/
def wfAnnounce (a : Announce) : Bool := wfFrame a.changeAt

/-- EPOCH_SEAL names a table and a frame (R286). -/
def wfSeal (e : Seal) : Bool := wfLive e.liveId && wfFrame e.frame

/-- A remote wait of a core, or of a baton of a cluster (R134). -/
def wfRemote : RemoteWaitRef → Bool
  | .core c => wfCore c
  | .baton c n => wfCore c && wfBaton n

/-- An uncorrectable word: a copy, the state of a core's heat, a word of a unit, or a corrected symbol (R326). -/
def wfSram : SramWord → Bool
  | .copy _ _ => true
  | .heatState c _ => wfCore c
  | .corrected => true
  | .other _ => true

/-- An access of the dump: the read of a unit, or the write to a port's buffer (R332). -/
def wfDump : DumpAccess → Bool
  | .read _ => true
  | .write p => wfPort p

/-- Every operand of the command names something that the spec gives the block. -/
def Instr.wf : Instr → Bool
  | .ring w => wfDb w
  | .holdInvalidate w => wfDb w
  | .consumed w => wfDb w
  | .pollExpiry sq => wfSq sq
  | .producerReadReturn q _ _ => wfQ q
  | .entryFetchIssue q => wfQ q
  | .fetchBeatReturn q _ _ _ => wfQ q
  | .fetchTimeout r => wfRead r
  | .heat sq => wfSq sq
  | .barrier sq => wfSq sq
  | .tableUpdate sq => wfSq sq
  | .customerSubmission sq => wfSq sq
  | .reservedSubmissionOpcode sq => wfSq sq
  | .cqFullReread cq => wfQ cq
  | .cqConsumerReturn cq _ _ => wfQ cq
  | .completionWrite cq => wfCq cq
  | .coalesceTimerExpiry cq => wfCq cq
  | .interruptRequest port => wfPort port
  | .aqEnable a port => wfDict a && wfPort port
  | .aqEnableReadComplete port _ _ _ => wfPort port
  | .adminSqRing w => wfDb w
  | .adminSqHoldInvalidate w => wfDb w
  | .adminCqConsumed w => wfDb w
  | .smbSubmit r => wfReg r
  | .adminNop x => wfAdmin x
  | .sqCreate x _ => wfAdmin x
  | .sqDestroy x => wfAdmin x
  | .sqDestroyComplete sq => wfSq sq
  | .cqCreate x _ => wfAdmin x
  | .cqDestroy x => wfAdmin x
  | .contextCreate x => wfAdmin x
  | .contextDestroy x => wfAdmin x
  | .contextDestroyComplete ctx => wfCtx ctx
  | .contextQuery x => wfAdmin x
  | .partitionCreate x => wfAdmin x
  | .partitionDestroy x => wfAdmin x
  | .groupDefine x => wfAdmin x
  | .groupDelete x => wfAdmin x
  | .adminParameterReadReturn _ _ => true
  | .map x => wfAdmin x
  | .unmap x => wfAdmin x
  | .unmapFenceReached src _ => wfSource src
  | .residencyPreload x => wfAdmin x
  | .residencyRelease x => wfAdmin x
  | .yieldHint x => wfAdmin x
  | .microcodeLoad x => wfAdmin x
  | .microcodeChecksPassed => true
  | .microcodeInstall => true
  | .dumpBuffer x => wfAdmin x
  | .customerAdmin x => wfAdmin x
  | .reservedAdminOpcode x => wfAdmin x
  | .fenceMissReadReturn _ _ => true
  | .fenceWriteAck _ => true
  | .fenceSignal h _ _ _ => wfHdr h
  | .fenceApplied h _ _ => wfHdr h
  | .fenceWatch h _ _ => wfHdr h
  | .fenceReached h _ _ => wfHdr h
  | .fenceBusy h _ => wfHdr h
  | .fenceUnwatch h _ _ => wfHdr h
  | .remoteWatchRetry _ _ => true
  | .remoteWaitDeadline r => wfRemote r
  | .scoreboardStall part => part.all wfPart
  | .walkerPass => true
  | .walkerPassEnd => true
  | .slwIssue c => wfCore c
  | .drainRelease c => wfCore c
  | .pushQueueRoom c => wfCore c
  | .syncRelease c => wfCore c
  | .programLineReturn c _ _ _ => wfCore c
  | .translationWalkReturn _ _ _ => true
  | .nop c _ => wfCore c
  | .halt c _ => wfCore c
  | .brk c _ => wfCore c
  | .info c _ => wfCore c
  | .add c _ => wfCore c
  | .sub c _ => wfCore c
  | .and c _ => wfCore c
  | .or c _ => wfCore c
  | .xor c _ => wfCore c
  | .shl c _ => wfCore c
  | .shr c _ => wfCore c
  | .sra c _ => wfCore c
  | .mul c _ => wfCore c
  | .minu c _ => wfCore c
  | .maxu c _ => wfCore c
  | .sltu c _ => wfCore c
  | .slt c _ => wfCore c
  | .seq c _ => wfCore c
  | .li c _ => wfCore c
  | .lih c _ => wfCore c
  | .aadd c _ => wfCore c
  | .amov c _ => wfCore c
  | .smov c _ => wfCore c
  | .ali c _ => wfCore c
  | .alih c _ => wfCore c
  | .ld64 c _ => wfCore c
  | .ld32 c _ => wfCore c
  | .st64 c _ => wfCore c
  | .st32 c _ => wfCore c
  | .lda c _ => wfCore c
  | .sta c _ => wfCore c
  | .br c _ => wfCore c
  | .beq c _ => wfCore c
  | .bne c _ => wfCore c
  | .bltu c _ => wfCore c
  | .bgeu c _ => wfCore c
  | .blt c _ => wfCore c
  | .bge c _ => wfCore c
  | .loop c _ => wfCore c
  | .arm c _ => wfCore c
  | .call c _ => wfCore c
  | .ret c _ => wfCore c
  | .fwait c _ => wfCore c
  | .fsignal c _ => wfCore c
  | .cdecl c _ => wfCore c
  | .fread c _ => wfCore c
  | .gsend c _ => wfCore c
  | .fdepth c _ => wfCore c
  | .xcall c _ => wfCore c
  | .reservedOpcode c _ _ => wfCore c
  | .heldSignalApply c => wfCore c
  | .batonHandshake c => wfCore c
  | .breakwaterRelease c => wfCore c
  | .capRelease c => wfCore c
  | .capStateTimeout => true
  | .batonEnd c _ _ => wfCore c
  | .depthReport c pos _ => wfCore c && wfPos pos
  | .corePartEnd c => wfCore c
  | .xcallAccept c => wfCore c
  | .expanderReadReturn c _ _ => wfCore c
  | .windowTurnover c => wfCore c
  | .poolIssue c => wfCore c
  | .xcallEnd c => wfCore c
  | .occurrenceBegin part res => wfPart part && wfRes res
  | .clusterRelease _ => true
  | .beDescriptorReadReturn tag _ _ => wfTag tag
  | .bePlace part => wfPart part
  | .beStarve tag => wfTag tag
  | .chunkStart tag => wfTag tag
  | .slotAssign part => wfPart part
  | .hctRecordReadReturn ctx => wfCtx ctx
  | .eviction part => wfPart part
  | .fsync _ _ => true
  | .fsyncMissed => true
  | .timeAnnounceSend => true
  | .timeAnnounce h a => wfHdr h && wfAnnounce a
  | .timeBeacon h _ _ => wfHdr h
  | .timeBeaconReply h _ _ _ _ => wfHdr h
  | .frameBegin => true
  | .deadline tag => wfTag tag
  | .lateFrame h frame chip _ _ => wfHdr h && wfFrame frame && wfChip chip
  | .frameLengthRequest h _ => wfHdr h
  | .tideLeave h chip _ _ => wfHdr h && wfChip chip
  | .tideJoin h chip => wfHdr h && wfChip chip
  | .tideJoinAccept h frame => wfHdr h && wfFrame frame
  | .refLoss => true
  | .refLossHoldExpiry => true
  | .refReturn _ => true
  | .sheetInstall a part => wfDict a && wfPart part
  | .sheetReadReturn part _ => wfPart part
  | .sheetRemove a part => wfDict a && wfPart part
  | .frameLengthNs a => wfDict a
  | .frameChangeAt a => wfDict a
  | .frameOriginNs a => wfDict a
  | .timeSetNs a => wfDict a
  | .updateHeaderReadReturn tag _ _ _ => wfTag tag
  | .updateData h liveId _ _ => wfHdr h && wfLive liveId
  | .epochSeal h e => wfHdr h && wfSeal e
  | .sourceSuspend h liveId frame => wfHdr h && wfLive liveId && wfFrame frame
  | .sourceResume h liveId _ frame => wfHdr h && wfLive liveId && wfFrame frame
  | .windowBegin liveId => wfLive liveId
  | .tblApply liveId => wfLive liveId
  | .applyEnd liveId => wfLive liveId
  | .tblHold a => wfDict a
  | .tblRelease a => wfDict a
  | .resync a _ _ => wfDict a
  | .liveRegistryBase a => wfDict a
  | .contextTableBase a => wfDict a
  | .linkTrained port => wfLink port
  | .linkIdent port _ => wfLink port
  | .linkState h chip _ _ => wfHdr h && wfChip chip
  | .routeRecompute => true
  | .linkHeartbeat port _ => wfLink port
  | .heartbeatTimer port => wfLink port
  | .linkDead port => wfLink port
  | .linkDown port => wfLink port
  | .crcErr port => wfLink port
  | .retryReturn port _ _ => wfLink port
  | .grizinForward h _ _ => wfHdr h
  | .gapTimeout src _ => wfChip src
  | .peerAbort h chip part _ => wfHdr h && wfChip chip && wfPart part
  | .linkTestCtl port _ _ => wfLink port
  | .linkTestStart a port => wfDict a && wfLink port
  | .linkTestStop a port => wfDict a && wfLink port
  | .testDurationExpiry port => wfLink port
  | .planInstall a => wfDict a
  | .planReadReturn _ => true
  | .linkOverride a port => wfDict a && wfLink port
  | .chipNumber a => wfDict a
  | .bypassDrive axis => wfAxis axis
  | .unitProgressWatchdog unit => wfUnit unit
  | .coreWaitWatchdog c => wfCore c
  | .batonWatchdog c id => wfCore c && wfBaton id
  | .dispatchPortWatchdog c => wfCore c
  | .writeAckWatchdog _ _ => true
  | .destructionWatchdog ctx => wfCtx ctx
  | .sramUncorrectable x => wfSram x
  | .recoveryStart a => wfDict a
  | .fenceComplete => true
  | .drainComplete => true
  | .drainDeadline => true
  | .dumpAccessLimit x => wfDump x
  | .dumpBudgetExpiry => true
  | .dumpComplete => true
  | .propagateComplete => true
  | .resetReqTimer => true
  | .resetGeneration a => wfDict a
  | .chipResetAssert => true
  | .chipResetRelease _ _ => true
  | .selftestEnd _ => true
  | .shadowStart _ => true
  | .shadowStartTimeout _ => true
  | .arbitrationStart _ => true
  | .corpusCapture _ => true
  | .testDue unit => wfUnit unit
  | .structuralTestStart unit => wfUnit unit
  | .testSignatureReturn unit _ _ => wfUnit unit
  | .testBudgetExpiry unit => wfUnit unit
  | .testCmd a => wfDict a
  | .unitState a unit => wfDict a && wfUnit unit
  | .scanBase a _ => wfDict a
  | .microword m _ => wfSequencer m
  | .completeEntry m => wfSequencer m
  | .admitAs m => wfSequencer m
  | .adminFinal m => wfSequencer m
  | .pendOnFence m => wfSequencer m
  | .pendResume src _ => wfSource src
  | .stepLimit m => wfSequencer m
  | .bootLoad a => wfDict a
  | .bootLoadComplete _ => true
  | .customerKeyHash a => wfDict a
  | .snapshot r => wfReg r
  | .cfgcrcCommit r => wfReg r
  | .wideCommit r => wfReg r
  | .crcPass => true
  | .registerWrite r => wfReg r
  | .dictRead a => wfDict a
  | .dictWrite a => wfDict a
  | .dictInfo a => wfDict a
  | .calWrite a => wfDict a
  | .setEndpointId _ _ _ => true
  | .getEndpointId _ => true
  | .getMctpVersionSupport _ _ => true
  | .getMessageTypeSupport _ => true
  | .errorUnsupportedCmd _ _ => true
  | .brownoutHold _ => true
  | .holdRelease _ => true
  | .supplyReset _ => true
  | .monitorPass _ => true
  | .clusterIdle c => wfCore c
  | .clusterOff c => wfCore c
  | .clusterWake c => wfCore c
  | .powerStateReport c st => wfCore c && wfPower st
  | .dbgContinue r => wfReg r
  | .dbgStep r => wfReg r
  | .haltReq r => wfReg r
  | .brkTimeout c => wfCore c
  | .grizinCrcDrop port _ _ => wfLink port
  | .dictBadRequest a => wfDict a
  | .inBandInterruptRead => true
  | .supplyAboveResetLevel _ => true
  | .resetAssertionMinimum => true

end Sys2Proof
end

