-- ==== Sys2Proof/Certificates/Slice0/Obligations.lean ====
section
/-! DEFINITION. The statements for the provers. Each says, for every state and operands that meet its hypotheses, what a command
answers; `tests` are in Tests/Slice0.lean. -/

open Sys2Proof Sys2Proof.Machine

/-! ## Control slots (spec/06_long_words.md) -/

/-- The slots of R156 with a scalar result and a second operand `x`: `sD` takes the result that the table gives for
`p = sA` and `x`; s0 discards it; the core goes on after its 16-byte SLW, and nothing else changes. -/
def Obligations.SlotAlu : Prop :=
  ∀ (s : State) (c n : Nat) (r : Run) (f : SlotFields), SlotReady s c n r →
    f.func = 0 → (if f.i = true then f.b = 0 else f.imm = 0) →
    let k := coreOf s.blk c
    let p := sGet k f.a
    let x := if f.i = true then f.imm.signExtend 64 else sGet k f.b
    let m := x.toNat % 64
    let res (v : Word) := Host.Outcome.next (ρ := Refusal) (φ := Fault) (afterSlot s c (sSet k f.d v) (k.off + 16))
    exec (.add c f) s = res (p + x) ∧ exec (.sub c f) s = res (p - x) ∧ exec (.and c f) s = res (p &&& x) ∧
    exec (.or c f) s = res (p ||| x) ∧ exec (.xor c f) s = res (p ^^^ x) ∧ exec (.shl c f) s = res (p <<< m) ∧
    exec (.shr c f) s = res (p >>> m) ∧ exec (.sra c f) s = res (p.sshiftRight m) ∧ exec (.mul c f) s = res (p * x) ∧
    exec (.minu c f) s = res (if p.toNat < x.toNat then p else x) ∧
    exec (.maxu c f) s = res (if p.toNat < x.toNat then x else p) ∧
    exec (.sltu c f) s = res (if p.toNat < x.toNat then 1 else 0) ∧
    exec (.slt c f) s = res (if p.toInt < x.toInt then 1 else 0) ∧
    exec (.seq c f) s = res (if p = x then 1 else 0)

/-- The slots of R156 that move values between scalar and address registers or load an immediate; s0 and a0 discard what is
written to them. -/
def Obligations.SlotMoves : Prop :=
  ∀ (s : State) (c n : Nat) (r : Run) (d a : BitVec 5) (imm : BitVec 32), SlotReady s c n r →
    let k := coreOf s.blk c
    let res (k' : CoreSt) := Host.Outcome.next (ρ := Refusal) (φ := Fault) (afterSlot s c k' (k.off + 16))
    exec (.li c ⟨d, 0, 0, false, 0, imm⟩) s = res (sSet k d (imm.signExtend 64)) ∧
    exec (.lih c ⟨d, 0, 0, false, 0, imm⟩) s = res (sSet k d (imm ++ (sGet k d).extractLsb' 0 32)) ∧
    (d.toNat < 16 → exec (.ali c ⟨d, 0, 0, false, 0, imm⟩) s = res (aSet k d (imm.signExtend 64)) ∧
      exec (.alih c ⟨d, 0, 0, false, 0, imm⟩) s = res (aSet k d (imm ++ (aGet k d).extractLsb' 0 32)) ∧
      exec (.amov c ⟨d, a, 0, false, 0, 0⟩) s = res (aSet k d (sGet k a))) ∧
    (a.toNat < 16 → exec (.smov c ⟨d, a, 0, false, 0, 0⟩) s = res (sSet k d (aGet k a))) ∧
    (d.toNat < 16 → a.toNat < 16 →
      exec (.aadd c ⟨d, a, 0, true, 0, imm⟩) s = res (aSet k d (aGet k a + imm.signExtend 64)) ∧
      ∀ b, exec (.aadd c ⟨d, a, b, false, 0, 0⟩) s = res (aSet k d (aGet k a + sGet k b)))

/-- The local accesses of R158: within the 192 KiB data window and aligned, a load fills its register, LD32 with zeros above,
and a store writes its bytes, little-endian. -/
def Obligations.SlotLocal : Prop :=
  ∀ (s : State) (c n : Nat) (r : Run) (x a : BitVec 5) (imm : BitVec 32), SlotReady s c n r → a.toNat < 16 →
    let k := coreOf s.blk c
    let ea := (aGet k a + imm.signExtend 64).toNat
    let res (k' : CoreSt) := Host.Outcome.next (ρ := Refusal) (φ := Fault) (afterSlot s c k' (k.off + 16))
    (ea % 8 = 0 → ea + 8 ≤ 196608 →
      exec (.ld64 c ⟨x, a, 0, false, 0, imm⟩) s = res (sSet k x (BitVec.ofNat 64 (memReadLE k.data ea 8))) ∧
      exec (.st64 c ⟨0, a, x, false, 0, imm⟩) s = res { k with data := memWriteLE k.data ea 8 (sGet k x).toNat } ∧
      (x.toNat < 16 →
        exec (.lda c ⟨x, a, 0, false, 0, imm⟩) s = res (aSet k x (BitVec.ofNat 64 (memReadLE k.data ea 8))) ∧
        exec (.sta c ⟨0, a, x, false, 0, imm⟩) s = res { k with data := memWriteLE k.data ea 8 (aGet k x).toNat })) ∧
    (ea % 4 = 0 → ea + 4 ≤ 196608 →
      exec (.ld32 c ⟨x, a, 0, false, 0, imm⟩) s = res (sSet k x (BitVec.ofNat 64 (memReadLE k.data ea 4))) ∧
      exec (.st32 c ⟨0, a, x, false, 0, imm⟩) s = res { k with data := memWriteLE k.data ea 4 (sGet k x).toNat })

/-- The branches of R156 and R159: taken, the core goes on at the SLW's offset plus 8 × `IMM`, a place within the stream; not
taken, after the SLW. No register changes. -/
def Obligations.SlotBranch : Prop :=
  ∀ (s : State) (c n : Nat) (r : Run) (a b : BitVec 5) (imm : BitVec 32), SlotReady s c n r →
    let k := coreOf s.blk c
    let t := (k.off : Int) + 8 * imm.toInt
    let p := sGet k a
    let x := sGet k b
    let goes (taken : Bool) := Host.Outcome.next (ρ := Refusal) (φ := Fault)
      (afterSlot s c k (if taken then t.toNat else k.off + 16))
    0 ≤ t → t < (curStream k).len →
      exec (.br c ⟨0, 0, 0, false, 0, imm⟩) s = goes true ∧
      exec (.beq c ⟨0, a, b, false, 0, imm⟩) s = goes (p = x) ∧
      exec (.bne c ⟨0, a, b, false, 0, imm⟩) s = goes (p ≠ x) ∧
      exec (.bltu c ⟨0, a, b, false, 0, imm⟩) s = goes (p.toNat < x.toNat) ∧
      exec (.bgeu c ⟨0, a, b, false, 0, imm⟩) s = goes (x.toNat ≤ p.toNat) ∧
      exec (.blt c ⟨0, a, b, false, 0, imm⟩) s = goes (p.toInt < x.toInt) ∧
      exec (.bge c ⟨0, a, b, false, 0, imm⟩) s = goes (x.toInt ≤ p.toInt)

/-- Loops and streams (R160, R162): LOOP opens a body of 8 × `IMM[15:0]` bytes after its SLW, iteration 0 in `sD`, or passes it by
on a count of 0; ARM replaces the stream of the level and CALL opens another; RET closes one; HALT ends the stream at every
level. -/
def Obligations.SlotFlow : Prop :=
  ∀ (s : State) (c n : Nat) (r : Run), SlotReady s c n r →
    let k := coreOf s.blk c
    let res (k' : CoreSt) (off : Nat) := Host.Outcome.next (ρ := Refusal) (φ := Fault) (afterSlot s c k' off)
    exec (.halt c ⟨0, 0, 0, false, 0, 0⟩) s =
      res { k with ended := true, levels := k.levels.drop (k.levels.length - 1) } k.off ∧
    (∀ (d a : BitVec 5) (imm : BitVec 32), imm.toNat < 65536 → 0 < imm.toNat →
      let count := (sGet k a).toNat % 2 ^ 32
      (0 < count → exec (.loop c ⟨d, a, 0, false, 0, imm⟩) s =
        res (sSet { k with loops := [{ first := k.off + 16, last := k.off + 16 + 8 * imm.toNat, count := count, reg := d.toNat,
                                       iter := 0, level := k.levels.length }] } d 0) (k.off + 16)) ∧
      (count = 0 → k.off + 16 + 8 * imm.toNat < (curStream k).len →
        exec (.loop c ⟨d, a, 0, false, 0, imm⟩) s = res k (k.off + 16 + 8 * imm.toNat))) ∧
    (∀ (a b : BitVec 5) (l : Level) (ls : List Level), a.toNat < 16 → k.levels = l :: ls →
      let va := (aGet k a).toNat
      let len := (sGet k b).toNat
      va % 8 = 0 → len % 8 = 0 → 0 < len → len < 2 ^ 32 →
        let st : Stream := { frags := [{ start := 0, va := va, len := len, host := false }], len := len, table := none }
        exec (.arm c ⟨0, a, b, false, 0, 0⟩) s = res { k with levels := { l with stream := st } :: ls } 0 ∧
        (ls.length < 8 → exec (.call c ⟨0, a, b, false, 0, 0⟩) s =
          res { k with levels := { stream := st, ret := k.off + 16 } :: l :: ls } 0)) ∧
    (∀ (l m : Level) (ls : List Level), k.levels = l :: m :: ls → m.stream.table = none → l.ret < m.stream.len →
      exec (.ret c ⟨0, 0, 0, false, 0, 0⟩) s = res { k with levels := m :: ls } l.ret)

/-- NOP, INFO and FDEPTH (R156, R157, R167), and BRK while breakpoints are not enabled for the core (R438): what INFO and FDEPTH
write to `sD`. -/
def Obligations.SlotReads : Prop :=
  ∀ (s : State) (c n : Nat) (r : Run) (d : BitVec 5), SlotReady s c n r →
    let k := coreOf s.blk c
    let res (k' : CoreSt) := Host.Outcome.next (ρ := Refusal) (φ := Fault) (afterSlot s c k' (k.off + 16))
    exec (.nop c ⟨0, 0, 0, false, 0, 0⟩) s = res k ∧
    (∀ imm : BitVec 32, imm.toNat < 256 → exec (.brk c ⟨0, 0, 0, false, 0, imm⟩) s = res k) ∧
    exec (.info c ⟨d, 0, 0, false, 0, 0⟩) s = res (sSet k d (BitVec.ofNat 64 c)) ∧
    exec (.info c ⟨d, 0, 0, false, 0, 2⟩) s = res (sSet k d (BitVec.ofNat 64 r.clusters.length)) ∧
    exec (.info c ⟨d, 0, 0, false, 0, 8⟩) s = res (sSet k d (BitVec.ofNat 64 s.blk.tide.time)) ∧
    (∀ imm : BitVec 32, imm.toNat < 14 →
      exec (.fdepth c ⟨d, 0, 0, false, 0, imm⟩) s = res (sSet k d
        (if present s.blk c imm.toNat then BitVec.ofNat 64 (fmGet (portOf s.blk c).free imm.toNat 64)
         else 0x8000000000000000#64)))

/-- A control slot with a reserved opcode is skipped (R172, R173): the skip is counted and marked on the heat, no register of the
core changes, and the core goes on after the SLW. -/
def Obligations.SlotReserved : Prop :=
  ∀ (s : State) (c n : Nat) (r : Run) (op : BitVec 8) (f : SlotFields), SlotReady s c n r → formOf op = none →
    let k := coreOf s.blk c
    Gives (exec (.reservedOpcode c op f) s) (fun t =>
      let k' := coreOf t.blk c
      k'.off = k.off + 16 ∧ k'.s = k.s ∧ k'.a = k.a ∧ k'.data = k.data ∧ k'.skips = k.skips + 1 ∧
      (runOf t.blk n).map (fun x => x.skips) = some true ∧
      fmGet t.blk.ctr 0x0C0 0 = satAdd 32 (fmGet s.blk.ctr 0x0C0 0) 1 ∧
      (8 ≤ k.skips → t.blk.mem = s.blk.mem ∧ t.blk.skipSeq = s.blk.skipSeq))

/-- Fence slots on a fence that the cache holds and the context reaches (R120, R136, R163 to R165): FWAIT, with or without CREDIT, of a
reached value and FREAD go on, FWAIT of one not reached holds the core and registers the wait, FSIGNAL holds the signal behind the
core's earlier batons, and CDECL declares a credit once, up to 16 on a core; a seventeenth is skipped. -/
def Obligations.SlotFences : Prop :=
  ∀ (s : State) (c n : Nat) (r : Run) (d a b : BitVec 5) (g cur : Word), SlotReady s c n r → a.toNat < 16 →
    isHeatRun r = true → sampleOf s.blk n = none →
    let k := coreOf s.blk c
    let va := (aGet k a).toNat
    va % 8 = 0 → tlbHit s.blk r.ctx va = true → translate s.blk r.ctx va true = some g.toNat →
    translate s.blk r.ctx va false = some g.toNat → isLocal s.blk g.toNat = true → fenceNow s.blk g = some cur →
    let res (k' : CoreSt) := Host.Outcome.next (ρ := Refusal) (φ := Fault) (afterSlot s c k' (k.off + 16))
    (∀ cr : Bool, let fwait := exec (.fwait c ⟨0, a, b, false, if cr then 1 else 0, 0⟩) s
      (reached cur (sGet k b) = true → fwait = res k) ∧
      (reached cur (sGet k b) = false → fenceRoom s.blk g = true → Gives fwait (fun t =>
        (coreOf t.blk c).hold = .localFence g (sGet k b) cr ∧ (coreOf t.blk c).off = k.off ∧
        t.blk.fen.waits = s.blk.fen.waits ++ [{ addr := g, value := sGet k b, who := .core c cr }]))) ∧
    exec (.fread c ⟨d, a, 0, false, 0, 0⟩) s = res (sSet k d cur) ∧
    exec (.fsignal c ⟨0, a, b, false, 0, 0⟩) s =
      res { k with held := k.held ++ [{ fences := [(va, none)], value := sGet k b, after := k.pushed, calls := k.calls }] } ∧
    (k.credits.contains g = true → exec (.cdecl c ⟨0, a, 0, false, 0, 0⟩) s = res k) ∧
    (k.credits.contains g = false → k.credits.length < 16 →
      exec (.cdecl c ⟨0, a, 0, false, 0, 0⟩) s = res { k with credits := k.credits ++ [g] }) ∧
    (k.credits.contains g = false → 16 ≤ k.credits.length → Gives (exec (.cdecl c ⟨0, a, 0, false, 0, 0⟩) s) (fun t =>
      (coreOf t.blk c).off = k.off + 16 ∧ (coreOf t.blk c).credits = k.credits ∧ (coreOf t.blk c).skips = k.skips + 1))

/-- GSEND and XCALL (R61, R164, R166). A GSEND to a local group of any number of members of the partition, or to a domain group whose
chips have routes, holds one signal for all its members behind the core's earlier batons; one to a group that does not exist or has a
member outside the partition is skipped. An XCALL of an aligned request block, with or without SYNC, hands a call to the expander and
the core goes on, with SYNC at its next SLW once the call has ended; an unaligned one is skipped, and a fifth call holds. -/
def Obligations.SlotSendCall : Prop :=
  ∀ (s : State) (c n : Nat) (r : Run) (a b : BitVec 5) (imm : BitVec 32), SlotReady s c n r → a.toNat < 16 →
    isHeatRun r = true → sampleOf s.blk n = none →
    let k := coreOf s.blk c
    let va := (aGet k a).toNat
    let gsend := exec (.gsend c ⟨0, a, b, false, 0, imm⟩) s
    let heldFor (fs : List (Nat × Option Nat)) : Host.Outcome State Fault Refusal := .next (afterSlot s c
      { k with held := k.held ++ [{ fences := fs, value := sGet k b, after := k.pushed, calls := k.calls }] } (k.off + 16))
    (∀ gr : Group, imm.toNat < 0x8000 → fmGet? s.blk.obj.groups imm.toNat = some gr →
      (∀ m ∈ gr.flat, m ∈ partClusters s.blk (heatPart s.blk r)) → va % 8 = 0 →
      (∀ m ∈ gr.flat, tlbHit s.blk r.ctx ((va + 8 * m) % 2 ^ 64) = true ∧
        ∃ g, translate s.blk r.ctx ((va + 8 * m) % 2 ^ 64) true = some g ∧ routed s.blk (gchip g) = true) →
      gsend = heldFor (gr.flat.map (fun m => ((va + 8 * m) % 2 ^ 64, none)))) ∧
    (∀ (p : Plan) (gr : Group), 0x8000 ≤ imm.toNat → s.blk.fab.plan = some p → fmGet? p.groups imm.toNat = some gr →
      (∀ m ∈ gr.flat, routed s.blk m = true) → va % 8 = 0 → tlbHit s.blk r.ctx va = true →
      (translate s.blk r.ctx va true).isSome = true → gsend = heldFor (gr.flat.map (fun m => (va, some m)))) ∧
    (va % 8 = 0 → imm.toNat < 0x8000 →
      (∀ gr, fmGet? s.blk.obj.groups imm.toNat = some gr → ∃ m ∈ gr.flat, m ∉ partClusters s.blk (heatPart s.blk r)) →
      Gives gsend (fun t => (coreOf t.blk c).off = k.off + 16 ∧ (coreOf t.blk c).held = k.held ∧
        (coreOf t.blk c).skips = k.skips + 1)) ∧
    (let ea := (aGet k a + imm.signExtend 64).toNat
     let id := s.blk.xp.nextId
     ∀ sync : Bool, let xcall := exec (.xcall c ⟨0, a, 0, false, if sync then 1 else 0, imm⟩) s
      (ea % 64 = 0 → k.calls.length < 4 → Gives xcall (fun t =>
        (coreOf t.blk c).off = k.off + 16 ∧ (coreOf t.blk c).calls = k.calls ++ [id] ∧ (coreOf t.blk c).hold = .none ∧
        (coreOf t.blk c).syncCall = (if sync then [id] else []) ∧
        (fmGet? t.blk.xp.calls id).map (fun x => (x.core, x.run, x.va, x.phase)) = some (c, n, ea, .accept))) ∧
      (ea % 64 ≠ 0 → Gives xcall (fun t => (coreOf t.blk c).off = k.off + 16 ∧ (coreOf t.blk c).calls = k.calls ∧
        t.blk.xp = s.blk.xp ∧ (coreOf t.blk c).skips = k.skips + 1)) ∧
      (ea % 64 = 0 → 4 ≤ k.calls.length → Gives xcall (fun t => (coreOf t.blk c).hold = .calls ∧
        (coreOf t.blk c).off = k.off ∧ t.blk.xp = s.blk.xp)))

/-! ## The machine (spec/20_integration.md, spec/13_recovery.md, spec/15_microcode.md) -/

/-- What reset leaves, by R461 and the rules it names: CHIP_RST_N still asserted, no output driven, no command waiting, nothing
counted, time 0, every credit 64 and every cluster ordered `OFF`, no context, partition, group or plan, every link DOWN, the
microsequencers empty, every dictionary entry at its default. -/
def Obligations.ResetState : Prop :=
  let s := State.reset
  s.pending = [] ∧ s.pin.rst = true ∧ s.pin.resetReq = false ∧ s.pin.bypX = false ∧ s.pin.bypY = false ∧ s.pin.bypZ = false ∧
  s.blk.tide.time = 0 ∧ s.blk.mic.status = 0 ∧ s.blk.mic.selftest = 0 ∧ s.blk.fab.plan = none ∧ s.blk.obj.ctxs = [] ∧
  s.blk.obj.parts = [] ∧ s.blk.obj.groups = [] ∧ s.blk.sb.items = [] ∧ s.blk.rcv.stage = .idle ∧
  (∀ key, fmGet s.blk.ctr key 0 = 0) ∧ (∀ c pos, creditOf (portOf s.blk c) pos = 64) ∧ (∀ c, (pwrOf s.blk c).order = 0) ∧
  (∀ p, (linkOf s.blk p).state = 0) ∧ (∀ c i, sGet (coreOf s.blk c) i = 0 ∧ aGet (coreOf s.blk c) i = 0) ∧
  (∀ idx sub d, dictDesc idx sub = some d → dget s.blk idx sub = d.dflt)

/-- The state after reset satisfies the invariant of the level signals. -/
def Obligations.ResetInvHolds : Prop := ResetInv State.reset

/-- Every step keeps the invariant of the level signals, from every state: while CHIP_RST_N is asserted the block holds its reset
values whatever is commanded (R461), a held release ends with the reset (R457, R458), and RESET_REQ stays asserted exactly while
every unit is stopped (R422, R459). -/
def Obligations.ResetInvKept : Prop := ∀ s t : State, ResetInv s → step s = .next t → ResetInv t

/-- A step takes the command at the front of the queue: it is `exec` of that command on the state with the rest of the queue. -/
def Obligations.StepRunsFront : Prop :=
  ∀ (s : State) (c : Instr) (rest : List Instr), s.pending = c :: rest → step s = exec c { s with pending := rest }

/-- On an empty queue one edge of REF passes (DESIGN CHOICE, log entry 6): out of reset the queue stays empty, and reference
time goes on by 10 ns when REF is present, the unit is locked and no correction is due (R250). -/
def Obligations.EmptyQueueEdge : Prop :=
  ∀ s : State, s.pending = [] → Gives (step s) (fun t => t.pending = [] ∧ t.pin = s.pin ∧
    (Alive s → s.blk.tide.refOn = true → s.blk.tide.locked = true → s.blk.tide.slew = 0 →
      t.blk.tide.time = (s.blk.tide.time + 10) % 2 ^ 64 ∧ t.blk.tide.edges = satInc 32 s.blk.tide.edges))

/-- Every command answers a next state, and leaves the waiting commands alone. -/
def Obligations.ExecAnswers : Prop := ∀ (c : Instr) (s : State), Gives (exec c s) (fun t => t.pending = s.pending)

/-- While every unit is stopped (R422, R459) or CHIP_RST_N is asserted (R458), no command changes anything but those of the
reset signal: an assertion, a release, the end of its minimum, and the supply that a release waits for. -/
def Obligations.StoppedInert : Prop :=
  ∀ (c : Instr) (s : State), s.pin.rst = true ∨ s.pin.stopped = true → c ≠ .chipResetAssert →
    (∀ f v, c ≠ .chipResetRelease f v) → (∀ v, c ≠ .supplyAboveResetLevel v) → c ≠ .resetAssertionMinimum → exec c s = .next s

/-- While a recovery sequence runs (R329) or before the microsequencers hold an image (R382), the cores issue nothing, no baton is
handed over, nothing is fetched, admitted, placed, completed or taken from an admin queue, and no occurrence, window, apply or
test begins: each of these commands changes nothing. The reply to a read, or its timeout, is dropped too: during a sequence it
only ends the drain's wait for that read (R331). Before the microsequencers hold an image, the power group's orders, the routes and
the delay monitors stand still as well. -/
def Obligations.RecoveryInert : Prop :=
  (∀ s : State, s.blk.rcv.stage ≠ .idle ∨ s.blk.mic.status ≠ 2 →
    (∀ (c : Nat) (f : SlotFields),
      exec (.nop c f) s = .next s ∧ exec (.halt c f) s = .next s ∧ exec (.brk c f) s = .next s ∧
      exec (.info c f) s = .next s ∧ exec (.add c f) s = .next s ∧ exec (.sub c f) s = .next s ∧
      exec (.and c f) s = .next s ∧ exec (.or c f) s = .next s ∧ exec (.xor c f) s = .next s ∧
      exec (.shl c f) s = .next s ∧ exec (.shr c f) s = .next s ∧ exec (.sra c f) s = .next s ∧
      exec (.mul c f) s = .next s ∧ exec (.minu c f) s = .next s ∧ exec (.maxu c f) s = .next s ∧
      exec (.sltu c f) s = .next s ∧ exec (.slt c f) s = .next s ∧ exec (.seq c f) s = .next s ∧
      exec (.li c f) s = .next s ∧ exec (.lih c f) s = .next s ∧ exec (.aadd c f) s = .next s ∧
      exec (.amov c f) s = .next s ∧ exec (.smov c f) s = .next s ∧ exec (.ali c f) s = .next s ∧
      exec (.alih c f) s = .next s ∧ exec (.ld64 c f) s = .next s ∧ exec (.ld32 c f) s = .next s ∧
      exec (.st64 c f) s = .next s ∧ exec (.st32 c f) s = .next s ∧ exec (.lda c f) s = .next s ∧
      exec (.sta c f) s = .next s ∧ exec (.br c f) s = .next s ∧ exec (.beq c f) s = .next s ∧
      exec (.bne c f) s = .next s ∧ exec (.bltu c f) s = .next s ∧ exec (.bgeu c f) s = .next s ∧
      exec (.blt c f) s = .next s ∧ exec (.bge c f) s = .next s ∧ exec (.loop c f) s = .next s ∧
      exec (.arm c f) s = .next s ∧ exec (.call c f) s = .next s ∧ exec (.ret c f) s = .next s ∧
      exec (.fwait c f) s = .next s ∧ exec (.fsignal c f) s = .next s ∧ exec (.cdecl c f) s = .next s ∧
      exec (.fread c f) s = .next s ∧ exec (.gsend c f) s = .next s ∧ exec (.fdepth c f) s = .next s ∧
      exec (.xcall c f) s = .next s) ∧
    (∀ (x : AdminIn),
      exec (.customerAdmin x) s = .next s ∧ exec (.reservedAdminOpcode x) s = .next s ∧ exec (.adminNop x) s = .next s ∧
      exec (.sqDestroy x) s = .next s ∧ exec (.cqDestroy x) s = .next s ∧ exec (.contextCreate x) s = .next s ∧
      exec (.contextDestroy x) s = .next s ∧ exec (.contextQuery x) s = .next s ∧ exec (.partitionCreate x) s = .next s ∧
      exec (.partitionDestroy x) s = .next s ∧ exec (.groupDefine x) s = .next s ∧ exec (.groupDelete x) s = .next s ∧
      exec (.map x) s = .next s ∧ exec (.unmap x) s = .next s ∧ exec (.residencyPreload x) s = .next s ∧
      exec (.residencyRelease x) s = .next s ∧ exec (.yieldHint x) s = .next s ∧ exec (.microcodeLoad x) s = .next s ∧
      exec (.dumpBuffer x) s = .next s) ∧
    (∀ (c : Nat),
      exec (.slwIssue c) s = .next s ∧ exec (.drainRelease c) s = .next s ∧ exec (.pushQueueRoom c) s = .next s ∧
      exec (.syncRelease c) s = .next s ∧ exec (.heldSignalApply c) s = .next s ∧ exec (.batonHandshake c) s = .next s ∧
      exec (.breakwaterRelease c) s = .next s ∧ exec (.capRelease c) s = .next s ∧ exec (.corePartEnd c) s = .next s ∧
      exec (.xcallAccept c) s = .next s ∧ exec (.windowTurnover c) s = .next s ∧ exec (.poolIssue c) s = .next s ∧
      exec (.xcallEnd c) s = .next s ∧ exec (.coreWaitWatchdog c) s = .next s) ∧
    (∀ (sq : Nat),
      exec (.pollExpiry sq) s = .next s ∧ exec (.heat sq) s = .next s ∧ exec (.barrier sq) s = .next s ∧
      exec (.tableUpdate sq) s = .next s ∧ exec (.customerSubmission sq) s = .next s ∧
      exec (.reservedSubmissionOpcode sq) s = .next s ∧ exec (.sqDestroyComplete sq) s = .next s) ∧
    exec .microcodeChecksPassed s = .next s ∧ exec .microcodeInstall s = .next s ∧ exec .walkerPass s = .next s ∧
    exec .walkerPassEnd s = .next s ∧ exec .timeAnnounceSend s = .next s ∧
    (∀ (m : Nat),
      exec (.completeEntry m) s = .next s ∧ exec (.admitAs m) s = .next s ∧ exec (.adminFinal m) s = .next s ∧
      exec (.pendOnFence m) s = .next s ∧ exec (.stepLimit m) s = .next s) ∧
    (∀ (run : Nat),
      exec (.shadowStart run) s = .next s ∧ exec (.shadowStartTimeout run) s = .next s ∧
      exec (.arbitrationStart run) s = .next s ∧ exec (.corpusCapture run) s = .next s) ∧
    (∀ (part : Nat),
      exec (.bePlace part) s = .next s ∧ exec (.slotAssign part) s = .next s ∧ exec (.eviction part) s = .next s) ∧
    (∀ (liveId : Nat),
      exec (.windowBegin liveId) s = .next s ∧ exec (.tblApply liveId) s = .next s ∧ exec (.applyEnd liveId) s = .next s) ∧
    (∀ (unit : Nat),
      exec (.testDue unit) s = .next s ∧ exec (.structuralTestStart unit) s = .next s ∧
      exec (.testBudgetExpiry unit) s = .next s) ∧
    (∀ (cq : Nat),
      exec (.completionWrite cq) s = .next s ∧ exec (.coalesceTimerExpiry cq) s = .next s) ∧
    (∀ (ctx : Nat),
      exec (.contextDestroyComplete ctx) s = .next s) ∧
    (∀ (src : Nat) (tag : BitVec 16),
      exec (.unmapFenceReached src tag) s = .next s ∧ exec (.pendResume src tag) s = .next s) ∧
    (∀ (tag : Nat),
      exec (.beStarve tag) s = .next s ∧ exec (.chunkStart tag) s = .next s) ∧
    (∀ (q : QRef),
      exec (.entryFetchIssue q) s = .next s) ∧
    (∀ (cq : QRef),
      exec (.cqFullReread cq) s = .next s) ∧
    (∀ (port : Nat),
      exec (.interruptRequest port) s = .next s) ∧
    (∀ (addr value : Word),
      exec (.remoteWatchRetry addr value) s = .next s) ∧
    (∀ (r : RemoteWaitRef),
      exec (.remoteWaitDeadline r) s = .next s) ∧
    (∀ (part : Option Nat),
      exec (.scoreboardStall part) s = .next s) ∧
    (∀ (c : Nat) (op : BitVec 8) (f : SlotFields),
      exec (.reservedOpcode c op f) s = .next s) ∧
    (∀ (part res : Nat),
      exec (.occurrenceBegin part res) s = .next s) ∧
    (∀ (unit : Nat) (sig : Word) (corpus : List (List (Nat × BitVec 32))),
      exec (.testSignatureReturn unit sig corpus) s = .next s) ∧
    (∀ (m : Nat) (r : SvcReply),
      exec (.microword m r) s = .next s) ∧
    (∀ (x : AdminIn) (producer : BitVec 32),
      exec (.sqCreate x producer) s = .next s) ∧
    (∀ (x : AdminIn) (consumer : BitVec 32),
      exec (.cqCreate x consumer) s = .next s) ∧
    (let dropped (l : List Access) := Host.Outcome.next (ρ := Refusal) (φ := Fault)
       (if alive s && ready s.blk then s.withBlk (retire s.blk l) else s)
     (∀ q t value, exec (.producerReadReturn q t value) s = dropped [.read (.producer q)]) ∧
     (∀ r, exec (.fetchTimeout r) s = dropped (timedOut s.blk r)) ∧
     (∀ g r, exec (.adminParameterReadReturn g r) s = dropped [.param]) ∧
     (∀ c h va words, exec (.programLineReturn c h va words) s = dropped [.read (.program c)]) ∧
     (∀ ctx va write, exec (.translationWalkReturn ctx va write) s = dropped [.walk ctx va.toNat write]) ∧
     (∀ c h d, exec (.expanderReadReturn c h d) s = dropped [.read (.expander c)]) ∧
     (∀ tag h d, exec (.beDescriptorReadReturn tag h d) s = dropped [.read (.beDesc tag)]) ∧
     (∀ tag h hdr recs, exec (.updateHeaderReadReturn tag h hdr recs) s = dropped [.read (.updBlock tag)]) ∧
     (∀ ctx, exec (.hctRecordReadReturn ctx) s = dropped [.hct ctx]))) ∧
  (∀ s : State, s.blk.mic.status ≠ 2 →
    exec .capStateTimeout s = .next s ∧ exec .routeRecompute s = .next s ∧ (∀ l, exec (.monitorPass l) s = .next s) ∧
    ∀ c, exec (.clusterIdle c) s = .next s ∧ exec (.clusterOff c) s = .next s ∧ exec (.clusterWake c) s = .next s)

/-! ## The control cores: issuing, holds and the end of a part (spec/06_long_words.md) -/

/-- SLW_ISSUE (R148, R150, R152): an SLW of one control slot that the program window holds has the effect of that slot's row; an
SLW of its header alone with `END` ends the stream at every level; a program line that the window lacks is read, the core holding
for it. -/
def Obligations.CoreIssue : Prop :=
  ∀ (s : State) (c n : Nat) (r : Run) (fr : Frag), SlotReady s c n r →
    let k := coreOf s.blk c
    fragAt (curStream k) k.off = some fr → k.off + 16 ≤ fr.start + fr.len →
    let va := fr.va + (k.off - fr.start)
    (∀ (op : BitVec 8) (f : SlotFields), cachedWord k r.ctx fr.host va = some 1 →
      cachedWord k r.ctx fr.host (va + 8) = some (slotWord op f) → exec (.slwIssue c) s = ctrlRow c op f s) ∧
    (cachedWord k r.ctx fr.host va = some (1#64 <<< 49) → exec (.slwIssue c) s =
      .next (afterSlot s c { k with ended := true, levels := k.levels.drop (k.levels.length - 1) } k.off)) ∧
    (∀ g, cachedWord k r.ctx fr.host va = none → fr.host = false → tlbHit s.blk r.ctx (va / 64 * 64) = true →
      translateOwn s.blk r.ctx (va / 64 * 64) false = some g → bktPass s.blk r.part (stackBucket s.blk g) 64 true = true →
      Gives (exec (.slwIssue c) s) (fun t => (coreOf t.blk c).hold = .line (va / 64 * 64) false true ∧
        (coreOf t.blk c).off = k.off ∧ (coreOf t.blk c).slw = none ∧
        bktLevel t.blk r.part (stackBucket s.blk g) = bktLevel s.blk r.part (stackBucket s.blk g) - 64000))

/-- The ends of holds (R152, R153, R166, R436): when every earlier baton of the heat has ended, when the push queue has room,
when the SYNC calls have ended, and when the program line has come, the hold ends, its time counts, and the core goes on with
its SLW as SLW_ISSUE does. -/
def Obligations.CoreReleases : Prop :=
  ∀ (s : State) (c n : Nat), Running s →
    let k := coreOf s.blk c
    let goesOn (k' : CoreSt) : Host.Outcome State Fault Refusal :=
      .next (s.withBlk (finish (slwIssue (putCore s.blk c (holdClosed k' s.blk.tide.clock)) c)))
    exec (.slwIssue c) s = .next (s.withBlk (finish (slwIssue s.blk c))) ∧
    (k.run = some n → k.hold = .drain → coreBusy s.blk c n = false → exec (.drainRelease c) s = goesOn k) ∧
    (∀ w, k.slw = some w → k.hold = .pushQueue → k.pushQ.length + hCount w.hdr ≤ 32 → exec (.pushQueueRoom c) s = goesOn k) ∧
    (k.hold = .sync → k.syncCall.any k.calls.contains = false → exec (.syncRelease c) s = goesOn k) ∧
    (∀ (r : Run) (h : HeatRead) (va : Word) (host : Bool) (ws : List Word), k.run = some n → runOf s.blk n = some r →
      k.ended = false → heatReadNow s.blk r.tag h = true → k.hold = .line va.toNat host true → ws.length = 8 →
      exec (.programLineReturn c h va ws) s =
        goesOn (lineAdd k { ctx := r.ctx, va := va.toNat, host := host, words := ws })) ∧
    (∀ (r : Run) (va : Word) (write : Bool) (g : Nat), c < 64 → k.run = some n → runOf s.blk n = some r →
      k.hold = .walk va.toNat write → translate s.blk r.ctx va.toNat write = some g → tlbHit s.blk r.ctx va.toNat = true →
      (∀ d, d < 64 → d ≠ c → (coreOf s.blk d).hold ≠ .walk va.toNat write) →
      exec (.translationWalkReturn r.ctx va write) s = goesOn k)

/-- HELD_SIGNAL_APPLY and CORE_PART_END (R115, R117, R120, R136, R164, R169): once the core's earlier batons and calls have ended and
its last signal has been applied, the oldest held signal, translated now, reaches its fence, and a value that advances it is the fence's
new value and goes to memory; the part of a core whose stream has ended, whose batons have ended and whose signals have been applied is
over, the run keeps its credits, and while other clusters of the heat go on, nothing else changes. -/
def Obligations.CorePart : Prop :=
  (∀ (s : State) (c n : Nat) (r : Run) (h : HeldSig) (hs : List HeldSig) (va : Nat) (g : Word) (e : FenceEnt), Running s →
    let k := coreOf s.blk c
    k.run = some n → runOf s.blk n = some r → k.held = h :: hs → k.sending = 0 → h.fences = [(va, none)] →
    translate s.blk r.ctx va true = some g.toNat → earlierBusy s.blk c n h = false → isLocal s.blk g.toNat = true → fmGet? s.blk.fen.cache g.toNat = some e → e.drop = false →
    (∀ m ∈ s.blk.fen.misses, m.addr ≠ g) → (∀ w ∈ s.blk.fen.waits, w.addr ≠ g) → h.value ≠ e.value →
    (h.value - e.value).toNat < 2 ^ 63 →
      Gives (exec (.heldSignalApply c) s) (fun t =>
        (coreOf t.blk c).held = hs ∧ (coreOf t.blk c).sending = 1 ∧
        (fmGet? t.blk.fen.cache g.toNat).map (fun x => x.value) = some h.value ∧
        t.blk.fen.writes = s.blk.fen.writes ++
          [{ addr := g, value := h.value, due := s.blk.tide.clock + dget s.blk 0x6000 5 * 1000, deps := [], after := [.heldDone c] }] ∧
        fmGet t.blk.ctr 0x080 0 = satAdd 32 (fmGet s.blk.ctr 0x080 0) 1 ∧ t.blk.mem = s.blk.mem)) ∧
  (∀ (s : State) (c n : Nat) (r : Run), Running s →
    let k := coreOf s.blk c
    k.run = some n → runOf s.blk n = some r → k.ended = true → coreBusy s.blk c n = false → k.held = [] → k.sending = 0 →
    k.skips ≤ 8 → (∃ d ∈ r.clusters, d ≠ c ∧ d ∉ r.partsEnded) →
      exec (.corePartEnd c) s = .next (s.withBlk (putRun (putCore s.blk c { k with run := none, credits := [] }) n
        { r with partsEnded := r.partsEnded ++ [c], credits := (r.credits ++ k.credits).eraseDups })))

/-- R151: a header with a reserved bit set skips the whole SLW: no control slot is executed and nothing is pushed, one skip is counted
and recorded with reason `RESERVED_HEADER`, and the core goes on at the next SLW by the length of R150. -/
def Obligations.ReservedHeaderSkips : Prop :=
  ∀ (s : State) (c n : Nat) (r : Run) (fr : Frag) (hdr : Word), Running s → issuing s.blk c = some (n, r) → boundaryHeld s.blk r = false →
    let b := s.blk
    let k := coreOf b c
    let ring := dget b 0x8020 1
    k.slw = none → (curStream k).table = none → fragAt (curStream k) k.off = some fr →
    cachedWord k r.ctx fr.host (fr.va + (k.off - fr.start)) = some hdr → slwLen hdr ≤ fr.start + fr.len - k.off →
    (field hdr 30 2 ≠ 0 ∨ field hdr 44 4 ≠ 0 ∨ field hdr 50 14 ≠ 0) → k.loops = [] → k.off + slwLen hdr < (curStream k).len →
      Gives (exec (.slwIssue c) s) (fun t =>
        let k' := coreOf t.blk c
        (k'.off, k'.s, k'.a, k'.data, k'.pushQ) = (k.off + slwLen hdr, k.s, k.a, k.data, k.pushQ) ∧
        (k'.held, k'.calls, k'.credits, k'.levels, k'.slw) = (k.held, k.calls, k.credits, k.levels, none) ∧
        t.blk.ports = b.ports ∧ t.blk.fen = b.fen ∧ k'.skips = k.skips + 1 ∧
        fmGet t.blk.ctr 0x0C0 0 = satAdd 32 (fmGet b.ctr 0x0C0 0) 1 ∧
        (k.skips < 8 → ring ≠ 0 → t.blk.skipSeq = (b.skipSeq + 1) % 2 ^ 32 ∧
          (isLocal b (ring + b.skipSeq % 2 ^ dget b 0x8020 2 * 48) = true →
            memRead t.blk.mem (ring + b.skipSeq % 2 ^ dget b 0x8020 2 * 48) = 0x03)))

/-- R168: BRK acts as NOP on a core for which breakpoints are disabled; where they are enabled, a BRK slot of a primary run stops the
core before step 3, counted, while the batons already pushed stay in its queue and at its port; its SLW waits. -/
def Obligations.BrkStops : Prop :=
  (∀ (s : State) (c n : Nat) (r : Run) (imm : BitVec 32), SlotReady s c n r → imm.toNat < 256 →
    let next := Host.Outcome.next (ρ := Refusal) (φ := Fault) (afterSlot s c (coreOf s.blk c) ((coreOf s.blk c).off + 16))
    exec (.brk c ⟨0, 0, 0, false, 0, imm⟩) s = next ∧ exec (.nop c ⟨0, 0, 0, false, 0, 0⟩) s = next) ∧
  (∀ (s : State) (c n : Nat) (r : Run) (imm : BitVec 32), Running s → c < 64 → issuing s.blk c = some (n, r) →
    r.kind = .primary → boundaryHeld s.blk r = false → imm.toNat < 256 → s.blk.regs.brkEnable.getLsbD c = true →
    let k := coreOf s.blk c
    k.slw = none → (curStream k).table = none → syncBusy k = false →
      Gives (exec (.brk c ⟨0, 0, 0, false, 0, imm⟩) s) (fun t =>
        (coreOf t.blk c).brkStop = some { cause := .brk, code := imm.toNat, since := s.blk.tide.clock } ∧
        (coreOf t.blk c).off = k.off ∧ (coreOf t.blk c).s = k.s ∧ (coreOf t.blk c).a = k.a ∧
        (coreOf t.blk c).pushQ = k.pushQ ∧ t.blk.ports = s.blk.ports ∧
        (coreOf t.blk c).slw.isSome = true ∧ (coreOf t.blk c).stepping = false ∧
        fmGet t.blk.ctr 0x388 0 = satAdd 32 (fmGet s.blk.ctr 0x388 0) 1))

/-! ## The dispatch crossbar (spec/07_engine_slots.md, spec/09_heats_scheduling.md) -/

/-- BATON_HANDSHAKE (R17, R188, R192, R242, R246, R436), and the releases of a head that a bucket or the power cap held: the oldest
entry of the core's push queue becomes a baton of an ACTIVE cluster when its engine has a credit and its buckets and the power cap
pass it; a credit is taken, the baton takes a free ID, and it is counted. CAP_STATE_TIMEOUT: ten microseconds after the last hold,
`CAP_STATE` leaves `LC_THROTTLED`, or `BE_THROTTLED`. -/
def Obligations.HandsOver : Prop :=
  (∀ (s : State) (c n : Nat) (r : Run) (e : PushEnt) (es : List PushEnt), Running s → c < 64 →
    let b := s.blk
    let k := coreOf b c
    let p := portOf b c
    k.run = some n → runOf b n = some r → sampleOf b n = none → k.pushQ = e :: es → p.xq = [] → p.capX = none →
    p.out.length < 65536 → n < 2 ^ 32 → passes b c e.pos r.part r.lc e.charge = true →
      let handed (t : State) : Prop := ∃ id x, id < 65536 ∧ (∀ y ∈ p.out, y.id ≠ id) ∧ x.id = id ∧ x.ent = e ∧ x.run = n ∧
        x.since = stamp b ∧ (portOf t.blk c).out = p.out ++ [x] ∧ (coreOf t.blk c).pushQ = es ∧
        creditOf (portOf t.blk c) e.pos = creditOf p e.pos - 1 ∧ (coreOf t.blk c).batonCnt = satInc 32 k.batonCnt ∧
        t.blk.out = .baton c (batonWord e r.lc (heatPart b r) id) :: b.out ∧ fmGet t.blk.ctr 0x100 0 = satAdd 32 (fmGet b.ctr 0x100 0) 1 ∧
        t.blk.mem = b.mem
      Gives (exec (.batonHandshake c) s) handed ∧
      ((p.coreHeld.cap.isSome = true → Gives (exec (.capRelease c) s) handed) ∧
       (p.coreHeld.bucket = true → waitingReads b = [] → (∀ x ∈ b.sb.items, x.2.descRd ≠ .wanted) → k.hold = .none →
        k.calls = [] → Gives (exec (.breakwaterRelease c) s) handed))) ∧
  (∀ (s : State) (u : Nat), Booted s → capHolding s.blk true = false → capHolding s.blk false = false → s.blk.tide.clock < u + 10000 →
    let b' := passTo s.blk (u + 10000)
    (s.blk.cap.heldLc = some u → exec .capStateTimeout s = .next (s.withBlk { b' with cap := { b'.cap with heldLc := none } })) ∧
    (s.blk.cap.heldLc = none → s.blk.cap.heldBe = some u →
      exec .capStateTimeout s = .next (s.withBlk { b' with cap := { b'.cap with heldBe := none } }) ∧ capState s.blk = 1 ∧
      capState { b' with cap := { b'.cap with heldBe := none } } = 0))

/-- BATON_END (R189 to R192, R331): a report of KIND 0 ends the baton of its ID, in a recovery sequence too, returns its credit and
reports the engine's free entries; an `INDEX_RANGE` status marks the heat and is counted. DEPTH_REPORT: the free entries of the engine
are as reported; a value above 64 reads as 0 and is counted, and so is a `STATUS` of 3. -/
def Obligations.BatonEnds : Prop :=
  (∀ (s : State) (c : Nat) (x : Baton) (r : Run) (report wcrc : BitVec 32), Alive s → c < 64 →
    let b := s.blk
    let p := portOf b c
    report.getLsbD 18 = false → p.out.find? (fun y => decide (y.id = field report 0 16)) = some x → field report 16 2 ≤ 1 →
    field report 19 7 ≤ 64 → x.call = none → x.copy = false → x.run < 2 ^ 32 → runOf b x.run = some r →
      Gives (exec (.batonEnd c report wcrc) s) (fun t =>
        (portOf t.blk c).out = p.out.filter (fun y => decide (y.id ≠ x.id)) ∧
        creditOf (portOf t.blk c) x.ent.pos = min 64 (creditOf p x.ent.pos + 1) ∧
        fmGet (portOf t.blk c).free x.ent.pos 64 = field report 19 7 ∧
        (runOf t.blk x.run).map (fun y => y.skips) = some (r.skips || decide (field report 16 2 = 1)) ∧
        (field report 16 2 = 1 → fmGet t.blk.ctr 0x108 0 = satAdd 32 (fmGet b.ctr 0x108 0) 1) ∧ t.blk.mem = b.mem)) ∧
  (∀ (s : State) (c pos : Nat) (report : BitVec 32), Alive s → c < 64 → pos < 14 → report.getLsbD 18 = true →
    let p := portOf s.blk c
    let f := field report 19 7
    let b := if field report 16 2 = 3 then cnt s.blk 0x110 else s.blk
    exec (.depthReport c pos report) s = .next (s.withBlk
      (if f ≤ 64 then putPort b c { p with free := fmSet p.free pos f }
       else putPort (cnt b 0x110) c { p with free := fmSet p.free pos 0 })))

/-! ## The lookup expander (spec/08_lookup_expander.md) -/

/-- A call of the expander from acceptance to its index count (R87, R199 to R201, R216, R242): XCALL_ACCEPT reads its request block,
EXPANDER_READ_RETURN with current tags checks it and reads the index count, or skips a call that fails a check of the block; XCALL_END ends a call of which
nothing is left. -/
def Obligations.ExpanderCalls : Prop :=
  (∀ (s : State) (c id : Nat) (x : XCall) (r : Run) (g : Nat), Running s →
    let b := s.blk
    let k := coreOf b c
    curCall b c = some (id, x) → callRun b x = some r → bktPass b r.part (stackBucket b g) 64 true = true →
    let reads (y : XCall) : Host.Outcome State Fault Refusal := .next (s.withBlk
      (putCall (bktTake b r.part (stackBucket b g) 64) id { y with issued := true, since := b.tide.clock }))
    (x.phase = .accept → x.va % 64 = 0 → translateOwn b r.ctx x.va false = some g →
      exec (.xcallAccept c) s = reads { x with phase := .block }) ∧
    (∀ h d, heatReadNow b r.tag h = true → x.phase = .block → x.issued = true → blockCheck d = none →
      translateOwn b r.ctx (xOff d + xEs d * (xF d * xB d)) false = some g →
      exec (.expanderReadReturn c h (.block d)) s = reads { x with blk := d, phase := .total }) ∧
    (∀ h d why, heatReadNow b r.tag h = true → x.phase = .block → x.issued = true → blockCheck d = some why →
      Gives (exec (.expanderReadReturn c h (.block d)) s) (fun t =>
        (coreOf t.blk c).calls = k.calls.filter (fun y => decide (y ≠ id)) ∧ fmGet? t.blk.xp.calls id = none ∧
        (coreOf t.blk c).skips = k.skips + 1 ∧ fmGet t.blk.ctr 0x158 0 = satAdd 32 (fmGet b.ctr 0x158 0) 1))) ∧
  (∀ (s : State) (c id : Nat) (ids : List Nat) (x : XCall), Running s →
    let b := s.blk
    let k := coreOf b c
    k.calls = id :: ids → fmGet? b.xp.calls id = some x → x.phase = .issued → x.bags = [] →
    (∀ y ∈ (portOf b c).xq, y.call ≠ id) → (∀ y ∈ (portOf b c).out, y.call ≠ some id) →
      exec (.xcallEnd c) s = .next (s.withBlk (putCore { b with xp := { b.xp with calls := fmErase b.xp.calls id } } c
        { k with calls := k.calls.filter (fun y => decide (y ≠ id)) })))

/-- WINDOW_TURNOVER and POOL_ISSUE (R206 to R208, R212, R213): a turnover empties the window and admits the waiting bag from
slot 0; a bag whose gathers have ended and whose remap entries are written is pooled at the next V position in rotation. -/
def Obligations.ExpanderBags : Prop :=
  ∀ (s : State) (c id : Nat) (x : XCall) (r : Run) (w : XWindow), Running s →
    let b := s.blk
    callRun b x = some r → runOf b x.run = some r → winOf b c x.run = some w → (fmGet? b.xp.windows c).isSome = true →
    (∀ (i : Int) (row pos o : Nat) (t : TlbEnt), curCall b c = some (id, x) → x.phase = .turnover → rowbufIdle b c x.run w = true →
      x.last = none → curUsable x = true → x.bagIdx = [i] → x.offs = [o] → o = x.prev + 1 → x.f + 1 = xF x.blk → xPooled x.blk = true → xWsum x.blk = false →
      1 ≤ min (xRows x.blk) (65536 / r.clusters.length) → keyOf (fTable x.entry) (curDir x) i = some (fTable x.entry, row) →
      let va := tRowVa (curDir x) row
      tlbPage b r.ctx va = some t → va + extent 1 (tPitch (curDir x)) (tRowBytes (curDir x)) ≤ t.vbase + t.size → t.vbase ≤ va →
      isLocal b (t.gbase + (va - t.vbase)) = true → gatherPos b c (tStack (curDir x) row) = some pos →
      Gives (exec (.windowTurnover c) s) (fun u =>
        (fmGet? u.blk.xp.windows c).map (fun y => (y.addr, y.keys, y.ready)) =
          some (xRowbuf x.blk, [(fTable x.entry, row)], []) ∧
        (fmGet? u.blk.xp.calls id).map (fun y => (y.phase, y.bags.length)) = some (.issued, x.bags.length + 1) ∧
        fmGet u.blk.ctr 0x148 0 = satAdd 32 (fmGet b.ctr 0x148 0) 1 ∧
        fmGet u.blk.ctr 0x144 0 = satAdd 32 (fmGet b.ctr 0x144 0) 1)) ∧
    (∀ (ids : List Nat) (y : BagRec) (bs : List BagRec) (pos : Nat), (coreOf b c).calls = id :: ids →
      fmGet? b.xp.calls id = some x → x.bags = y :: bs → bagReady b c id w y = true →
      (presentIn b c 6 4)[x.vRot % (presentIn b c 6 4).length]? = some pos →
      Gives (exec (.poolIssue c) s) (fun u =>
        (fmGet? u.blk.xp.calls id).map (fun z => (z.bags, z.vRot)) = some (bs, x.vRot + 1) ∧
        ∃ z, (portOf u.blk c).xq = (portOf b c).xq ++ [z] ∧ z.call = id ∧ z.run = x.run ∧
          ∃ e, z.work = .pool e y.bag ∧ e.pos = pos ∧ e.slot = poolSlot x y))

/-! ## Submission and completion queues (spec/03_queues.md) -/

/-- RING, HOLD_INVALIDATE and CONSUMED (R64, R77 to R81, R86, R93): the owner's doorbell of an Active queue reads `PRODUCER`, in device or
host memory, and restarts the poll interval, or waits for the bucket of a host QCB; a RING of a Held queue makes it Active; HOLD_INVALIDATE discards what had been read and makes it Held; CONSUMED
reads `CONSUMER`; so do the admin doorbells (R97), from the privileged master of the port, while its admin queue is enabled. -/
def Obligations.DoorbellsRing : Prop :=
  (∀ (s : State) (w : DbWrite) (n : Nat), Alive s → s.blk.rcv.stage = .idle →
    let b := s.blk
    (∀ q, n < 65536 → fmGet? b.q.sqs n = some q → q.ownerPort = w.org.port % 4 → q.ownerFn = w.org.fn % 256 → q.dying = false →
      (DoorbellWrite w (0x100000 + 8 * n) 0 → q.st = .active → q.rd = .idle →
        let charge := sqCharge (.q n) q q.qcbHost 4
        (bktPassAll b q.part true charge = true →
          exec (.ring w) s = .next (s.withBlk (bktTakeAll (hostAcc (putSq b (.q n)
            { q with nextPoll := b.tide.clock + q.pollUs * 1000, rung := false, rd := .flying b.tide.clock false })
            q.qcbHost q.hostPort q.ownerFn q.qcbAddr 4 false) q.part charge))) ∧
        (bktPassAll b q.part true charge = false →
          exec (.ring w) s = .next (s.withBlk (cnt (putSq b (.q n) { q with rung := true, rd := .wanted }) 0x19C)))) ∧
      (DoorbellWrite w (0x100000 + 8 * n) 0 → q.st = .held → Gives (exec (.ring w) s) (fun t =>
        (sqOf t.blk (.q n)).map (fun x => x.st) = some .active)) ∧
      (DoorbellWrite w (0x100000 + 8 * n) 1 → q.st = .active → underCheck b (.q n) = false →
        Gives (exec (.holdInvalidate w) s) (fun t =>
          (sqOf t.blk (.q n)).map (fun x => (x.st, x.gen, x.cache, x.fetches.length)) = some (.held, q.gen + 1, [], 0) ∧
          (sqOf t.blk (.q n)).map (fun x => (x.consumer, x.producer)) = some (q.consumer, q.consumer)))) ∧
    (∀ c, n < 16384 → fmGet? b.q.cqs n = some c → c.ownerPort = w.org.port % 4 → c.ownerFn = w.org.fn % 256 →
      DoorbellWrite w (0x040000 + 8 * n) 0 → c.rd = .idle →
        exec (.consumed w) s = .next (s.withBlk (hostAcc
          (putCq b (.q n) { c with rd := .flying b.tide.clock false, lastRead := b.tide.clock })
          c.qcbHost c.hostPort c.ownerFn c.qcbAddr 4 false)))) ∧
  (∀ (s : State) (w : DbWrite) (a : Aq), Alive s → s.blk.rcv.stage = .idle →
    let b := s.blk
    let p := w.org.port % 4
    aqOf b p = some a → a.enabled = true → isPrivileged b p w.org = true → a.sq.dying = false →
      (DoorbellWrite w 0x020000 0 → a.sq.st = .active → a.sq.rd = .idle → Gives (exec (.adminSqRing w) s) (fun t =>
        sqOf t.blk (.aq p) = some { a.sq with nextPoll := b.tide.clock + a.sq.pollUs * 1000, rung := false, rd := .flying b.tide.clock false })) ∧
      (DoorbellWrite w 0x020000 1 → a.sq.st = .active → Gives (exec (.adminSqHoldInvalidate w) s) (fun t =>
        (sqOf t.blk (.aq p)).map (fun x => (x.st, x.gen, x.cache, x.fetches.length)) = some (.held, a.sq.gen + 1, [], 0))) ∧
      (DoorbellWrite w 0x020008 0 → a.cq.rd = .idle → Gives (exec (.adminCqConsumed w) s) (fun t =>
        cqOf t.blk (.aq p) = some { a.cq with rd := .flying b.tide.clock false, lastRead := b.tide.clock })))

/-- R80: a RING or a poll expiry that arrives while a `PRODUCER` read waits asks for no other, and the read that is issued serves
them all; RINGs that arrive while a read is in flight, however many, are followed by one further read. -/
def Obligations.RingsShareReads : Prop :=
  ∀ (s : State) (w : DbWrite) (n : Nat) (q : Sq), Running s → n < 65536 → fmGet? s.blk.q.sqs n = some q → q.st = .active →
    q.dying = false →
    let b := s.blk
    let passed := passTo b q.nextPoll
    (DoorbellWrite w (0x100000 + 8 * n) 0 → q.ownerPort = w.org.port % 4 → q.ownerFn = w.org.fn % 256 →
      (q.rd = .wanted → exec (.ring w) s = .next (s.withBlk (putSq b (.q n) { q with rung := true }))) ∧
      (∀ u again, q.rd = .flying u again → exec (.ring w) s = .next (s.withBlk (putSq b (.q n) { q with rd := .flying u true })))) ∧
    (q.pollUs ≠ 0 → q.rd = .wanted → exec (.pollExpiry n) s = .next (s.withBlk
      (putSq passed (.q n) { q with nextPoll := passed.tide.clock + q.pollUs * 1000 }))) ∧
    (q.rd = .wanted → bktPassAll b q.part true (sqCharge (.q n) q q.qcbHost 4) = true →
      sqOf (readIssue b (.q n)) (.q n) = some { q with rd := .flying b.tide.clock false, rung := false,
                                                       nextPoll := if q.rung then b.tide.clock + q.pollUs * 1000 else q.nextPoll }) ∧
    (∀ t v u again, tagsNow b q.gen t = true → q.rd = .flying u again → (v - q.consumer).toNat ≤ 2 ^ q.log2 → q.qcbHost = false →
      Gives (exec (.producerReadReturn (.q n) t v) s) (fun y => (sqOf y.blk (.q n)).map (fun z => (z.producer, z.rd)) =
        some (v, if again then .flying b.tide.clock false else .idle)))

/-- Reads of a submission queue (R70, R80 to R84, R87, R88): a poll that falls due reads `PRODUCER`; a value no further ahead than
the ring is long is the new `PRODUCER`, and a value beyond it halts the queue; the starter fetches up to 16 entries; an entry that
arrives with current tags enters the entry cache, one with others is dropped and counted; a `PRODUCER` read that times out halts
the queue. -/
def Obligations.QueueReads : Prop :=
  ∀ (s : State) (r : QRef) (x : Sq), Running s → sqOf s.blk r = some x →
    let b := s.blk
    (∀ n, r = .q n → x.pollUs ≠ 0 → x.dying = false → x.st = .active → x.rd = .idle → x.qcbHost = false → b.tide.clock ≤ x.nextPoll →
      exec (.pollExpiry n) s = .next (s.withBlk (putSq (passTo b x.nextPoll) r
        { x with nextPoll := x.nextPoll + x.pollUs * 1000, rung := false, rd := .flying x.nextPoll false }))) ∧
    (∀ t v u, tagsNow b x.gen t = true → x.rd = .flying u false → (v - x.consumer).toNat ≤ 2 ^ x.log2 →
      Gives (exec (.producerReadReturn r t v) s) (fun y =>
        (sqOf y.blk r).map (fun z => (z.producer, z.consumer, z.rd, z.st)) = some (v, x.consumer, .idle, x.st))) ∧
    (∀ t v u n, r = .q n → tagsNow b x.gen t = true → x.rd = .flying u false → 2 ^ x.log2 < (v - x.consumer).toNat →
      (fmGet? b.q.cqs x.cq).isSome = true → Gives (exec (.producerReadReturn r t v) s) (fun y =>
        (sqOf y.blk r).map (fun z => (z.st, z.producer)) = some (.halted, x.producer) ∧
        ∃ e c c', fmGet? b.q.cqs x.cq = some c ∧ fmGet? y.blk.q.cqs x.cq = some c' ∧ c'.hold = c.hold ++ [e] ∧ e.kind = .event ∧
          e.event = 2 ∧ e.status = 0x22)) ∧
    (fetchReady b r x = true → fetchPass b r x = true → (∀ n, r = .q n → fetchTurn b n x = true) →
      Gives (exec (.entryFetchIssue r) s) (fun y => ∃ f, f.missing.length = fetchSize b x ∧ f.issued = b.tide.clock ∧
        (sqOf y.blk r).map (fun z => (z.fetchPtr, z.fetches)) =
          some (x.fetchPtr + BitVec.ofNat 32 (fetchSize b x), x.fetches ++ [f]))) ∧
    (∀ t i e, (∀ l ∈ b.q.late, l.q = r → l.gen = t.fgen → i ∉ l.missing) →
      (tagsNow b x.gen t = true → (∃ f ∈ x.fetches, i ∈ f.missing) → (∀ f ∈ x.fetches, i ∉ f.drop) →
        Gives (exec (.fetchBeatReturn r t i [e]) s) (fun y => (sqOf y.blk r).map (fun z => (z.cache, z.fetches)) =
          some (x.cache ++ [(i, e)], (fetchTake i x.fetches).2))) ∧
      (tagsNow b x.gen t = false → exec (.fetchBeatReturn r t i [e]) s =
        .next (s.withBlk (retire (cntAdd b (portKey 0x048 (x.ownerPort % 4)) 1) [.entry r i])))) ∧
    (∀ n u, r = .q n → x.rd = .flying u false → x.cache = [] → (fmGet? b.q.cqs x.cq).isSome = true → x.homeGone = true →
      Gives (exec (.fetchTimeout (.producer r)) s) (fun y =>
        (sqOf y.blk r).map (fun z => (z.st, z.rd)) = some (.halted, .idle) ∧
        y.blk.tide.clock = max b.tide.clock (u + dget b 0x2020 1 * 1000)))

/-- Admission (R39, R68, R72, R76, R85, R119, R125): an entry that passes the tests becomes a work item under a free tag, its wait
registered while the fence has not reached the value; one that fails a test, or has a reserved opcode, is completed without
admission and counted in `REJECTED`. -/
def Obligations.EntryAdmission : Prop :=
  ∀ (s : State) (n : Nat) (q : Sq) (e : BitVec 512), Running s →
    let b := s.blk
    fmGet? b.q.sqs n = some q → frontEntry b n = some e →
    (∀ (c : Ctx) (g cur : Word), entryReserved e = false → admitTest b q e = none → ctxOf b (eCtx e) = some c →
      b.sb.items.length < 131072 → quotaFull b c.part = false → eWaitAddr e false ≠ 0 → eWaitAddr e true = 0 →
      translate b (eCtx e) (eWaitAddr e false) false = some g.toNat → isLocal b g.toNat = true → fenceNow b g = some cur →
      (∀ m ∈ b.fen.misses, m.addr ≠ g) → reached cur (eWaitValue e false) = false → fenceRoom b g = true →
      let waits (k : ItemKind) (t : State) : Prop := ∃ tag i, itemOf b tag = none ∧ itemOf t.blk tag = some i ∧ i.sq = n ∧
        i.entry = e ∧ i.ctx = eCtx e ∧ i.part = c.part ∧ i.kind = k ∧ i.stage = .waiting ∧ i.w0 = .registered g (eWaitValue e false) ∧
        i.w1 = .done ∧ (sqOf t.blk (.q n)).map (fun x => x.consumer) = some (q.consumer + 1) ∧
        t.blk.fen.waits = b.fen.waits ++ [{ addr := g, value := eWaitValue e false, who := .item tag false }]
      (eOpcode e = 0 → Gives (exec (.barrier n) s) (waits .barrier)) ∧ (eOpcode e = 1 → Gives (exec (.heat n) s) (waits .heat)) ∧
      (eOpcode e = 2 → Gives (exec (.tableUpdate n) s) (waits .tableUpdate))) ∧
    (∀ c, fmGet? b.q.cqs q.cq = some c →
      let rejects (st : Nat) (t : State) : Prop := (sqOf t.blk (.q n)).map (fun x => (x.consumer, x.rejected)) =
          some (q.consumer + 1, satInc 32 q.rejected) ∧ t.blk.sb.items = b.sb.items ∧
        ∃ x l c', fmGet? t.blk.q.cqs q.cq = some c' ∧ c'.hold = c.hold ++ x :: l ∧ x.tag = eTag e ∧ x.status = st ∧ x.kind = .item ∧
          x.sq = n ∧ x.ctx = eCtx e
      (entryReserved e = true → Gives (exec (.reservedSubmissionOpcode n) s) (rejects 0x22)) ∧
      (∀ st, entryReserved e = false → eOpcode e = 1 → admitTest b q e = some st → Gives (exec (.heat n) s) (rejects st)))

/-- Completions and interrupts (R68, R89 to R94, R450): the oldest completion of a CQ that is not full is written at `PRODUCER`;
a CQ that has been full reads `CONSUMER` again; a consistent `CONSUMER` is taken, an inconsistent one makes the CQ full and is
recorded; the coalescing timer raises the interrupt; the oldest interrupt request of a port goes out. -/
def Obligations.Completions : Prop :=
  ∀ (s : State) (m : Nat) (c : Cq), Running s → fmGet? s.blk.q.cqs m = some c →
    let b := s.blk
    let ring := memKey c.ringHost c.hostPort (c.ringAddr + 32 * (c.producer.toNat % 2 ^ c.log2))
    let qcb := memKey c.qcbHost c.hostPort (c.qcbAddr + 0x20)
    (∀ e l, c.hold = e :: l → e.waits = [] → c.full = false → c.bad = false → e.sbTag = none → fmGet? b.q.sqs e.sq = none →
      Gives (exec (.completionWrite m) s) (fun t =>
        (cqOf t.blk (.q m)).map (fun x => (x.hold, x.producer)) = some (l, c.producer + 1) ∧
        (ring + 32 ≤ qcb ∨ qcb + 32 ≤ ring → c.ringAddr + 32 * (c.producer.toNat % 2 ^ c.log2) + 4 < 2 ^ 64 →
          memReadLE t.blk.mem ring 32 = (cqEntBytes e (!c.producer.getLsbD c.log2) 0).toNat) ∧
        (c.intEn = true → c.count ≤ 1 → ({ fn := c.ownerFn, vector := c.vector } : IntReq) ∈ fmGet t.blk.q.ints (c.ownerPort % 4) []))) ∧
    (c.full = true → c.rd = .idle →
      let b' := passTo b (c.lastRead + 1000)
      exec (.cqFullReread (.q m)) s = .next (s.withBlk (hostAcc
        (putCq b' (.q m) { c with rd := .flying b'.tide.clock false, lastRead := b'.tide.clock })
        c.qcbHost c.hostPort c.ownerFn c.qcbAddr 4 false))) ∧
    (∀ t v u, tagsNow b c.gen t = true → c.rd = .flying u false →
      ((c.producer - v).toNat ≤ 2 ^ c.log2 → Gives (exec (.cqConsumerReturn (.q m) t v) s) (fun y =>
        (cqOf y.blk (.q m)).map (fun x => (x.consumer, x.bad, x.full, x.rd)) =
          some (v, false, decide ((c.producer - v).toNat = 2 ^ c.log2), .idle))) ∧
      (2 ^ c.log2 < (c.producer - v).toNat → Gives (exec (.cqConsumerReturn (.q m) t v) s) (fun y =>
        (cqOf y.blk (.q m)).map (fun x => (x.consumer, x.bad, x.full)) = some (c.consumer, true, true) ∧
        (c.bad = false → y.blk.aud.seq = b.aud.seq + 1)))) ∧
    (∀ u, c.oldest = some u → c.intEn = true → c.timeUs ≠ 0 → c.unreported ≠ 0 →
      Gives (exec (.coalesceTimerExpiry m) s) (fun t =>
        (cqOf t.blk (.q m)).map (fun x => (x.unreported, x.oldest)) = some (0, none) ∧
        t.blk.tide.clock = max b.tide.clock (u + c.timeUs * 1000) ∧
        ({ fn := c.ownerFn, vector := c.vector } : IntReq) ∈ fmGet t.blk.q.ints (c.ownerPort % 4) [])) ∧
    (∀ port r l, fmGet b.q.ints port [] = r :: l → exec (.interruptRequest port) s = .next (s.withBlk
      (emit { b with q := { b.q with ints := fmSet b.q.ints port (intAdmit (l.take 63) (l.drop 63)) } } (.msix port r.fn r.vector))))

/-! ## Admin commands (spec/02_objects.md, spec/04_admin_commands.md) -/

/-- NOP, DUMP_BUFFER and a reserved opcode (R99 to R103, R106, R110): what they change, and the completion; a command of
the secure mailbox (R397, R454) has its completion in the registers, `BUSY` clear and `DONE` set, and SEC_EVENT pulses; ADMIN_PENDING
leaves `BUSY`. -/
def Obligations.AdminPlain : Prop :=
  (∀ (s : State) (x : AdminIn) (e : BitVec 512),
    (AdminReady s x 0x00 e [] false none [] → exec (.adminNop x) s = .next (adminOk s x e id 0)) ∧
    (AdminReady s x 0x24 e [(64, 64), (128, 32)] true none [] →
      let p := (adminOrg s.blk x.src e).serve
      let addr := field e 64 64
      let len := field e 128 32
      addr % 4096 = 0 →
      (0x800000 ≤ len → exec (.dumpBuffer x) s = .next (adminOk s x e
        (fun b => { b with adm := { b.adm with dumpBufs := fmSet b.adm.dumpBufs p (addr, len) } }) 0)) ∧
      (len = 0 → exec (.dumpBuffer x) s = .next (adminOk s x e
        (fun b => { b with adm := { b.adm with dumpBufs := fmErase b.adm.dumpBufs p } }) 0))) ∧
    (Running s → adminFront s.blk x.src = some e → aOpcode e < 0x80 → aOpcode e ∉ adminOpcodes →
      exec (.reservedAdminOpcode x) s = .next (s.withBlk
        (adminReport (adminTake s.blk x.src) x.src (aTag e) (aOpcode e) (aFunction e) 0x22 0x03 0 true)))) ∧
  (∀ (b : Block) (tag : BitVec 16) (op fn st dt res : Nat),
    let t := adminReport b 4 tag op fn st dt res true
    t.adm.mbBusy = false ∧ t.adm.mbDone = true ∧ t.out = .secEvent :: b.out ∧ t.mem = b.mem ∧ t.q = b.q ∧
    (tag.toNat = field t.adm.mbCompl 0 16 ∧ (st < 256 → field t.adm.mbCompl 16 8 = st) ∧ (dt < 256 → field t.adm.mbCompl 40 8 = dt)) ∧
    (adminReport b 4 tag op fn 0x31 dt res false).adm.mbBusy = b.adm.mbBusy)

/-- Queues (R62 to R65, R104, R107): SQ_CREATE, whose read of `PRODUCER` its breakwater passes, and CQ_CREATE make the queue under the
lowest free ID (DESIGN CHOICE, log entry 21), at the index that was read; SQ_DESTROY, with or without ABORT_ADMITTED, takes the queue out
of service and completes when nothing of it is left, at once or later; CQ_DESTROY removes a CQ that no SQ is bound to. -/
def Obligations.AdminQueues : Prop :=
  ∀ (s : State) (x : AdminIn) (e : BitVec 512) (n : Nat),
    let b := s.blk
    let o := adminOrg b x.src e
    (∀ (c : Ctx) (cq : Cq) (producer : BitVec 32), ctxOf b (e.extractLsb' 96 24) = some c →
      AdminReady s x 0x01 e sqCreateFields false (some (e.extractLsb' 96 24)) [.created, .resident, .blocked] →
      fmGet? b.q.cqs (field e 64 14) = some cq → cq.ownerPort = o.port → cq.ownerFn = o.fn → c.ownerPort = o.port → c.ownerFn = o.fn →
      4 ≤ field e 80 5 → field e 80 5 ≤ 16 → field e 128 64 % 4096 = 0 → field e 192 64 % 64 = 0 →
      (bitAt e 85 = true ∨ inPart b c.part (field e 128 64) (64 * 2 ^ field e 80 5) = true) →
      (bitAt e 86 = true ∨ inPart b c.part (field e 192 64) 64 = true) → lowestFree (fmKeys b.q.sqs) 0 65536 = some n →
      bktPassAll b c.part true (createCharge e o) = true →
      let taken := adminTake { b with adm := { b.adm with held := false } } x.src
      ∃ q : Sq, q.consumer = producer ∧ q.producer = producer ∧ q.st = .active ∧ q.cq = field e 64 14 ∧ q.home = c.handle ∧
        q.part = c.part ∧ q.log2 = field e 80 5 ∧ q.ringAddr = field e 128 64 ∧ q.qcbAddr = field e 192 64 ∧ q.high = bitAt e 87 ∧
        q.pollUs = field e 256 20 ∧ q.ownerPort = o.port ∧ q.ownerFn = o.fn ∧ q.rejected = 0 ∧
        exec (.sqCreate x producer) s = .next (s.withBlk (adminReport (sqWriteback (putSq
          (hostAcc (bktTakeAll taken c.part (createCharge e o)) q.qcbHost q.hostPort q.ownerFn q.qcbAddr 4 false) (.q n) q) (.q n))
          x.src (aTag e) (aOpcode e) (aFunction e) 0x30 0 n true))) ∧
    (AdminReady s x 0x03 e [(64, 5), (69, 1), (70, 1), (71, 1), (72, 1), (80, 11), (96, 8), (112, 16), (128, 64), (192, 64)] false none [] →
      4 ≤ field e 64 5 → field e 64 5 ≤ 20 → field e 128 64 % 4096 = 0 → field e 192 64 % 64 = 0 →
      (bitAt e 69 = true ∨ inOwnersPart b o.port o.fn (field e 128 64) (32 * 2 ^ field e 64 5) = true) →
      (bitAt e 70 = true ∨ inOwnersPart b o.port o.fn (field e 192 64) 64 = true) → lowestFree (fmKeys b.q.cqs) 0 16384 = some n →
      ∃ q : Cq, q.producer = 0 ∧ q.consumer = 0 ∧ q.full = false ∧ q.hold = [] ∧ q.log2 = field e 64 5 ∧ q.ringAddr = field e 128 64 ∧
        q.qcbAddr = field e 192 64 ∧ q.vector = field e 80 11 ∧ q.count = field e 96 8 ∧ q.timeUs = field e 112 16 ∧
        q.intEn = bitAt e 71 ∧ q.lcImm = bitAt e 72 ∧ q.ownerPort = o.port ∧ q.ownerFn = o.fn ∧
        exec (.cqCreate x 0) s = .next (adminOk s x e (fun b => cqWriteback (putCq
          (hostAcc b q.qcbHost q.hostPort q.ownerFn q.qcbAddr 4 false) (.q n) q) (.q n)) n)) ∧
    (∀ q, AdminReady s x 0x02 e [(64, 16), (80, 1)] false none [] → fmGet? b.q.sqs (field e 64 16) = some q →
      mayDestroy o q.ownerPort q.ownerFn = true → (q.dying = true → bitAt e 80 = true) →
      let m := field e 64 16
      let taken := adminTake b x.src
      let out := if q.dying then taken else putSq (giveUpFetches taken (.q m) q true) (.q m)
        { q with dying := true, gen := q.gen + 1, cache := [], fetches := [], rd := .idle, rung := false, holdReq := false, probe := [],
                 batches := q.batches.filter (fun z => z.closed) }
      let d := finish (out, if bitAt e 80 then sqAbort out m else [])
      (sqSpent d m = true → exec (.sqDestroy x) s = .next (adminOk s x e (fun _ => sqGone d m) 0)) ∧
      (sqSpent d m = false → exec (.sqDestroy x) s = .next (adminPends s x e d (.sqDestroy m)))) ∧
    (∀ q, Running s → fmGet? b.q.sqs n = some q → q.dying = true → sqSpent b n = true →
      exec (.sqDestroyComplete n) s = .next (s.withBlk (sqGone b n))) ∧
    (fmGet? (sqGone b n).q.sqs n = none ∧ ∀ p ∈ (sqGone b n).adm.pend, p.kind ≠ .sqDestroy n) ∧
    (∀ q, AdminReady s x 0x04 e [(64, 14)] false none [] → fmGet? b.q.cqs (field e 64 14) = some q →
      mayDestroy o q.ownerPort q.ownerFn = true → (∀ y ∈ b.q.sqs, y.2.cq ≠ field e 64 14) →
      exec (.cqDestroy x) s = .next (adminOk s x e
        (fun b => { b with q := { b.q with cqs := fmErase b.q.cqs (field e 64 14) } }) 0))

/-- Contexts (R30 to R35, R40, R44, R104): a new context is Created under the ID that has been free the longest and its record is
written. CONTEXT_DESTROY makes the context Destroying, ends its work items and asks its heats to end; with none left in flight it
completes at once, otherwise it pends and CONTEXT_DESTROY_COMPLETE completes it when the last has ended. Then the context and its cached
translations are gone and its ID is free, under the next incarnation. CONTEXT_QUERY waits until the record is written to its
destination, and then completes with the state. -/
def Obligations.AdminContexts : Prop :=
  ∀ (s : State) (x : AdminIn) (e : BitVec 512),
    let b := s.blk
    let o := adminOrg b x.src e
    (∀ (p : Partition) (id : Nat) (objs : Objects), AdminReady s x 0x08 e [(64, 5), (72, 5), (128, 64)] false none [] →
      partOf b (field e 64 5) = some p → p.portMask.testBit o.port = true → field e 72 5 ≤ 18 → field e 128 64 % 0x10000 = 0 →
      inPart b (field e 64 5) (field e 128 64) (8 * 2 ^ field e 72 5) = true → fmHas b.dict (dkey 0x2010 1) = true →
      ctxOwned b o < dget b 0x2010 2 → takeCtxId b.obj = some (id, objs) → id < 2 ^ 20 →
      ∃ c : Ctx, c.handle = BitVec.ofNat 24 (id + fmGet b.obj.incs id 0 % 16 * 2 ^ 20) ∧ c.state = .created ∧ c.ownerPort = o.port ∧
        c.ownerFn = o.fn ∧ c.part = field e 64 5 ∧ c.ptRoot = field e 128 64 ∧ c.span = field e 72 5 ∧ c.slot = none ∧
        exec (.contextCreate x) s = .next (adminOk s x e (fun b => putCtx { b with obj := objs } c) c.handle.toNat)) ∧
    (∀ c : Ctx, AdminReady s x 0x09 e [(64, 24)] false (some (pHandle e)) [.created, .resident, .blocked, .lost] →
      ctxOf b (pHandle e) = some c →
      let begun := ctxDestroyStart (adminTake b x.src) c
      let d := finish begun
      ((fmGet? begun.1.obj.ctxs (field c.handle 0 20)).map (fun z => z.state) = some .destroying ∧
        (∀ y ∈ b.sb.items, y.2.ctx = c.handle → (y.2.stage = .waiting ∨ y.2.stage = .composer) → .work y.1 0x15 ∈ begun.2) ∧
        ∀ y ∈ ctxRuns b c.handle, .abort y.1 0x15 ∈ begun.2) ∧
      (∀ c', ctxOf d (pHandle e) = some c' → ctxRuns d (pHandle e) = [] →
        exec (.contextDestroy x) s = .next (adminOk s x e (fun _ => ctxGone d c') 0)) ∧
      (∀ c', ctxOf d (pHandle e) = some c' → ctxRuns d (pHandle e) ≠ [] →
        exec (.contextDestroy x) s = .next (adminPends s x e d (.ctxDestroy (pHandle e)))) ∧
      (ctxOf d (pHandle e) = none → exec (.contextDestroy x) s = .next (adminOk s x e (fun _ => d) 0))) ∧
    (∀ (id : Nat) (c : Ctx), Running s → fmGet? b.obj.ctxs id = some c → c.state = .destroying → ctxRuns b c.handle = [] →
      let d := ctxGone b c
      exec (.contextDestroyComplete id) s = .next (s.withBlk
        ((d.adm.pend.filter (fun p => decide (p.kind = .ctxDestroy c.handle))).foldl (fun b p => pendEnd b p 0x30 0 0) d))) ∧
    (∀ c : Ctx, let id := field c.handle 0 20
      let d := ctxGone b c
      fmGet? d.obj.ctxs id = none ∧ fmGet d.obj.incs id 0 = (field c.handle 20 4 + 1) % 16 ∧ d.obj.freed = b.obj.freed ++ [id] ∧
        ∀ y ∈ d.obj.tlb, y.ctx ≠ c.handle) ∧
    (∀ c : Ctx, AdminReady s x 0x0A e [(64, 24), (88, 1), (128, 64)] false (some (pHandle e))
        [.created, .resident, .blocked, .lost, .destroying] → ctxOf b (pHandle e) = some c → field e 128 64 % 64 = 0 →
      exec (.contextQuery x) s = .next (adminWaits s x e (.query (ctxCode c.state) (ctxBytes c)))) ∧
    (∀ (y : AdminBusy) (g : ReadTag) (st : Nat) (bs : List Byte), Running s → b.adm.busy = some y → tagsNow b y.gen g.t = true →
      y.wait = .query st bs → exec (.adminParameterReadReturn g .written) s = .next (s.withBlk (adminReport
        (wr { b with adm := { b.adm with busy := none } }
          (memKey (bitAt y.entry 88) (adminOrg b y.src y.entry).serve (field y.entry 128 64)) bs)
        y.src (aTag y.entry) (aOpcode y.entry) (aFunction y.entry) 0x30 0 st true)))

/-- Partitions and groups (R47, R48, R58 to R60, R401, R415, R430): PARTITION_CREATE makes the partition, orders its clusters
`IDLE` (log entry 30) and advances `WGEN`; PARTITION_DESTROY removes one that nothing names; GROUP_DEFINE reads its members and then defines
the flattened group; GROUP_DELETE removes one that no other group names. -/
def Obligations.AdminPartitions : Prop :=
  ∀ (s : State) (x : AdminIn) (e : BitVec 512),
    let b := s.blk
    (AdminReady s x 0x10 e [(64, 5), (72, 7), (80, 4), (84, 1), (86, 2), (128, 64), (192, 31), (224, 31), (256, 31), (288, 31),
        (320, 31), (352, 31), (384, 31), (416, 31)] true none [] → unusedRangesZero e = true → b.obj.parts.length < 32 →
      field e 128 64 ≠ 0 → (∀ r ∈ partRanges e, r.2 ≠ 0) → 1 ≤ field e 72 7 → field e 72 7 + (b.obj.parts.map (fun p => p.2.slots)).sum ≤ 64 →
      fmHas b.obj.parts (field e 64 5) = false → (∀ p ∈ b.obj.parts, p.2.clusters &&& e.extractLsb' 128 64 = 0 ∧
        ∀ y ∈ p.2.ranges, ∀ r ∈ partRanges e, rangesMeet y r = false) →
      Gives (exec (.partitionCreate x) s) (fun t =>
        partOf t.blk (field e 64 5) = some { clusters := e.extractLsb' 128 64, ranges := partRanges e, slots := field e 72 7,
                                             portMask := field e 80 4, remoteMap := bitAt e 84 } ∧
        (∀ c, c < 64 → bitAt e (128 + c) = true → (pwrOf t.blk c).order = 2) ∧
        t.blk.regs.wgen = (b.regs.wgen + 1) % 2 ^ 16 ∧ t.blk.tableGen = (b.tableGen + 1) % 2 ^ 32)) ∧
    (∀ p, AdminReady s x 0x11 e [(64, 5)] true none [] → partOf b (field e 64 5) = some p → partUsed b (field e 64 5) = false →
      Gives (exec (.partitionDestroy x) s) (fun t => partOf t.blk (field e 64 5) = none ∧
        t.blk.regs.wgen = (b.regs.wgen + 1) % 2 ^ 16)) ∧
    (AdminReady s x 0x14 e [(64, 16), (80, 7), (88, 1), (128, 64)] true none [] → field e 64 16 ≤ 4095 → 1 ≤ field e 80 7 →
      field e 80 7 ≤ 64 → groupNamed b (field e 64 16) = false →
      exec (.groupDefine x) s = .next (adminWaits s x e (.members (field e 64 16) (field e 80 7)))) ∧
    (∀ (y : AdminBusy) (h : ReadTag) (g : Nat) (l : List (BitVec 32)), Running s → b.adm.busy = some y →
      tagsNow b y.gen h.t = true → y.wait = .members g l.length → (∀ m ∈ l, field m 18 14 = 0 ∧ field m 16 2 = 0 ∧ field m 0 16 < 64) →
      Gives (exec (.adminParameterReadReturn h (.members l)) s) (fun t => t.blk.adm.busy = none ∧
        (fmGet? t.blk.obj.groups g).map (fun z => z.flat) = some (ascending (l.map (fun m => field m 0 16))) ∧
        t.blk.regs.wgen = (b.regs.wgen + 1) % 2 ^ 16)) ∧
    (AdminReady s x 0x15 e [(64, 16)] true none [] → fmHas b.obj.groups (field e 64 16) = true → groupNamed b (field e 64 16) = false →
      exec (.groupDelete x) s = .next (adminOk s x e
        (fun b => wgenUp { b with obj := { b.obj with groups := fmErase b.obj.groups (field e 64 16) } }) 0))

/-- Mappings and residency (R49 to R55, R106, R108, R240): MAP writes the level-2 entries of a page, and the level-1 entry of a new
table; a raw UNMAP clears them at once, superseding a gated one of the page, and a gated one when its fence has been reached; PRELOAD makes the record the most
recently used, RELEASE gives up an idle slot, YIELD_HINT marks the context. -/
def Obligations.AdminMappings : Prop :=
  ∀ (s : State) (x : AdminIn) (e : BitVec 512) (c : Ctx),
    let b := s.blk
    let taken := adminTake b x.src
    let va := field e 128 48
    let big := bitAt e 88
    let live : List CtxState := [.created, .resident, .blocked]
    ctxOf b (pHandle e) = some c →
    (AdminReady s x 0x18 e [(64, 24), (88, 1), (89, 1), (128, 48), (192, 64), (256, 64)] false (some (pHandle e)) live →
      let g := field e 192 64
      let e1 := rdLE taken (c.ptRoot + 8 * (va / 2 ^ 30)) 8
      let t := if e1 % 2 = 0 then field e 256 64 else e1 / 0x20000 * 0x20000
      va % pageSize big = 0 → g % pageSize big = 0 → va < 2 ^ (30 + c.span) →
      (if isLocal b g then inPart b c.part g (pageSize big) else (partOf b c.part).any (fun p => p.remoteMap)) = true →
      (e1 % 2 = 0 → field e 256 64 ≠ 0 ∧ field e 256 64 % 0x20000 = 0 ∧ inPart b c.part (field e 256 64) 0x20000 = true) →
      (∀ a ∈ l2Addrs t va big, rdLE taken a 8 % 2 = 0) →
      exec (.map x) s = .next (adminOk s x e (fun b => (l2Addrs t va big).foldl
        (fun b a => wrLE b a 8 (g / 0x10000 * 0x10000 + (if big then 4 else 0) + (if bitAt e 89 then 2 else 0) + 1))
        (if e1 % 2 = 0 then wrLE b (c.ptRoot + 8 * (va / 2 ^ 30)) 8 (field e 256 64 + 1) else b)) 0)) ∧
    (∀ t g, AdminReady s x 0x19 e [(64, 24), (88, 1), (89, 1), (128, 48), (192, 48), (256, 64)] false (some (pHandle e))
        [.created, .resident, .blocked, .lost] → bitAt e 89 = true → mappedPage taken c va big = some (t, g) →
      exec (.unmap x) s = .next (adminOk s x e (fun b => supersede (fencePageGone
        (tlbDrop ((l2Addrs t va big).foldl (fun b a => wrLE b a 8 0) b) c.handle va (pageSize big)) g (pageSize big))
        (gatedOf taken c.handle (fun v y => decide (v = va) && y = big))) 0)) ∧
    (∀ (p : Pend) (v : Nat) (f w : Word) (y : Bool) (t g : Nat), Running s → p.kind = .unmap (pHandle e) v y f w → b.adm.pend = [p] →
      gateOpen b p.no = true → mappedPage b c v y = some (t, g) →
      exec (.unmapFenceReached p.src p.tag) s = .next (s.withBlk (pendEnd (fencePageGone
        (tlbDrop ((l2Addrs t v y).foldl (fun b a => wrLE b a 8 0) b) c.handle v (pageSize y)) g (pageSize y)) p 0x30 0 0))) ∧
    (AdminReady s x 0x1C e [(64, 24), (88, 2)] false (some (pHandle e)) live →
      (field e 88 2 = 0 → exec (.residencyPreload x) s = .next (adminOk s x e (fun b => hctTouch b (field e 64 20)) 0) ∧
        (hctTouch b (field e 64 20)).obj.hct.head? = some (field e 64 20)) ∧
      (field e 88 2 = 1 → c.state = .resident → ctxHeats b (pHandle e) = [] → c.handle = pHandle e →
        Gives (exec (.residencyRelease x) s) (fun t =>
          (ctxOf t.blk (pHandle e)).map (fun z => (z.state, z.slot, z.yielding)) = some (.created, none, false)))) ∧
    (AdminReady s x 0x1D e [(64, 24)] false (some (pHandle e)) live →
      exec (.yieldHint x) s = .next (adminOk s x e
        (fun b => putCtx b { c with yielding := true }) 0))

/-! ## Microcode (spec/15_microcode.md) -/

/-- Images (R109, R379 to R382, R462): MICROCODE_LOAD waits for its image; an image that fails a check of R381 ends the command with that
check's error, one that passes is held until no customer handler runs and is then installed. BOOT_CMD LOAD makes `LOAD_STATUS` LOADING,
and its end READY with the parts in the control store, or the failure. `CUSTOMER_KEY_HASH` is written once. -/
def Obligations.MicrocodeImages : Prop :=
  ∀ (s : State),
    let b := s.blk
    (∀ (x : AdminIn) (e : BitVec 512), AdminReady s x 0x20 e [(64, 64), (128, 32), (160, 1)] true none [] → field e 64 64 % 64 = 0 →
      b.mic.image = none → exec (.microcodeLoad x) s = .next (adminWaits s x e .image)) ∧
    (∀ (y : AdminBusy) (g : ReadTag) (bytes : List Byte) (err : AdminErr), Running s → b.adm.busy = some y → y.wait = .image →
      tagsNow b y.gen g.t = true → imageCheck b bytes (field y.entry 128 32) false (decide (y.src = 4)) = some err →
      exec (.adminParameterReadReturn g (.image bytes)) s = .next (s.withBlk (adminReport { b with adm := { b.adm with busy := none } }
        y.src (aTag y.entry) (aOpcode y.entry) (aFunction y.entry) err.1 err.2 0 true))) ∧
    (∀ x : ImageLoad, Running s → b.mic.image = some x → x.passed = false → Gives (exec .microcodeChecksPassed s) (fun t =>
      t.blk.mic = { b.mic with image := match imageCheck b x.bytes x.bytes.length false (decide (x.src = 4)) with
        | none => some { x with passed := true }
        | some _ => none })) ∧
    (∀ x : ImageLoad, Running s → b.mic.image = some x → x.passed = true → handlersRun b = false →
      Gives (exec .microcodeInstall s) (fun t => t.blk.mic = { (imageInstall b x.bytes).mic with image := none } ∧
        (∀ p ∈ t.blk.adm.pend, p.kind ≠ .microcode) ∧ fmGet t.blk.ctr 0x300 0 = satAdd 32 (fmGet b.ctr 0x300 0) 1 ∧
        ∀ a, a < 0x3000 → imgHasVendor x.bytes = false → fmGet t.blk.mic.micro a 0 = fmGet b.mic.micro a 0)) ∧
    (∀ (a : DictAcc) (d : Desc), DictReady s a d → a.idx = 0xA000 → a.sub = 6 → a.value % 256 = 1 → b.mic.selftest = 1 →
      b.mic.status ≠ 1 → b.mic.status ≠ 2 → Gives (exec (.bootLoad a) s) (fun t =>
        t.blk.mic = { b.mic with status := 1 } ∧ t.blk.out = .secEvent :: (dictStore (noted b a) a d).out)) ∧
    (Alive s → b.mic.status = 1 →
      exec (.bootLoadComplete none) s = .next (s.withBlk { b with mic := { b.mic with status := 5 }, out := OutEvent.secEvent :: b.out }) ∧
      ∀ bytes, Gives (exec (.bootLoadComplete (some bytes)) s) (fun t => t.blk.out = .secEvent :: b.out ∧
        (imgHasVendor bytes = false → t.blk.mic = { b.mic with status := 3 }) ∧
        (imgHasVendor bytes = true → t.blk.mic = match imageCheck b bytes bytes.length true true with
          | none => { (imageInstall b bytes).mic with status := 2 }
          | some err => { b.mic with status := if err.2 = 0x0A then 4 else 3 }))) ∧
    (∀ (a : DictAcc) (d : Desc), DictReady s a d → a.idx = 0xA000 → a.sub = 3 →
      (b.mic.keyHash = none → exec (.customerKeyHash a) s = .next (s.withBlk { dictStore (noted b a) a d with
        mic := { b.mic with keyHash := some (a.value % 2 ^ 384) } })) ∧
      (b.mic.keyHash ≠ none → exec (.customerKeyHash a) s = .next (s.withBlk (dictRefuse (noted b a) a true 0x05 7))))

/-- Customer handlers (R76, R375, R376): a customer submission that passes the tests starts its handler on the microsequencer of its
SQ, and a customer admin command on the executor's, with the entry in registers 0 to 7; a submission without a handler is completed
REJECT_BAD_STATE. -/
def Obligations.HandlerStarts : Prop :=
  ∀ (s : State) (e : BitVec 512),
    let b := s.blk
    let starts (m : Nat) (who : HandlerFor) (ctx : Option (BitVec 24)) (d : BitVec 64) (b' : Block) (t : State) : Prop :=
      ∃ ms : MicroSeq, t.blk = { b' with mic := { b'.mic with seqs := fmSet b.mic.seqs m ms } } ∧ ms.who = some who ∧ ms.entry = e ∧
        ms.ctx = ctx ∧ ms.pc = field d 32 14 ∧ ms.limit = field d 16 16 * 1024 ∧ ms.steps = 0 ∧ ms.pend = false ∧
        ∀ i, i < 8 → wreg ms i = e.extractLsb' (64 * i) 64
    (∀ (n : Nat) (q : Sq), Running s → frontEntry b n = some e → fmGet? b.q.sqs n = some q → 0x80 ≤ eOpcode e → entryReserved e = false →
      imageHolds b (eOpcode e) = false → fmHas b.mic.seqs (n % 2) = false →
      let d := descOf b false (eOpcode e)
      (bitAt d 0 = true → admitTest b q e = none →
        Gives (exec (.customerSubmission n) s) (starts (n % 2) (.sub n) (some (eCtx e)) d b)) ∧
      (∀ c, fmGet? b.q.cqs q.cq = some c → bitAt d 0 = false → Gives (exec (.customerSubmission n) s) (fun t =>
        (sqOf t.blk (.q n)).map (fun x => (x.consumer, x.rejected)) = some (q.consumer + 1, satInc 32 q.rejected) ∧
        t.blk.sb.items = b.sb.items ∧ t.blk.mic = b.mic ∧ ∃ x l c', fmGet? t.blk.q.cqs q.cq = some c' ∧ c'.hold = c.hold ++ x :: l ∧
          x.tag = eTag e ∧ x.status = 0x22 ∧ x.kind = .item ∧ x.sq = n))) ∧
    (∀ (x : AdminIn) (op : Nat),
      let d := descOf b true op
      let ctx := if bitAt d 3 then some (pHandle e) else none
      AdminReady s x op e [(64, 448)] (bitAt d 1) ctx (dsCtxStates d) → 0x80 ≤ op → bitAt d 0 = true →
      Gives (exec (.customerAdmin x) s)
        (starts 2 (.admin x.src (aTag e) op (adminOrg b x.src e).serve) ctx d (adminTake b x.src)))

/-- A microword of a handler that has not reached its limit (R370 to R373, R376): one step is counted, the result is that of the
nano word's operation, it goes to `DST` and to nothing else, `NEXT` is ORed with the latched condition bits, and the service operation
is done: a read, a write of 8 bytes, a read of a cached fence, an advance of one with no waiter, or the time. -/
def Obligations.MicrowordRuns : Prop :=
  ∀ (s : State) (m : Nat) (r : SvcReply) (ms : MicroSeq), Running s →
    let b := s.blk
    let mw := fmGet b.mic.micro ms.pc 0
    let w := fmGet b.mic.nano (mwNano mw) 0
    let a := wreg ms (nwSrcA w)
    let x := if bitAt w 27 then w.extractLsb' 42 64 else wreg ms (nwSrcB w)
    seqRuns b m = some ms → inRegion ms.pc = true →
    let goes (z : MicroSeq) : Prop := z.who = ms.who ∧ z.entry = ms.entry ∧ z.limit = ms.limit ∧ z.steps = ms.steps + 1 ∧
      z.pc = mwNext mw ||| branchBits z (mwGroup mw)
    (nwService w = 0 → Gives (exec (.microword m r) s) (fun t => ∃ z, goes z ∧
      t.blk = { b with mic := { b.mic with seqs := fmSet b.mic.seqs m z } } ∧ z.reply = ms.reply ∧
      (nwOp w = 0 → z.result = x) ∧
      (nwOp w = 1 → z.result = a + x ∧ z.carry = decide (a.toNat + x.toNat ≥ 2 ^ 64)) ∧ (nwOp w = 2 → z.result = a - x) ∧
      (nwOp w = 3 → z.result = a &&& x) ∧ (nwOp w = 4 → z.result = a ||| x) ∧ (nwOp w = 5 → z.result = a ^^^ x) ∧
      (nwOp w = 6 → x.toNat < 64 → z.result = a <<< x.toNat) ∧ (nwOp w = 7 → x.toNat < 64 → z.result = a >>> x.toNat) ∧
      (nwOp w = 8 → field w 48 4 + 1 ≤ 8 →
        z.result = BitVec.ofNat 64 (leValue (((regBytes ms).drop (field w 42 6)).take (field w 48 4 + 1))) ∧ z.carry = false) ∧
      (nwOp w = 10 → z.fence = if x = a then 2 else if reached x a then 1 else 3) ∧
      (nwOp w ≠ 10 → z.fence = ms.fence) ∧
      (nwOp w ≠ 9 → ∀ i, wreg z i = if bitAt w 26 = true ∧ i = nwDst w then z.result else wreg ms i))) ∧
    (nwService w = 1 → ∀ l v, r = .ok v → svcBytes b ms a.toNat (2 ^ nwSize w) false = some l →
      Gives (exec (.microword m r) s) (fun t => ∃ z, goes z ∧
        t.blk = { b with mic := { b.mic with seqs := fmSet b.mic.seqs m z } } ∧ z.reply = 0 ∧
        wreg z (nwDst w) = BitVec.ofNat 64 (v.toNat % 2 ^ (8 * 2 ^ nwSize w)))) ∧
    (nwService w = 2 → nwSize w = 3 → ∀ v k, r = .ok v → svcBytes b ms a.toNat 8 true = some ((List.range 8).map (fun i => k + i)) →
      Gives (exec (.microword m r) s) (fun t => ∃ z, goes z ∧ z.reply = 0 ∧
        t.blk = { b with mem := memWriteBytes b.mem k (leBytes 8 (wreg ms (nwSrcB w)).toNat),
                         mic := { b.mic with seqs := fmSet b.mic.seqs m z } })) ∧
    (nwService w = 3 → ∀ g ent, svcFence b ms a false = some g → isLocal b g = true → fenceEnt b (BitVec.ofNat 64 g) = some ent →
      Gives (exec (.microword m r) s) (fun t => ∃ z, goes z ∧ fmGet? t.blk.mic.seqs m = some z ∧ t.blk.mem = b.mem ∧
        z.reply = (if reached ent.value (wreg ms (nwSrcB w)) then 0 else 1) ∧ wreg z (nwDst w) = ent.value)) ∧
    (nwService w = 4 → ∀ g ent, svcFence b ms a true = some g → isLocal b (BitVec.ofNat 64 g).toNat = true →
      fenceEnt b (BitVec.ofNat 64 g) = some ent → (∀ f ∈ b.fen.misses, f.addr ≠ BitVec.ofNat 64 g) → b.fen.waits = [] →
      reached (wreg ms (nwSrcB w)) ent.value = true → wreg ms (nwSrcB w) ≠ ent.value → ent.drop = false →
      Gives (exec (.microword m r) s) (fun t => (∃ z, goes z ∧ fmGet? t.blk.mic.seqs m = some z ∧ z.reply = 0) ∧
        (fenceEnt t.blk (BitVec.ofNat 64 g)).map (fun f => f.value) = some (wreg ms (nwSrcB w)))) ∧
    (nwService w = 5 → Gives (exec (.microword m r) s) (fun t => ∃ z, goes z ∧
      t.blk = { b with mic := { b.mic with seqs := fmSet b.mic.seqs m z } } ∧ z.reply = 0 ∧
      wreg z (nwDst w) = BitVec.ofNat 64 b.tide.time))

/-- The exports and the step limit (R105, R376 to R378): COMPLETE_ENTRY completes the entry with the status in register 13, ADMIT_AS
admits registers 0 to 7 as an entry of the opcode in register 13, ADMIN_FINAL completes the command, PEND_ON_FENCE writes ADMIN_PENDING
and waits for the fence, after which the handler resumes; an export of the other kind of handler is a bad status; an invocation that has
reached its limit ends. -/
def Obligations.HandlerEnds : Prop :=
  ∀ (s : State) (m : Nat) (ms : MicroSeq), Running s →
    let b := s.blk
    let gone : Micro := { b.mic with seqs := fmErase b.mic.seqs m }
    let st := field (wreg ms 13) 0 8
    (∀ n q c, ms.who = some (.sub n) → fmGet? b.q.sqs n = some q → q.dying = false → q.holdReq = false → fmGet? b.q.cqs q.cq = some c →
      let ends (st : Nat) (t : State) : Prop := t.blk.mic = gone ∧ t.blk.sb = b.sb ∧
        (sqOf t.blk (.q n)).map (fun x => (x.consumer, x.rejected)) = some (q.consumer + 1, satInc 32 q.rejected) ∧
        ∃ x l c', fmGet? t.blk.q.cqs q.cq = some c' ∧ c'.hold = c.hold ++ x :: l ∧ x.tag = eTag ms.entry ∧ x.status = st ∧
          x.kind = .item ∧ x.sq = n
      (seqAt b m 0x10 = some ms → entryStatus st = true → Gives (exec (.completeEntry m) s) (ends st)) ∧
      (seqAt b m 0x10 = some ms → entryStatus st = false → Gives (exec (.completeEntry m) s) (ends 0x22)) ∧
      (fmGet? b.mic.seqs m = some ms → ms.limit ≤ ms.steps → Gives (exec (.stepLimit m) s) (ends 0x18)) ∧
      (seqAt b m 0x12 = some ms → Gives (exec (.adminFinal m) s) (ends 0x22)) ∧
      (seqAt b m 0x13 = some ms → Gives (exec (.pendOnFence m) s) (ends 0x22)) ∧
      (∀ (k : ItemKind) (x : Ctx) (g cur : Word), seqAt b m 0x11 = some ms →
        let e := admitEntry ms
        entryKind e = some k → eCtx e = eCtx ms.entry → admitTest b q e = none → ctxOf b (eCtx e) = some x →
        b.sb.items.length < 131072 → quotaFull b x.part = false → eWaitAddr e false ≠ 0 → eWaitAddr e true = 0 →
        translate b (eCtx e) (eWaitAddr e false) false = some g.toNat → isLocal b g.toNat = true →
        (fenceEnt b g).map (fun f => f.value) = some cur → (∀ f ∈ b.fen.misses, f.addr ≠ g) → reached cur (eWaitValue e false) = false →
        fenceRoom b g = true → Gives (exec (.admitAs m) s) (fun t => t.blk.mic = gone ∧ (sqOf t.blk (.q n)).map (fun x => x.consumer) = some (q.consumer + 1) ∧
          ∃ tag i, itemOf b tag = none ∧ itemOf t.blk tag = some i ∧ i.sq = n ∧ i.entry = e ∧ i.kind = k ∧ i.stage = .waiting ∧
            i.w0 = .registered g (eWaitValue e false) ∧ i.w1 = .done))) ∧
    (∀ src tag op port, ms.who = some (.admin src tag op port) →
      (seqAt b m 0x12 = some ms → finalStatus st = true → field (wreg ms 13) 8 8 ≤ 0x0E →
        exec (.adminFinal m) s = .next (s.withBlk (adminReport { b with mic := gone } src tag op (aFunction ms.entry) st
          (field (wreg ms 13) 8 8) (wreg ms 14).toNat true))) ∧
      (seqAt b m 0x12 = some ms → finalStatus st = false →
        exec (.adminFinal m) s = .next (s.withBlk (adminReport { cnt b 0x308 with mic := gone } src tag op (aFunction ms.entry) 0x3F
          0 0 true))) ∧
      (∀ i : Instr, (seqAt b m 0x10 = some ms ∧ i = .completeEntry m) ∨ (seqAt b m 0x11 = some ms ∧ i = .admitAs m) →
        exec i s = .next (s.withBlk (adminReport { cnt b 0x308 with mic := gone } src tag op (aFunction ms.entry) 0x3F 0 0 true))) ∧
      (fmGet? b.mic.seqs m = some ms → ms.limit ≤ ms.steps →
        exec (.stepLimit m) s = .next (s.withBlk (adminReport { cnt b 0x304 with mic := gone } src tag op (aFunction ms.entry) 0x3F
          0x06 0 true))) ∧
      (∀ g ent, seqAt b m 0x13 = some ms → bitAt (descOf b true op) 2 = true → inRegion (field (wreg ms 13) 0 14) = true →
        svcFence b ms (wreg ms 14) false = some g → isLocal b (BitVec.ofNat 64 g).toNat = true →
        fenceEnt b (BitVec.ofNat 64 g) = some ent → (∀ f ∈ b.fen.misses, f.addr ≠ BitVec.ofNat 64 g) →
        reached ent.value (wreg ms 15) = false → fenceRoom b (BitVec.ofNat 64 g) = true →
        Gives (exec (.pendOnFence m) s) (fun t => t.blk.mic = gone ∧
          t.blk.fen.waits = b.fen.waits ++ [{ addr := BitVec.ofNat 64 g, value := wreg ms 15, who := .handler b.adm.pendNo }] ∧
          t.blk.adm.pend = b.adm.pend ++ [
            { no := b.adm.pendNo, src := src, tag := tag, opcode := op, fn := aFunction ms.entry, port := port,
              kind := .customer { ms with pc := field (wreg ms 13) 0 14, pend := true } (BitVec.ofNat 64 g) (wreg ms 15) }]))) ∧
    (∀ (l₁ l₂ : List Pend) (p : Pend) (f v : Word), b.adm.pend = l₁ ++ p :: l₂ → p.kind = .customer ms f v →
      (∀ y ∈ l₁, ∀ z f v, y.kind = .customer z f v → y.src = p.src → y.tag = p.tag → handlerWaits b y.no = true) →
      b.adm.busy = none → fmHas b.mic.seqs 2 = false → handlerWaits b p.no = false →
      exec (.pendResume p.src p.tag) s = .next (s.withBlk { b with
        adm := { b.adm with pend := l₁ ++ l₂ }
        mic := { b.mic with seqs := fmSet b.mic.seqs 2 ms } }))

/-! ## Fences (spec/05_fences_dependencies.md) -/

/-- Fence memory and the dependency engine's own events (R116, R119, R123, R128, R134, R137, R138, R330): a fence that has been read
enters the cache and the operation that waited for it takes effect; an acknowledged write-through is in memory, and what follows it
comes about; a remote wait that reaches its deadline ends its run; a stall report restarts its period; a pass of the walker takes
the cycles as they stand and, at its end, breaks those that the pass before had found too and ends a wait whose last signaller ended by
an abort. -/
def Obligations.FenceEvents : Prop :=
  ∀ (s : State) (a v : Word),
    let b := s.blk
    (∀ hd : Bool, Alive s → b.rcv.stage = .idle → fenceEnt b a = none → b.fen.cache.length < 32768 →
      let rest := b.fen.misses.filter (fun m => decide (m.addr ≠ a))
      (∀ tag i need, b.fen.misses.filter (fun m => m.addr = a) = [{ addr := a, op := .wait (.item tag false) need, drop := false, held := hd }] →
        itemOf b tag = some i → reached v need = false → fenceRoom { b with fen := { b.fen with misses := rest } } a = true →
        Gives (exec (.fenceMissReadReturn a v) s) (fun t =>
          (fenceEnt t.blk a).map (fun x => x.value) = some v ∧ t.blk.fen.misses = rest ∧
          t.blk.fen.waits = b.fen.waits ++ [{ addr := a, value := need, who := .item tag false }] ∧
          itemOf t.blk tag = some { i with w0 := .registered a need })) ∧
      (∀ value who, b.fen.misses.filter (fun m => m.addr = a) = [{ addr := a, op := .signal value who, drop := false, held := hd }] →
        b.fen.waits = [] → value ≠ v → reached value v = true → Gives (exec (.fenceMissReadReturn a v) s) (fun t =>
          (fenceEnt t.blk a).map (fun x => x.value) = some value ∧ fmGet t.blk.ctr 0x080 0 = satAdd 32 (fmGet b.ctr 0x080 0) 1 ∧
          t.blk.fen.writes = b.fen.writes ++ [
            { addr := a, value := value, due := b.tide.clock + dget b 0x6000 5 * 1000, deps := who.deps,
              after := [withOutcome 0 who.after] }])) ∧
      (∀ value who, b.fen.misses.filter (fun m => m.addr = a) = [{ addr := a, op := .signal value who, drop := false, held := hd }] →
        reached value v = false → Gives (exec (.fenceMissReadReturn a v) s) (fun t => (fenceEnt t.blk a).map (fun x => x.value) = some v ∧
          fmGet t.blk.ctr 0x084 0 = satAdd 32 (fmGet b.ctr 0x084 0) 1))) ∧
    (∀ (pre post : List FWrite) (w : FWrite), Alive s → b.fen.writes = pre ++ w :: post → (∀ y ∈ pre, y.addr ≠ a) → w.addr = a →
      w.deps = [] → (∀ y ∈ pre ++ post, (a, w.value) ∉ y.deps) → (∀ y ∈ b.fen.acks, y.deps ≠ [] ∧ (a, w.value) ∉ y.deps) →
      (w.after = [] → exec (.fenceWriteAck a) s = .next (s.withBlk { b with
        mem := memWriteBytes b.mem a.toNat (leBytes 8 w.value.toNat)
        fen := { b.fen with writes := pre ++ post } })) ∧
      (∀ chip seq o, w.after = [.applied chip seq o] → Gives (exec (.fenceWriteAck a) s) (fun t =>
        t.blk.mem = memWriteBytes b.mem a.toNat (leBytes 8 w.value.toNat) ∧ t.blk.fen = { b.fen with writes := pre ++ post } ∧
        fmGet t.blk.fab.txSeq chip 0 = fmGet b.fab.txSeq chip 0 + 1))) ∧
    (∀ (y w : FWrite), Alive s → b.fen.writes = [w, y] → w.addr = a → w.deps = [] → w.after = [] → y.deps = [(a, w.value)] →
      Gives (exec (.fenceWriteAck a) s) (fun t =>
        t.blk.fen.writes = [{ y with deps := [], due := b.tide.clock + dget b 0x6000 5 * 1000 }])) ∧
    (∀ (w : FWrite) (x : Word) (u : Word) (who : SigBy), Alive s → b.fen.writes = [w] → w.addr = a → w.deps = [] → w.after = [] →
      b.fen.acks = [{ deps := [(a, w.value)], next := .remote x u who }] → Gives (exec (.fenceWriteAck a) s) (fun t =>
        t.blk.fen.acks = [] ∧ fmGet t.blk.fab.txSeq (gchip x.toNat) 0 = fmGet b.fab.txSeq (gchip x.toNat) 0 + 1 ∧
        t.blk.fen.signals = b.fen.signals ++ [
          { seq := fmGet b.fab.txSeq (gchip x.toNat) 0, chip := gchip x.toNat, after := who.after }])) ∧
    (∀ (c n : Nat) (r : Run) (w : Word) (d : Nat) (cr : Bool), Running s → (coreOf b c).run = some n → runOf b n = some r → r.abort = none →
      r.endedAt = none → c ∈ r.clusters → c ∉ r.partsEnded → (coreOf b c).hold = .remoteFence a w d cr →
      Gives (exec (.remoteWaitDeadline (.core c)) s) (fun t => (runOf t.blk n).map (fun x => x.abort) = some (some 0x13) ∧
        (coreOf t.blk c).ended = true ∧ t.blk.tide.clock = max b.tide.clock d)) ∧
    (∀ (c n : Nat) (r : Run) (x : Baton), Running s → (portOf b c).out.find? (fun y => y.id = x.id && isL y.ent.pos) = some x →
      x.run = n → runOf b n = some r → r.abort = none → r.endedAt = none →
      Gives (exec (.remoteWaitDeadline (.baton c x.id)) s) (fun t => (runOf t.blk n).map (fun x => x.abort) = some (some 0x13) ∧
        t.blk.tide.clock = max b.tide.clock x.deadline)) ∧
    (∀ u period, Running s → b.sb.fullSince = some (u, period) → Gives (exec (.scoreboardStall none) s) (fun t =>
      t.blk.tide.clock = max b.tide.clock (u + period) ∧
      t.blk.sb = { b.sb with fullSince := some (t.blk.tide.clock, dget b 0x2030 4 * 1000000) } ∧
      (bitAt (BitVec.ofNat 32 (dget b 0x8000 4)) 0 = true → t.blk.traceSeq = (b.traceSeq + 1) % 2 ^ 32))) ∧
    (∀ u period p, Running s → b.sb.full = false → fmGet? b.sb.quota p = some (u, period) →
      Gives (exec (.scoreboardStall (some p)) s) (fun t => t.blk.tide.clock = max b.tide.clock (u + period) ∧
        t.blk.sb = { b.sb with quota := fmSet b.sb.quota p (t.blk.tide.clock, dget b 0x2030 4 * 1000000) })) ∧
    (Running s → b.walk.pass = none →
      let p := dget b 0x2030 2 * 1000
      let now := if timeRuns b then b.tide.time else b.tide.clock
      now ≤ b.walk.due → b.walk.due ≤ now + 100000000 →
      exec .walkerPass s = .next (s.withBlk { passTo b (b.tide.clock + (b.walk.due - now)) with
        walk := { b.walk with due := (b.walk.due / p + 1) * p, pass := some ((creditCycles b).map (creditSet b)) } })) ∧
    (∀ found, Running s → b.walk.pass = some found → orphans b = [] →
      (∀ x ∈ found, ∀ y ∈ b.walk.prev, ¬(x.runs = y.runs ∧ x.values = y.values)) →
      exec .walkerPassEnd s = .next (s.withBlk { b with walk := { b.walk with pass := none, prev := found } })) ∧
    (∀ (cyc old : CreditSet) (n c : Nat) (r : Run) (x y : Word) (k : Ctx), Running s →
      b.walk.pass = some [cyc] → old ∈ b.walk.prev → cyc.runs = old.runs → cyc.values = old.values → orphans b = [] →
      cyc.young = n → cyc.core = c → (coreOf b c).holdFrom = cyc.since → runOf b n = some r → r.abort = none → r.endedAt = none →
      (creditWaits b).find? (fun w => w.1 = c && w.2.1 = n) = some (c, n, x, y) → ctxOf b r.ctx = some k → k.state = .resident → k.handle = r.ctx → b.rel.samples = [] →
      Gives (exec .walkerPassEnd s) (fun t => (runOf t.blk n).map (fun z => z.abort) = some (some 0x14) ∧
        (ctxOf t.blk r.ctx).map (fun z => (z.state, z.lostCause)) = some (.lost, 0x14) ∧
        fmGet t.blk.ctr 0x098 0 = satAdd 32 (fmGet b.ctr 0x098 0) 1)) ∧
    (∀ (c n : Nat) (r : Run) (x y : Word), Running s → b.walk.pass = some [] → orphans b = [(c, n, x, y)] → runOf b n = some r →
      r.abort = none → r.endedAt = none → Gives (exec .walkerPassEnd s) (fun t =>
        (runOf t.blk n).map (fun z => z.abort) = some (some 0x16) ∧ t.blk.walk.pass = none))

/-- Messages about fences (R115, R131 to R133, R468): a signal is applied at home and, once written, answered; a watch is registered,
or answered at once when its value has been reached, or refused while every place of the cache is pinned; FENCE_REACHED releases the waiters whose value has been reached;
FENCE_BUSY schedules the watch again after `REMOTE_WATCH_RETRY_US`, and then it is sent; FENCE_UNWATCH withdraws it. -/
def Obligations.FenceMessages : Prop :=
  ∀ (s : State) (h : GzHdr) (a v : Word),
    let b := s.blk
    (∀ (ent : FenceEnt) (ctx : BitVec 24), InTurn s h false → isLocal b a.toNat = true → fenceEnt b a = some ent → ent.drop = false →
      (∀ m ∈ b.fen.misses, m.addr ≠ a) →
      (v ≠ ent.value → reached v ent.value = true → b.fen.waits = [] → Gives (exec (.fenceSignal h a v ctx) s) (fun t => Turned t h false ∧
        (fenceEnt t.blk a).map (fun x => x.value) = some v ∧ fmGet t.blk.ctr 0x080 0 = satAdd 32 (fmGet b.ctr 0x080 0) 1 ∧
        t.blk.fen.writes = b.fen.writes ++ [
          { addr := a, value := v, due := b.tide.clock + dget b 0x6000 5 * 1000, deps := [], after := [.applied h.src h.seq 0] }])) ∧
      (reached v ent.value = false → (∀ w ∈ b.fen.writes, w.addr ≠ a) → Gives (exec (.fenceSignal h a v ctx) s) (fun t =>
        Turned t h false ∧ (fenceEnt t.blk a).map (fun x => x.value) = some ent.value ∧ t.blk.fen.writes = b.fen.writes ∧
        fmGet t.blk.ctr 0x084 0 = satAdd 32 (fmGet b.ctr 0x084 0) 1 ∧
        fmGet t.blk.fab.txSeq h.src 0 = fmGet b.fab.txSeq h.src 0 + 1)) ∧
      ((∀ w ∈ b.fen.waits, ¬(w.addr = a ∧ w.value = v ∧ w.who = .chip h.src)) →
        (reached ent.value v = false → fenceRoom b a = true → Gives (exec (.fenceWatch h a v) s) (fun t => Turned t h false ∧
          t.blk.fen.waits = b.fen.waits ++ [{ addr := a, value := v, who := .chip h.src }])) ∧
        (reached ent.value v = true → (∀ w ∈ b.fen.writes, w.addr ≠ a) → Gives (exec (.fenceWatch h a v) s) (fun t =>
          Turned t h false ∧ t.blk.fen.waits = b.fen.waits ∧
          fmGet t.blk.fab.txSeq h.src 0 = fmGet b.fab.txSeq h.src 0 + 1)))) ∧
    (InTurn s h false → isLocal b a.toNat = true → fenceEnt b a = none → fenceRoom b a = false →
      (∀ w ∈ b.fen.waits, ¬(w.addr = a ∧ w.value = v ∧ w.who = .chip h.src)) → Gives (exec (.fenceWatch h a v) s) (fun t =>
        Turned t h false ∧ t.blk.fen = b.fen ∧ fmGet t.blk.fab.txSeq h.src 0 = fmGet b.fab.txSeq h.src 0 + 1)) ∧
    (InTurn s h false → ∀ seq o, (∀ x ∈ b.fen.signals, x.after = .nothing) →
      Gives (exec (.fenceApplied h seq o) s) (fun t => Turned t h false ∧
        t.blk.fen = { b.fen with signals := b.fen.signals.filter (fun x => !(x.chip = h.src && x.seq = seq)) })) ∧
    (∀ (need : Word) (c n : Nat) (cr : Bool) (k : Run), InTurn s h false → gchip a.toNat = h.src → isLocal b a.toNat = false →
      b.fen.waits.filter (fun w => w.addr = a && reached v w.value) = [{ addr := a, value := need, who := .core c cr }] →
      (coreOf b c).run = some n → runOf b n = some k → k.abort = none →
      Gives (exec (.fenceReached h a v) s) (fun t => Turned t h false ∧
        t.blk.fen.waits = b.fen.waits.filter (fun w => !(w.addr = a && reached v w.value)) ∧
        t.blk.fen.watches = b.fen.watches.filter (fun w => !(w.addr = a && reached v w.value)) ∧
        (coreOf t.blk c).hold = .none ∧ (coreOf t.blk c).slw = (coreOf b c).slw.map (fun w => { w with value := some v }))) ∧
    (∀ (l₁ l₂ : List RWatch) (w : RWatch), InTurn s h false → gchip a.toNat = h.src → b.fen.watches = l₁ ++ w :: l₂ →
      (∀ x ∈ l₁, ¬(x.addr = a ∧ x.sent = true ∧ x.retry = none)) → w.addr = a → w.sent = true → w.retry = none →
      Gives (exec (.fenceBusy h a) s) (fun t => Turned t h false ∧
        t.blk.fen.watches = l₁ ++ { w with retry := some (b.tide.clock + dget b 0x2030 5 * 1000) } :: l₂ ∧
        fmGet t.blk.ctr 0x094 0 = satAdd 32 (fmGet b.ctr 0x094 0) 1)) ∧
    (InTurn s h false → Gives (exec (.fenceUnwatch h a v) s) (fun t => Turned t h false ∧
      t.blk.fen.waits = b.fen.waits.filter (fun w => !(w.addr = a && w.value = v && decide (w.who = .chip h.src))) ∧
      t.blk.fen.writes = b.fen.writes ∧ t.blk.fen.watches = b.fen.watches)) ∧
    (∀ (w : RWatch) (u : Nat), Running s → b.fen.watches.find? (fun x => x.addr = a && x.value = v) = some w → w.retry = some u →
      Gives (exec (.remoteWatchRetry a v) s) (fun t => t.blk.tide.clock = max b.tide.clock u ∧ t.blk.fen.waits = b.fen.waits ∧
        t.blk.fen.watches = b.fen.watches.map (fun x =>
          if x.addr = a && x.value = v then { x with sent := routed b (gchip a.toNat), retry := none } else x) ∧
        (routed b (gchip a.toNat) = true →
          fmGet t.blk.fab.txSeq (gchip a.toNat) 0 = fmGet b.fab.txSeq (gchip a.toNat) 0 + 1)))

/-! ## Heats and slots (spec/09_heats_scheduling.md) -/

/-- Heat starts (R221 to R235, R263, R424): at an occurrence the first ready LC heat starts on the reservation's clusters with its
deadline, is missed under a brownout hold, and waits while a cluster is held; a release starts a late heat. A BE heat starts on
free clusters that are at least IDLE, a document chunk by chunk; a descriptor with other tags than the current ones is dropped. -/
def Obligations.HeatStarts : Prop :=
  ∀ (s : State), Running s →
    let b := s.blk
    let starts (t : State) (tag : Nat) (i : Item) (cs : List Nat) (deadline : Option Nat) (late : Bool) (occ : Nat)
        (chunk : Option (Nat × Nat × Nat)) : Prop :=
      (∃ r, runOf t.blk b.comp.nextRun = some r ∧ r.kind = .primary ∧ r.tag = tag ∧ r.ctx = i.ctx ∧ r.clusters = cs ∧
        r.deadline = deadline ∧ r.late = late ∧ r.occ = occ ∧ r.start = stamp t.blk ∧ r.chunk = chunk ∧ r.endedAt = none) ∧
      (itemOf t.blk tag).map (fun x => (x.stage, x.started)) = some (.running, true) ∧
      (∀ c ∈ cs, (coreOf t.blk c).run = some b.comp.nextRun ∧ (coreOf t.blk c).off = 0 ∧ (coreOf t.blk c).s = [] ∧
        (coreOf t.blk c).a = [] ∧ (coreOf t.blk c).ended = false)
    (∀ (p ref : Nat) (sh : Sheet) (r : Reservation), liveSheet b p = some sh → sh.res.find? (fun y => decide (y.ref = ref)) = some r →
      framesRun b = true → inFrame r.perLog2 r.phase b.tide.frame = true → occBegun b p ref = false →
      let begun := frameStart b b.tide.frame + r.offset
      (lcReady b p ref = [] → Gives (exec (.occurrenceBegin p ref) s) (fun t => t.blk.tide.time = max b.tide.time begun % 2 ^ 64 ∧
        t.blk.comp.nextRun = b.comp.nextRun ∧ t.blk.sb = b.sb ∧ occBegun t.blk p ref = true)) ∧
      (∀ tag i, lcReady b p ref = [(tag, i)] →
        (b.pwr.hold = false → occHeld b p (resClusters r) = false → r.mixing = false → resClusters r ≠ [] →
          (∀ c ∈ resClusters r, withdrawn b c = false) → Gives (exec (.occurrenceBegin p ref) s) (fun t =>
            starts t tag i (resClusters r) (some (begun + r.budget)) false b.tide.frame none ∧
            t.blk.tide.time = max b.tide.time begun % 2 ^ 64 ∧ fmGet t.blk.ctr 0x180 0 = satAdd 32 (fmGet b.ctr 0x180 0) 1)) ∧
        (b.pwr.hold = true → Gives (exec (.occurrenceBegin p ref) s) (fun t => t.blk.comp.nextRun = b.comp.nextRun ∧ t.blk.sb = b.sb ∧
          fmGet t.blk.ctr 0x1CC 0 = satAdd 32 (fmGet b.ctr 0x1CC 0) 1 ∧
          ∃ d ∈ t.blk.tide.decls, d.frame = b.tide.frame ∧ d.chip = chipNo b)) ∧
        (b.pwr.hold = false → occHeld b p (resClusters r) = true → (∀ x ∈ b.comp.runs, x.2.lc = true ∨ x.2.overrun = true) →
          Gives (exec (.occurrenceBegin p ref) s) (fun t =>
          t.blk.comp.nextRun = b.comp.nextRun ∧ t.blk.sb = b.sb ∧ fmGet t.blk.ctr 0x1C8 0 = satAdd 32 (fmGet b.ctr 0x1C8 0) 1 ∧
          t.blk.comp.lateWait = b.comp.lateWait ++ [
            { tag := tag, part := p, res := r, begun := begun, due := clockAt (passRef b begun) (begun + r.budget), frame := b.tide.frame,
              overrun := false }] ∧
          ∃ d ∈ t.blk.tide.decls, d.frame = b.tide.frame ∧ d.chip = chipNo b)))) ∧
    (∀ (n : Nat) (r : Run), runOf b n = some r → r.endedAt ≠ none → r.released = false →
      (r.done = true → b.comp.lateWait = [] → Gives (exec (.clusterRelease n) s) (fun t =>
        t.blk.comp = { b.comp with runs := fmErase (fmSet b.comp.runs n { r with released := true }) n } ∧ t.blk.cores = b.cores)) ∧
      (r.done = false → b.comp.lateWait = [] → Gives (exec (.clusterRelease n) s) (fun t =>
        t.blk.comp = { b.comp with runs := fmSet b.comp.runs n { r with released := true } } ∧ t.blk.cores = b.cores)) ∧
      (∀ x i, b.comp.runs = [(n, r)] → b.live = [] → b.comp.lateWait = [x] → itemOf b x.tag = some i → i.stage = .composer →
        b.pwr.hold = false → x.res.mixing = false → resClusters x.res ≠ [] → (∀ c ∈ resClusters x.res, withdrawn b c = false) →
        Gives (exec (.clusterRelease n) s) (fun t =>
          starts t x.tag i (resClusters x.res) (some (x.begun + x.res.budget)) true x.frame none ∧ t.blk.comp.lateWait = []))) ∧
    (∀ (tag : Nat) (h : HeatRead) (d : BitVec 256), heatReadNow b tag h = false →
      exec (.beDescriptorReadReturn tag h d) s = .next (s.withBlk (staleReply b h.g))) ∧
    (∀ (tag u : Nat) (g : Bool) (i : Item) (h : HeatRead) (d : BitVec 256), itemOf b tag = some i → i.stage = .composer →
      i.descRd = .flying u g → heatReadNow b tag h = true → Gives (exec (.beDescriptorReadReturn tag h d) s) (fun t => ∃ z, t.blk = putItem b tag z ∧ z.desc = some d ∧ z.descRd = .idle ∧
        z.stage = .composer ∧ (bitAt d 39 = false → z.doc = none) ∧
        (bitAt d 39 = true → field d 64 32 ≠ 0 → ∃ k, z.doc = some k ∧ k.tokens = field d 64 32 ∧
          k.len = (if field d 48 16 = 0 then dget b 0x3010 2 else field d 48 16) ∧
          k.par = (if field d 40 7 = 0 then dget b 0x3010 5 else field d 40 7) ∧
          k.total = (k.tokens + k.len - 1) / k.len ∧ k.next = 0))) ∧
    (∀ (p tag : Nat) (i : Item) (cs : List Nat), bePick b p = some (tag, i, cs) → cs ≠ [] →
      (∀ c ∈ cs, clusterHeld b c = false ∧ 2 ≤ (pwrOf b c).state ∧ withdrawn b c = false ∧ c ∈ partClusters b p) ∧
      (i.doc = none → Gives (exec (.bePlace p) s) (fun t => starts t tag i (ascending cs) none false b.tide.frame none ∧
        fmGet t.blk.ctr 0x184 0 = satAdd 32 (fmGet b.ctr 0x184 0) 1)) ∧
      (∀ d k j, i.doc = some d → pendingChunk d = some k → itemOf b tag = some j → j.part = p →
        Gives (exec (.chunkStart tag) s) (fun t =>
          starts t tag i (ascending cs) none false b.tide.frame (some (k, min d.len (d.tokens - k * d.len), k * d.len)) ∧
          ∃ z, (itemOf t.blk tag).map (fun x => x.doc) = some (some z) ∧ z.flying = d.flying + 1))) ∧
    (∀ (tag : Nat) (i : Item), itemOf b tag = some i → beWaits i = true → i.starved = false →
      exec (.beStarve tag) s = .next (s.withBlk (cnt (putItem (passTo b i.starveBy) tag { i with starved := true }) 0x190)))

/-- Execution slots (R36 to R38, R237 to R240): the waiting context takes a free slot, then that of a Resident context without work,
and at last that of a Blocked one; a context whose record is read becomes the most recently used of the HCT. -/
def Obligations.SlotTurns : Prop :=
  ∀ (s : State) (p k : Nat) (c : Ctx), Running s →
    let b := s.blk
    let takes (t : State) : Prop := (ctxOf t.blk c.handle).map (fun z => (z.state, z.slot, z.slotWait)) = some (.resident, some k, none) ∧
      t.blk.obj.hct.head? = some (field c.handle 0 20)
    let leaves (t : State) (v : Ctx) : Prop := (ctxOf t.blk v.handle).map (fun z => (z.state, z.slot, z.yielding)) = some (.created, none, false)
    (∀ id x, fmGet? b.obj.ctxs id = some x → x.slotWait ≠ none → inHct b x = false → field x.handle 0 20 = id →
      exec (.hctRecordReadReturn id) s = .next (s.withBlk (hctTouch b id)) ∧ (hctTouch b id).obj.hct.head? = some id) ∧
    (slotNext b p = some c → inHct b c = true → (∀ x ∈ b.sb.items, x.2.ctx = c.handle → hasProgram x.2.entry = true) →
      (slotFree b p = true → lowestFree ((b.obj.ctxs.map Prod.snd).filterMap (fun x => x.slot)) 0 64 = some k →
        Gives (exec (.slotAssign p) s) takes) ∧
      (∀ v, slotFree b p = false → field v.handle 0 20 ≠ field c.handle 0 20 →
        lowestFree (((leaveSlot b v .created).obj.ctxs.map Prod.snd).filterMap (fun x => x.slot)) 0 64 = some k →
        (idleHolder b p = some v → Gives (exec (.slotAssign p) s) (fun t => takes t ∧ leaves t v)) ∧
        (idleHolder b p = none → evictable (passTo b (evictionDue b p)) p = some v →
          Gives (exec (.eviction p) s) (fun t => takes t ∧ leaves t v ∧ t.blk.tide.clock = max b.tide.clock (evictionDue b p) ∧
            fmGet t.blk.ctr 0x198 0 = satAdd 32 (fmGet b.ctr 0x198 0) 1))))

/-! ## Time, frames and sheets (spec/10_tide_determinism.md) -/

/-- Reference time (R250 to R252, R271, R274): a good pulse brings a locked time master's time to the end of the period and locks an
unlocked one; a faulty or missing pulse is counted, the third in a row clearing `FSYNC_OK`. The time master's announce names the next
pulse; its chips keep it. The rack leader takes the median of its offsets. A loss of the reference holds the time, the end
of the hold starts free run outside the domain, and a return within the hold resumes. -/
def Obligations.TideTime : Prop :=
  ∀ (s : State), Alive s →
    let b := s.blk
    let next := (b.tide.pulseAt + fsyncNs b) % 2 ^ 64
    (∀ cycles width, b.tide.refOn = true → 1 ≤ width → (8 < width ∨ (b.tide.good ≠ 0 ∧ cycles ≠ dget b 0x4000 1 * 100)) → Gives (exec (.fsync cycles width) s) (fun t =>
      t.blk.tide.bad = b.tide.bad + 1 ∧ t.blk.tide.fsyncOk = (b.tide.fsyncOk && decide (b.tide.bad ≠ 2)) ∧
      t.blk.tide.locked = b.tide.locked ∧ t.blk.tide.time = b.tide.time ∧
      fmGet t.blk.ctr 0x1D0 0 = satAdd 32 (fmGet b.ctr 0x1D0 0) 1)) ∧
    (∀ cycles width, b.tide.refOn = true → b.fab.plan = none → 1 ≤ width → width ≤ 8 → cycles = dget b 0x4000 1 * 100 →
      b.tide.timeSet = none → b.tide.announce = none → b.tide.good ≠ 0 →
      (b.tide.locked = true → b.tide.fsyncOk = true → b.tide.slew = 0 → Gives (exec (.fsync cycles width) s) (fun t =>
        t.blk.tide.time = max b.tide.time next % 2 ^ 64 ∧ t.blk.tide.pulseAt = t.blk.tide.time ∧ t.blk.tide.edges = 0 ∧ t.blk.tide.bad = 0 ∧
        t.blk.tide.locked = true ∧ t.blk.tide.fsyncOk = true ∧ t.blk.tide.stable = b.tide.stable + 1 ∧
        t.blk.tide.frame = b.tide.frame ∧ t.blk.out = b.out)) ∧
      (b.tide.locked = false → b.tide.freeRun = false → b.tide.time = 0 → 1000 ≤ cycles → Gives (exec (.fsync cycles width) s) (fun t =>
        t.blk.tide.locked = true ∧ t.blk.tide.fsyncOk = true ∧ t.blk.tide.time = 0 ∧ t.blk.tide.pulseAt = 0 ∧ t.blk.tide.timeHold = false))) ∧
    (b.tide.refOn = true → b.tide.good ≠ 0 → b.tide.locked = true → b.tide.slew = 0 → Gives (exec .fsyncMissed s) (fun t =>
      t.blk.tide.time = max b.tide.time next % 2 ^ 64 ∧ t.blk.tide.pulseAt = t.blk.tide.time ∧ t.blk.tide.bad = b.tide.bad + 1 ∧
      t.blk.tide.fsyncOk = (b.tide.fsyncOk && decide (b.tide.bad ≠ 2)) ∧ t.blk.tide.locked = true)) ∧
    (Running s → timeMaster b = true → b.tide.locked = true → b.tide.refOn = true → Gives (exec .timeAnnounceSend s) (fun t =>
      ∃ a, t.blk.tide.announce = some a ∧ a.nextFsync = b.tide.timeSet.getD (nextPulse b) ∧ a.origin = b.tide.newOrigin.getD b.tide.origin ∧
        a.length = b.tide.length ∧ (b.tide.pendLen = none → a.pending = 0) ∧
        (∀ x F, b.tide.pendLen = some (x, F) → a.pending = x ∧ a.changeAt = F) ∧ t.blk.tide.newOrigin = none ∧
        t.blk.tide.time = max b.tide.time (b.tide.pulseAt + fsyncNs b / 2) % 2 ^ 64)) ∧
    (∀ (h : GzHdr) (a : Announce) (p : Plan), InTurn s h true → b.fab.plan = some p →
      let near := rackOf b (chipNo b) = rackOf b h.src
      let leads := p.twoRack = true ∧ chipNo b = p.rackLeader
      ((h.src = p.timeMaster ∧ ¬leads ∧ (p.twoRack = false ∨ near)) ∨ (h.src ≠ p.timeMaster ∧ p.twoRack = true ∧ h.src = p.rackLeader ∧ near) →
        Gives (exec (.timeAnnounce h a) s) (fun t => Turned t h true ∧ t.blk.tide = { b.tide with announce := some a })) ∧
      (h.src = p.timeMaster → leads → b.tide.locked = true → Gives (exec (.timeAnnounce h a) s) (fun t => Turned t h true ∧
        t.blk.tide = { b.tide with copied := some a }))) ∧
    (∀ (h : GzHdr) (t1 t2 : Nat), InTurn s h false → Gives (exec (.timeBeacon h t1 t2) s) (fun t => Turned t h false ∧
      t.blk.tide = b.tide ∧ fmGet t.blk.fab.txSeq h.src 0 = fmGet b.fab.txSeq h.src 0 + 1)) ∧
    (∀ (h : GzHdr) (t1 t2 t3 t4 : Nat), InTurn s h false → rackLeader b = true → Gives (exec (.timeBeaconReply h t1 t2 t3 t4) s) (fun t =>
      let theta := Int.fdiv (((t2 : Int) - t1) - ((t4 : Int) - t3)) 2 + (BitVec.ofNat 32 (dget b 0x4020 7)).toInt
      Turned t h false ∧ t.blk.tide.thetas = (b.tide.thetas ++ [theta]).drop (b.tide.thetas.length - 7) ∧
      t.blk.tide.corr = median t.blk.tide.thetas ∧ t.blk.tide.exch = 2 ∧
      ∃ a, t.blk.tide.announce = some a ∧ a.nextFsync = nextPulse b ∧
        a.corr = max (-(dget b 0x4020 3 : Int)) (min t.blk.tide.corr (dget b 0x4020 3)))) ∧
    (b.tide.refOn = true →
      (b.tide.locked = true → Gives (exec .refLoss s) (fun t => t.blk.tide.refOn = false ∧ t.blk.tide.timeHold = true ∧
        t.blk.tide.time = b.tide.time ∧ t.blk.tide.frame = b.tide.frame ∧ t.blk.tide.locked = true ∧
        (∀ n r, runOf b n = some r → r.lc = true → r.endedAt = none → runOf t.blk n = some { r with late := true }) ∧
        (framesRun b = true → ∃ d ∈ t.blk.tide.decls, d.frame = b.tide.frame ∧ d.chip = chipNo b))) ∧
      (b.tide.locked = false → exec .refLoss s = .next (s.withBlk { b with tide := { b.tide with
        refOn := false, cycles := 0, stable := 0, good := 0 } }))) ∧
    (b.tide.refOn = false → b.tide.freeRun = false →
      (b.tide.timeHold = true → Gives (exec .refLossHoldExpiry s) (fun t => t.blk.tide.timeHold = false ∧ t.blk.tide.freeRun = true ∧
        t.blk.tide.locked = false ∧ t.blk.tide.fsyncOk = false ∧ t.blk.tide.member = false ∧ t.blk.tide.time = b.tide.time)) ∧
      (∀ stop, (b.tide.timeHold = true → Gives (exec (.refReturn stop) s) (fun t => t.blk.tide.refOn = true ∧
          t.blk.tide.timeHold = false ∧ t.blk.tide.time = b.tide.time ∧ t.blk.tide.frame = b.tide.frame ∧
          fmGet t.blk.ctr 0x1D8 0 = satAdd 32 (fmGet b.ctr 0x1D8 0) 1)) ∧
        (b.tide.timeHold = false → exec (.refReturn stop) s = .next (s.withBlk { b with tide := { b.tide with
          refOn := true, cycles := 100, good := 0 } })))) ∧
    (∀ (a : DictAcc) (d : Desc), DictReady s a d → a.idx = 0x4000 → a.sub = 3 →
      (timeMaster b = true → exec (.timeSetNs a) s = .next (s.withBlk { dictStore (noted b a) a d with
        tide := { b.tide with timeSet := some (a.value % 2 ^ 64) } })) ∧
      (timeMaster b = false → exec (.timeSetNs a) s = .next (s.withBlk (dictRefuse (noted b a) a true 0x05 7))))

/-- Frames and membership (R253, R254, R267, R269, R270, R272, R275): a frame begins at its instant under the length in force, and the
frame two before it settles; a heat that has not ended at its deadline makes its frame late; a declaration is held until the
frame settles, and one after that takes the chip out of its domain; the time master schedules a longer frame and answers a
join. -/
def Obligations.TideFrames : Prop :=
  ∀ (s : State), Alive s →
    let b := s.blk
    let n := (b.tide.frame + 1) % 2 ^ 48
    (timeRuns b = true → b.tide.inFrames = true → Gives (exec .frameBegin s) (fun t => t.blk.tide.frame = n ∧ t.blk.tide.inFrames = true ∧
      t.blk.tide.time = max b.tide.time (frameStart b n) % 2 ^ 64 ∧ t.blk.tide.baseFrame = n ∧ (∀ d ∈ t.blk.tide.decls, d.frame ≠ (n + 2 ^ 48 - 2) % 2 ^ 48) ∧
      (b.tide.pendLen = none → t.blk.tide.length = b.tide.length ∧ t.blk.tide.baseTime = frameStart b n) ∧
      (∀ len F, b.tide.pendLen = some (len, F) → frameReached n F = true → t.blk.tide.length = len ∧ t.blk.tide.pendLen = none ∧
        (0 ≤ (b.tide.baseTime : Int) + frameDiff F b.tide.baseFrame * b.tide.length → t.blk.tide.baseTime = frameStart b n)))) ∧
    (timeRuns b = true → b.tide.inFrames = false → Gives (exec .frameBegin s) (fun t => t.blk.tide.frame = 0 ∧
      t.blk.tide.inFrames = true ∧ t.blk.tide.time = max b.tide.time b.tide.origin % 2 ^ 64)) ∧
    (∀ tag,
      (∀ m r, (∀ w ∈ b.comp.lateWait, w.tag = tag → w.overrun = true) → b.comp.runs.find? (fun x =>
          decide (x.2.tag = tag) && x.2.deadline.isSome && x.2.endedAt.isNone && !x.2.overrun) = some (m, r) →
        Gives (exec (.deadline tag) s) (fun t => runOf t.blk m = some { r with late := true, overrun := true } ∧
          t.blk.tide.clock = max b.tide.clock r.due ∧ fmGet t.blk.ctr 0x1C4 0 = satAdd 32 (fmGet b.ctr 0x1C4 0) 1 ∧
          ∃ d ∈ t.blk.tide.decls, d.frame = r.occ ∧ d.chip = chipNo b)) ∧
      (∀ w, b.comp.lateWait = [w] → w.tag = tag → w.overrun = false → Gives (exec (.deadline tag) s) (fun t =>
        t.blk.comp = { b.comp with lateWait := [{ w with overrun := true }] } ∧
        t.blk.tide.clock = max b.tide.clock w.due ∧
        ∃ d ∈ t.blk.tide.decls, d.frame = w.frame ∧ d.chip = chipNo b))) ∧
    (∀ (h : GzHdr) (frame chip cause flags : Nat), InTurn s h true → b.tide.member = true → (frame, chip) ∉ b.tide.seen →
      (frameReached b.tide.frame ((frame + 2) % 2 ^ 48) = false → Gives (exec (.lateFrame h frame chip cause flags) s) (fun t =>
        Turned t h true ∧ t.blk.tide.decls = b.tide.decls ++ [{ frame := frame, chip := chip, cause := cause }] ∧
        t.blk.tide.member = true)) ∧
      (frameReached b.tide.frame ((frame + 2) % 2 ^ 48) = true → Gives (exec (.lateFrame h frame chip cause flags) s) (fun t =>
        Turned t h true ∧ t.blk.tide.decls = b.tide.decls ∧ t.blk.tide.member = false ∧
        fmGet t.blk.ctr 0x1D4 0 = satAdd 32 (fmGet b.ctr 0x1D4 0) 1))) ∧
    (∀ (h : GzHdr) (len : Nat), InTurn s h false → timeMaster b = true →
      let m := max b.tide.maxFloor len
      Gives (exec (.frameLengthRequest h len) s) (fun t => Turned t h false ∧ t.blk.tide.maxFloor = m ∧ t.blk.tide.length = b.tide.length ∧
        t.blk.tide.pendLen = (if (b.tide.pendLen.map Prod.fst).getD b.tide.length < max (dget b 0x4010 2) m then
          some (max (dget b 0x4010 2) m, (b.tide.frame + 4) % 2 ^ 48) else b.tide.pendLen))) ∧
    (∀ (h : GzHdr) (chip cause : Nat), InTurn s h true →
      (b.tide.member = true → rackOf b chip = rackOf b (chipNo b) → Gives (exec (.tideLeave h chip true cause) s) (fun t =>
        Turned t h true ∧ t.blk.tide.member = false ∧ t.blk.tide.rackOut = true)) ∧
      Gives (exec (.tideLeave h chip false cause) s) (fun t => Turned t h true ∧ t.blk.tide = b.tide)) ∧
    (∀ (h : GzHdr) (chip : Nat), InTurn s h false → timeMaster b = true → Gives (exec (.tideJoin h chip) s) (fun t => Turned t h false ∧
      t.blk.tide = b.tide ∧ fmGet t.blk.fab.txSeq chip 0 = fmGet b.fab.txSeq chip 0 + 1)) ∧
    (∀ (h : GzHdr) (frame : Nat), InTurn s h false → b.tide.member = false → Gives (exec (.tideJoinAccept h frame) s) (fun t =>
      Turned t h false ∧ t.blk.tide = (if b.live.any (fun x => x.2.missed) then { b.tide with rackOut := false, joinSent := false }
        else { b.tide with rackOut := false, joinAt := some frame })))

/-- Sheets and the frame entries (R254, R259 to R261, R401): INSTALL starts the read of a sheet, whose end stages it, or names the first
check that it fails; REMOVE drops a staged sheet and removes an active one at a frame boundary; a length is scheduled for the frame in
`FRAME_CHANGE_AT`, an origin goes out with the next announce. -/
def Obligations.TideSheets : Prop :=
  ∀ (s : State) (p : Nat),
    let b := s.blk
    let x := sheetOf b p
    (∀ (a : DictAcc) (d : Desc), DictReady s a d → p < 32 → a.idx = 0x4100 + p → a.sub = 4 →
      let addr := dget b a.idx 1
      let len := dget b a.idx 2
      let F := dget b a.idx 3
      (x.status ≠ 1 → a.value % 256 = 1 → Gives (exec (.sheetInstall a p) s) (fun t =>
        (inPart b p addr len = true → sheetOf t.blk p = { x with status := 1, loading := some (a, addr, len, F) }) ∧
        (inPart b p addr len = false → sheetOf t.blk p = { x with status := 8, loading := none }))) ∧
      (x.status ≠ 1 → a.value % 256 = 2 → Gives (exec (.sheetRemove a p) s) (fun t =>
        t.blk.regs.wgen = (b.regs.wgen + 1) % 2 ^ 16 ∧
        (x.active = none → sheetOf t.blk p = { x with staged := none, covered := none, status := 4 }) ∧
        (x.active ≠ none → sheetOf t.blk p = { x with
          staged := none, covered := none, removeAt := some (if frameReached b.tide.frame F then (b.tide.frame + 1) % 2 ^ 48 else F) }))) ∧
      (x.status = 1 → (a.value % 256 = 1 → exec (.sheetInstall a p) s = .next (s.withBlk (dictRefuse (noted b a) a true 0x05 7))) ∧
        (a.value % 256 = 2 → exec (.sheetRemove a p) s = .next (s.withBlk (dictRefuse (noted b a) a true 0x05 7))))) ∧
    (∀ (a : DictAcc) (addr len F : Nat), Alive s → x.loading = some (a, addr, len, F) →
      Gives (exec (.sheetReadReturn p none) s) (fun t => sheetOf t.blk p = { x with status := 14, loading := none } ∧
        t.blk.aud.seq = b.aud.seq + 1) ∧
      ∀ bytes, Gives (exec (.sheetReadReturn p (some bytes)) s) (fun t => match sheetCheck b p len F bytes with
        | some st => sheetOf t.blk p = { x with status := st, loading := none } ∧ t.blk.aud.seq = b.aud.seq + 1 ∧
            t.blk.regs.wgen = b.regs.wgen
        | none => t.blk.regs.wgen = (b.regs.wgen + 1) % 2 ^ 16 ∧ sheetOf t.blk p = { x with
            status := 2, loading := none, staged := some (sheetOfBytes bytes, F),
            covered := some (bytesField bytes 8 4, bytesField bytes 0x3C 4) })) ∧
    (∀ (a : DictAcc) (d : Desc), DictReady s a d → a.idx = 0x4010 →
      let v := a.value % 2 ^ 32
      (a.sub = 2 → v % 10 = 0 → 1000 ≤ v → v ≤ 10000000 →
        (frameRights b = true → lengthLeast b ≤ v → frameReached (dget b 0x4010 3) ((b.tide.frame + 4) % 2 ^ 48) = true →
          exec (.frameLengthNs a) s = .next (s.withBlk { dictStore (noted b a) a d with tide := { b.tide with
            pendLen := some (max v (max b.tide.floor b.tide.maxFloor), dget b 0x4010 3) } })) ∧
        (¬(frameRights b = true ∧ lengthLeast b ≤ v ∧ frameReached (dget b 0x4010 3) ((b.tide.frame + 4) % 2 ^ 48) = true) →
          exec (.frameLengthNs a) s = .next (s.withBlk (dictRefuse (noted b a) a true 0x05 7)))) ∧
      (a.sub = 3 → exec (.frameChangeAt a) s = .next (s.withBlk
        (if frameRights b then dictStore (noted b a) a d else dictRefuse (noted b a) a true 0x05 7))) ∧
      (a.sub = 1 → exec (.frameOriginNs a) s = .next (s.withBlk (if frameRights b && noSheets b then
          { dictStore (noted b a) a d with tide := { b.tide with newOrigin := some (a.value % 2 ^ 64) } }
        else dictRefuse (noted b a) a true 0x05 7))))

/-! ## Live tables (spec/11_table_updates.md) -/

/-- The update path (R283 to R289, R291, R293): a block's records are staged on the source and counted, a bad header ends its item
DONE_WITH_SKIPS, and one that the ring cannot take waits; a replica in service stages what arrives and keeps seals; a window begins an apply, writes an empty epoch, or is
missed; APPLY takes the partition once nothing is in flight in it, and APPLY_END writes the epoch and frame. -/
def Obligations.TableUpdates : Prop :=
  ∀ (s : State) (id : Nat) (l : Live),
    let b := s.blk
    liveOf b id = some l →
    (∀ (tag : Nat) (i : Item) (g : HeatRead) (hdr : BitVec 256) (recs : List UpdRec), Running s → blockNext b = some (tag, i) →
      itemOf b tag = some i → heatReadNow b tag g = true → blockReads b i 32 = true →
      (headerOk b i hdr = false → eSignalAddr i.entry = 0 → unacked b i = [] → i.stage = .updating →
        Gives (exec (.updateHeaderReadReturn tag g hdr recs) s) (fun t => fmGet t.blk.ctr 0x214 0 = satAdd 32 (fmGet b.ctr 0x214 0) 1 ∧
          (itemOf t.blk tag).map (fun x => (x.stage, x.status)) = some (.ended, 1))) ∧
      (∀ r, headerOk b i hdr = true → blockReads b i (8 * eLength i.entry) = true → field hdr 0 12 = id → field hdr 32 32 = 1 → recs = [r] →
        r.data.length = tRowBytes l.dir → r.row.toNat < tRows l.dir →
        (stagePut b r.data = none → exec (.updateHeaderReadReturn tag g hdr recs) s = .next s) ∧
        ∀ pos u, stagePut b r.data = some (pos, u) →
        Gives (exec (.updateHeaderReadReturn tag g hdr recs) s) (fun t => fmGet? t.blk.upd tag = some { left := 1, skips := false } ∧
          fmGet t.blk.ctr 0x200 0 = satAdd 32 (fmGet b.ctr 0x200 0) 1 ∧ t.blk.stagePos = pos + roundUp r.data.length 8 ∧
          liveOf t.blk id = some { l with queue := l.queue ++ [
            { uid := field hdr 64 64, pos := pos, row := r.row.toNat, data := r.data, add := bitAt hdr 12, tag := some tag }] }))) ∧
    (∀ (h : GzHdr), InTurn s h true → l.inService = true → isSource b l = false →
      (∀ (add : Bool) (r : UpdRec) (pos : Nat) (u : Block), stagePut (arrived b (tre h) (.updateData id add [r])) r.data = some (pos, u) →
        Gives (exec (.updateData h id add [r]) s) (fun t => Turned t h true ∧
          liveOf t.blk id = some { l with recs := l.recs ++ [
            { uid := 0, pos := pos, row := r.row.toNat, data := r.data, add := add, tag := none }] })) ∧
      (∀ e : Seal, e.liveId = id → Gives (exec (.epochSeal h e) s) (fun t => Turned t h true ∧
        liveOf t.blk id = some { l with seals := l.seals ++ [e], first := some (l.first.getD e.frame) })) ∧
      (∀ frame, Gives (exec (.sourceSuspend h id frame) s) (fun t => Turned t h true ∧
        liveOf t.blk id = some { l with suspend := some frame })) ∧
      (∀ epoch frame, Gives (exec (.sourceResume h id epoch frame) s) (fun t => Turned t h true ∧
        liveOf t.blk id = some { l with suspend := none, gaps := l.gaps ++ [
          { last := l.suspend.getD ((frame + 2 ^ 48 - 1) % 2 ^ 48), epoch := epoch, frame := frame }] }))) ∧
    (∀ w : Window, Running s → l.inService = true → framesRun b = true → l.served ≠ some b.tide.frame →
      windowIn b l.part id b.tide.frame = some w → windowIdle l b.tide.frame = false →
      let A := b.tide.frame
      let ahead := l.gaps.filter (fun g => !frameReached A g.frame)
      (∀ e, dget b 0x3040 3 ≠ 0 → (∀ g ∈ l.gaps, frameReached A g.frame = true → g.epoch = l.epoch + 1) → l.seals.find? (fun x => decide (x.frame = A)) = some e → sealReady l e = true →
        (e.count ≠ 0 → l.apply = none → Gives (exec (.windowBegin id) s) (fun t =>
          t.blk.tide.time = max b.tide.time (frameStart b A + w.offset) % 2 ^ 64 ∧
          liveOf t.blk id = some { l with
            served := some A, gaps := ahead, seals := l.seals.filter (fun x => decide (x ≠ e)), recs := l.recs.drop e.count,
            apply := some { frame := A, epoch := e.epoch, started := false, recs := l.recs.take e.count, flying := 0, tags := [] } })) ∧
        (e.count = 0 → Gives (exec (.windowBegin id) s) (fun t => liveOf t.blk id = some { l with
          served := some A, gaps := ahead, seals := l.seals.filter (fun x => decide (x ≠ e)), epoch := e.epoch, frame := A }))) ∧
      ((∀ e ∈ l.seals, e.frame ≠ A) ∨ dget b 0x3040 3 = 0 → Gives (exec (.windowBegin id) s) (fun t =>
        (liveOf t.blk id).map (fun x => (x.inService, x.missed, x.recs.length)) = some (false, true, 0) ∧ t.blk.tide.member = false ∧
        fmGet t.blk.ctr 0x20C 0 = satAdd 32 (fmGet b.ctr 0x20C 0) 1))) ∧
    (∀ a : Apply, Running s → l.apply = some a →
      (∀ r rs pos, a.started = false → a.recs = r :: rs → a.flying = 0 → (∀ c ∈ partClusters b l.part, clusterHeld b c = false) →
        (∀ x ∈ b.comp.runs, x.2.part = l.part → x.2.endedAt ≠ none) → applyD b l.cluster = some pos →
        Gives (exec (.tblApply id) s) (fun t =>
          liveOf t.blk id = some { l with applying := true, apply := some { a with started := true, flying := 1 } } ∧
          ∃ x : XEnt, (portOf t.blk l.cluster).xq = (portOf b l.cluster).xq ++ [x] ∧ x.run = 2 ^ 32 + id)) ∧
      (a.started = true → a.recs = [] → a.tags = [] → b.comp.lateWait = [] → Gives (exec (.applyEnd id) s) (fun t =>
        liveOf t.blk id = some { l with epoch := a.epoch, frame := a.frame, applying := false, apply := none } ∧
        fmGet t.blk.ctr 0x208 0 = satAdd 32 (fmGet b.ctr 0x208 0) 1)))

/-- The control entries of live tables (R281, R294): HOLD and RELEASE set and clear `HELD` on the source and answer REFUSED_SOURCE
elsewhere; RESYNC puts a table whose entries pass into service at `CTL_EPOCH`; the registry base is accepted while no table
is in service, and clears `IN_SERVICE` in every entry of a registry in this chip's memory (log entry 75). -/
def Obligations.TableControl : Prop :=
  ∀ (s : State) (a : DictAcc) (d : Desc), DictReady s a d →
    let b := s.blk
    let id := dget b 0x3041 1
    (a.idx = 0x3041 → a.sub = 3 →
      (∀ l, liveOf b id = some l → isSource b l = true →
        (a.value % 256 = 1 → Gives (exec (.tblHold a) s) (fun t => liveOf t.blk id = some { l with held := true } ∧
          dget t.blk 0x3041 4 = 0)) ∧
        (a.value % 256 = 2 → Gives (exec (.tblRelease a) s) (fun t => liveOf t.blk id = some { l with held := false } ∧
          dget t.blk 0x3041 4 = 0))) ∧
      ((∀ l, liveOf b id = some l → isSource b l = false) →
        (a.value % 256 = 1 → Gives (exec (.tblHold a) s) (fun t => t.blk.live = b.live ∧ dget t.blk 0x3041 4 = 3)) ∧
        (a.value % 256 = 2 → Gives (exec (.tblRelease a) s) (fun t => t.blk.live = b.live ∧ dget t.blk 0x3041 4 = 3))) ∧
      (a.value % 256 = 3 → ∀ reg dir,
        (∀ r, resyncCheck b id reg dir = some r → Gives (exec (.resync a reg dir) s) (fun t => t.blk.live = b.live ∧
          dget t.blk 0x3041 4 = r)) ∧
        (resyncCheck b id reg dir = none → Gives (exec (.resync a reg dir) s) (fun t => dget t.blk 0x3041 4 = 0 ∧
          ∃ l, liveOf t.blk id = some l ∧ l.inService = true ∧ l.missed = false ∧ l.epoch = BitVec.ofNat 32 (dget b 0x3041 2) ∧
            l.dir = dir ∧ l.source = field reg 0 12 ∧ l.part = field reg 16 5 ∧ l.cluster = field reg 24 6 ∧
            l.ctx = reg.extractLsb' 32 24 ∧ l.recs = [] ∧ l.seals = [] ∧ l.first = none ∧ l.apply = none)))) ∧
    (a.idx = 0x3040 → a.sub = 1 →
      ((∀ x ∈ b.live, x.2.inService = false) → Gives (exec (.liveRegistryBase a) s) (fun t =>
        let base := a.value % 2 ^ 64
        dget t.blk 0x3040 1 = writeValue a d ∧ (isLocal b base = false → t.blk.mem = (dictStore (noted b a) a d).mem) ∧
        (isLocal b base = true → ∀ k, k < 4096 → bitAt (memRead t.blk.mem (base + 32 * k + 0x1E)) 0 = false))) ∧
      ((∃ x ∈ b.live, x.2.inService = true) →
        exec (.liveRegistryBase a) s = .next (s.withBlk (dictRefuse (noted b a) a true 0x05 7))))

/-! ## Links, routes and the plan (spec/12_fabric.md) -/

/-- Link ports (R301, R305, R306, R308, R315, R320): training sends LINK_IDENT, but a port that the plan does not use never trains; the
neighbour's LINK_IDENT, and OVERRIDE, bring the plan check; a heartbeat releases copies and one is sent after a microsecond; a dead
link, a controller's report, a bad frame on a PACKAGE link or a test start takes the port down, the sixteenth time in a second to HELD
(a test start too: DESIGN CHOICE, log entry 70); a retry link's messages wait for new routes; a link test takes the port out of
routing and ends with what its checker has counted. -/
def Obligations.LinkPorts : Prop :=
  ∀ (s : State) (p : Nat), Alive s → p < 6 →
    let b := s.blk
    let l := linkOf b p
    let checked (t : State) (w : Word) (override : Bool) : Prop :=
      let o := checkOutcome b p w
      let ok := admits o override && b.rcv.genWritten
      (linkOf t.blk p).ident = w ∧ (linkOf t.blk p).result = o ∧ (linkOf t.blk p).admitted = ok ∧
        (linkOf t.blk p).state = (if ok then 3 else 4)
    let down (t : State) (T : Nat) : Prop :=
      let downs := T :: l.downs.filter (fun u => decide (T < u + 1000000000))
      (linkOf t.blk p).trained = false ∧ (linkOf t.blk p).admitted = false ∧ (linkOf t.blk p).downs = downs ∧
        (linkOf t.blk p).state = (if 16 ≤ downs.length then 6 else idleState b p) ∧ t.blk.tide.clock = T ∧
        fmGet t.blk.ctr 0x25C 0 = satAdd 32 (fmGet b.ctr 0x25C 0) 1 ∧
        (l.admitted = true → t.blk.fab.version = b.fab.version + 1 ∧ t.blk.fab.stale = true)
    let testEnds (t : State) (u : Block) : Prop :=
      linkOf t.blk p = { l with state := idleState b p, bits := (testNow u p).1, errors := (testNow u p).2.1, sync := (testNow u p).2.2 }
    let starts (t : State) (pattern : Nat) : Prop :=
      if 16 ≤ (l.downs.filter (fun u => decide (b.tide.clock < u + 1000000000))).length + 1 then down t b.tide.clock
      else (linkOf t.blk p).state = 5 ∧ (linkOf t.blk p).pattern = pattern ∧ (linkOf t.blk p).testFrom = b.tide.clock ∧
        (linkOf t.blk p).admitted = false ∧ (linkOf t.blk p).trained = false
    (l.trained = false → l.state ≠ 5 → l.state ≠ 6 →
      (idleState b p = 7 → exec (.linkTrained p) s = .next s) ∧
      (idleState b p ≠ 7 → Gives (exec (.linkTrained p) s) (fun t =>
        linkOf t.blk p = { l with trained := true, state := 2, heardId := false, rxCount := 0, txCount := 0, copies := [], waiting := [],
                                  lastRx := b.tide.clock, lastHb := b.tide.clock, lastTx := b.tide.clock } ∧
        t.blk.out = .gz p (gzBytes (linkMsg b p (.linkIdent (identWord b p)))) :: b.out))) ∧
    (∀ w, l.trained = true →
      Gives (exec (.linkIdent p w) s) (fun t => checked t w (overrideOf b p))) ∧
    (∀ count, l.trained = true → l.waiting = [] → exec (.linkHeartbeat p count) s = .next (s.withBlk (putLink b p { l with
      lastRx := b.tide.clock, copies := l.copies.filter (fun x => decide ((count - x.1 - 1).toNat ≥ 2 ^ 31)) }))) ∧
    (l.trained = true →
      Gives (exec (.heartbeatTimer p) s) (fun t =>
        t.blk.tide.clock = max b.tide.clock ((if reachOf b p = 1 then l.lastHb else max l.lastHb l.lastTx) + 1000) ∧
        linkOf t.blk p = { l with lastTx := t.blk.tide.clock, lastHb := t.blk.tide.clock } ∧
        t.blk.out = .gz p (gzBytes (linkMsg b p (.heartbeat l.rxCount))) :: b.out) ∧
      Gives (exec (.linkDown p) s) (fun t => down t b.tide.clock) ∧
      Gives (exec (.linkDead p) s) (fun t => down t (max b.tide.clock (l.lastRx + dget b 0x5020 1 * 1000))) ∧
      (reachOf b p = 1 → Gives (exec (.crcErr p) s) (fun t => down t b.tide.clock)) ∧
      (∀ pattern, Gives (exec (.linkTestCtl p pattern true) s) (fun t => starts t pattern))) ∧
    (reachOf b p ≠ 1 → exec (.crcErr p) s = .next s) ∧
    (∀ (msgs : List GzOut) (packets : List Nat), l.trained = false → reachOf b p ≠ 1 → b.fab.stale = true →
      let u := putLink b p { l with packets := l.packets ++ packets }
      exec (.retryReturn p msgs packets) s = .next (s.withBlk { u with
        fab := { u.fab with resend := bySeq (msgs.map (fun m => { m with hops := m.hops - 1 })) ++ u.fab.resend } })) ∧
    (∀ pattern, l.state = 5 →
      let u := passTo b (l.testFrom + dget b 0x5020 3 * 1000000)
      Gives (exec (.linkTestCtl p pattern false) s) (fun t => testEnds t b) ∧
      Gives (exec (.testDurationExpiry p) s) (fun t => testEnds t u ∧ t.blk.tide.clock = u.tide.clock)) ∧
    (∀ (a : DictAcc) (d : Desc), DictReady s a d → a.idx = 0x5010 + p →
      (a.sub = 4 → (l.trained && l.heardId) = false → exec (.linkOverride a p) s = .next (s.withBlk (dictStore (noted b a) a d))) ∧
      (a.sub = 4 → (l.trained && l.heardId) = true →
        Gives (exec (.linkOverride a p) s) (fun t => checked t l.ident (decide (writeValue a d ≠ 0)))) ∧
      (a.sub = 7 → a.value % 256 = 1 →
        (l.lower = true → dget b a.idx 6 = 2 → exec (.linkTestStart a p) s = .next (s.withBlk (dictRefuse (noted b a) a true 0x05 7))) ∧
        (¬(l.lower = true ∧ dget b a.idx 6 = 2) → l.trained = false → exec (.linkTestStart a p) s = .next (s.withBlk
          (if l.state = 6 then putLink (dictStore (noted b a) a d) p { l with state := idleState b p, downs := [] }
           else dictStore (noted b a) a d))) ∧
        (¬(l.lower = true ∧ dget b a.idx 6 = 2) → l.trained = true → Gives (exec (.linkTestStart a p) s) (fun t =>
          starts t (dget b a.idx 6) ∧ .gz p (gzBytes (linkMsg b p (.testCtl (dget b a.idx 6) true))) ∈ t.blk.out))) ∧
      (a.sub = 7 → a.value % 256 = 2 →
        (l.state ≠ 5 → exec (.linkTestStop a p) s = .next (s.withBlk
          (if l.state = 6 then putLink (dictStore (noted b a) a d) p { l with state := idleState b p, downs := [] }
           else dictStore (noted b a) a d))) ∧
        (l.state = 5 → Gives (exec (.linkTestStop a p) s) (fun t => (linkOf t.blk p).state = idleState b p ∧
          ((linkOf t.blk p).bits, (linkOf t.blk p).errors, (linkOf t.blk p).sync) = testNow b p ∧
          .gz p (gzBytes (linkMsg b p (.testCtl l.pattern false))) ∈ t.blk.out))))

/-- Messages, routes and the plan (R300, R303, R304, R309 to R312, R316, R318): a newer LINK_STATE is kept, and routes recomputed after
it; a message for another chip goes on with one hop more, and is dropped and counted when its hops are spent, without a route, or with
a reserved type; a bad frame is counted;
a gap is skipped after its timeout; PEER_ABORT ends, once, every heat of the partition with a remote dependency; INSTALL reads a
plan, and the plan is active once it passes every check. -/
def Obligations.FabricRouting : Prop :=
  ∀ (s : State), Alive s →
    let b := s.blk
    (∀ (h : GzHdr) (c : Nat) (v : BitVec 32) (mask : BitVec 6), h.port < 6 → (linkOf b h.port).trained = true →
      (h.hops < 63 → c ≠ chipNo b → newerState b c h.gen v = true → Gives (exec (.linkState h c v mask) s) (fun t =>
        t.blk.fab.graph = fmSet b.fab.graph c (h.gen, v, mask) ∧ t.blk.fab.stale = true ∧ t.blk.fab.cause = (c, v))) ∧
      (h.hops < 63 → c = chipNo b ∨ newerState b c h.gen v = false → Gives (exec (.linkState h c v mask) s) (fun t =>
        t.blk.fab.graph = b.fab.graph ∧ t.blk.fab.stale = b.fab.stale ∧ t.blk.out = b.out)) ∧
      (63 ≤ h.hops → Gives (exec (.linkState h c v mask) s) (fun t => t.blk.fab.graph = b.fab.graph ∧ t.blk.out = b.out ∧
        fmGet t.blk.ctr 0x250 0 = satAdd 32 (fmGet b.ctr 0x250 0) 1))) ∧
    (Booted s → b.fab.stale = true → Gives (exec .routeRecompute s) (fun t => t.blk.fab.routes = allRoutes b ∧ t.blk.fab.stale = false ∧
      fmGet t.blk.ctr 0x260 0 = satAdd 32 (fmGet b.ctr 0x260 0) 1 ∧ (b.fab.plan = none → t.blk.fab.routes = []))) ∧
    (∀ (h : GzHdr) (type : BitVec 8) (bytes : List Byte), h.port < 6 → (linkOf b h.port).admitted = true → h.dst ≠ chipNo b →
      oddPort b h.port = false →
      let drops (key : Nat) : Prop := Gives (exec (.grizinForward h type bytes) s) (fun t => t.blk.out = b.out ∧
        fmGet t.blk.ctr key 0 = satAdd 32 (fmGet b.ctr key 0) 1)
      (∀ q, gzKnown type.toNat = true → h.hops + 1 < 63 → nextPort b h.dst = some q → (linkOf b q).admitted = true → reachOf b q ≠ 1 →
        (∀ x ∈ b.fab.resend, x.dst ≠ h.dst) → Gives (exec (.grizinForward h type bytes) s) (fun t =>
          let m : GzOut := { src := h.src, gen := h.gen, dst := h.dst, tree := h.tree, hops := h.hops + 1,
                             detoured := h.detoured || (decide (type.toNat ≠ 0x31) && decide (freePort b h.dst ≠ some q)),
                             seq := h.seq, msg := .transit type bytes }
          t.blk.out = .gz q (gzBytes m) :: b.out)) ∧
      (gzKnown type.toNat = true → nextPort b h.dst ≠ none → 63 ≤ h.hops + 1 → drops 0x250) ∧
      (gzKnown type.toNat = true → nextPort b h.dst = none → drops 0x254) ∧
      (gzKnown type.toNat = false → drops 0x244)) ∧
    (∀ (p : Nat) (type : BitVec 8) (crcOk : Bool), p < 6 → (linkOf b p).trained = true → crcOk = false ∨ gzKnown type.toNat = false →
      Gives (exec (.grizinCrcDrop p type crcOk) s) (fun t => fmGet t.blk.ctr 0x244 0 = satAdd 32 (fmGet b.ctr 0x244 0) 1 ∧
        (crcOk = true ∨ reachOf b p ≠ 1 → linkOf t.blk p = { linkOf b p with lastRx := b.tide.clock, rxCount :=
          if crcOk then (linkOf b p).rxCount + 1 else (linkOf b p).rxCount }) ∧
        (crcOk = false → reachOf b p = 1 → (linkOf t.blk p).trained = false ∧ (linkOf t.blk p).admitted = false))) ∧
    (∀ (src u : Nat) (tree : Bool) (x : RxSpace) (n : BitVec 32) (m : GzMsg) (h : GzHdr), fmGet? b.fab.rx (spaceKey src tree) = some x →
      x.gap = some u → x.held = [(n, m, h)] → h.gen = x.gen → Gives (exec (.gapTimeout src tree) s) (fun t =>
        (fmGet? t.blk.fab.rx (spaceKey src tree)).map (fun y => (y.gen, y.next, y.held, y.gap)) = some (x.gen, n + 1, [], none) ∧
        fmGet t.blk.ctr 0x258 0 = satAdd 32 (fmGet b.ctr 0x258 0) 1 ∧
        t.blk.tide.clock = max b.tide.clock (u + dget b 0x5020 2 * 1000))) ∧
    (∀ (h : GzHdr) (c part : Nat) (num : BitVec 32), InTurn s h h.tree → (c, num) ∉ b.fab.aborts →
      Gives (exec (.peerAbort h c part num) s) (fun t => Turned t h h.tree ∧ t.blk.fab.aborts = b.fab.aborts ++ [(c, num)] ∧
        fmGet t.blk.ctr 0x264 0 = satAdd 32 (fmGet b.ctr 0x264 0) (remoteRuns b (some part) (fun _ => true)).length ∧
        ∀ n r, runOf b n = some r → r.part = part → r.endedAt = none → r.abort = none → remoteDeps b n ≠ [] →
          (runOf t.blk n).map (fun y => y.abort) = some (some 0x16))) ∧
    (∀ (a : DictAcc) (d : Desc), DictReady s a d → a.idx = 0x5000 →
      (a.sub = 3 → a.value % 256 = 1 →
        (b.fab.status ≠ 1 → Gives (exec (.planInstall a) s) (fun t =>
          (isLocal b (dget b 0x5000 1) = true → t.blk.fab = { b.fab with
            status := 1, loading := some (a, dget b 0x5000 1, dget b 0x5000 2) }) ∧
          (isLocal b (dget b 0x5000 1) = false → t.blk.fab = { b.fab with status := 3, loading := none }))) ∧
        (b.fab.status = 1 → exec (.planInstall a) s = .next (s.withBlk (dictRefuse (noted b a) a true 0x05 7)))) ∧
      (a.sub = 7 → (ownMask b = 0 → exec (.chipNumber a) s = .next (s.withBlk (dictStore (noted b a) a d)) ∧
          chipNo (dictStore (noted b a) a d) = writeValue a d) ∧
        (ownMask b ≠ 0 → exec (.chipNumber a) s = .next (s.withBlk (dictRefuse (noted b a) a true 0x05 7))))) ∧
    (∀ (a : DictAcc) (addr len : Nat), b.fab.loading = some (a, addr, len) →
      Gives (exec (.planReadReturn none) s) (fun t => t.blk.fab = { b.fab with status := 3, loading := none } ∧
        t.blk.aud.seq = b.aud.seq + 1) ∧
      ∀ bytes, Gives (exec (.planReadReturn (some bytes)) s) (fun t => match planCheck b len bytes with
        | .error st => t.blk.fab = { b.fab with status := st, loading := none } ∧ t.blk.aud.seq = b.aud.seq + 1
        | .ok p => t.blk.fab.plan = some p ∧ t.blk.fab.status = 2 ∧ t.blk.fab.loading = none ∧ t.blk.fab.stale = false ∧
            t.blk.regs.wgen = (b.regs.wgen + 1) % 2 ^ 16))

/-! ## Recovery (spec/13_recovery.md) and chip reset (spec/20_integration.md) -/

/-- What a trigger does (R327, R328): from rest the sequence starts with the cause, its detail, the instant and the accesses under way;
while one runs, the cause is kept among the secondary ones, of which at most seven are listed (log entry 31). The watchdogs (R323) and
an uncorrectable memory error (R326) trigger it with their own cause and detail, that of a unit only while it holds work that waits on
nothing covered elsewhere (R324; DEDUCED, log entry 72), and every step notes when the watchdog of what follows it expires, a changed
interval applying to what begins after the change (R343); a corrected symbol is counted; a core-wait watchdog only ends its heat with
ABORT_HANG (R325). -/
def Obligations.RecoveryTriggers : Prop :=
  (∀ (b : Block) (cause detail : Nat) (hung : Option Nat),
    (b.rcv.stage = .idle → ∃ r : Recovery, trigger b cause detail hung = { b with rcv := r } ∧ r.stage = .fence ∧ r.cause = cause ∧
      r.detail = detail ∧ r.t0 = stamp b ∧ r.from_ = b.tide.clock ∧ r.frame = b.tide.frame ∧ r.secondary = [] ∧ r.secCount = 0 ∧
      r.buffers = b.adm.dumpBufs ∧ r.remote = remoteParts b ∧ r.access = openAccesses b ∧ r.hungTag = hung ∧
      r.resetGen = b.rcv.resetGen ∧ r.genWritten = b.rcv.genWritten) ∧
    (b.rcv.stage ≠ .idle → trigger b cause detail hung = { b with rcv := { b.rcv with
      secondary := if b.rcv.secondary.length < 7 then b.rcv.secondary ++ [cause] else b.rcv.secondary,
      secCount := min 255 (b.rcv.secCount + 1) } })) ∧
  ∀ s : State, Alive s →
    let b := s.blk
    (∀ u, u < 0x50 →
      (unitPending b u = true → exec (.unitProgressWatchdog u) s = .next (s.withBlk (trigger (passTo b (unitDue b u)) 0x01 u none))) ∧
      (unitPending b u = false → exec (.unitProgressWatchdog u) s = .next (s.withBlk b)) ∧
      exec (.sramUncorrectable (.other u)) s = .next (s.withBlk (trigger b 0x06 u none))) ∧
    (∀ (c id : Nat) (x : Baton), (portOf b c).out.find? (fun x => decide (x.id = id)) = some x → x.ent.pos ≠ 12 → x.ent.pos ≠ 13 →
      c < 64 → x.ent.pos < 16 → id < 65536 →
      exec (.batonWatchdog c id) s = .next (s.withBlk (trigger (passTo b x.deadline) 0x02 (c + 256 * x.ent.pos + 65536 * id)
        ((runOf b x.run).map (fun r => r.tag))))) ∧
    (∀ (c : Nat) (e : PushEnt) (id : Nat), portHeld b c = some e → c < 64 → e.pos < 16 → id < 65536 →
      lowestFree ((portOf b c).out.map (fun x => x.id)) 0 65536 = some id →
      exec (.dispatchPortWatchdog c) s = .next (s.withBlk (trigger (passTo b (lastStep b (0x50 + c)).due)
        0x03 (c + 256 * e.pos + 65536 * id) none))) ∧
    (∀ (a : Word) (w : FWrite), b.fen.writes.find? (fun w => decide (w.addr = a) && w.deps.isEmpty) = some w →
      exec (.writeAckWatchdog a none) s = .next (s.withBlk (trigger (passTo b w.due) 0x04 a.toNat none))) ∧
    (∀ (a : Word) (issued : Nat), issued ≤ b.tide.clock → exec (.writeAckWatchdog a (some issued)) s =
      .next (s.withBlk (trigger (passTo b (issued + ackWdAt b issued * 1000)) 0x04 a.toNat none))) ∧
    (∀ o : Block, (noteSteps o b).rcv.ackWas =
      if dget b 0x6000 5 = dget o 0x6000 5 then b.rcv.ackWas else b.rcv.ackWas ++ [(b.tide.clock, dget o 0x6000 5)]) ∧
    (∀ (o : Block) (u : Nat), u < 0x90 → unitSame o b u = false → lastStep (noteSteps o b) u =
      { clock := b.tide.clock, time := stamp b, due := b.tide.clock + dget b 0x6000 (if u < 0x50 then 1 else 4) * 1000 }) ∧
    (∀ (id : Nat) (c : Ctx), fmGet? b.obj.ctxs id = some c → c.state = .destroying →
      exec (.destructionWatchdog id) s = .next (s.withBlk (trigger (passTo b c.destroyBy) 0x05 c.handle.toNat none))) ∧
    exec (.sramUncorrectable .corrected) s = .next (s.withBlk (cnt b 0x284)) ∧
    (∀ key, fmHas b.fen.cache key = true → fencePinned b key = false → exec (.sramUncorrectable (.copy 0 key)) s =
      .next (s.withBlk (cnt { b with fen := { b.fen with cache := fmErase b.fen.cache key } } 0x288))) ∧
    (∀ (c code n : Nat) (r : Run), c < 64 → 1 ≤ code → code ≤ 6 → (coreOf b c).run = some n → runOf b n = some r → r.endedAt = none →
      sampleOf b n = none → (unitOf b (if code ≤ 4 then unitNo c 15 else unitXp)).state = 0 →
      Gives (exec (.sramUncorrectable (.heatState c code)) s) (fun t =>
        (unitOf t.blk (if code ≤ 4 then unitNo c 15 else unitXp)).state = 1 ∧ runOf t.blk n = some { r with faulted := true } ∧
        t.blk.rcv.stage = b.rcv.stage)) ∧
    (∀ (c n : Nat) (r : Run) (a v : Word) (cr : Bool), Running s → localWait (coreOf b c) = some (a, v, cr) → (coreOf b c).run = some n →
      runOf b n = some r → r.abort = none → r.endedAt = none →
      Gives (exec (.coreWaitWatchdog c) s) (fun t => (runOf t.blk n).map (fun x => x.abort) = some (some 0x18) ∧
        (coreOf t.blk c).ended = true ∧ t.blk.tide.clock = max b.tide.clock (coreOf b c).waitBy ∧
        fmGet t.blk.ctr 0x280 0 = satAdd 32 (fmGet b.ctr 0x280 0) 1 ∧ t.blk.rcv.stage = .idle)) ∧
    (∀ (a : DictAcc) (d : Desc), DictReady s a d → a.idx = 0x6000 → a.sub = 9 → a.value % 256 = 1 →
      let c := dictStore (noted b a) a d
      exec (.recoveryStart a) s = .next (s.withBlk (if b.rcv.stage = .idle then trigger c 0x08 0 none else c))) ∧
    (∀ (a : DictAcc) (d : Desc), DictReady s a d → a.idx = 0x6000 → a.sub = 0x0A →
      (b.rcv.genWritten = true → exec (.resetGeneration a) s = .next (s.withBlk (dictRefuse (noted b a) a true 0x05 7))) ∧
      (b.rcv.genWritten = false → (∀ p, p < 6 → (linkOf b p).trained = false) → exec (.resetGeneration a) s =
        .next (s.withBlk { dictStore (noted b a) a d with rcv := { b.rcv with resetGen := BitVec.ofNat 6 a.value, genWritten := true } })))

/-- The sequence (R329 to R332, R337, R338, R459): the fence step strips every core and port, the accepted batons draining; the drain
ends when nothing is outstanding or at its deadline; an access of the dump that reaches its limit is noted; the dump leaves a
header with the cause at the start of each registered buffer; propagation raises one abort for each partition concerned, and
RESET_REQ is asserted then or by the timer, all units stopped. -/
def Obligations.RecoverySteps : Prop :=
  ∀ s : State, Alive s →
    let b := s.blk
    let stop (b : Block) : State := { s with pin := { s.pin with stopped := true, resetReq := true }, blk := b }
    (b.rcv.stage = .fence → Gives (exec .fenceComplete s) (fun t =>
      (t.blk.rcv.stage, t.blk.rcv.fenceAt, t.blk.rcv.access) = (.drain, b.tide.clock, b.rcv.access) ∧
      (∀ c, (coreOf t.blk c).slw = none ∧ (coreOf t.blk c).hold = .none ∧ (coreOf t.blk c).pushQ = [] ∧ (coreOf t.blk c).held = [] ∧
        (coreOf t.blk c).sending = 0 ∧ (coreOf t.blk c).credits = [] ∧ (portOf t.blk c).xq = [] ∧
        (portOf t.blk c).out = (portOf b c).out.map (fun x => if isL x.ent.pos then { x with cancelled := true } else x)) ∧
      (∀ w ∈ t.blk.fen.waits, ∀ c x, w.who ≠ .core c x) ∧ t.blk.fen.writes = b.fen.writes)) ∧
    (b.rcv.stage = .drain →
      (drained b = true → exec .drainComplete s =
        .next (s.withBlk { b with rcv := { b.rcv with stage := .dump, dumpAt := b.tide.clock, drainExp := false, lost := [] } })) ∧
      (drained b = false → exec .drainComplete s = .next (s.withBlk b)) ∧
      (let d := passTo b (b.rcv.fenceAt + dget b 0x6000 6 * 1000)
       exec .drainDeadline s = .next (s.withBlk { d with rcv := { b.rcv with
         stage := .dump, dumpAt := d.tide.clock, drainExp := true,
         lost := b.fen.writes.map (fun w => (w.addr.toNat, w.value)) } }))) ∧
    (b.rcv.stage = .dump →
      (∀ u, u < 0x50 ∨ (0x100 ≤ u ∧ u < 0x100 + 896) → u ∉ b.rcv.badUnits → exec (.dumpAccessLimit (.read u)) s =
        .next (s.withBlk { b with rcv := { b.rcv with badUnits := b.rcv.badUnits ++ [u] } })) ∧
      (∀ p, fmHas b.rcv.buffers p = true → p ∉ b.rcv.badPorts → exec (.dumpAccessLimit (.write p)) s =
        .next (s.withBlk { b with rcv := { b.rcv with badPorts := b.rcv.badPorts ++ [p] } })) ∧
      (b.rcv.buffers = [] →
        let written (b : Block) : Block := noteStamp b ((b.rcv.prog.map (fun x => x.2.time)).foldl max b.rcv.t0)
        exec .dumpComplete s = .next (s.withBlk { written b with rcv := { b.rcv with stage := .propagate, expired := false } }) ∧
        (let d := passTo b (b.rcv.dumpAt + dget b 0x6000 8 * 1000000)
         exec .dumpBudgetExpiry s = .next (s.withBlk { written d with rcv := { b.rcv with stage := .propagate, expired := true } }))) ∧
      (∀ p addr len, b.rcv.buffers = [(p, (addr, len))] → b.rcv.badPorts = [] → 1 ≤ b.rcv.cause → b.rcv.cause < 256 →
        Gives (exec .dumpComplete s) (fun t => t.blk.rcv.stage = .propagate ∧ memReadLE t.blk.mem (hostKey p addr) 4 = 0x504D5544 ∧
          memReadLE t.blk.mem (hostKey p addr + 9) 1 = b.rcv.cause))) ∧
    (b.rcv.stage = .propagate → Gives (exec .propagateComplete s) (fun t => t.pin = (stop b).pin ∧ t.pending = s.pending ∧
        t.blk.rcv = { b.rcv with stage := .done } ∧
        t.blk.fab.abortNum = b.fab.abortNum + ((b.rcv.remote.map Prod.fst).eraseDups).length) ∧
      (b.rcv.remote = [] → exec .propagateComplete s = .next (stop { b with rcv := { b.rcv with stage := .done } }))) ∧
    (b.rcv.stage ≠ .idle → exec .resetReqTimer s =
      .next (stop (passTo b (b.rcv.from_ + dget b 0x6000 6 * 1000 + dget b 0x6000 8 * 1000000 + 1000000))))

/-- Reset and the signals beside it (R319, R338, R456 to R462): an assertion leaves nothing but reset values and the
scratchpads (R196), in any state; a release is honoured once 1 µs of assertion has passed and the supply is above its reset level, and
samples the fuses; the self-test ends once; a bypass output is driven once every port of its axis has passed the plan check. -/
def Obligations.ResetSignals : Prop :=
  ∀ s : State,
    let b := s.blk
    let out (f : BitVec 896) : State := { s with
      pin := { s.pin with rst := false, release := none, low := false, long := true },
      blk := if f = 0 then { b with fuse := f } else tableChanged { b with fuse := f } }
    let kept : FMap CPort := b.ports.map (fun x => (x.1, { CPort.fresh with scratch := x.2.scratch }))
    exec .chipResetAssert s = .next { s with pin := Pins.inReset, blk := { Block.fresh with ports := kept, mem := b.mem, out := b.out } } ∧
    (∀ f mv, s.pin.rst = true → s.pin.release = none →
      (s.pin.long = true → resetMv b ≤ mv → exec (.chipResetRelease f mv) s = .next (out f)) ∧
      (s.pin.long = true → mv < resetMv b →
        exec (.chipResetRelease f mv) s = .next { s with pin := { s.pin with release := some f, low := true } }) ∧
      (s.pin.long = false → exec (.chipResetRelease f mv) s =
        .next { s with pin := { s.pin with release := some f, low := decide (mv < resetMv b) } })) ∧
    (∀ f mv, s.pin.rst = true → s.pin.release = some f → s.pin.low = true → resetMv b < mv → s.pin.long = true →
      exec (.supplyAboveResetLevel mv) s = .next (out f)) ∧
    (s.pin.rst = true → s.pin.long = false →
      (s.pin.release = none → exec .resetAssertionMinimum s = .next { s with pin := { s.pin with long := true } }) ∧
      (∀ f, s.pin.release = some f → s.pin.low = false → exec .resetAssertionMinimum s = .next (out f))) ∧
    (∀ pass, Alive s → b.mic.selftest = 0 → exec (.selftestEnd pass) s =
      .next (s.withBlk { b with mic := { b.mic with selftest := if pass then 1 else 2 } })) ∧
    (∀ axis, Alive s → axis < 3 → mayDrive b axis = true → exec (.bypassDrive axis) s = .next { s with pin := s.pin.drive axis })

/-! ## Silent errors (spec/14_silent_errors.md) -/

/-- A sampled heat (R349, R353, R355): a shadow run starts on clusters of the shadow partition within `SHADOW_START_US`; without
one the sample is abandoned; a mismatch has a third run, in the shadow partition or else in the primary's; a losing unit's
inputs are captured on the third run's clusters, into the record that the ring's next place gives. -/
def Obligations.SampledHeats : Prop :=
  ∀ (s : State) (n : Nat) (x : Sample) (r : Run) (i : Item), Running s →
    let b := s.blk
    let m := b.comp.nextRun
    let sp := shadowPart b r.part
    let within := b.tide.clock ≤ x.since + dget b 0x6010 2 * 1000
    let starts (kind : RunKind) (part : Nat) (cs : List Nat) (y : Sample) (t : State) : Prop :=
      (runOf t.blk m).map (fun z => (z.kind, z.tag, z.part, z.clusters, z.lc)) = some (kind, r.tag, part, cs, false) ∧
      t.blk.comp.nextRun = m + 1 ∧ fmGet? t.blk.rel.samples n = some y
    fmGet? b.rel.samples n = some x → runOf b n = some r → itemOf b r.tag = some i →
    (∀ cs, x.stage = .runs → x.shadow = none → within → placeOther b sp r i x.budget [] = some cs →
      Gives (exec (.shadowStart n) s) (starts .shadow sp cs { x with shadow := some m })) ∧
    (x.stage = .runs → x.shadow = none → x.third = none → x.captureRun = none → r.endedAt = none →
      Gives (exec (.shadowStartTimeout n) s) (fun t => fmGet? t.blk.rel.samples n = none ∧ runOf t.blk n = some r ∧
        t.blk.tide.clock = max b.tide.clock (x.since + dget b 0x6010 2 * 1000) ∧
        fmGet t.blk.ctr 0x2C4 0 = satAdd 32 (fmGet b.ctr 0x2C4 0) 1)) ∧
    (∀ (k : Nat) (q : Run) (cs : List Nat), x.stage = .arbitrate → x.shadow = some k → runOf b k = some q → x.third = none → within →
      let no := r.clusters ++ q.clusters
      (placeOther b sp r i x.budget no = some cs → Gives (exec (.arbitrationStart n) s) (fun t =>
        starts .arbitration sp cs { x with third := some m } t ∧ fmGet t.blk.ctr 0x2CC 0 = satAdd 32 (fmGet b.ctr 0x2CC 0) 1)) ∧
      (placeOther b sp r i x.budget no = none → placeOther b r.part r i x.budget no = some cs →
        Gives (exec (.arbitrationStart n) s) (starts .arbitration r.part cs { x with third := some m }))) ∧
    (∀ (st k u rank pos : Nat) (q : Run), x.stage = .capture st → x.captureRun = none → x.unit = some (u, rank, pos) →
      x.third = some k → runOf b k = some q → startsOpen b = true → applyBars b q.part = false →
      (∀ y ∈ b.comp.runs, y.1 ≠ k → y.2.released = false → ∀ c ∈ q.clusters, c ∉ y.2.clusters) →
      let z := newCorpus b q u rank pos
      Gives (exec (.corpusCapture n) s) (fun t =>
        starts .capture q.part q.clusters { x with captureRun := some m, corpus := some z } t ∧ t.blk.rel.corpusPos = z.base + z.limit ∧
        ∀ y ∈ t.blk.rel.corpora, y ∈ b.rel.corpora ∧ (y.2.base + y.2.limit ≤ z.base ∨ z.base + z.limit ≤ y.2.base)))

/-- Structural tests and unit states (R357, R358, R360 to R362): TEST_DUE and TEST_CMD make a test due; a due test takes its
cluster as a BE heat of its budget does; a signature that agrees counts as a pass, one that differs, or a budget that runs
out, quarantines the unit; UNIT_STATE sets a state; SCAN_BASE takes a set that passes its checks, 0 disables tests. -/
def Obligations.UnitTests : Prop :=
  ∀ (s : State) (u : Nat),
    let b := s.blk
    (Running s → testable b u = true → (unitOf b u).due = false → (unitOf b u).testing = none →
      exec (.testDue u) s = .next (s.withBlk (putUnit (passTo b (testAt b u)) u { unitOf b u with due := true }))) ∧
    (∀ (off len budget expected p : Nat), Running s → scanOf b u = some (off, len, budget, expected) →
      let c := unitCluster u
      (clusterPart b c = some p → (unitOf b u).due = true → (unitOf b u).testing = none → testable b u = true → beOpen b p = true →
        beFits b p c budget = true → clusterHeld b c = false → (pwrOf b c).state ≥ 2 →
        (starveClaims b p (fun _ => true) ++ lateClaims b).contains c = false →
        Gives (exec (.structuralTestStart u) s) (fun t =>
          ((unitOf t.blk u).testing, (unitOf t.blk u).due) = (some b.comp.nextRun, false) ∧
          (runOf t.blk b.comp.nextRun).map (fun z => (z.kind, z.part, z.clusters)) = some (.test, p, [c]) ∧
          fmGet t.blk.ctr 0x2D4 0 = satAdd 32 (fmGet b.ctr 0x2D4 0) 1 ∧
          (unitPos u ≠ 15 → t.blk.out = .scan c (unitPos u) (len / 8) :: b.out))) ∧
      (∀ n, (unitOf b u).testing = some n → b.comp.lateWait = [] → b.rel.samples = [] →
        (∀ sig : Word, sig.toNat = expected → corporaOf b u = [] → (unitOf b u).state = 0 →
          Gives (exec (.testSignatureReturn u sig []) s) (fun t => runOf t.blk n = none ∧ unitOf t.blk u = { unitOf b u with
            passes := (unitOf b u).passes + 1, structOk := true, testing := none, lastTest := b.tide.clock })) ∧
        (∀ (sig : Word) l, sig.toNat ≠ expected → Gives (exec (.testSignatureReturn u sig l) s) (fun t => runOf t.blk n = none ∧
          ((unitOf t.blk u).state, (unitOf t.blk u).testing, (unitOf t.blk u).lastTest) = (2, none, b.tide.clock) ∧
          fmGet t.blk.ctr 0x2D8 0 = satAdd 32 (fmGet b.ctr 0x2D8 0) 1)) ∧
        (∀ r, runOf b n = some r → Gives (exec (.testBudgetExpiry u) s) (fun t => runOf t.blk n = none ∧
          ((unitOf t.blk u).state, (unitOf t.blk u).testing) = (2, none) ∧ t.blk.tide.clock = max b.tide.clock (r.from_ + budget) ∧
          fmGet t.blk.ctr 0x2D8 0 = satAdd 32 (fmGet b.ctr 0x2D8 0) 1)))) ∧
    (∀ (a : DictAcc) (d : Desc), DictReady s a d →
      let c := dictStore (noted b a) a d
      (a.idx = 0x6040 → a.sub = 9 →
        (a.value % 65536 = u → testable c u = true → (unitOf c u).testing = none →
          exec (.testCmd a) s = .next (s.withBlk (putUnit c u { unitOf c u with due := true }))) ∧
        (isUnit (a.value % 65536) = false → exec (.testCmd a) s = .next (s.withBlk (dictRefuse (noted b a) a true 0x04 6)))) ∧
      (isUnit u = true → (a.idx, a.sub) = unitEntry u → b.rel.samples = [] → Gives (exec (.unitState a u) s) (fun t =>
        (unitOf t.blk u).state = a.value % 256 ∧ ∀ v, v ≠ u → unitOf t.blk v = unitOf b v)) ∧
      (a.idx = 0x6040 → a.sub = 1 → ∀ bytes,
        (a.value % 2 ^ 64 = 0 → exec (.scanBase a bytes) s = .next (s.withBlk { c with rel := { c.rel with scan := none } })) ∧
        (a.value % 2 ^ 64 ≠ 0 → bytes.length = dget b 0x6040 2 → (scanSet bytes).isSome = true →
          exec (.scanBase a bytes) s = .next (s.withBlk { c with rel := { c.rel with scan := scanSet bytes } })) ∧
        (a.value % 2 ^ 64 ≠ 0 → bytes.length ≠ dget b 0x6040 2 ∨ scanSet bytes = none →
          exec (.scanBase a bytes) s = .next (s.withBlk (dictRefuse (noted b a) a true 0x05 7)))))

/-! ## The dictionary and MCTP (spec/16_registers_protection.md, spec/17_dictionary.md) -/

/-- Operations of the dictionary (R32, R96, R294, R308, R401, R406 to R408, R410 to R414, R418, R420): what an accepted write does, and
its refusal (a reserved `CTL_CMD` also sets `CTL_RESULT`, to a free code: log entry 73); reads, descriptions and bad requests; one that
arrives while another is under way waits, through a window that is busy it is ignored; the entries of chapters 2, 3 and 7 that have a
row of their own; the enabling of an admin queue, and what waited for its end; the answers to MCTP control messages (contents: PRESUMED,
log entry 34) and the NOTIFY that is fetched. -/
def Obligations.DictionaryAccess : Prop :=
  (∀ (b : Block) (a : DictAcc) (d : Desc), dictDesc a.idx a.sub = some d →
    let c := dictStore b a d
    let v := writeValue a d
    c.out.head? = some (.dict a.path a.org a.tag 0 []) ∧
    (isCmdEntry a.idx a.sub = false → dget c a.idx a.sub = v) ∧
    (∀ i k, dkey i k ≠ dkey a.idx a.sub → dget c i k = dget b i k) ∧
    c.regs.wgen = (if isCovered d a.idx a.sub then (b.regs.wgen + 1) % 2 ^ 16 else b.regs.wgen) ∧
    (a.idx ≠ 0x9000 → c.aud.seq = b.aud.seq + 1 ∧ fmGet? c.aud.ring (b.aud.seq % 4096) = some (auditRecord
      { type := 0x01, path := a.path, org := a.org, idx := a.idx, sub := a.sub, old := entryNow b a.idx a.sub % 2 ^ 64,
        new := v % 2 ^ 64, trunc := decide (d.bytes > 8), cal := d.cal } 1 b.aud.seq (stamp b))) ∧
    (d.cal = true → b.pwr.calLoaded = false → c.pwr.calLoaded =
      calEntries.all (fun e => decide (dkey e.1 e.2 = dkey a.idx a.sub) || b.pwr.calDone.contains (dkey e.1 e.2)))) ∧
  (∀ (s : State) (a : DictAcc), DictArrives s a →
    let b := noted s.blk a
    (∀ e, ownRow a = false → writeCheck s.blk a = some e →
      let ctl := a.idx = 0x3041 ∧ a.sub = 3 ∧ e.1 = 0x04
      (¬ ctl → exec (.dictWrite a) s = .next (s.withBlk (dictRefuse b a true e.1 e.2))) ∧
      (ctl → exec (.dictWrite a) s = .next (s.withBlk
        (dictRefuse (dput b 0x3041 4 (1 + Config.ctlRefused (a.value % 256) % 4)) a true e.1 e.2)))) ∧
    (∀ e, readCheck s.blk a true = some e → exec (.dictRead a) s = .next (s.withBlk (dictRefuse b a false e.1 e.2))) ∧
    (∀ d, readCheck s.blk a true = none → dictDesc a.idx a.sub = some d →
      let v := dictValue b a.idx a.sub % 2 ^ (8 * d.bytes)
      exec (.dictRead a) s = .next (s.withBlk (winDone { b with out := .dict a.path a.org a.tag 0 (leBytes d.bytes v) :: b.out } a v
        (winStatus 0 d.type 0 false false d.bytes)))) ∧
    (∀ d, readCheck s.blk a false = none → dictDesc a.idx a.sub = some d →
      let cov := isCovered d a.idx a.sub
      let told := OutEvent.info a.path a.org a.tag d.type d.access (b2n d.cal + 2 * b2n cov) d.bytes d.dflt
      exec (.dictInfo a) s = .next (s.withBlk (winDone { b with out := told :: b.out } a d.dflt
        (winStatus 0 d.type d.access d.cal cov d.bytes)))) ∧
    (pathOps s.blk a = 0 → exec (.dictBadRequest a) s = .next (s.withBlk
      (winDone { b with out := .dict a.path a.org a.tag 0x09 [] :: b.out } a a.value (winStatus 0x09 0 0 false false 0)))) ∧
    (pathOps s.blk a ≠ 0 → exec (.dictBadRequest a) s = .next (s.withBlk (dictQueue b .bad a)))) ∧
  (∀ (s : State) (a : DictAcc), Alive s → s.blk.mic.selftest ≠ 0 → reachesDict a = true →
    (winBusy s.blk a = true → ∀ row ∈ [Instr.dictRead a, .dictInfo a, .dictBadRequest a], Gives (exec row s) (fun t =>
      t.blk.regs = s.blk.regs ∧ t.blk.out = s.blk.out ∧ t.blk.dict = s.blk.dict)) ∧
    (winBusy s.blk a = false → dictBusy s.blk = true → isWindow a.path = true ∨ pathOps s.blk a < 8 →
      ∀ row op, (row, op) ∈ [(Instr.dictRead a, DictOp.read), (.dictInfo a, .info)] ∨ (ownRow a = false ∧ (row, op) = (.dictWrite a, .write)) →
        Gives (exec row s) (fun t => t.blk.regs.dictQ = s.blk.regs.dictQ ++ [{ op := op, acc := a }] ∧
          t.blk.out = s.blk.out ∧ t.blk.dict = s.blk.dict))) ∧
  (∀ (s : State) (a : DictAcc) (d : Desc), DictReady s a d →
    let b := noted s.blk a
    let v := writeValue a d
    let refused := s.withBlk (dictRefuse b a true 0x05 7)
    (ownRow a = false → entryCond s.blk a.idx a.sub v = none →
      (¬ (0x3100 ≤ a.idx ∧ a.idx ≤ 0x311F) → a.idx ≠ 0x3030 → (a.idx, a.sub) ≠ (0x2030, 3) →
        ¬ (0x5010 ≤ a.idx ∧ a.idx ≤ 0x5015 ∧ a.sub = 7) → exec (.dictWrite a) s = .next (s.withBlk (dictStore b a d))) ∧
      (∀ p, p < 6 → a.idx = 0x5010 + p → a.sub = 7 → (linkOf b p).state = 6 → Gives (exec (.dictWrite a) s) (fun t =>
        linkOf t.blk p = { linkOf b p with state := idleState (dictStore b a d) p, downs := [] })) ∧
      (isCmdEntry a.idx a.sub = false → Gives (exec (.dictWrite a) s) (fun t => dget t.blk a.idx a.sub = v ∧
        t.blk.out.head? = some (.dict a.path a.org a.tag 0 [])))) ∧
    (∀ e, ownRow a = false → entryCond s.blk a.idx a.sub v = some e →
      exec (.dictWrite a) s = .next (s.withBlk (dictRefuse b a true e.1 e.2))) ∧
    (calEntries.contains (a.idx, a.sub) = true → entryCond s.blk a.idx a.sub v = none →
      exec (.calWrite a) s = .next (s.withBlk (dictStore b a d))) ∧
    (a.idx = 0x2010 → a.sub = 1 →
      (s.blk.obj.ctxs = [] → exec (.contextTableBase a) s = .next (s.withBlk (dictStore b a d))) ∧
      (s.blk.obj.ctxs ≠ [] → exec (.contextTableBase a) s = .next refused)) ∧
    (∀ p, p < 4 → a.idx = 0x2040 + p → a.sub = 8 →
      (∀ q, aqOf s.blk p = some q → q.enabled = true →
        (a.value % 256 = 0 → exec (.aqEnable a p) s = .next (s.withBlk (putAq (dictStore b a d) p { q with enabled := false }))) ∧
        (a.value % 256 ≠ 0 → exec (.aqEnable a p) s = .next refused)) ∧
      ((aqOf s.blk p).any (fun q => q.enabled) = false → a.value % 256 ≠ 0 →
        let q := (aqOf s.blk p).getD (aqFresh b p)
        let reads (k : Nat) (b : Block) : Block := hostAcc b true p 0 (dget b (0x2040 + p) k) 4 false
        (s.blk.pwr.calLoaded = true → s.blk.rcv.genWritten = true → ownerMode s.blk p ≠ 0 →
          exec (.aqEnable a p) s = .next (s.withBlk (winDone (putAq (reads 4 (reads 3 b)) p { q with enabling := some a }) a a.value 1))) ∧
        (s.blk.pwr.calLoaded = false ∨ s.blk.rcv.genWritten = false ∨ ownerMode s.blk p = 0 →
          exec (.aqEnable a p) s = .next refused)))) ∧
  (∀ (s : State) (p : Nat) (q : Aq) (a : DictAcc) (d : Desc) (producer consumer : BitVec 32), Alive s → aqOf s.blk p = some q →
    q.enabling = some a → dictDesc a.idx a.sub = some d →
    (∀ x : DictAcc, s.blk.regs.dictQ = [{ op := .bad, acc := x }] → s.blk.q.aqs = [(p, q)] →
      Gives (exec (.aqEnableReadComplete p false producer consumer) s) (fun t =>
        t.blk.regs.dictQ = [] ∧ t.blk.out.head? = some (.dict x.path x.org x.tag 0x09 []))) ∧
    (s.blk.regs.dictQ = [] →
      Gives (exec (.aqEnableReadComplete p true producer 0) s) (fun t => t.blk.adm.everEnabled = true ∧
        (aqOf t.blk p).map (fun x => (x.enabled, x.enabling, x.sq.consumer, x.sq.producer, x.sq.st)) =
          some (true, none, producer, producer, .active)) ∧
      (consumer ≠ 0 → Gives (exec (.aqEnableReadComplete p true producer consumer) s) (fun t =>
        aqOf t.blk p = some { q with enabling := none } ∧ t.blk.out.head? = some (.dict a.path a.org a.tag 0x05 []))) ∧
      Gives (exec (.aqEnableReadComplete p false producer consumer) s) (fun t =>
        aqOf t.blk p = some { q with enabling := none } ∧ t.blk.out.head? = some (.dict a.path a.org a.tag 0x05 [])))) ∧
  (∀ (s : State) (path : Path), Alive s → s.blk.mic.selftest ≠ 0 → path = .i3c ∨ path = .vdm →
    let b := s.blk
    let answer (cmd code : Nat) (data : List Nat) : Block := { b with out := .mctp path cmd code data :: b.out }
    (∀ op eid, op ≤ 1 → 8 ≤ eid → eid ≤ 0xFE → exec (.setEndpointId path op eid) s = .next (s.withBlk
      { answer 1 0 [0, eid, 0] with mgt := { b.mgt with eids := fmSet b.mgt.eids (pathCode path) eid } })) ∧
    (∀ op eid, 1 < op ∨ eid < 8 ∨ 0xFE < eid → exec (.setEndpointId path op eid) s = .next (s.withBlk (answer 1 2 []))) ∧
    exec (.getEndpointId path) s = .next (s.withBlk (answer 2 0 [fmGet b.mgt.eids (pathCode path) 0, 0, 0])) ∧
    (∀ type, type = 0xFF ∨ type = 0 ∨ type = 0x7F →
      exec (.getMctpVersionSupport path type) s = .next (s.withBlk (answer 4 0 (Config.mctpVersions type)))) ∧
    (∀ type, type ≠ 0xFF → type ≠ 0 → type ≠ 0x7F →
      exec (.getMctpVersionSupport path type) s = .next (s.withBlk (answer 4 0x80 []))) ∧
    exec (.getMessageTypeSupport path) s = .next (s.withBlk (answer 5 0 [1, 0x7F])) ∧
    (∀ cmd, cmd ∉ [1, 2, 4, 5] → exec (.errorUnsupportedCmd path cmd) s = .next (s.withBlk (answer cmd 5 [])))) ∧
  (∀ (s : State) (k q : Nat) (l : List (Nat × Nat)), Alive s → s.blk.mgt.notify = (k, q) :: l →
    exec .inBandInterruptRead s = .next (s.withBlk
      { s.blk with mgt := { s.blk.mgt with notify := l }, out := .notify k q :: s.blk.out }))

/-- Register writes (R388 to R403, R424, R435 to R437, R440): the secure mailbox, snapshots (whose hold time counts the hold in force),
the reference of the configuration CRC (two audit records for an accepted commit: DEDUCED, log entry 74) and its passes, the dictionary
window, the debug region; a write with no guard right, in an undecoded region or of a wrong width changes no register and is counted. -/
def Obligations.RegisterWrites : Prop :=
  (∀ (b : Block) (v : Nat),
    let t := snapTake b v
    (viewOf t v).snapSeq = ((viewOf b v).snapSeq + 1) % 2 ^ 32 ∧ (viewOf t v).snapTime = stamp b ∧ t.ctr = b.ctr ∧
    (∀ w, w ≠ v → viewOf t w = viewOf b w) ∧
    (∀ k, k < 0x400 → k ≠ 0x40 → k ≠ 0x48 → k ≠ 0x344 → fmGet (viewOf t v).hold k 0 = fmGet b.ctr k 0) ∧
    fmGet (viewOf t v).hold 0x344 0 =
      satAdd 32 (fmGet b.ctr 0x344 0) (if b.pwr.hold then (b.tide.clock - b.pwr.holdFrom) / 1000 else 0) ∧
    (v < 4 → fmGet (viewOf t v).hold 0x40 0 = fmGet b.ctr (0x40 + 0x1000 * (v + 1)) 0)) ∧
  (∀ s : State, Alive s →
    let b := s.blk
    let crc := (crc32c (coveredBytes b)).toNat
    (b.regs.passOk = false ∨ checking b = false ∨ crc = b.regs.refActive → exec .crcPass s = .next (s.withBlk
      { b with regs := { b.regs with crcNow := crc, passOk := checking b } })) ∧
    (b.regs.passOk = true → checking b = true → crc ≠ b.regs.refActive → b.rcv.stage = .idle → Gives (exec .crcPass s) (fun t =>
      t.blk.regs.crcNow = crc ∧ t.blk.aud.seq = b.aud.seq + 1 ∧ t.blk.rcv.stage = .fence ∧ t.blk.rcv.cause = 0x07))) ∧
  (∀ (s : State) (r : RegAcc) (g : Region) (o v data : Nat), RegReaches s r g o v data →
    let b := regNoted s.blk r
    let x := viewOf b v
    let wm (old used : Nat) : Nat := ((old &&& (0xFFFF ^^^ (data / 2 ^ 16))) ||| (data &&& (data / 2 ^ 16) &&& 0xFFFF)) &&& used
    (RegGuard s r →
      (g = .control → o = 0x840 → data % 2 = 1 → r.path = .secure →
        (b.adm.mbBusy = false → exec (.smbSubmit r) s = .next (s.withBlk { b with adm := { b.adm with
          mbBusy := true, mbDone := false, mbCompl := 0, mbEntry := some (smbEntry b) } })) ∧
        (b.adm.mbBusy = true → Gives (exec (.smbSubmit r) s) (fun t => t.blk.adm = b.adm ∧ t.blk.aud.seq = b.aud.seq + 1))) ∧
      (g = .snap → o = 0 → data % 2 = 1 → exec (.snapshot r) s = .next (s.withBlk (snapTake b v))) ∧
      (g = .control → o = 0x20 → data % 2 = 1 → ∀ row, row = Instr.cfgcrcCommit r ∨ row = Instr.wideCommit r →
        (x.refGen = b.regs.wgen → Gives (exec row s) (fun t => t.blk.aud.seq = b.aud.seq + 2 ∧
          t.blk.regs = { b.regs with
            refActive := x.refLo + 2 ^ 16 * x.refHi, refGen := x.refGen, refValid := true, refused := false })) ∧
        (x.refGen ≠ b.regs.wgen → Gives (exec row s) (fun t => t.blk.aud.seq = b.aud.seq + 1 ∧
          t.blk.regs = { b.regs with refused := true }))) ∧
      (regOwnRow r = false →
        (g = .control → o = 0x14 → Gives (exec (.registerWrite r) s) (fun t => viewOf t.blk v = { x with refLo := wm x.refLo 0xFFFF })) ∧
        (g = .control → o = 0x18 → Gives (exec (.registerWrite r) s) (fun t => viewOf t.blk v = { x with refHi := wm x.refHi 0xFFFF })) ∧
        (g = .control → o = 0x1C → Gives (exec (.registerWrite r) s) (fun t => viewOf t.blk v = { x with refGen := wm x.refGen 0xFFFF })) ∧
        (g = .control → o = 0x10 → Gives (exec (.registerWrite r) s) (fun t => t.blk.regs.crcOn =
          if b.regs.crcOn = true ∧ r.path ≠ .secure then true else decide (wm (b2n b.regs.crcOn) 1 = 1))) ∧
        (g = .control → 0x800 ≤ o → o < 0x840 → r.path = .secure → exec (.registerWrite r) s = .next (s.withBlk
          { b with adm := { b.adm with mbRegs := fmSet b.adm.mbRegs ((o - 0x800) / 4) data } })) ∧
        (g = .debug → o < 0x10 → Gives (exec (.registerWrite r) s) (fun t =>
          field t.blk.regs.brkEnable (16 * (o / 4)) 16 = wm (field b.regs.brkEnable (16 * (o / 4)) 16) 0xFFFF)) ∧
        (g = .debug → o = 0x10 → Gives (exec (.registerWrite r) s) (fun t => t.blk.regs.coreSel = wm b.regs.coreSel 0x3F)) ∧
        (g = .debug → o = 0x30 → Gives (exec (.registerWrite r) s) (fun t => t.blk.regs.page = wm b.regs.page 0x3FF)))) ∧
    (regOwnRow r = false → r.path ≠ .dbg →
      (g = .dict → Gives (exec (.registerWrite r) s) (fun t =>
        let w := (fmGet? b.regs.wins (winKey r.path r.org)).getD DictWin.fresh
        (o = 0 → fmGet? t.blk.regs.wins (winKey r.path r.org) = some { w with index := wm w.index 0xFFFF }) ∧
        (o = 4 → fmGet? t.blk.regs.wins (winKey r.path r.org) = some { w with sub := wm w.sub 0xFF }) ∧
        (o = 8 → fmGet? t.blk.regs.wins (winKey r.path r.org) = some { w with len := wm w.len 0x7F }))) ∧
      (g = .table → exec (.registerWrite r) s = .next (s.withBlk b)) ∧
      (g = .none ∨ ((granted s.blk r = false ∨ (inMailbox r.off = true ∧ r.path ≠ .secure)) ∧ (g = .control ∨ g = .snap ∨ g = .debug)) →
        Gives (exec (.registerWrite r) s) (fun t => t.blk.regs = b.regs ∧ t.blk.adm = b.adm ∧ t.blk.cores = b.cores ∧
          t.blk.dict = b.dict ∧ fmGet t.blk.ctr 0x20 0 = satAdd 32 (fmGet b.ctr 0x20 0) 1)))) ∧
  (∀ (s : State) (r : RegAcc) (v : Nat), Alive s → s.blk.mic.selftest ≠ 0 → viewIdx r = some v → r.off < 0x200000 →
    regOwnRow r = false →
    let b := regNoted s.blk r
    (¬ (r.width = 4 ∧ r.off % 4 = 0) → ¬ (r.width = 8 ∧ r.off % 8 = 0) →
      Gives (exec (.registerWrite r) s) (fun t => t.blk.regs = b.regs ∧ t.blk.adm = b.adm ∧ t.blk.cores = b.cores ∧
        t.blk.dict = b.dict ∧ fmGet t.blk.ctr 0x20 0 = satAdd 32 (fmGet b.ctr 0x20 0) 1)) ∧
    (r.path ≠ .dbg → regionOf r.off = .dict → regionOff r.off = 0 → r.width = 8 → r.off % 8 = 0 →
      let w := (fmGet? b.regs.wins (winKey r.path r.org)).getD DictWin.fresh
      Gives (exec (.registerWrite r) s) (fun t => (fmGet? t.blk.regs.wins (winKey r.path r.org)).map (fun x => (x.index, x.sub, x.len)) =
        some (wmValue w.index (r.data.toNat % 2 ^ 32) 0xFFFF, wmValue w.sub (r.data.toNat / 2 ^ 32) 0xFF, w.len))))

/-! ## Power (spec/18_power.md) and debug (spec/19_debug.md) -/

/-- Power (R422 to R424, R427, R428, R430, R431): a sample below the warning level enters the brownout hold, one at or above the
release level `HOLD_RELEASE_US` after the last below it ends it, one below the reset level stops every unit; a pass of the delay
monitors sets the ageing and may raise a margin advisory; clusters go `IDLE`, `OFF` and wake, and reports set their state. -/
def Obligations.PowerEvents : Prop :=
  ∀ (s : State) (mv c : Nat), Alive s →
    let b := s.blk
    (b.pwr.hold = false → mv < dget b 0x7000 1 → Gives (exec (.brownoutHold mv) s) (fun t =>
      (t.blk.pwr.hold, t.blk.pwr.holdFrom, t.blk.pwr.holdMin, t.blk.pwr.holdFrame) = (true, b.tide.clock, mv, b.tide.frame) ∧
      (t.blk.pwr.nowMv, t.blk.pwr.minMv) = (mv, min b.pwr.minMv mv) ∧
      fmGet t.blk.ctr 0x340 0 = satAdd 32 (fmGet b.ctr 0x340 0) 1 ∧ t.blk.cores = b.cores ∧ t.blk.comp = b.comp)) ∧
    (b.pwr.hold = true ∨ dget b 0x7000 1 ≤ mv → exec (.brownoutHold mv) s = .next (s.withBlk (supplySample b mv))) ∧
    (b.pwr.hold = true → dget b 0x7000 1 + dget b 0x7000 3 ≤ mv →
      let u := max b.tide.clock (b.pwr.aboveFrom + dget b 0x7000 4 * 1000)
      Gives (exec (.holdRelease mv) s) (fun t => t.blk.pwr.hold = false ∧ t.blk.tide.clock = u ∧ t.blk.pwr.nowMv = mv ∧
        fmGet t.blk.ctr 0x344 0 = satAdd 32 (fmGet b.ctr 0x344 0) ((u - b.pwr.holdFrom) / 1000) ∧ t.blk.cores = b.cores)) ∧
    (b.pwr.hold = false ∨ mv < dget b 0x7000 1 + dget b 0x7000 3 →
      exec (.holdRelease mv) s = .next (s.withBlk (supplySample b mv))) ∧
    (mv < dget b 0x7000 2 → Gives (exec (.supplyReset mv) s) (fun t => t.blk = supplySample b mv ∧ t.pending = s.pending ∧
      t.pin = { s.pin with stopped := true, resetReq := true, bypX := false, bypY := false, bypZ := false })) ∧
    (dget b 0x7000 2 ≤ mv → exec (.supplyReset mv) s = .next s) ∧
    (∀ l : List (Nat × Nat), b.mic.status = 2 → l.length = 32 →
      let A := (monitorAll b 0 none l).1.getD b.pwr.ageing
      let k := advFactor b
      let new := ceilDiv (A * (1024 + dget b 0x7020 5)) 1147
      let due := A * 1024 * 1024 ≥ 1147 * k * dget b 0x7020 4 ∧ k < new
      let at_ := max b.tide.clock (b.pwr.monAt + dget b 0x7020 7 * 1000000)
      Gives (exec (.monitorPass l) s) (fun t => t.blk.pwr.ageing = A ∧ (t.blk.tide.clock, t.blk.pwr.monAt) = (at_, at_) ∧
        (due → t.blk.pwr.gen = (b.pwr.gen + 1) % 2 ^ 32 ∧ t.blk.pwr.factors = (new :: b.pwr.factors).take 16) ∧
        (¬ due → t.blk.pwr.gen = b.pwr.gen ∧ t.blk.pwr.factors = b.pwr.factors))) ∧
    (b.mic.status = 2 → (clusterPart b c).isSome = true → (pwrOf b c).order = 3 → clusterUnused b c = true →
      Gives (exec (.clusterIdle c) s) (fun t => pwrOf t.blk c = { pwrOf b c with order := 2 } ∧
        t.blk.tide.clock = max b.tide.clock ((pwrOf b c).unused + dget b 0x7010 1 * 1000) ∧ t.blk.out = .power c 2 :: b.out)) ∧
    (∀ p, b.mic.status = 2 → clusterPart b c = some p →
      let ref (t : Nat) : Nat := if timeRuns b then max b.tide.time t % 2 ^ 64 else b.tide.time
      (let t' := max b.tide.clock ((pwrOf b c).idle + dget b 0x7010 2 * 1000)
       (pwrOf b c).order = 2 → (pwrOf b c).state = 2 → clusterUnused b c = true → dget b 0x7010 2 ≠ 0xFFFFFFFF →
        (nextNeed b p c = none → Gives (exec (.clusterOff c) s) (fun t => pwrOf t.blk c = { pwrOf b c with order := 0 } ∧
          t.blk.tide.clock = t' ∧ t.blk.out = .power c 0 :: b.out)) ∧
        (∀ n, nextNeed b p c = some n → t' + wakeOffLead b < clockAt b n → Gives (exec (.clusterOff c) s) (fun t =>
          pwrOf t.blk c = { pwrOf b c with order := 0 } ∧ t.blk.out = .power c 0 :: b.out)) ∧
        (∀ n, nextNeed b p c = some n → clockAt b n ≤ t' + wakeOffLead b → exec (.clusterOff c) s = .next s)) ∧
      ((pwrOf b c).order = 0 → (wakeSet b p).contains c = true → Gives (exec (.clusterWake c) s) (fun t =>
        pwrOf t.blk c = { pwrOf b c with order := 2 } ∧ fmGet t.blk.ctr 0x350 0 = satAdd 32 (fmGet b.ctr 0x350 0) 1)) ∧
      (∀ n, nextNeed b p c = some n → (wakeSet b p).contains c = false →
        ((pwrOf b c).order = 0 → Gives (exec (.clusterWake c) s) (fun t => pwrOf t.blk c = { pwrOf b c with order := 2 } ∧
          t.blk.tide.time = ref (n - wakeOffLead b))) ∧
        ((pwrOf b c).order = 2 → Gives (exec (.clusterWake c) s) (fun t => pwrOf t.blk c = { pwrOf b c with order := 3 } ∧
          t.blk.tide.time = ref (n - wakeIdleLead b))))) ∧
    (∀ st, c < 64 → st ≤ 3 → Gives (exec (.powerStateReport c st) s) (fun t =>
      (pwrOf t.blk c).state = st ∧ (pwrOf t.blk c).order = (pwrOf b c).order ∧ (∀ e, e ≠ c → pwrOf t.blk e = pwrOf b e) ∧
      t.blk.tableGen = (if (pwrOf b c).state = st then b.tableGen else (b.tableGen + 1) % 2 ^ 32) ∧
      (st = 3 → (pwrOf t.blk c).late = none)))

/-- Commands to a stopped core (R438, R440, R441): `CONTINUE`, `STEP` and the timeout leave the stop, and the core goes on with step 3
of the SLW at which it stopped, here one whose only slot was BRK; after `STEP` it is to stop again; `HALT_REQ` is pending while the
core runs its part of a primary run. -/
def Obligations.DebugCommands : Prop :=
  ∀ (s : State) (c n : Nat) (r : Run), Alive s → s.blk.rcv.stage = .idle →
    let k := coreOf s.blk c
    c < 64 → k.run = some n → runOf s.blk n = some r → r.abort = none → r.endedAt = none → k.ended = false →
    (∀ (x : Word) (st : Stop), k.brkStop = some st → k.hold = .none → k.bound = false → k.loops = [] → k.haltReq = false →
      k.slw = some { slwOf k.off 1 [x] with stage := .c1 } → k.off + 16 < (curStream k).len →
      let left (step : Bool) (t : State) : Prop := (coreOf t.blk c).brkStop = none ∧ (coreOf t.blk c).slw = none ∧
        (coreOf t.blk c).off = k.off + 16 ∧ (coreOf t.blk c).stepping = step ∧ (coreOf t.blk c).s = k.s ∧ (coreOf t.blk c).a = k.a ∧
        runOf t.blk n = some r
      (∀ (a : RegAcc) (v : Nat), s.blk.regs.coreSel % 64 = c →
        (RegReaches s a .debug 0x14 v 1 → RegGuard s a → Gives (exec (.dbgContinue a) s) (left false)) ∧
        (RegReaches s a .debug 0x14 v 2 → RegGuard s a → Gives (exec (.dbgStep a) s) (left true))) ∧
      Gives (exec (.brkTimeout c) s) (fun t => left false t ∧
        t.blk.tide.clock = max s.blk.tide.clock (st.since + dget s.blk 0x8010 1 * 1000) ∧
        fmGet t.blk.ctr 0x38C 0 = satAdd 32 (fmGet s.blk.ctr 0x38C 0) 1)) ∧
    (∀ (a : RegAcc) (v : Nat), s.blk.regs.coreSel % 64 = c → RegReaches s a .debug 0x14 v 4 → RegGuard s a → r.kind = .primary →
      r.partsEnded.contains c = false →
        exec (.haltReq a) s = .next (s.withBlk (putCore (regNoted s.blk a) c { k with haltReq := true })))
end

