-- ==== Sys2Proof/Laws/Maps.lean ====
section
/-! SUPPORT. Laws of the keyed maps and of byte memory: what a read gives after a write, and that every memory operation keeps
the canonical form. -/

namespace Sys2Proof.Machine

open Sys2Proof

/-! ## Keyed maps -/

@[simp] theorem fmGet?_fmSet_self {α : Type} (m : FMap α) (k : Nat) (v : α) : fmGet? (fmSet m k v) k = some v := by
  induction m with
  | nil => simp [fmSet, fmGet?]
  | cons p t ih =>
    obtain ⟨j, w⟩ := p
    simp only [fmSet]
    split
    · simp [fmGet?]
    · split
      · simp [fmGet?]
      · rename_i h; simp [fmGet?, h, ih]

theorem fmGet?_fmSet_ne {α : Type} (m : FMap α) {k l : Nat} (v : α) (h : l ≠ k) : fmGet? (fmSet m k v) l = fmGet? m l := by
  induction m with
  | nil => simp [fmSet, fmGet?, Ne.symm h]
  | cons p t ih =>
    obtain ⟨j, w⟩ := p
    simp only [fmSet]
    split
    · simp [fmGet?, Ne.symm h]
    · split
      · rename_i e; subst e; simp [fmGet?, Ne.symm h]
      · simp [fmGet?, ih]

@[simp] theorem fmSet_fmSet {α : Type} (m : FMap α) (k : Nat) (v w : α) : fmSet (fmSet m k v) k w = fmSet m k w := by
  induction m with
  | nil => simp [fmSet]
  | cons p t ih =>
    obtain ⟨j, x⟩ := p
    simp only [fmSet]
    split
    · simp [fmSet]
    · split
      · rename_i e; subst e; simp [fmSet]
      · rename_i h1 h2; simp [fmSet, h1, h2, ih]

@[simp] theorem fmGet_fmSet_self {α : Type} (m : FMap α) (k : Nat) (v d : α) : fmGet (fmSet m k v) k d = v := by
  simp [fmGet]

theorem fmGet_fmSet_ne {α : Type} (m : FMap α) {k l : Nat} (v d : α) (h : l ≠ k) : fmGet (fmSet m k v) l d = fmGet m l d := by
  simp [fmGet, fmGet?_fmSet_ne m v h]

/-! ## Byte memory -/

theorem memRead_memPut_ne (m : Memory) {a l : Nat} (v : Byte) (h : l ≠ a) : memRead (memPut m a v) l = memRead m l := by
  induction m with
  | nil => simp [memPut, memRead, Ne.symm h]
  | cons p t ih =>
    obtain ⟨j, w⟩ := p
    simp only [memPut]
    split
    · simp [memRead, Ne.symm h]
    · split
      · rename_i e; subst e; simp [memRead, Ne.symm h]
      · simp [memRead, ih]

theorem memRead_filter_ne (m : Memory) {a l : Nat} (h : l ≠ a) :
    memRead (m.filter (fun x => decide (x.1 ≠ a))) l = memRead m l := by
  induction m with
  | nil => rfl
  | cons p t ih =>
    obtain ⟨j, w⟩ := p
    by_cases e : j = a
    · subst e; simpa [memRead, Ne.symm h] using ih
    · simp only [ne_eq, decide_not] at ih
      simp [memRead, e, ih]

/-- A byte elsewhere reads as before. -/
theorem memRead_memWrite_ne (m : Memory) {a l : Nat} (v : Byte) (h : l ≠ a) : memRead (memWrite m a v) l = memRead m l := by
  unfold memWrite
  split
  · exact memRead_filter_ne m h
  · exact memRead_memPut_ne m v h

/-- The addresses listed all lie above `a`. -/
def aboveAll (a : Nat) (m : Memory) : Prop := ∀ p ∈ m, a < p.1

theorem memRead_above {a : Nat} {m : Memory} (h : aboveAll a m) : memRead m a = 0 := by
  induction m with
  | nil => rfl
  | cons p t ih =>
    obtain ⟨j, w⟩ := p
    have hj : a < j := h (j, w) (by simp)
    have ht : aboveAll a t := fun q hq => h q (by simp [hq])
    have hne : j ≠ a := by omega
    simp [memRead, hne, ih ht]

theorem Memory.wf_cons {a : Nat} {v : Byte} {m : Memory} : Memory.wf ((a, v) :: m) = true ↔
    v ≠ 0 ∧ (∀ p, m.head? = some p → a < p.1) ∧ Memory.wf m = true := by
  cases m with
  | nil => simp [Memory.wf]
  | cons p t => obtain ⟨j, w⟩ := p; simp [Memory.wf, and_assoc]

theorem Memory.wf_above {a : Nat} {v : Byte} {m : Memory} (h : Memory.wf ((a, v) :: m) = true) : aboveAll a m := by
  induction m generalizing a v with
  | nil => intro p hp; simp at hp
  | cons p t ih =>
    obtain ⟨j, w⟩ := p
    have h1 := Memory.wf_cons.mp h
    have haj : a < j := h1.2.1 (j, w) rfl
    have ht : aboveAll j t := ih h1.2.2
    intro q hq
    rcases List.mem_cons.mp hq with rfl | hq
    · exact haj
    · exact lt_trans haj (ht q hq)

theorem memPut_above {m : Memory} {a : Nat} {v : Byte} {lo : Nat} (hlo : aboveAll lo m) (ha : lo < a) :
    aboveAll lo (memPut m a v) := by
  induction m with
  | nil => intro p hp; simp [memPut] at hp; subst hp; exact ha
  | cons q t ih =>
    obtain ⟨j, w⟩ := q
    have ht : aboveAll lo t := fun r hr => hlo r (by simp [hr])
    intro p hp
    simp only [memPut] at hp
    split at hp
    · rcases List.mem_cons.mp hp with rfl | hp
      · exact ha
      · exact hlo p hp
    · split at hp
      · rcases List.mem_cons.mp hp with rfl | hp
        · exact ha
        · exact ht p hp
      · rcases List.mem_cons.mp hp with rfl | hp
        · exact hlo _ (by simp)
        · exact ih ht p hp

theorem Memory.wf_of_above {a : Nat} {v : Byte} {m : Memory} (hv : v ≠ 0) (ha : aboveAll a m) (hm : Memory.wf m = true) :
    Memory.wf ((a, v) :: m) = true :=
  Memory.wf_cons.mpr ⟨hv, fun p hp => ha p (List.mem_of_mem_head? hp), hm⟩

theorem Memory.wf_memPut {m : Memory} (a : Nat) {v : Byte} (hv : v ≠ 0) (h : Memory.wf m = true) :
    Memory.wf (memPut m a v) = true := by
  induction m with
  | nil => simpa [memPut, Memory.wf] using hv
  | cons p t ih =>
    obtain ⟨j, w⟩ := p
    have h1 := Memory.wf_cons.mp h
    have hab := Memory.wf_above h
    simp only [memPut]
    split
    · rename_i hlt
      exact Memory.wf_of_above hv (fun q hq => by
        rcases List.mem_cons.mp hq with rfl | hq
        · exact hlt
        · exact lt_trans hlt (hab q hq)) h
    · split
      · rename_i e; subst e; exact Memory.wf_of_above hv hab h1.2.2
      · exact Memory.wf_of_above h1.1 (memPut_above hab (by omega)) (ih h1.2.2)

theorem Memory.wf_filter {m : Memory} (f : Nat × Byte → Bool) (h : Memory.wf m = true) : Memory.wf (m.filter f) = true := by
  induction m with
  | nil => rfl
  | cons p t ih =>
    obtain ⟨j, w⟩ := p
    have h1 := Memory.wf_cons.mp h
    rw [List.filter_cons]
    split
    · exact Memory.wf_of_above h1.1 (fun q hq => Memory.wf_above h q (List.mem_of_mem_filter hq)) (ih h1.2.2)
    · exact ih h1.2.2

/-- Writing a byte keeps the canonical form. -/
theorem Memory.wf_memWrite {m : Memory} (a : Nat) (v : Byte) (h : Memory.wf m = true) : Memory.wf (memWrite m a v) = true := by
  unfold memWrite
  split
  · exact Memory.wf_filter _ h
  · rename_i hv; exact Memory.wf_memPut a hv h

/-- A byte reads as it was last written. -/
theorem memRead_memWrite_self (m : Memory) (a : Nat) (v : Byte) : memRead (memWrite m a v) a = v := by
  unfold memWrite
  split
  · rename_i hv; subst hv
    induction m with
    | nil => rfl
    | cons p t ih =>
      obtain ⟨j, w⟩ := p
      by_cases e : j = a
      · subst e; simpa using ih
      · simp only [ne_eq, decide_not] at ih
        simp [memRead, e, ih]
  · induction m with
    | nil => simp [memPut, memRead]
    | cons p t ih =>
      obtain ⟨j, w⟩ := p
      simp only [memPut]
      split
      · simp [memRead]
      · split
        · simp [memRead]
        · rename_i h2; simp [memRead, h2, ih]

/-- Writing several bytes keeps the canonical form. -/
theorem Memory.wf_memWriteBytes {m : Memory} (a : Nat) (l : List Byte) (h : Memory.wf m = true) :
    Memory.wf (memWriteBytes m a l) = true := by
  induction l generalizing m a with
  | nil => exact h
  | cons v t ih => exact ih (a := a + 1) (Memory.wf_memWrite a v h)

/-- Bytes outside those written read as before. -/
theorem memRead_memWriteBytes_ne (m : Memory) (a : Nat) (l : List Byte) {x : Nat} (h : x < a ∨ a + l.length ≤ x) :
    memRead (memWriteBytes m a l) x = memRead m x := by
  induction l generalizing m a with
  | nil => rfl
  | cons v t ih =>
    simp only [List.length_cons] at h
    rw [memWriteBytes, ih (memWrite m a v) (a + 1) (by omega), memRead_memWrite_ne m v (by omega)]

/-- Bytes written read back. -/
theorem memReadBytes_memWriteBytes_self (m : Memory) (a : Nat) (l : List Byte) :
    memReadBytes (memWriteBytes m a l) a l.length = l := by
  induction l generalizing m a with
  | nil => rfl
  | cons v t ih =>
    rw [memWriteBytes, List.length_cons, memReadBytes, ih]
    rw [memRead_memWriteBytes_ne _ _ _ (Or.inl (by omega)), memRead_memWrite_self]

end Sys2Proof.Machine
end

