-- ==== Sys2Proof/Laws/State.lean ====
section
/-! SUPPORT. What an update of one part of the block leaves as it was: one lemma per part and update, so that no proof unfolds a
record update. -/

namespace Sys2Proof.Machine

open Sys2Proof

/-! ## The state: its queue, its signals, its block -/

@[simp] theorem alive_pending (s : State) (q : List Instr) : alive { s with pending := q } = alive s := rfl
@[simp] theorem alive_blk (s : State) (b : Block) : alive { s with blk := b } = alive s := rfl

/-! ## putCore -/

@[simp] theorem putCore_obj (b : Block) (c : Nat) (k : CoreSt) : (putCore b c k).obj = b.obj := rfl
@[simp] theorem putCore_q (b : Block) (c : Nat) (k : CoreSt) : (putCore b c k).q = b.q := rfl
@[simp] theorem putCore_adm (b : Block) (c : Nat) (k : CoreSt) : (putCore b c k).adm = b.adm := rfl
@[simp] theorem putCore_fen (b : Block) (c : Nat) (k : CoreSt) : (putCore b c k).fen = b.fen := rfl
@[simp] theorem putCore_sb (b : Block) (c : Nat) (k : CoreSt) : (putCore b c k).sb = b.sb := rfl
@[simp] theorem putCore_walk (b : Block) (c : Nat) (k : CoreSt) : (putCore b c k).walk = b.walk := rfl
@[simp] theorem putCore_ports (b : Block) (c : Nat) (k : CoreSt) : (putCore b c k).ports = b.ports := rfl
@[simp] theorem putCore_xp (b : Block) (c : Nat) (k : CoreSt) : (putCore b c k).xp = b.xp := rfl
@[simp] theorem putCore_comp (b : Block) (c : Nat) (k : CoreSt) : (putCore b c k).comp = b.comp := rfl
@[simp] theorem putCore_bkt (b : Block) (c : Nat) (k : CoreSt) : (putCore b c k).bkt = b.bkt := rfl
@[simp] theorem putCore_cap (b : Block) (c : Nat) (k : CoreSt) : (putCore b c k).cap = b.cap := rfl
@[simp] theorem putCore_tide (b : Block) (c : Nat) (k : CoreSt) : (putCore b c k).tide = b.tide := rfl
@[simp] theorem putCore_live (b : Block) (c : Nat) (k : CoreSt) : (putCore b c k).live = b.live := rfl
@[simp] theorem putCore_upd (b : Block) (c : Nat) (k : CoreSt) : (putCore b c k).upd = b.upd := rfl
@[simp] theorem putCore_stagePos (b : Block) (c : Nat) (k : CoreSt) : (putCore b c k).stagePos = b.stagePos := rfl
@[simp] theorem putCore_fab (b : Block) (c : Nat) (k : CoreSt) : (putCore b c k).fab = b.fab := rfl
@[simp] theorem putCore_rcv (b : Block) (c : Nat) (k : CoreSt) : (putCore b c k).rcv = b.rcv := rfl
@[simp] theorem putCore_rel (b : Block) (c : Nat) (k : CoreSt) : (putCore b c k).rel = b.rel := rfl
@[simp] theorem putCore_mic (b : Block) (c : Nat) (k : CoreSt) : (putCore b c k).mic = b.mic := rfl
@[simp] theorem putCore_regs (b : Block) (c : Nat) (k : CoreSt) : (putCore b c k).regs = b.regs := rfl
@[simp] theorem putCore_aud (b : Block) (c : Nat) (k : CoreSt) : (putCore b c k).aud = b.aud := rfl
@[simp] theorem putCore_mgt (b : Block) (c : Nat) (k : CoreSt) : (putCore b c k).mgt = b.mgt := rfl
@[simp] theorem putCore_pwr (b : Block) (c : Nat) (k : CoreSt) : (putCore b c k).pwr = b.pwr := rfl
@[simp] theorem putCore_dict (b : Block) (c : Nat) (k : CoreSt) : (putCore b c k).dict = b.dict := rfl
@[simp] theorem putCore_ctr (b : Block) (c : Nat) (k : CoreSt) : (putCore b c k).ctr = b.ctr := rfl
@[simp] theorem putCore_skipSeq (b : Block) (c : Nat) (k : CoreSt) : (putCore b c k).skipSeq = b.skipSeq := rfl
@[simp] theorem putCore_traceSeq (b : Block) (c : Nat) (k : CoreSt) : (putCore b c k).traceSeq = b.traceSeq := rfl
@[simp] theorem putCore_tableGen (b : Block) (c : Nat) (k : CoreSt) : (putCore b c k).tableGen = b.tableGen := rfl
@[simp] theorem putCore_fuse (b : Block) (c : Nat) (k : CoreSt) : (putCore b c k).fuse = b.fuse := rfl
@[simp] theorem putCore_mem (b : Block) (c : Nat) (k : CoreSt) : (putCore b c k).mem = b.mem := rfl
@[simp] theorem putCore_out (b : Block) (c : Nat) (k : CoreSt) : (putCore b c k).out = b.out := rfl

/-! ## putPort -/

@[simp] theorem putPort_obj (b : Block) (c : Nat) (p : CPort) : (putPort b c p).obj = b.obj := rfl
@[simp] theorem putPort_q (b : Block) (c : Nat) (p : CPort) : (putPort b c p).q = b.q := rfl
@[simp] theorem putPort_adm (b : Block) (c : Nat) (p : CPort) : (putPort b c p).adm = b.adm := rfl
@[simp] theorem putPort_fen (b : Block) (c : Nat) (p : CPort) : (putPort b c p).fen = b.fen := rfl
@[simp] theorem putPort_sb (b : Block) (c : Nat) (p : CPort) : (putPort b c p).sb = b.sb := rfl
@[simp] theorem putPort_walk (b : Block) (c : Nat) (p : CPort) : (putPort b c p).walk = b.walk := rfl
@[simp] theorem putPort_cores (b : Block) (c : Nat) (p : CPort) : (putPort b c p).cores = b.cores := rfl
@[simp] theorem putPort_xp (b : Block) (c : Nat) (p : CPort) : (putPort b c p).xp = b.xp := rfl
@[simp] theorem putPort_comp (b : Block) (c : Nat) (p : CPort) : (putPort b c p).comp = b.comp := rfl
@[simp] theorem putPort_bkt (b : Block) (c : Nat) (p : CPort) : (putPort b c p).bkt = b.bkt := rfl
@[simp] theorem putPort_cap (b : Block) (c : Nat) (p : CPort) : (putPort b c p).cap = b.cap := rfl
@[simp] theorem putPort_tide (b : Block) (c : Nat) (p : CPort) : (putPort b c p).tide = b.tide := rfl
@[simp] theorem putPort_live (b : Block) (c : Nat) (p : CPort) : (putPort b c p).live = b.live := rfl
@[simp] theorem putPort_upd (b : Block) (c : Nat) (p : CPort) : (putPort b c p).upd = b.upd := rfl
@[simp] theorem putPort_stagePos (b : Block) (c : Nat) (p : CPort) : (putPort b c p).stagePos = b.stagePos := rfl
@[simp] theorem putPort_fab (b : Block) (c : Nat) (p : CPort) : (putPort b c p).fab = b.fab := rfl
@[simp] theorem putPort_rcv (b : Block) (c : Nat) (p : CPort) : (putPort b c p).rcv = b.rcv := rfl
@[simp] theorem putPort_rel (b : Block) (c : Nat) (p : CPort) : (putPort b c p).rel = b.rel := rfl
@[simp] theorem putPort_mic (b : Block) (c : Nat) (p : CPort) : (putPort b c p).mic = b.mic := rfl
@[simp] theorem putPort_regs (b : Block) (c : Nat) (p : CPort) : (putPort b c p).regs = b.regs := rfl
@[simp] theorem putPort_aud (b : Block) (c : Nat) (p : CPort) : (putPort b c p).aud = b.aud := rfl
@[simp] theorem putPort_mgt (b : Block) (c : Nat) (p : CPort) : (putPort b c p).mgt = b.mgt := rfl
@[simp] theorem putPort_pwr (b : Block) (c : Nat) (p : CPort) : (putPort b c p).pwr = b.pwr := rfl
@[simp] theorem putPort_dict (b : Block) (c : Nat) (p : CPort) : (putPort b c p).dict = b.dict := rfl
@[simp] theorem putPort_ctr (b : Block) (c : Nat) (p : CPort) : (putPort b c p).ctr = b.ctr := rfl
@[simp] theorem putPort_skipSeq (b : Block) (c : Nat) (p : CPort) : (putPort b c p).skipSeq = b.skipSeq := rfl
@[simp] theorem putPort_traceSeq (b : Block) (c : Nat) (p : CPort) : (putPort b c p).traceSeq = b.traceSeq := rfl
@[simp] theorem putPort_tableGen (b : Block) (c : Nat) (p : CPort) : (putPort b c p).tableGen = b.tableGen := rfl
@[simp] theorem putPort_fuse (b : Block) (c : Nat) (p : CPort) : (putPort b c p).fuse = b.fuse := rfl
@[simp] theorem putPort_mem (b : Block) (c : Nat) (p : CPort) : (putPort b c p).mem = b.mem := rfl
@[simp] theorem putPort_out (b : Block) (c : Nat) (p : CPort) : (putPort b c p).out = b.out := rfl

/-! ## putRun -/

@[simp] theorem putRun_obj (b : Block) (n : Nat) (r : Run) : (putRun b n r).obj = b.obj := rfl
@[simp] theorem putRun_q (b : Block) (n : Nat) (r : Run) : (putRun b n r).q = b.q := rfl
@[simp] theorem putRun_adm (b : Block) (n : Nat) (r : Run) : (putRun b n r).adm = b.adm := rfl
@[simp] theorem putRun_fen (b : Block) (n : Nat) (r : Run) : (putRun b n r).fen = b.fen := rfl
@[simp] theorem putRun_sb (b : Block) (n : Nat) (r : Run) : (putRun b n r).sb = b.sb := rfl
@[simp] theorem putRun_walk (b : Block) (n : Nat) (r : Run) : (putRun b n r).walk = b.walk := rfl
@[simp] theorem putRun_cores (b : Block) (n : Nat) (r : Run) : (putRun b n r).cores = b.cores := rfl
@[simp] theorem putRun_ports (b : Block) (n : Nat) (r : Run) : (putRun b n r).ports = b.ports := rfl
@[simp] theorem putRun_xp (b : Block) (n : Nat) (r : Run) : (putRun b n r).xp = b.xp := rfl
@[simp] theorem putRun_bkt (b : Block) (n : Nat) (r : Run) : (putRun b n r).bkt = b.bkt := rfl
@[simp] theorem putRun_cap (b : Block) (n : Nat) (r : Run) : (putRun b n r).cap = b.cap := rfl
@[simp] theorem putRun_tide (b : Block) (n : Nat) (r : Run) : (putRun b n r).tide = b.tide := rfl
@[simp] theorem putRun_live (b : Block) (n : Nat) (r : Run) : (putRun b n r).live = b.live := rfl
@[simp] theorem putRun_upd (b : Block) (n : Nat) (r : Run) : (putRun b n r).upd = b.upd := rfl
@[simp] theorem putRun_stagePos (b : Block) (n : Nat) (r : Run) : (putRun b n r).stagePos = b.stagePos := rfl
@[simp] theorem putRun_fab (b : Block) (n : Nat) (r : Run) : (putRun b n r).fab = b.fab := rfl
@[simp] theorem putRun_rcv (b : Block) (n : Nat) (r : Run) : (putRun b n r).rcv = b.rcv := rfl
@[simp] theorem putRun_rel (b : Block) (n : Nat) (r : Run) : (putRun b n r).rel = b.rel := rfl
@[simp] theorem putRun_mic (b : Block) (n : Nat) (r : Run) : (putRun b n r).mic = b.mic := rfl
@[simp] theorem putRun_regs (b : Block) (n : Nat) (r : Run) : (putRun b n r).regs = b.regs := rfl
@[simp] theorem putRun_aud (b : Block) (n : Nat) (r : Run) : (putRun b n r).aud = b.aud := rfl
@[simp] theorem putRun_mgt (b : Block) (n : Nat) (r : Run) : (putRun b n r).mgt = b.mgt := rfl
@[simp] theorem putRun_pwr (b : Block) (n : Nat) (r : Run) : (putRun b n r).pwr = b.pwr := rfl
@[simp] theorem putRun_dict (b : Block) (n : Nat) (r : Run) : (putRun b n r).dict = b.dict := rfl
@[simp] theorem putRun_ctr (b : Block) (n : Nat) (r : Run) : (putRun b n r).ctr = b.ctr := rfl
@[simp] theorem putRun_skipSeq (b : Block) (n : Nat) (r : Run) : (putRun b n r).skipSeq = b.skipSeq := rfl
@[simp] theorem putRun_traceSeq (b : Block) (n : Nat) (r : Run) : (putRun b n r).traceSeq = b.traceSeq := rfl
@[simp] theorem putRun_tableGen (b : Block) (n : Nat) (r : Run) : (putRun b n r).tableGen = b.tableGen := rfl
@[simp] theorem putRun_fuse (b : Block) (n : Nat) (r : Run) : (putRun b n r).fuse = b.fuse := rfl
@[simp] theorem putRun_mem (b : Block) (n : Nat) (r : Run) : (putRun b n r).mem = b.mem := rfl
@[simp] theorem putRun_out (b : Block) (n : Nat) (r : Run) : (putRun b n r).out = b.out := rfl

/-! ## putItem -/

@[simp] theorem putItem_obj (b : Block) (t : Nat) (i : Item) : (putItem b t i).obj = b.obj := rfl
@[simp] theorem putItem_q (b : Block) (t : Nat) (i : Item) : (putItem b t i).q = b.q := rfl
@[simp] theorem putItem_adm (b : Block) (t : Nat) (i : Item) : (putItem b t i).adm = b.adm := rfl
@[simp] theorem putItem_fen (b : Block) (t : Nat) (i : Item) : (putItem b t i).fen = b.fen := rfl
@[simp] theorem putItem_walk (b : Block) (t : Nat) (i : Item) : (putItem b t i).walk = b.walk := rfl
@[simp] theorem putItem_cores (b : Block) (t : Nat) (i : Item) : (putItem b t i).cores = b.cores := rfl
@[simp] theorem putItem_ports (b : Block) (t : Nat) (i : Item) : (putItem b t i).ports = b.ports := rfl
@[simp] theorem putItem_xp (b : Block) (t : Nat) (i : Item) : (putItem b t i).xp = b.xp := rfl
@[simp] theorem putItem_comp (b : Block) (t : Nat) (i : Item) : (putItem b t i).comp = b.comp := rfl
@[simp] theorem putItem_bkt (b : Block) (t : Nat) (i : Item) : (putItem b t i).bkt = b.bkt := rfl
@[simp] theorem putItem_cap (b : Block) (t : Nat) (i : Item) : (putItem b t i).cap = b.cap := rfl
@[simp] theorem putItem_tide (b : Block) (t : Nat) (i : Item) : (putItem b t i).tide = b.tide := rfl
@[simp] theorem putItem_live (b : Block) (t : Nat) (i : Item) : (putItem b t i).live = b.live := rfl
@[simp] theorem putItem_upd (b : Block) (t : Nat) (i : Item) : (putItem b t i).upd = b.upd := rfl
@[simp] theorem putItem_stagePos (b : Block) (t : Nat) (i : Item) : (putItem b t i).stagePos = b.stagePos := rfl
@[simp] theorem putItem_fab (b : Block) (t : Nat) (i : Item) : (putItem b t i).fab = b.fab := rfl
@[simp] theorem putItem_rcv (b : Block) (t : Nat) (i : Item) : (putItem b t i).rcv = b.rcv := rfl
@[simp] theorem putItem_rel (b : Block) (t : Nat) (i : Item) : (putItem b t i).rel = b.rel := rfl
@[simp] theorem putItem_mic (b : Block) (t : Nat) (i : Item) : (putItem b t i).mic = b.mic := rfl
@[simp] theorem putItem_regs (b : Block) (t : Nat) (i : Item) : (putItem b t i).regs = b.regs := rfl
@[simp] theorem putItem_aud (b : Block) (t : Nat) (i : Item) : (putItem b t i).aud = b.aud := rfl
@[simp] theorem putItem_mgt (b : Block) (t : Nat) (i : Item) : (putItem b t i).mgt = b.mgt := rfl
@[simp] theorem putItem_pwr (b : Block) (t : Nat) (i : Item) : (putItem b t i).pwr = b.pwr := rfl
@[simp] theorem putItem_dict (b : Block) (t : Nat) (i : Item) : (putItem b t i).dict = b.dict := rfl
@[simp] theorem putItem_ctr (b : Block) (t : Nat) (i : Item) : (putItem b t i).ctr = b.ctr := rfl
@[simp] theorem putItem_skipSeq (b : Block) (t : Nat) (i : Item) : (putItem b t i).skipSeq = b.skipSeq := rfl
@[simp] theorem putItem_traceSeq (b : Block) (t : Nat) (i : Item) : (putItem b t i).traceSeq = b.traceSeq := rfl
@[simp] theorem putItem_tableGen (b : Block) (t : Nat) (i : Item) : (putItem b t i).tableGen = b.tableGen := rfl
@[simp] theorem putItem_fuse (b : Block) (t : Nat) (i : Item) : (putItem b t i).fuse = b.fuse := rfl
@[simp] theorem putItem_mem (b : Block) (t : Nat) (i : Item) : (putItem b t i).mem = b.mem := rfl
@[simp] theorem putItem_out (b : Block) (t : Nat) (i : Item) : (putItem b t i).out = b.out := rfl

/-! ## cntAdd -/

@[simp] theorem cntAdd_obj (b : Block) (key n : Nat) : (cntAdd b key n).obj = b.obj := rfl
@[simp] theorem cntAdd_q (b : Block) (key n : Nat) : (cntAdd b key n).q = b.q := rfl
@[simp] theorem cntAdd_adm (b : Block) (key n : Nat) : (cntAdd b key n).adm = b.adm := rfl
@[simp] theorem cntAdd_fen (b : Block) (key n : Nat) : (cntAdd b key n).fen = b.fen := rfl
@[simp] theorem cntAdd_sb (b : Block) (key n : Nat) : (cntAdd b key n).sb = b.sb := rfl
@[simp] theorem cntAdd_walk (b : Block) (key n : Nat) : (cntAdd b key n).walk = b.walk := rfl
@[simp] theorem cntAdd_cores (b : Block) (key n : Nat) : (cntAdd b key n).cores = b.cores := rfl
@[simp] theorem cntAdd_ports (b : Block) (key n : Nat) : (cntAdd b key n).ports = b.ports := rfl
@[simp] theorem cntAdd_xp (b : Block) (key n : Nat) : (cntAdd b key n).xp = b.xp := rfl
@[simp] theorem cntAdd_comp (b : Block) (key n : Nat) : (cntAdd b key n).comp = b.comp := rfl
@[simp] theorem cntAdd_bkt (b : Block) (key n : Nat) : (cntAdd b key n).bkt = b.bkt := rfl
@[simp] theorem cntAdd_cap (b : Block) (key n : Nat) : (cntAdd b key n).cap = b.cap := rfl
@[simp] theorem cntAdd_tide (b : Block) (key n : Nat) : (cntAdd b key n).tide = b.tide := rfl
@[simp] theorem cntAdd_live (b : Block) (key n : Nat) : (cntAdd b key n).live = b.live := rfl
@[simp] theorem cntAdd_upd (b : Block) (key n : Nat) : (cntAdd b key n).upd = b.upd := rfl
@[simp] theorem cntAdd_stagePos (b : Block) (key n : Nat) : (cntAdd b key n).stagePos = b.stagePos := rfl
@[simp] theorem cntAdd_fab (b : Block) (key n : Nat) : (cntAdd b key n).fab = b.fab := rfl
@[simp] theorem cntAdd_rcv (b : Block) (key n : Nat) : (cntAdd b key n).rcv = b.rcv := rfl
@[simp] theorem cntAdd_rel (b : Block) (key n : Nat) : (cntAdd b key n).rel = b.rel := rfl
@[simp] theorem cntAdd_mic (b : Block) (key n : Nat) : (cntAdd b key n).mic = b.mic := rfl
@[simp] theorem cntAdd_regs (b : Block) (key n : Nat) : (cntAdd b key n).regs = b.regs := rfl
@[simp] theorem cntAdd_aud (b : Block) (key n : Nat) : (cntAdd b key n).aud = b.aud := rfl
@[simp] theorem cntAdd_mgt (b : Block) (key n : Nat) : (cntAdd b key n).mgt = b.mgt := rfl
@[simp] theorem cntAdd_pwr (b : Block) (key n : Nat) : (cntAdd b key n).pwr = b.pwr := rfl
@[simp] theorem cntAdd_dict (b : Block) (key n : Nat) : (cntAdd b key n).dict = b.dict := rfl
@[simp] theorem cntAdd_skipSeq (b : Block) (key n : Nat) : (cntAdd b key n).skipSeq = b.skipSeq := rfl
@[simp] theorem cntAdd_traceSeq (b : Block) (key n : Nat) : (cntAdd b key n).traceSeq = b.traceSeq := rfl
@[simp] theorem cntAdd_tableGen (b : Block) (key n : Nat) : (cntAdd b key n).tableGen = b.tableGen := rfl
@[simp] theorem cntAdd_fuse (b : Block) (key n : Nat) : (cntAdd b key n).fuse = b.fuse := rfl
@[simp] theorem cntAdd_mem (b : Block) (key n : Nat) : (cntAdd b key n).mem = b.mem := rfl
@[simp] theorem cntAdd_out (b : Block) (key n : Nat) : (cntAdd b key n).out = b.out := rfl

/-! ## cnt -/

@[simp] theorem cnt_obj (b : Block) (key : Nat) : (cnt b key).obj = b.obj := rfl
@[simp] theorem cnt_q (b : Block) (key : Nat) : (cnt b key).q = b.q := rfl
@[simp] theorem cnt_adm (b : Block) (key : Nat) : (cnt b key).adm = b.adm := rfl
@[simp] theorem cnt_fen (b : Block) (key : Nat) : (cnt b key).fen = b.fen := rfl
@[simp] theorem cnt_sb (b : Block) (key : Nat) : (cnt b key).sb = b.sb := rfl
@[simp] theorem cnt_walk (b : Block) (key : Nat) : (cnt b key).walk = b.walk := rfl
@[simp] theorem cnt_cores (b : Block) (key : Nat) : (cnt b key).cores = b.cores := rfl
@[simp] theorem cnt_ports (b : Block) (key : Nat) : (cnt b key).ports = b.ports := rfl
@[simp] theorem cnt_xp (b : Block) (key : Nat) : (cnt b key).xp = b.xp := rfl
@[simp] theorem cnt_comp (b : Block) (key : Nat) : (cnt b key).comp = b.comp := rfl
@[simp] theorem cnt_bkt (b : Block) (key : Nat) : (cnt b key).bkt = b.bkt := rfl
@[simp] theorem cnt_cap (b : Block) (key : Nat) : (cnt b key).cap = b.cap := rfl
@[simp] theorem cnt_tide (b : Block) (key : Nat) : (cnt b key).tide = b.tide := rfl
@[simp] theorem cnt_live (b : Block) (key : Nat) : (cnt b key).live = b.live := rfl
@[simp] theorem cnt_upd (b : Block) (key : Nat) : (cnt b key).upd = b.upd := rfl
@[simp] theorem cnt_stagePos (b : Block) (key : Nat) : (cnt b key).stagePos = b.stagePos := rfl
@[simp] theorem cnt_fab (b : Block) (key : Nat) : (cnt b key).fab = b.fab := rfl
@[simp] theorem cnt_rcv (b : Block) (key : Nat) : (cnt b key).rcv = b.rcv := rfl
@[simp] theorem cnt_rel (b : Block) (key : Nat) : (cnt b key).rel = b.rel := rfl
@[simp] theorem cnt_mic (b : Block) (key : Nat) : (cnt b key).mic = b.mic := rfl
@[simp] theorem cnt_regs (b : Block) (key : Nat) : (cnt b key).regs = b.regs := rfl
@[simp] theorem cnt_aud (b : Block) (key : Nat) : (cnt b key).aud = b.aud := rfl
@[simp] theorem cnt_mgt (b : Block) (key : Nat) : (cnt b key).mgt = b.mgt := rfl
@[simp] theorem cnt_pwr (b : Block) (key : Nat) : (cnt b key).pwr = b.pwr := rfl
@[simp] theorem cnt_dict (b : Block) (key : Nat) : (cnt b key).dict = b.dict := rfl
@[simp] theorem cnt_skipSeq (b : Block) (key : Nat) : (cnt b key).skipSeq = b.skipSeq := rfl
@[simp] theorem cnt_traceSeq (b : Block) (key : Nat) : (cnt b key).traceSeq = b.traceSeq := rfl
@[simp] theorem cnt_tableGen (b : Block) (key : Nat) : (cnt b key).tableGen = b.tableGen := rfl
@[simp] theorem cnt_fuse (b : Block) (key : Nat) : (cnt b key).fuse = b.fuse := rfl
@[simp] theorem cnt_mem (b : Block) (key : Nat) : (cnt b key).mem = b.mem := rfl
@[simp] theorem cnt_out (b : Block) (key : Nat) : (cnt b key).out = b.out := rfl

/-! ## passTo -/

@[simp] theorem passTo_obj (b : Block) (t : Nat) : (passTo b t).obj = b.obj := rfl
@[simp] theorem passTo_q (b : Block) (t : Nat) : (passTo b t).q = b.q := rfl
@[simp] theorem passTo_adm (b : Block) (t : Nat) : (passTo b t).adm = b.adm := rfl
@[simp] theorem passTo_fen (b : Block) (t : Nat) : (passTo b t).fen = b.fen := rfl
@[simp] theorem passTo_sb (b : Block) (t : Nat) : (passTo b t).sb = b.sb := rfl
@[simp] theorem passTo_walk (b : Block) (t : Nat) : (passTo b t).walk = b.walk := rfl
@[simp] theorem passTo_cores (b : Block) (t : Nat) : (passTo b t).cores = b.cores := rfl
@[simp] theorem passTo_ports (b : Block) (t : Nat) : (passTo b t).ports = b.ports := rfl
@[simp] theorem passTo_xp (b : Block) (t : Nat) : (passTo b t).xp = b.xp := rfl
@[simp] theorem passTo_comp (b : Block) (t : Nat) : (passTo b t).comp = b.comp := rfl
@[simp] theorem passTo_bkt (b : Block) (t : Nat) : (passTo b t).bkt = b.bkt := rfl
@[simp] theorem passTo_cap (b : Block) (t : Nat) : (passTo b t).cap = b.cap := rfl
@[simp] theorem passTo_live (b : Block) (t : Nat) : (passTo b t).live = b.live := rfl
@[simp] theorem passTo_upd (b : Block) (t : Nat) : (passTo b t).upd = b.upd := rfl
@[simp] theorem passTo_stagePos (b : Block) (t : Nat) : (passTo b t).stagePos = b.stagePos := rfl
@[simp] theorem passTo_fab (b : Block) (t : Nat) : (passTo b t).fab = b.fab := rfl
@[simp] theorem passTo_rcv (b : Block) (t : Nat) : (passTo b t).rcv = b.rcv := rfl
@[simp] theorem passTo_rel (b : Block) (t : Nat) : (passTo b t).rel = b.rel := rfl
@[simp] theorem passTo_mic (b : Block) (t : Nat) : (passTo b t).mic = b.mic := rfl
@[simp] theorem passTo_regs (b : Block) (t : Nat) : (passTo b t).regs = b.regs := rfl
@[simp] theorem passTo_aud (b : Block) (t : Nat) : (passTo b t).aud = b.aud := rfl
@[simp] theorem passTo_mgt (b : Block) (t : Nat) : (passTo b t).mgt = b.mgt := rfl
@[simp] theorem passTo_pwr (b : Block) (t : Nat) : (passTo b t).pwr = b.pwr := rfl
@[simp] theorem passTo_dict (b : Block) (t : Nat) : (passTo b t).dict = b.dict := rfl
@[simp] theorem passTo_ctr (b : Block) (t : Nat) : (passTo b t).ctr = b.ctr := rfl
@[simp] theorem passTo_skipSeq (b : Block) (t : Nat) : (passTo b t).skipSeq = b.skipSeq := rfl
@[simp] theorem passTo_traceSeq (b : Block) (t : Nat) : (passTo b t).traceSeq = b.traceSeq := rfl
@[simp] theorem passTo_tableGen (b : Block) (t : Nat) : (passTo b t).tableGen = b.tableGen := rfl
@[simp] theorem passTo_fuse (b : Block) (t : Nat) : (passTo b t).fuse = b.fuse := rfl
@[simp] theorem passTo_mem (b : Block) (t : Nat) : (passTo b t).mem = b.mem := rfl
@[simp] theorem passTo_out (b : Block) (t : Nat) : (passTo b t).out = b.out := rfl

/-! ## putSheet -/

@[simp] theorem putSheet_obj (b : Block) (p : Nat) (x : SheetSlot) : (putSheet b p x).obj = b.obj := rfl
@[simp] theorem putSheet_q (b : Block) (p : Nat) (x : SheetSlot) : (putSheet b p x).q = b.q := rfl
@[simp] theorem putSheet_adm (b : Block) (p : Nat) (x : SheetSlot) : (putSheet b p x).adm = b.adm := rfl
@[simp] theorem putSheet_fen (b : Block) (p : Nat) (x : SheetSlot) : (putSheet b p x).fen = b.fen := rfl
@[simp] theorem putSheet_sb (b : Block) (p : Nat) (x : SheetSlot) : (putSheet b p x).sb = b.sb := rfl
@[simp] theorem putSheet_walk (b : Block) (p : Nat) (x : SheetSlot) : (putSheet b p x).walk = b.walk := rfl
@[simp] theorem putSheet_cores (b : Block) (p : Nat) (x : SheetSlot) : (putSheet b p x).cores = b.cores := rfl
@[simp] theorem putSheet_ports (b : Block) (p : Nat) (x : SheetSlot) : (putSheet b p x).ports = b.ports := rfl
@[simp] theorem putSheet_xp (b : Block) (p : Nat) (x : SheetSlot) : (putSheet b p x).xp = b.xp := rfl
@[simp] theorem putSheet_comp (b : Block) (p : Nat) (x : SheetSlot) : (putSheet b p x).comp = b.comp := rfl
@[simp] theorem putSheet_bkt (b : Block) (p : Nat) (x : SheetSlot) : (putSheet b p x).bkt = b.bkt := rfl
@[simp] theorem putSheet_cap (b : Block) (p : Nat) (x : SheetSlot) : (putSheet b p x).cap = b.cap := rfl
@[simp] theorem putSheet_live (b : Block) (p : Nat) (x : SheetSlot) : (putSheet b p x).live = b.live := rfl
@[simp] theorem putSheet_upd (b : Block) (p : Nat) (x : SheetSlot) : (putSheet b p x).upd = b.upd := rfl
@[simp] theorem putSheet_stagePos (b : Block) (p : Nat) (x : SheetSlot) : (putSheet b p x).stagePos = b.stagePos := rfl
@[simp] theorem putSheet_fab (b : Block) (p : Nat) (x : SheetSlot) : (putSheet b p x).fab = b.fab := rfl
@[simp] theorem putSheet_rcv (b : Block) (p : Nat) (x : SheetSlot) : (putSheet b p x).rcv = b.rcv := rfl
@[simp] theorem putSheet_rel (b : Block) (p : Nat) (x : SheetSlot) : (putSheet b p x).rel = b.rel := rfl
@[simp] theorem putSheet_mic (b : Block) (p : Nat) (x : SheetSlot) : (putSheet b p x).mic = b.mic := rfl
@[simp] theorem putSheet_regs (b : Block) (p : Nat) (x : SheetSlot) : (putSheet b p x).regs = b.regs := rfl
@[simp] theorem putSheet_aud (b : Block) (p : Nat) (x : SheetSlot) : (putSheet b p x).aud = b.aud := rfl
@[simp] theorem putSheet_mgt (b : Block) (p : Nat) (x : SheetSlot) : (putSheet b p x).mgt = b.mgt := rfl
@[simp] theorem putSheet_pwr (b : Block) (p : Nat) (x : SheetSlot) : (putSheet b p x).pwr = b.pwr := rfl
@[simp] theorem putSheet_dict (b : Block) (p : Nat) (x : SheetSlot) : (putSheet b p x).dict = b.dict := rfl
@[simp] theorem putSheet_ctr (b : Block) (p : Nat) (x : SheetSlot) : (putSheet b p x).ctr = b.ctr := rfl
@[simp] theorem putSheet_skipSeq (b : Block) (p : Nat) (x : SheetSlot) : (putSheet b p x).skipSeq = b.skipSeq := rfl
@[simp] theorem putSheet_traceSeq (b : Block) (p : Nat) (x : SheetSlot) : (putSheet b p x).traceSeq = b.traceSeq := rfl
@[simp] theorem putSheet_tableGen (b : Block) (p : Nat) (x : SheetSlot) : (putSheet b p x).tableGen = b.tableGen := rfl
@[simp] theorem putSheet_fuse (b : Block) (p : Nat) (x : SheetSlot) : (putSheet b p x).fuse = b.fuse := rfl
@[simp] theorem putSheet_mem (b : Block) (p : Nat) (x : SheetSlot) : (putSheet b p x).mem = b.mem := rfl
@[simp] theorem putSheet_out (b : Block) (p : Nat) (x : SheetSlot) : (putSheet b p x).out = b.out := rfl

/-! ## noteSteps -/

@[simp] theorem noteSteps_obj (old b : Block) : (noteSteps old b).obj = b.obj := rfl
@[simp] theorem noteSteps_q (old b : Block) : (noteSteps old b).q = b.q := rfl
@[simp] theorem noteSteps_adm (old b : Block) : (noteSteps old b).adm = b.adm := rfl
@[simp] theorem noteSteps_fen (old b : Block) : (noteSteps old b).fen = b.fen := rfl
@[simp] theorem noteSteps_sb (old b : Block) : (noteSteps old b).sb = b.sb := rfl
@[simp] theorem noteSteps_walk (old b : Block) : (noteSteps old b).walk = b.walk := rfl
@[simp] theorem noteSteps_cores (old b : Block) : (noteSteps old b).cores = b.cores := rfl
@[simp] theorem noteSteps_ports (old b : Block) : (noteSteps old b).ports = b.ports := rfl
@[simp] theorem noteSteps_xp (old b : Block) : (noteSteps old b).xp = b.xp := rfl
@[simp] theorem noteSteps_comp (old b : Block) : (noteSteps old b).comp = b.comp := rfl
@[simp] theorem noteSteps_bkt (old b : Block) : (noteSteps old b).bkt = b.bkt := rfl
@[simp] theorem noteSteps_cap (old b : Block) : (noteSteps old b).cap = b.cap := rfl
@[simp] theorem noteSteps_tide (old b : Block) : (noteSteps old b).tide = b.tide := rfl
@[simp] theorem noteSteps_live (old b : Block) : (noteSteps old b).live = b.live := rfl
@[simp] theorem noteSteps_upd (old b : Block) : (noteSteps old b).upd = b.upd := rfl
@[simp] theorem noteSteps_stagePos (old b : Block) : (noteSteps old b).stagePos = b.stagePos := rfl
@[simp] theorem noteSteps_fab (old b : Block) : (noteSteps old b).fab = b.fab := rfl
@[simp] theorem noteSteps_rel (old b : Block) : (noteSteps old b).rel = b.rel := rfl
@[simp] theorem noteSteps_mic (old b : Block) : (noteSteps old b).mic = b.mic := rfl
@[simp] theorem noteSteps_regs (old b : Block) : (noteSteps old b).regs = b.regs := rfl
@[simp] theorem noteSteps_aud (old b : Block) : (noteSteps old b).aud = b.aud := rfl
@[simp] theorem noteSteps_mgt (old b : Block) : (noteSteps old b).mgt = b.mgt := rfl
@[simp] theorem noteSteps_pwr (old b : Block) : (noteSteps old b).pwr = b.pwr := rfl
@[simp] theorem noteSteps_dict (old b : Block) : (noteSteps old b).dict = b.dict := rfl
@[simp] theorem noteSteps_ctr (old b : Block) : (noteSteps old b).ctr = b.ctr := rfl
@[simp] theorem noteSteps_skipSeq (old b : Block) : (noteSteps old b).skipSeq = b.skipSeq := rfl
@[simp] theorem noteSteps_traceSeq (old b : Block) : (noteSteps old b).traceSeq = b.traceSeq := rfl
@[simp] theorem noteSteps_tableGen (old b : Block) : (noteSteps old b).tableGen = b.tableGen := rfl
@[simp] theorem noteSteps_fuse (old b : Block) : (noteSteps old b).fuse = b.fuse := rfl
@[simp] theorem noteSteps_mem (old b : Block) : (noteSteps old b).mem = b.mem := rfl
@[simp] theorem noteSteps_out (old b : Block) : (noteSteps old b).out = b.out := rfl

/-! ## Reads of what was put -/

@[simp] theorem coreOf_putCore (b : Block) (c : Nat) (k : CoreSt) : coreOf (putCore b c k) c = k := by
  simp [coreOf, putCore]

theorem coreOf_putCore_ne (b : Block) {c d : Nat} (k : CoreSt) (h : d ≠ c) : coreOf (putCore b c k) d = coreOf b d := by
  simp [coreOf, putCore, fmGet?_fmSet_ne b.cores k h]

@[simp] theorem putCore_putCore (b : Block) (c : Nat) (k l : CoreSt) : putCore (putCore b c k) c l = putCore b c l := by
  simp [putCore]

@[simp] theorem portOf_putPort (b : Block) (c : Nat) (p : CPort) : portOf (putPort b c p) c = p := by
  simp [portOf, putPort]

@[simp] theorem runOf_putRun (b : Block) (n : Nat) (r : Run) : runOf (putRun b n r) n = some r := by
  simp [runOf, putRun]

@[simp] theorem itemOf_putItem (b : Block) (t : Nat) (i : Item) : itemOf (putItem b t i) t = some i := by
  simp [itemOf, putItem]

@[simp] theorem runOf_putCore (b : Block) (c : Nat) (k : CoreSt) (n : Nat) : runOf (putCore b c k) n = runOf b n := rfl
@[simp] theorem itemOf_putCore (b : Block) (c : Nat) (k : CoreSt) (t : Nat) : itemOf (putCore b c k) t = itemOf b t := rfl
@[simp] theorem portOf_putCore (b : Block) (c : Nat) (k : CoreSt) (d : Nat) : portOf (putCore b c k) d = portOf b d := rfl
@[simp] theorem coreOf_putRun (b : Block) (n : Nat) (r : Run) (c : Nat) : coreOf (putRun b n r) c = coreOf b c := rfl
@[simp] theorem coreOf_putPort (b : Block) (c : Nat) (p : CPort) (d : Nat) : coreOf (putPort b c p) d = coreOf b d := rfl
@[simp] theorem coreOf_cntAdd (b : Block) (key n c : Nat) : coreOf (cntAdd b key n) c = coreOf b c := rfl
@[simp] theorem runOf_cntAdd (b : Block) (key n m : Nat) : runOf (cntAdd b key n) m = runOf b m := rfl
@[simp] theorem coreOf_cnt (b : Block) (key c : Nat) : coreOf (cnt b key) c = coreOf b c := rfl
@[simp] theorem runOf_cnt (b : Block) (key m : Nat) : runOf (cnt b key) m = runOf b m := rfl

/-- A counter raised by one counts one more, until it saturates. -/
theorem cnt_value (b : Block) (key : Nat) : fmGet (cnt b key).ctr key 0 = satAdd 32 (fmGet b.ctr key 0) 1 := by
  simp [cnt, cntAdd]

/-! ## Time -/

@[simp] theorem passTo_clock (b : Block) (t : Nat) : (passTo b t).tide.clock = max b.tide.clock t := rfl

/-- The interval count never runs back (log entry 5). -/
theorem passTo_le (b : Block) (t : Nat) : b.tide.clock ≤ (passTo b t).tide.clock := Nat.le_max_left _ _

/-- Where reference time does not run, an instant that has passed leaves it where it is (R250, R274). -/
theorem passTo_time_held {b : Block} (h : timeRuns b = false) (t : Nat) : (passTo b t).tide.time = b.tide.time := by
  simp [passTo, h]

/-- An instant counted in reference time is reached only while it runs. -/
theorem passRef_held {b : Block} (h : timeRuns b = false) (t : Nat) : passRef b t = b := by
  simp [passRef, h]

/-! ## The steps of units -/

@[simp] theorem unitSame_self (b : Block) (u : Nat) : unitSame b b u = true := by
  unfold unitSame; split <;> simp

/-- A command that changes nothing is no step of any unit. -/
@[simp] theorem noteSteps_self (b : Block) : noteSteps b b = b := by
  simp [noteSteps]

/-- Of the recovery state, only the last steps change. -/
@[simp] theorem noteSteps_stage (old b : Block) : (noteSteps old b).rcv.stage = b.rcv.stage := rfl
@[simp] theorem noteSteps_access (old b : Block) : (noteSteps old b).rcv.access = b.rcv.access := rfl
@[simp] theorem ready_noteSteps (old b : Block) : ready (noteSteps old b) = ready b := rfl
@[simp] theorem coreOf_noteSteps (old b : Block) (c : Nat) : coreOf (noteSteps old b) c = coreOf b c := rfl
@[simp] theorem runOf_noteSteps (old b : Block) (n : Nat) : runOf (noteSteps old b) n = runOf b n := rfl
@[simp] theorem itemOf_noteSteps (old b : Block) (t : Nat) : itemOf (noteSteps old b) t = itemOf b t := rfl
@[simp] theorem portOf_noteSteps (old b : Block) (c : Nat) : portOf (noteSteps old b) c = portOf b c := rfl



/-! ## Effects without further effects -/

@[simp] theorem finish_act (b : Block) : finish (act b) = b := rfl
@[simp] theorem finish_nil (b : Block) : finish (b, []) = b := rfl
@[simp] theorem andThen_act (b : Block) (f : Block → Act) : andThen (act b) f = f b := by
  simp [andThen, act]

/-! ## The forms of a meaning: all that each can do -/

/-- A meaning answers a next state with the same queue and signals, whose block the change gave while the block is out of reset
and its units run; otherwise nothing changes. -/
theorem lift_spec (f : Block → Block) (s : State) :
    (alive s = true → lift f s = .next { s with blk := noteSteps s.blk (f s.blk) }) ∧ (alive s = false → lift f s = .next s) := by
  constructor <;> intro h <;> simp [lift, h]

theorem lift_alive {f : Block → Block} {s : State} (h : alive s = true) : lift f s = .next { s with blk := noteSteps s.blk (f s.blk) } :=
  (lift_spec f s).1 h

theorem liftU_spec (f : Block → Block) (s : State) :
    (alive s = true → ready s.blk = true → liftU f s = .next { s with blk := noteSteps s.blk (f s.blk) }) ∧
    (alive s = false ∨ ready s.blk = false → liftU f s = .next s) := by
  constructor
  · intro h r; simp [liftU, lift, h, r]
  · intro h; rcases h with h | h <;> simp [liftU, lift, h]

theorem liftR_spec (f : Block → Block) (s : State) :
    (alive s = true → ready s.blk = true → s.blk.rcv.stage = .idle → liftR f s = .next { s with blk := noteSteps s.blk (f s.blk) }) ∧
    (alive s = false ∨ ready s.blk = false ∨ s.blk.rcv.stage ≠ .idle → liftR f s = .next s) := by
  constructor
  · intro h r i; simp [liftR, lift, h, r, i]
  · intro h; rcases h with h | h | h <;> simp [liftR, lift, h]

/-- A reply to accesses: in a recovery sequence it only retires them (R331). -/
theorem liftReply_spec (l : List Access) (f : Block → Block) (s : State) :
    (alive s = true → ready s.blk = true → s.blk.rcv.stage = .idle →
      liftReply l f s = .next { s with blk := noteSteps s.blk (f s.blk) }) ∧
    (alive s = true → ready s.blk = true → s.blk.rcv.stage ≠ .idle →
      liftReply l f s = .next { s with blk := noteSteps s.blk (retire s.blk l) }) ∧
    (alive s = false ∨ ready s.blk = false → liftReply l f s = .next s) := by
  refine ⟨?_, ?_, ?_⟩
  · intro h r i; simp [liftReply, lift, h, r, i]
  · intro h r i; simp [liftReply, lift, h, r, i]
  · intro h; rcases h with h | h <;> simp [liftReply, lift, h]

end Sys2Proof.Machine
end

