-- ==== Sys2Proof/Laws/Slots.lean ====
section
/-! SUPPORT. What an SLW of one control slot does, once for every slot of its kind: a slot that changes the core, one that changes
the flow, one that is skipped. -/

namespace Sys2Proof.Machine

open Sys2Proof

/-! ## The bits of a slot (R155) -/

theorem ext_right {n m : Nat} (x : BitVec n) (y : BitVec m) : (x ++ y).extractLsb' 0 m = y := by
  ext i hi; simp [BitVec.getLsbD_append, hi]

theorem ext_left {n m : Nat} (x : BitVec n) (y : BitVec m) (k l : Nat) : (x ++ y).extractLsb' (m + k) l = x.extractLsb' k l := by
  ext i hi
  simp only [BitVec.getElem_extractLsb', BitVec.getLsbD_append]
  simp [show ¬ (m + k + i < m) by omega, show m + k + i - m = k + i by omega]

theorem ext_mid {n m : Nat} (x : BitVec n) (y : BitVec m) (k l : Nat) (h : k + l ≤ m) : (x ++ y).extractLsb' k l = y.extractLsb' k l := by
  ext i hi
  simp only [BitVec.getElem_extractLsb', BitVec.getLsbD_append]
  simp [show k + i < m by omega]

/-- A slot holds its opcode and its fields. -/
@[simp] theorem slotOp_slotWord (op : BitVec 8) (f : SlotFields) : slotOp (slotWord op f) = op := ext_right _ op

@[simp] theorem slotFields_slotWord (op : BitVec 8) (f : SlotFields) : slotFields (slotWord op f) = f := by
  obtain ⟨d, a, b, i, fn, imm⟩ := f
  have h0 : ∀ l k, (slotWord op ⟨d, a, b, i, fn, imm⟩).extractLsb' (8 + k) l = (imm ++ fn ++ BitVec.ofBool i ++ b ++ a ++ d).extractLsb' k l := fun l k => ext_left _ op k l
  have h1 : (slotWord op ⟨d, a, b, i, fn, imm⟩).extractLsb' 8 5 = d := (h0 5 0).trans (ext_right _ d)
  have h2 : (slotWord op ⟨d, a, b, i, fn, imm⟩).extractLsb' 13 5 = a := (h0 5 5).trans ((ext_left _ d 0 5).trans (ext_right _ a))
  have h3 : (slotWord op ⟨d, a, b, i, fn, imm⟩).extractLsb' 18 5 = b := (h0 5 10).trans ((ext_left _ d 5 5).trans ((ext_left _ a 0 5).trans (ext_right _ b)))
  have h4 : (slotWord op ⟨d, a, b, i, fn, imm⟩).getLsbD 23 = i := by
    have := congrArg (fun x => x.getLsbD 0) ((h0 1 15).trans ((ext_left _ d 10 1).trans ((ext_left _ a 5 1).trans ((ext_left _ b 0 1).trans (ext_right _ (BitVec.ofBool i))))))
    simpa using this
  have h5 : (slotWord op ⟨d, a, b, i, fn, imm⟩).extractLsb' 24 8 = fn := (h0 8 16).trans ((ext_left _ d 11 8).trans ((ext_left _ a 6 8).trans ((ext_left _ b 1 8).trans ((ext_left _ (BitVec.ofBool i) 0 8).trans (ext_right _ fn)))))
  have h6 : (slotWord op ⟨d, a, b, i, fn, imm⟩).extractLsb' 32 32 = imm := (h0 32 24).trans ((ext_left _ d 19 32).trans ((ext_left _ a 14 32).trans ((ext_left _ b 9 32).trans ((ext_left _ (BitVec.ofBool i) 8 32).trans ((ext_left _ fn 0 32).trans (by simp))))))
  simp only [slotFields, SlotFields.mk.injEq]
  exact ⟨h1, h2, h3, h4, h5, h6⟩

/-! ## An SLW of one slot -/

theorem runOf_of_issuing {b : Block} {c n : Nat} {r : Run} (h : issuing b c = some (n, r)) : runOf b n = some r ∧ (coreOf b c).run = some n := by
  unfold issuing at h
  simp only at h
  split at h
  · cases h
  · rename_i m hm
    split at h
    · cases h
    · rename_i q hq
      split at h
      · simp only [Option.some.injEq, Prod.mk.injEq] at h
        obtain ⟨rfl, rfl⟩ := h; exact ⟨hq, hm⟩
      · cases h

theorem slwOf_one (off : Nat) (w : Word) : slwOf off 1 [w] = { off := off, hdr := 1, c0 := some w, c1 := none, eng := [], len := 16, stage := .drain, engAt := 0, flow := .seq, value := none, sync := [] } := by
  rfl

theorem hRepeat_one : ∀ p, p < 14 → hRepeat 1#64 p = false := by decide

theorem engRun_none (b : Block) (c n : Nat) (r : Run) (w : Slw) (hr : runOf b n = some r) (he : w.eng = []) (hh : w.hdr = 1#64) :
   ∀ l : List Nat, (∀ p ∈ l, p < 14) → engRun c n w l (act b) = slwFlow b c n w := by
  intro l
  induction l with
  | nil => intro _; simp [engRun]
  | cons p ps ih =>
    intro hl
    have : engOne (act b).1 c n w p = .next (act b) := by
      simp [engOne, act, hr, he, hh, hRepeat_one p (hl p (by simp))]
    simp only [engRun, this]
    have h2 : ((act b).1, (act b).2 ++ (act b).2) = act b := by simp [act]
    simp only [h2]
    exact ih (fun q hq => hl q (by simp [hq]))

theorem posFrom_lt : ∀ p ∈ posFrom 0, p < 14 := by decide

/-- No engine slot follows. -/
theorem slwEngines_one (b : Block) (c n : Nat) (r : Run) (w : Slw) (hr : runOf b n = some r) (he : w.eng = []) (hh : w.hdr = 1#64) (h0 : w.engAt = 0) :
   slwEngines b c n w = slwFlow b c n { w with stage := .engines, value := none } := by
  have h1 : hCount w.hdr = 0 := by rw [hh]; decide
  have h2 : (w.engAt = 0 && decide (0 < hCount w.hdr) && decide ((coreOf b c).pushQ.length + hCount w.hdr > 32)) = false := by simp [h1]
  have h3 := engRun_none b c n r { w with stage := .engines, value := none } hr he hh (posFrom 0) posFrom_lt
  unfold slwEngines
  dsimp only
  rw [if_neg (by simp [h1]), h0]
  rw [h0] at h3
  exact h3

theorem crossLoops_none (b : Block) (c n off nxt : Nat) (hdr : Word) (h : (coreOf b c).loops = []) : crossLoops b c n off nxt hdr = putCore b c (coreOf b c) := by
  simp [crossLoops, h]
  rw [← h]

theorem settleAt_mid (k : CoreSt) (nxt : Nat) (h : k.loops = []) (_ht : (curStream k).table = none) (hl : nxt < (curStream k).len) :
    settleAt settleFuel k nxt = { k with off := nxt } := by
  have : ¬ (curStream k).len ≤ nxt := by omega
  simp [settleFuel, settleAt, h, settleAt.settleEnd, this]

theorem slwFlow_seq (b : Block) (c n : Nat) (w : Slw) (hf : w.flow = .seq) (hh : hEnd w.hdr = false)
    (hl : (coreOf b c).loops = []) (ht : (curStream (coreOf b c)).table = none)
    (hn : w.off + w.len < (curStream (coreOf b c)).len) :
    slwFlow b c n w = act (putCore b c { coreOf b c with slw := none, syncCall := w.sync, off := w.off + w.len }) := by
  unfold slwFlow
  simp only [crossLoops_none b c n _ _ _ hl, coreOf_putCore, putCore_putCore, hh, hf, flowTo, Bool.false_eq_true, if_false]
  rw [settleAt_mid]
  · simpa using hl
  · simpa [curStream] using ht
  · simpa [curStream] using hn

/-- A control-slot row runs its slot as the only one of an SLW. -/
theorem ctrlRow_run (c n : Nat) (r : Run) (s : State) (op : BitVec 8) (f : SlotFields) (h : SlotReady s c n r) :
    ctrlRow c op f s = .next (s.withBlk (finish (
      let w : Slw := { slwOf (coreOf s.blk c).off 1 [slotWord op f] with stage := .c0 }
      slwSlot (putCore s.blk c { slwCount (coreOf s.blk c) with syncCall := [] }) c n w 0 (slotWord op f) false (fun b w => slwStop b c n w)))) := by
  have ha : alive s = true := by simp [alive, h.run.1.1.1, h.run.1.1.2]
  have hr : ready s.blk = true := by simp [ready, h.run.1.2]
  have hi := h.run.2
  unfold ctrlRow
  rw [liftRA, (liftR_spec _ s).1 ha hr hi]
  have hsync : syncBusy (slwCount (coreOf s.blk c)) = false := h.noSync
  simp only [h.core, decide_true, if_true, ctrlIssue, h.issues, h.fresh, h.noHold, h.known, Option.isSome_none, Bool.or_false, Bool.false_eq_true, if_false]
  unfold slwDrain
  simp only [coreOf_putCore, hsync, Bool.false_eq_true, if_false, slwOf_one, putCore_putCore]
  unfold slwC0
  rfl

theorem slwStop_one (b : Block) (c n : Nat) (r : Run) (w : Slw) (hr : runOf b n = some r) (hb : b.regs.brkEnable.getLsbD c = false)
    (h1 : w.c1 = none) (he : w.eng = []) (hh : w.hdr = 1#64) :
    slwStop b c n w = slwFlow b c n { w with stage := .engines, engAt := 0, value := none } := by
  unfold slwStop
  simp only [hr, stopCause, hb, Bool.not_false, Bool.true_or, if_true]
  unfold slwC1
  simp only [h1]
  rw [slwEngines_one b c n r _ hr (by exact he) (by exact hh) rfl]

/-- The core while its SLW of one slot runs. -/
def inSlot (k : CoreSt) (op : BitVec 8) (f : SlotFields) : CoreSt :=
  { slwCount k with syncCall := [], slw := some { slwOf k.off 1 [slotWord op f] with stage := .c0 } }

/-- The SLW of one slot as it stands in the core. -/
def oneSlw (k : CoreSt) (op : BitVec 8) (f : SlotFields) : Slw := { slwOf k.off 1 [slotWord op f] with stage := .c0 }

/-- The block while the slot runs. -/
def slotBlk (s : State) (c : Nat) (op : BitVec 8) (f : SlotFields) : Block :=
  putCore s.blk c (inSlot (coreOf s.blk c) op f)

/-- What a slot that neither holds nor ends its heat leaves of the block, and the change of flow that it makes. -/
def SlotLeaves (b : Block) (c n : Nat) (w : Slw) (slot : Word) (x : CtrlRes) (b' : Block) (fl : Option Flow) : Prop :=
  match x with
  | .core k => b' = putCore b c k ∧ fl = none
  | .skip reason => b' = skipAt b c n reason 0 (slotOp slot).toNat w.off (streamVa (coreOf b c) w.off) slot.toNat ∧ fl = none
  | .flow g => b' = b ∧ fl = some g
  | .blk a => a = (b', []) ∧ fl = none
  | _ => False

/-- What follows such a slot takes its outcome. -/
theorem slwSlot_leaves (b : Block) (c n : Nat) (r : Run) (w : Slw) (slot : Word) (next : Block → Slw → Act) (b' : Block)
    (fl : Option Flow) (hr : runOf b n = some r)
    (hf : SlotLeaves (putCore b c { coreOf b c with slw := some w }) c n w slot
      (ctrlSlot (putCore b c { coreOf b c with slw := some w }) c n r w 0 slot false w.value) b' fl)
    (hw : (coreOf b' c).slw = some w) :
    slwSlot b c n w 0 slot false next = next b' { w with value := none, flow := fl.getD w.flow } := by
  unfold slwSlot
  simp only [hr]
  generalize ctrlSlot (putCore b c { coreOf b c with slw := some w }) c n r w 0 slot false w.value = x at hf ⊢
  cases x with
  | core k => obtain ⟨rfl, rfl⟩ := hf; simp only [hw, Option.getD_some, Option.getD_none]
  | skip reason => obtain ⟨rfl, rfl⟩ := hf; simp only [hw, Option.getD_some, Option.getD_none]
  | flow g => obtain ⟨rfl, rfl⟩ := hf; simp only [hw, Option.getD_some]
  | blk a => obtain ⟨rfl, rfl⟩ := hf; simp only [andThen, hw, Option.getD_some, Option.getD_none, List.nil_append]
  | hold a => exact absurd hf id
  | dead a => exact absurd hf id

/-- How the slot comes out decides the row: what follows a slot that neither holds nor ends its heat. -/
theorem ctrlRow_leaves (c n : Nat) (r : Run) (s : State) (op : BitVec 8) (f : SlotFields) (h : SlotReady s c n r) (b : Block)
    (fl : Option Flow)
    (hf : SlotLeaves (slotBlk s c op f) c n (oneSlw (coreOf s.blk c) op f) (slotWord op f)
      (ctrlSlot (slotBlk s c op f) c n r (oneSlw (coreOf s.blk c) op f) 0 (slotWord op f) false none) b fl)
    (hr : runOf b n ≠ none) (hb : b.regs.brkEnable = s.blk.regs.brkEnable)
    (hw : (coreOf b c).slw = some (oneSlw (coreOf s.blk c) op f)) :
    ctrlRow c op f s = .next (s.withBlk (finish (slwFlow b c n
      { oneSlw (coreOf s.blk c) op f with stage := .engines, value := none, flow := fl.getD .seq }))) := by
  rw [ctrlRow_run c n r s op f h]
  have ⟨hrun, _⟩ := runOf_of_issuing h.issues
  obtain ⟨q, hq⟩ := Option.ne_none_iff_exists'.mp hr
  dsimp only
  have e : putCore (putCore s.blk c { slwCount (coreOf s.blk c) with syncCall := [] }) c
      { coreOf (putCore s.blk c { slwCount (coreOf s.blk c) with syncCall := [] }) c with
        slw := some (oneSlw (coreOf s.blk c) op f) } = slotBlk s c op f := by
    simp only [coreOf_putCore, putCore_putCore]; rfl
  have hs := slwSlot_leaves (putCore s.blk c { slwCount (coreOf s.blk c) with syncCall := [] }) c n r
    (oneSlw (coreOf s.blk c) op f) (slotWord op f) (fun b w => slwStop b c n w) b fl (by simpa using hrun)
    (by rw [e]; exact hf) hw
  refine congrArg (fun a => Host.Outcome.next (State.withBlk s (finish a))) (hs.trans ?_)
  exact slwStop_one b c n q _ hq (by rw [hb]; exact h.noBreak) rfl rfl rfl

/-- A slot that changes its core alone: the SLW ends, and the core goes on after it. -/
theorem ctrlRow_core (c n : Nat) (r : Run) (s : State) (op : BitVec 8) (f : SlotFields) (h : SlotReady s c n r) (k' : CoreSt)
    (hf : ctrlSlot (slotBlk s c op f) c n r (oneSlw (coreOf s.blk c) op f) 0 (slotWord op f) false none = .core k')
    (h1 : k'.loops = []) (h2 : k'.levels = (coreOf s.blk c).levels) (h3 : k'.slw = some (oneSlw (coreOf s.blk c) op f)) :
    ctrlRow c op f s = .next (s.withBlk
      (putCore s.blk c { k' with off := (coreOf s.blk c).off + 16, slw := none, syncCall := [] })) := by
  have ⟨hrun, _⟩ := runOf_of_issuing h.issues
  rw [ctrlRow_leaves c n r s op f h (putCore (slotBlk s c op f) c k') none (by rw [hf]; exact ⟨rfl, rfl⟩)
    (by simp [slotBlk, hrun]) rfl (by simpa using h3)]
  rw [slwFlow_seq _ _ _ _ rfl (by show hEnd 1#64 = false; decide) (by simpa using h1) (by simpa [curStream, h2] using h.known)
    (by have := h.more; simp only [coreOf_putCore, curStream, h2]; exact this)]
  simp [slotBlk]
  rfl

end Sys2Proof.Machine
end

