-- ==== Sys2Proof/Machine/Views.lean ====
section
/-! DEFINITION. What a read of a register view returns: no register has a side effect on read (R388 to R393, R396 to R399, R410,
R436, R437, R440, R455). The table of commands has no row for a read: this function says what each state shows. -/

namespace Sys2Proof.Machine

open Sys2Proof

/-- Global control (R396). -/
def controlRead (b : Block) (r : RegAcc) (v o : Nat) : Nat :=
  let x := viewOf b v
  if smbReg o then
    (if !isSecure r then 0
     else if o < 0x840 then fmGet b.adm.mbRegs ((o - 0x800) / 4) 0
     else if o = 0x844 then packFields [(0, 1, b2n b.adm.mbBusy), (1, 1, b2n b.adm.mbDone)]
     else if 0x860 ≤ o then field b.adm.mbCompl (32 * ((o - 0x860) / 4)) 32 else 0)
  else if o = 0 then
    packFields [(0, 2, if v < 4 then v else 0), (2, 1, b2n (decide (v = 4))), (3, 2, if v < 4 then ownerMode b v else 0)]
  else if o = 0x10 then b2n b.regs.crcOn
  else if o = 0x14 then x.refLo
  else if o = 0x18 then x.refHi
  else if o = 0x1C then x.refGen
  else if o = 0x24 then b.regs.refActive
  else if o = 0x28 then b.regs.crcNow
  else if o = 0x2C then
    packFields [(0, 16, b.regs.wgen), (16, 1, b2n b.regs.refValid), (17, 1, b2n (refStale b)), (18, 1, b2n b.regs.refused),
      (19, 1, b2n (checking b))]
  else 0

/-- `SC_TIDE_STATUS` (R279). `TIME_HOLD` reads 1 while reference time is held, and while it has not passed the highest timestamp written
(R274, R276); `TIME_MASTER` reads 0 on a chip without a plan until it is locked (R279 resets it to 0; log entry 44). -/
def tideStatus (b : Block) : Nat :=
  let t := b.tide
  packFields [(0, 1, b2n t.locked), (1, 1, b2n t.fsyncOk), (2, 1, b2n (decide (t.time < t.stampFloor) || (!t.refOn && !t.freeRun))),
    (3, 1, b2n t.freeRun), (4, 1, b2n t.freeRun), (5, 1, b2n t.member),
    (6, 1, b2n (timeMaster b && (b.fab.plan.isSome || t.locked || t.freeRun))),
    (7, 1, b2n (rackLeader b)), (8, 1, b2n (twoRack b))]

/-- The counter snapshot window (R398, R399). -/
def snapRead (b : Block) (v o : Nat) : Nat :=
  let x := viewOf b v
  if o = 4 then x.snapSeq
  else if o = 8 then x.snapTime % 2 ^ 32
  else if o = 0x0C then x.snapTime / 2 ^ 32
  else if o = 0x10 then b2n x.seen
  else if o = 0x14 then b.sb.items.length
  else if o = 0x18 then tideStatus b
  else if o = 0x1C then b2n (decide (b.rcv.stage ≠ .idle))
  else if 0x20 ≤ o then fmGet x.hold o 0 else 0

/-- The dictionary window (R410). -/
def windowRead (b : Block) (r : RegAcc) (o : Nat) : Nat :=
  let w := (fmGet? b.regs.wins (winKey r.path r.org)).getD DictWin.fresh
  if o = 0 then w.index
  else if o = 4 then w.sub
  else if o = 8 then w.len
  else if o = 0x10 then w.status
  else if 0x40 ≤ o ∧ o < 0x80 then nfield w.data (8 * (o - 0x40)) 32 else 0

/-- Low word or high word of a 64-bit value, by the place in its 8 bytes. -/
def halfOf (w : Word) (o : Nat) : Nat := field w (8 * (o % 8)) 32

/-- `SC_DBG_CORE_STATE` of a stopped core. -/
def coreState (b : Block) (c : Nat) (k : CoreSt) (st : Stop) : Nat :=
  let drained := match k.run with
    | some n => !coreBusy b c n
    | none => true
  packFields [(0, 1, 1), (1, 1, b2n drained), (2, 2, causeCode st.cause), (4, 8, st.code), (12, 6, k.pushQ.length), (18, 3, k.loops.length),
    (21, 4, k.levels.length - 1)]

/-- A word of the loop stack, innermost first. -/
def loopRead (k : CoreSt) (o : Nat) : Nat :=
  match k.loops[o / 16]? with
  | none => 0
  | some l => if o % 16 = 0 then l.first else if o % 16 = 4 then l.last else if o % 16 = 8 then l.count else l.level

/-- A word of the call stack, newest first: what each call returns to. -/
def callRead (k : CoreSt) (o : Nat) : Nat :=
  match k.levels[o / 16]?, k.levels[o / 16 + 1]? with
  | some l, some m =>
    let va := (((fragAt m.stream l.ret).orElse (fun _ => m.stream.frags.head?)).map (fun f => f.va)).getD 0
    if o % 16 = 0 then l.ret else if o % 16 = 4 then va % 2 ^ 32 else if o % 16 = 8 then va / 2 ^ 32 else m.stream.len
  | _, _ => 0

/-- Inspection of the selected core while it is stopped. -/
def inspect (b : Block) (o : Nat) : Nat :=
  let c := b.regs.coreSel % 64
  let k := coreOf b c
  match k.brkStop with
  | none => 0
  | some st =>
    let off := (k.slw.map (fun w => w.off)).getD k.off
    let va := BitVec.ofNat 64 (streamVa k off)
    let run := k.run.bind (runOf b)
    if o < 0x200 then halfOf (sGet k (BitVec.ofNat 5 ((o - 0x100) / 8))) o
    else if o < 0x280 then halfOf (aGet k (BitVec.ofNat 5 ((o - 0x200) / 8))) o
    else if o = 0x280 then coreState b c k st
    else if o = 0x284 then off
    else if o = 0x288 ∨ o = 0x28C then halfOf va o
    else if o = 0x290 then (run.map (fun r => r.ctx.toNat)).getD 0
    else if o = 0x294 then (run.map (fun r => r.tag % 2 ^ 17)).getD 0
    else if 0x300 ≤ o ∧ o < 0x340 then loopRead k (o - 0x300)
    else if 0x340 ≤ o ∧ o < 0x3C0 then callRead k (o - 0x340)
    else if 0x400 ≤ o ∧ o < 0x500 ∧ b.regs.page < 768 then memReadLE k.data (b.regs.page * 256 + (o - 0x400)) 4
    else 0

/-- The stopped cores of 16. -/
def stoppedMask (b : Block) (k : Nat) : Nat :=
  packFields ((List.range 16).map (fun j => (j, 1, b2n (coreOf b (16 * k + j)).brkStop.isSome)))

/-- The debug region (R436, R437, R440). -/
def debugRead (b : Block) (v o : Nat) : Nat :=
  let x := viewOf b v
  if o < 0x10 then field b.regs.brkEnable (16 * (o / 4)) 16
  else if o = 0x10 then b.regs.coreSel
  else if 0x20 ≤ o ∧ o < 0x30 then stoppedMask b ((o - 0x20) / 4)
  else if o = 0x30 then b.regs.page
  else if 0x100 ≤ o ∧ o < 0x500 then inspect b o
  else if 0x1000 ≤ o ∧ o < 0x1400 then fmGet x.hold (0xE0000 + o) 0
  else if 0x1400 ≤ o ∧ o < 0x1410 then field x.coreSeen (16 * ((o - 0x1400) / 4)) 16
  else 0

/-- What a 4-byte read of a view returns. -/
def regRead (b : Block) (r : RegAcc) : Nat :=
  match viewIdx r with
  | none => 0
  | some v =>
    let o := regionOff r.off
    let shown := decide (r.path ≠ .dbg) || decide (dget b 0x8010 2 = 1)
    match regionOf r.off with
    | .table => if shown then tableRead b o 4 else 0
    | .control => if granted b r && decide (r.path ≠ .dbg) then controlRead b r v o else 0
    | .snap => if granted b r && shown then snapRead b v o else 0
    | .dict => if r.path ≠ .dbg then windowRead b r o else 0
    | .debug => if granted b r && shown then debugRead b v o else 0
    | _ => 0

/-- What a read of a view returns (R390, R391): 8 aligned bytes as two reads, fewer or misaligned ones from the location that contains the
first of them; an undecoded block, and a doorbell, read zero. -/
def viewRead (b : Block) (r : RegAcc) : Nat :=
  if r.width = 8 ∧ r.off % 8 = 0 then regRead b r + 2 ^ 32 * regRead b { r with off := r.off + 4 }
  else regRead b { r with off := r.off / 4 * 4 } / 2 ^ (8 * (r.off % 4)) % 2 ^ (8 * r.width)

/-- What a read of a view leaves: nothing changes (R392), but one of an undecoded block, with privilege bits that are taken as `USER`, or
at the debug/trace port while it is disabled, is counted (R384, R390, R455). The table of commands has no row for a read, so no command applies this (log entry 56). -/
def viewReadNoted (b : Block) (r : RegAcc) : Block :=
  let b := if r.path = .view then noteOrigin b r.org else b
  if r.path = .dbg then (if dget b 0x8010 2 = 1 then b else cnt b cAccessDrop)
  else if regionOf r.off = .none then
    auditLim (cnt b cAccessDrop) (limitKey auRegDrop (whoPort r)) { type := auRegDrop, path := r.path, org := r.org, detail := r.off }
  else b

end Sys2Proof.Machine
end

