-- ==== Sys2Proof/Tests/Slice0.lean ====
section
/-! SUPPORT. Tests: small states built by hand, a witness for every clause of the statements, ill-formed commands that WellFormed
refuses, and worked examples of the spec. -/

namespace Sys2Proof.Tests

-- One theorem at a time: run together, the kernel evaluations below would each hold a stack and their memory at once.
set_option Elab.async false

open Sys2Proof Sys2Proof.Machine

/-! ## Small states -/

/-- Out of reset, nothing commanded yet. -/
def pinsOut : Pins := { Pins.inReset with rst := false, long := true }

/-- The block booted, with reference time running. -/
def booted : Block :=
  { Block.fresh with
    mic := { Block.fresh.mic with status := 2, selftest := 1 }
    tide := { Tide.fresh with time := 1000, clock := 1000, locked := true, fsyncOk := true, announced := true, inFrames := true, pulseAt := 1000 } }

/-- A state out of reset with a block. -/
def live (b : Block) : State := { pending := [], pin := pinsOut, blk := b }

/-- A context of partition 0, resident. -/
def ctx0 : Ctx where
  handle := 0
  state := .resident
  ownerPort := 0
  ownerFn := 0
  part := 0
  lostCause := 0
  ptRoot := 0x1000000
  span := 0
  lostTime := 0
  completed := 0
  aborted := 0
  replayed := 0
  created := 0
  slot := some 0
  yielding := false
  slotWait := none
  blockedAt := 0
  evictAt := 0
  idleAt := 0
  destroyBy := 0

/-- Partition 0: clusters 0 and 1, the first 2 GiB. -/
def part0 : Partition where
  clusters := 3
  ranges := [(0, 1024)]
  slots := 4
  portMask := 1
  remoteMap := false

/-- The block with partition 0, its context, and one page of that context cached. -/
def withCtx : Block :=
  { booted with obj := { booted.obj with
      ctxs := [(0, ctx0)], parts := [(0, part0)], groups := [(5, { members := [], flat := [1] })],
      tlb := [{ ctx := 0, vbase := 0x100000, size := 0x10000, gbase := 0x2000000, writable := true }] } }

/-- A BE HEAT entry, tag 7: 64 bytes of program at 0x101000, signal value 1 to 0x100000, no affinity, the last of its batch. -/
def entryBe : BitVec 512 :=
  0x1000000000000000000000000000000000000001000000000#256 ++ 0x10100000000008ffff00000100000000070101#256

/-- A work item whose heat runs. -/
def item0 : Item := { newItem 0 0 0 entryBe 0 .heat with w0 := .done, w1 := .done, stage := .running, started := true }

/-- Its run on cluster 0. -/
def run0 : Run := { newRun withCtx .primary 0 item0 0 false [0] with start := 1000 }

/-- The stream of a core: 4 KiB of program. -/
def stream0 : Stream := { frags := [{ start := 0, va := 0x101000, len := 4096, host := false }], len := 4096, table := none }

/-- A core between two SLWs of that run. -/
def core0 : CoreSt :=
  { CoreSt.fresh with run := some 0, lastCtx := some 0, levels := [{ stream := stream0, ret := 0 }], off := 64,
                      s := [(1, 5), (2, 3)], a := [(1, 0x100008), (2, 64)] }

/-- A heat that runs on core 0. -/
def heatBlk : Block :=
  { withCtx with
    sb := { withCtx.sb with items := [(0, item0)] }
    comp := { withCtx.comp with runs := [(0, run0)], nextRun := 1 }
    cores := [(0, core0)] }

/-- The state of that heat. -/
def heatSt : State := live heatBlk

theorem slotReady_heat : SlotReady heatSt 0 0 run0 := by
  constructor <;> first | decide | (constructor <;> first | decide | (constructor <;> first | decide | (constructor <;> decide)))

/-! ## Witnesses: control slots and cores -/

/-- The heat on core 0 with another core state. -/
def coreSt (k : CoreSt) : State := live { heatBlk with cores := [(0, k)] }

/-- A core in a called stream. -/
def coreIn : CoreSt := { core0 with levels := [{ stream := stream0, ret := 80 }, { stream := stream0, ret := 0 }] }

theorem wit_SlotAlu : SlotReady heatSt 0 0 run0 ∧ (let f : SlotFields := ⟨31, 1, 2, false, 0, 0⟩; f.func = 0 ∧ f.imm = 0) ∧
    (let f : SlotFields := ⟨0, 1, 0, true, 0, 0xFFFFFFFF⟩; f.func = 0 ∧ f.b = 0) := ⟨slotReady_heat, by decide, by decide⟩

theorem wit_SlotMoves : SlotReady heatSt 0 0 run0 ∧ (15#5).toNat < 16 := ⟨slotReady_heat, by decide⟩

/-- The last aligned places of the data window, reached through a2 = 64. -/
theorem wit_SlotLocal : SlotReady heatSt 0 0 run0 ∧
    (let ea (imm : BitVec 32) := (aGet core0 2 + imm.signExtend 64).toNat
     (ea 0x2FFB8 % 8 = 0 ∧ ea 0x2FFB8 + 8 = 196608) ∧ (ea 0x2FFBC % 4 = 0 ∧ ea 0x2FFBC + 4 = 196608)) :=
  ⟨slotReady_heat, by decide⟩

/-- Branches to the stream's first and last SLW. -/
theorem wit_SlotBranch : SlotReady heatSt 0 0 run0 ∧ (core0.off : Int) + 8 * (-8 : Int) = 0 ∧ (0xFFFFFFF8#32).toInt = -8 ∧
    (core0.off : Int) + 8 * (503#32).toInt = 4088 ∧ (4088 : Int) < (curStream core0).len := ⟨slotReady_heat, by decide⟩

theorem slotReady_in : SlotReady (coreSt coreIn) 0 0 run0 := by
  constructor <;> first | decide | (constructor <;> first | decide | (constructor <;> first | decide | (constructor <;> decide)))

/-- The bodies of LOOP with a count (s1 = 5) and with none (s4 = 0), a stream named by a1 and s5, and a return. -/
theorem wit_SlotFlow : SlotReady heatSt 0 0 run0 ∧ 0 < (65535#32).toNat ∧ 0 < (sGet core0 1).toNat % 2 ^ 32 ∧
    (sGet core0 4).toNat % 2 ^ 32 = 0 ∧ core0.off + 16 + 8 * (501#32).toNat < (curStream core0).len ∧
    (let k := sSet core0 5 16; (aGet k 1).toNat % 8 = 0 ∧ (sGet k 5).toNat % 8 = 0 ∧ 0 < (sGet k 5).toNat ∧ (sGet k 5).toNat < 2 ^ 32) ∧
    SlotReady (coreSt coreIn) 0 0 run0 ∧ (80 < stream0.len ∧ stream0.table = none) :=
  ⟨slotReady_heat, by decide, by decide, by decide, by decide, by decide, slotReady_in, by decide⟩

theorem wit_SlotReads : SlotReady heatSt 0 0 run0 ∧ (255#32).toNat < 256 ∧ (13#32).toNat < 14 := ⟨slotReady_heat, by decide⟩

theorem wit_SlotReserved : SlotReady heatSt 0 0 run0 ∧ formOf 0x04 = none ∧ formOf 0xFF = none := ⟨slotReady_heat, by decide⟩

/-- The fence at 0x100008 (a1), home here and cached with value 5: s1 = 5 is reached, s2 = 3 too, s6 = 6 is not. -/
def fenceHeat : State :=
  live { heatBlk with
    fen := { heatBlk.fen with cache := [(0x2000008, { value := 5, used := 0, drop := false })] }
    cores := [(0, { core0 with s := [(1, 5), (2, 3), (6, 6)] })] }

theorem slotReady_fence : SlotReady fenceHeat 0 0 run0 := by
  constructor <;> first | decide | (constructor <;> first | decide | (constructor <;> first | decide | (constructor <;> decide)))

/-- That heat with credits declared. -/
def creditHeat (l : List Word) : State :=
  live { fenceHeat.blk with cores := [(0, { core0 with s := [(1, 5), (2, 3), (6, 6)], credits := l })] }

/-- Sixteen credits, none of them the fence's. -/
def credits16 : List Word := [0, 8, 16, 24, 32, 40, 48, 56, 64, 72, 80, 88, 96, 104, 112, 120]

theorem slotReady_credit : SlotReady (creditHeat [0x2000008]) 0 0 run0 ∧ SlotReady (creditHeat credits16) 0 0 run0 := by
  constructor <;> constructor <;> first | decide | (constructor <;> first | decide | (constructor <;> first | decide | (constructor <;> decide)))

theorem wit_SlotFences : SlotReady fenceHeat 0 0 run0 ∧ (isHeatRun run0 = true ∧ sampleOf fenceHeat.blk 0 = none ∧
    (aGet (coreOf fenceHeat.blk 0) 1).toNat = 0x100008 ∧
    tlbHit fenceHeat.blk 0 0x100008 = true ∧ translate fenceHeat.blk 0 0x100008 true = some 0x2000008 ∧
    translate fenceHeat.blk 0 0x100008 false = some 0x2000008 ∧ isLocal fenceHeat.blk 0x2000008 = true ∧
    fenceNow fenceHeat.blk 0x2000008 = some 5) ∧
    (reached 5 (sGet (coreOf fenceHeat.blk 0) 1) = true ∧
    reached 5 (sGet (coreOf fenceHeat.blk 0) 6) = false ∧ fenceRoom fenceHeat.blk 0x2000008 = true ∧
    (coreOf fenceHeat.blk 0).credits.contains 0x2000008 = false ∧ (coreOf fenceHeat.blk 0).credits.length < 16) ∧
    (SlotReady (creditHeat [0x2000008]) 0 0 run0 ∧ SlotReady (creditHeat credits16) 0 0 run0) ∧
    (coreOf (creditHeat [0x2000008]).blk 0).credits.contains 0x2000008 = true ∧ credits16.contains 0x2000008 = false ∧
    16 ≤ credits16.length :=
  ⟨slotReady_fence, by decide, by decide, slotReady_credit, by decide⟩

theorem slotReady_calls : SlotReady (coreSt { core0 with calls := [3, 4, 5, 6] }) 0 0 run0 := by
  constructor <;> first | decide | (constructor <;> first | decide | (constructor <;> first | decide | (constructor <;> decide)))

/-- The heat under a plan whose group 0xFFFF has this chip as its one member. -/
def groupHeat : State :=
  let p : Plan := { version := 1, twoRack := false, compat := false, timeMaster := 0, rackLeader := 0, crc := 0, chips := [],
                    groups := [(0xFFFF, { members := [], flat := [0] })] }
  live { heatBlk with fab := { heatBlk.fab with plan := some p } }

theorem slotReady_group : SlotReady groupHeat 0 0 run0 := by
  constructor <;> first | decide | (constructor <;> first | decide | (constructor <;> first | decide | (constructor <;> decide)))

/-- GSEND to group 5, whose one member is cluster 1, to the domain group 0xFFFF of this chip, and to a group that does not exist; XCALL of
the block at a2, one of 4 bytes beside it, and one as a fifth call. -/
theorem wit_SlotSendCall : SlotReady heatSt 0 0 run0 ∧ ((fmGet? heatSt.blk.obj.groups 5).map (fun g => g.flat) = some [1] ∧
    1 ∈ partClusters heatSt.blk (heatPart heatSt.blk run0) ∧ tlbHit heatSt.blk 0 (0x100008 + 8) = true ∧
    translate heatSt.blk 0 (0x100008 + 8) true = some 0x2000010 ∧ routed heatSt.blk (gchip 0x2000010) = true) ∧
    (fmGet? heatSt.blk.obj.groups 0x7FFF = none) ∧
    ((aGet core0 2 + (0#32).signExtend 64).toNat % 64 = 0 ∧ (aGet core0 2 + (4#32).signExtend 64).toNat % 64 = 4 ∧ core0.calls.length < 4) ∧
    SlotReady (coreSt { core0 with calls := [3, 4, 5, 6] }) 0 0 run0 ∧ SlotReady groupHeat 0 0 run0 ∧
    (groupHeat.blk.fab.plan.bind (fun p => fmGet? p.groups 0xFFFF)).map (fun g => g.flat) = some [0] ∧ routed groupHeat.blk 0 = true ∧
    tlbHit groupHeat.blk 0 0x100008 = true ∧ (translate groupHeat.blk 0 0x100008 true).isSome = true :=
  ⟨slotReady_heat, by decide +kernel, rfl, by decide, slotReady_calls, slotReady_group, by decide +kernel⟩

/-- Core 0 with the line of its SLW in the program window. -/
def lineCore (hdr w : Word) : CoreSt :=
  { core0 with lines := [{ ctx := 0, va := 0x101040, host := false, words := [hdr, w, 0, 0, 0, 0, 0, 0] }] }

theorem slotReady_line : SlotReady (coreSt (lineCore 1 7)) 0 0 run0 := by
  constructor <;> first | decide | (constructor <;> first | decide | (constructor <;> first | decide | (constructor <;> decide)))

theorem wit_CoreIssue : SlotReady (coreSt (lineCore 1 7)) 0 0 run0 ∧ fragAt stream0 64 = stream0.frags.head? ∧ 64 + 16 ≤ 0 + 4096 ∧
    cachedWord (lineCore 1 7) 0 false 0x101040 = some 1 ∧ cachedWord (lineCore 1 (slotWord 3 ⟨1, 0, 0, false, 0, 9⟩)) 0 false 0x101048 =
      some (slotWord 3 ⟨1, 0, 0, false, 0, 9⟩) ∧ cachedWord (lineCore (1#64 <<< 49) 0) 0 false 0x101040 = some (1#64 <<< 49) ∧
    (cachedWord core0 0 false 0x101040 = none ∧ tlbHit heatBlk 0 (0x101040 / 64 * 64) = true ∧
      translateOwn heatBlk 0 0x101040 false = some 0x2001040 ∧ bktPass heatBlk 0 (stackBucket heatBlk 0x2001040) 64 true = true) :=
  ⟨slotReady_line, by decide⟩

theorem running_heat : Running heatSt := ⟨⟨⟨rfl, rfl⟩, rfl⟩, rfl⟩

/-- One core held in each way. -/
theorem wit_CoreReleases : Running heatSt ∧ coreBusy (coreSt { core0 with hold := .drain }).blk 0 0 = false ∧
    (let w := slwOf 64 (0xFFFC#64) []; ({ core0 with slw := some w, hold := .pushQueue } : CoreSt).pushQ.length + hCount w.hdr ≤ 32) ∧
    ({ core0 with hold := .sync, syncCall := [4], calls := [] } : CoreSt).syncCall.any core0.calls.contains = false ∧
    (core0.ended = false ∧ heatReadNow heatBlk 0 { sq := 0, ord := 0, g := { t := { rgen := 0, fgen := 0 }, port := 0, beats := 8 } } = true) ∧
    translate heatBlk 0 0x100008 true = some 0x2000008 ∧ tlbHit heatBlk 0 0x100008 = true ∧
    (∀ d, d < 64 → d ≠ 0 → (coreOf (coreSt { core0 with hold := .walk 0x100008 true }).blk d).hold ≠ .walk 0x100008 true) :=
  ⟨running_heat, by decide, by decide, by decide, by decide, by decide, by decide, by decide⟩

/-- A held signal for the cached fence. -/
def heldOne : HeldSig := { fences := [(0x100008, none)], value := 6, after := 0, calls := [] }

theorem wit_CorePart :
    (let b := { fenceHeat.blk with cores := [(0, { core0 with held := [heldOne] })] }
     earlierBusy b 0 0 heldOne = false ∧ (coreOf b 0).sending = 0 ∧ translate b 0 0x100008 true = some 0x2000008 ∧ isLocal b 0x2000008 = true ∧ b.fen.misses = [] ∧ b.fen.waits = [] ∧
      heldOne.value ≠ 5 ∧ (heldOne.value - 5).toNat < 2 ^ 63) ∧
    (let b := { heatBlk with cores := [(0, { core0 with ended := true })], comp := { heatBlk.comp with runs := [(0, { run0 with clusters := [0, 1] })] } }
     coreBusy b 0 0 = false ∧ (coreOf b 0).held = [] ∧ (coreOf b 0).sending = 0 ∧ (coreOf b 0).skips ≤ 8 ∧
      ∃ d ∈ [0, 1], d ≠ 0 ∧ d ∉ run0.partsEnded) := by decide

/-- A header with one reserved bit and C0. -/
theorem wit_ReservedHeaderSkips : Running heatSt ∧ (let k := lineCore 0x40000001 7
    let b := { heatBlk with cores := [(0, k)] }
    issuing b 0 = some (0, run0) ∧ boundaryHeld b run0 = false ∧ cachedWord k 0 false 0x101040 = some 0x40000001 ∧
    slwLen 0x40000001 = 16 ∧ field 0x40000001#64 30 2 ≠ 0 ∧ k.off + 16 < (curStream k).len) := ⟨running_heat, by decide⟩

theorem wit_BrkStops : SlotReady heatSt 0 0 run0 ∧ (let b := { heatBlk with regs := { heatBlk.regs with brkEnable := 1 } }
    issuing b 0 = some (0, run0) ∧ run0.kind = .primary ∧ boundaryHeld b run0 = false ∧ b.regs.brkEnable.getLsbD 0 = true ∧
    syncBusy core0 = false) := ⟨slotReady_heat, by decide⟩

/-! ## Witnesses: the machine -/

theorem wit_StepRunsFront : ({ live booted with pending := [.walkerPass, .crcPass] } : State).pending = [.walkerPass, .crcPass] := rfl

/-- On an empty queue, out of reset, with REF and the unit locked. -/
theorem wit_EmptyQueueEdge : (live booted).pending = [] ∧ Alive (live booted) ∧ booted.tide.refOn = true ∧
    booted.tide.locked = true ∧ booted.tide.slew = 0 := ⟨rfl, ⟨rfl, rfl⟩, rfl, rfl, rfl⟩

/-- Both stops: CHIP_RST_N asserted, and the stop before an external reset. -/
theorem wit_StoppedInert : State.reset.pin.rst = true ∧
    ({ live booted with pin := { pinsOut with stopped := true } } : State).pin.stopped = true ∧
    (Instr.walkerPass ≠ .chipResetAssert ∧ (∀ f v, Instr.walkerPass ≠ .chipResetRelease f v) ∧
      (∀ v, Instr.walkerPass ≠ .supplyAboveResetLevel v) ∧ Instr.walkerPass ≠ .resetAssertionMinimum) := by
  refine ⟨rfl, rfl, ?_, fun _ _ => ?_, fun _ => ?_, ?_⟩ <;> exact Instr.noConfusion

/-- A sequence under way, and a chip that holds no image. -/
theorem wit_RecoveryInert : (live { booted with rcv := { booted.rcv with stage := .fence } }).blk.rcv.stage ≠ .idle ∧
    (live Block.fresh).blk.mic.status ≠ 2 := by decide

theorem wit_ResetInvKept : ResetInv (live booted) ∧ ∃ t, step (live booted) = .next t :=
  ⟨⟨nofun, fun _ => ⟨rfl, rfl, rfl⟩, rfl⟩, _, rfl⟩

/-! ## Witnesses: crossbar and expander -/

/-- The heat with every engine present. -/
def engBlk : Block := { heatBlk with fuse := BitVec.allOnes 896 }

/-- An engine slot in the push queue, for G position 0, charging one bucket. -/
def ent0 : PushEnt where
  pos := 0
  slot := 0
  gA := 0
  gB := 0
  split := 0
  idxAddr := 0
  idxType := 0
  idxLimit := 0
  idxFirst := 0
  charge := [(0, 64000)]
  num := 0

/-- The heat with a slot to hand over. -/
def pushBlk : Block :=
  { engBlk with
    cores := [(0, { core0 with pushQ := [ent0] })]
    pwr := { engBlk.pwr with clusters := [(0, { PwrRec.fresh with order := 3, state := 3 })] } }

theorem running_of (b : Block) (h : b.mic.status = 2) (h' : b.rcv.stage = .idle) : Running (live b) := ⟨⟨⟨rfl, rfl⟩, h⟩, h'⟩

theorem wit_HandsOver :
    ((coreOf pushBlk 0).run = some 0 ∧ runOf pushBlk 0 = some run0 ∧ sampleOf pushBlk 0 = none ∧ (portOf pushBlk 0).xq = [] ∧
      (portOf pushBlk 0).capX = none ∧ (portOf pushBlk 0).out.length < 65536 ∧ passes pushBlk 0 0 0 false ent0.charge = true) ∧
    (let b := { pushBlk with ports := [(0, { CPort.fresh with coreHeld := { HeldMark.clear with bucket := true, cap := some false } })] }
     passes b 0 0 0 false ent0.charge = true ∧ waitingReads b = [] ∧ (∀ x ∈ b.sb.items, x.2.descRd ≠ .wanted)) ∧
    (let b := { booted with cap := { booted.cap with heldBe := some 900 } }
     capHolding b true = false ∧ capHolding b false = false ∧ b.tide.clock < 900 + 10000 ∧ b.cap.heldLc = none) := by decide

/-- That baton in the engine. -/
def bat0 : Baton where
  id := 0
  ent := ent0
  run := 0
  order := 0
  call := none
  slots := []
  bag := none
  since := 1000
  deadline := 2000
  copy := false
  cancelled := false

theorem wit_BatonEnds :
    (let r : BitVec 32 := 0x00210000
     r.getLsbD 18 = false ∧ [bat0].find? (fun y => decide (y.id = field r 0 16)) = some bat0 ∧ field r 16 2 = 1 ∧ field r 19 7 = 4 ∧
      bat0.call = none ∧ bat0.copy = false) ∧
    (let r : BitVec 32 := 0x02040000; r.getLsbD 18 = true ∧ field r 19 7 = 64) ∧
    (let r : BitVec 32 := 0x020C0000; r.getLsbD 18 = true ∧ field r 19 7 = 65) := by decide

/-- A call's request block: one feature, one bag, row buffer at 0. -/
def xBlock : BitVec 512 :=
  BitVec.ofNat 512 (packFields [(8, 4, 0xA), (16, 16, 1), (32, 16, 1), (48, 16, 64), (64, 48, 0x100100), (112, 16, 64), (128, 48, 0x100200),
    (192, 48, 0x100300), (256, 48, 0x100400), (416, 17, 4), (448, 24, 0x400), (480, 24, 0x800)])

/-- A table of 100 rows of 64 bytes. -/
def xDir0 : BitVec 256 :=
  BitVec.ofNat 256 (packFields [(0, 48, 0x108000), (64, 16, 16), (80, 16, 64), (96, 32, 100), (128, 48, 0x2000), (176, 1, 1)])

/-- A call of core 0. -/
def call0 : XCall where
  core := 0
  run := 0
  va := 0x100040
  slot := 0
  slotNo := 0
  off := 64
  streamVa := 0x101000
  phase := .accept
  issued := false
  since := 1000
  blk := xBlock
  n := 1
  f := 0
  b := 0
  entry := 0
  dirs := [(0, xDir0)]
  offs := [1]
  prev := 0
  bagIdx := [7]
  bagWt := []
  deadBags := false
  last := none
  bags := []
  vRot := 0

/-- The heat with that call in the expander, in a state of its own. -/
def callBlk (x : XCall) : Block :=
  { engBlk with
    cores := [(0, { core0 with calls := [3] })]
    xp := { engBlk.xp with
      calls := [(3, x)], windows := [(0, { run := 0, addr := 0, rows := 4, pitch := 64, cap := 4, keys := [(0, 5)], ready := [0] })] } }

theorem wit_ExpanderCalls :
    (let b := callBlk call0
     heatReadNow b 0 { sq := 0, ord := 0, g := { t := { rgen := 0, fgen := 0 }, port := 0, beats := 1 } } = true ∧
      curCall b 0 = some (3, call0) ∧ callRun b call0 = some run0 ∧ translateOwn b 0 call0.va false = some 0x2000040 ∧
      bktPass b 0 (stackBucket b 0x2000040) 64 true = true ∧ call0.va % 64 = 0) ∧
    blockCheck xBlock = none ∧ translateOwn engBlk 0 (xOff xBlock + xEs xBlock * (xF xBlock * xB xBlock)) false = some 0x2000404 ∧
    bktPass engBlk 0 (stackBucket engBlk 0x2000404) 64 true = true ∧ blockCheck 0 = some 2 ∧
    (let x := { call0 with phase := .issued }
     (callBlk x).cores = [(0, { core0 with calls := [3] })] ∧ (portOf (callBlk x) 0).xq = [] ∧ (portOf (callBlk x) 0).out = []) := by decide +kernel

/-- A bag whose one row has slot 0. -/
def bag0 : BagRec where
  bag := 0
  first := 0
  len := 1
  dir := xDir0
  col := 0
  sample := 0
  slots := [0]

theorem wit_ExpanderBags :
    (let x := { call0 with phase := .turnover }
     let b := callBlk x
     let w : XWindow := { run := 0, addr := 0, rows := 4, pitch := 64, cap := 4, keys := [(0, 5)], ready := [0] }
     winOf b 0 0 = some w ∧ rowbufIdle b 0 0 w = true ∧ x.last = none ∧ curUsable x = true ∧ 1 = x.prev + 1 ∧ x.f + 1 = xF xBlock ∧ xPooled xBlock = true ∧
      xWsum xBlock = false ∧ 1 ≤ min (xRows xBlock) (65536 / run0.clusters.length) ∧ keyOf (fTable x.entry) (curDir x) 7 = some (0, 7) ∧
      (tlbPage b 0 (tRowVa xDir0 7)).map (fun t => (t.vbase, t.size, t.gbase)) = some (0x100000, 0x10000, 0x2000000) ∧
      tRowVa xDir0 7 + extent 1 (tPitch xDir0) (tRowBytes xDir0) ≤ 0x110000 ∧ 0x100000 ≤ tRowVa xDir0 7 ∧
      isLocal b (0x2000000 + (tRowVa xDir0 7 - 0x100000)) = true ∧ gatherPos b 0 (tStack xDir0 7) = some 0) ∧
    (let x := { call0 with phase := .issued, bags := [bag0] }
     let b := callBlk x
     bagReady b 0 3 { run := 0, addr := 0, rows := 4, pitch := 64, cap := 4, keys := [(0, 5)], ready := [0] } bag0 = true ∧
      (presentIn b 0 6 4)[x.vRot % (presentIn b 0 6 4).length]? = some 6) := by decide +kernel

/-! ## Witnesses: queues -/

/-- A submission queue of port 0: 16 entries, in device memory. -/
def sq0 : Sq := { aqSq booted 0 0 with
  log2 := 4
  ringHost := false
  qcbHost := false
  ringAddr := 0x4000
  qcbAddr := 0x5000
  pollUs := 10
  nextPoll := 5000 }

/-- Its completion queue. -/
def cq0 : Cq := { aqCq booted 0 [] with log2 := 4, ringHost := false, qcbHost := false, ringAddr := 0x6000, qcbAddr := 0x7000, vector := 3 }

/-- The block with a submission and a completion queue. -/
def qBlk (x : Sq) (c : Cq) : Block := { withCtx with q := { withCtx.q with sqs := [(0, x)], cqs := [(0, c)] } }

/-- A doorbell write by function 0 of port 0. -/
def ringAt (off v : Nat) : DbWrite :=
  { path := .view, org := { port := 0, fn := 0, priv := 0 }, off := off, width := 8, data := BitVec.ofNat 64 v }

/-- The privileged doorbell write. -/
def ringPriv (off v : Nat) : DbWrite := { ringAt off v with org := { port := 0, fn := 0, priv := 1 } }

/-- The admin queue of port 0, which host software owns. -/
def aq0 : Aq := { enabled := true, enabling := none, sq := aqSq booted 0 0, cq := aqCq booted 0 [] }

def aqBlk (a : Aq) : Block := { withCtx with q := { withCtx.q with aqs := [(0, a)] }, dict := [(dkey 0x2000 0x11, 1)] }

theorem wit_DoorbellsRing :
    (DoorbellWrite (ringAt 0x100000 0) (0x100000 + 8 * 0) 0 ∧ DoorbellWrite (ringAt 0x100000 1) (0x100000 + 8 * 0) 1 ∧
      DoorbellWrite (ringAt 0x040000 0) (0x040000 + 8 * 0) 0 ∧ DoorbellWrite (ringAt (0x100000 + 8 * 65535) 0) (0x100000 + 8 * 65535) 0) ∧
    (sq0.ownerPort = 0 ∧ sq0.dying = false ∧ sq0.st = .active ∧ sq0.rd = .idle ∧ cq0.rd = .idle ∧ underCheck (qBlk sq0 cq0) (.q 0) = false) ∧
    (aqOf (aqBlk aq0) 0 = some aq0 ∧ isPrivileged (aqBlk aq0) 0 (ringPriv 0x020000 0).org = true ∧
      DoorbellWrite (ringPriv 0x020000 0) 0x020000 0 ∧ DoorbellWrite (ringPriv 0x020000 1) 0x020000 1 ∧
      DoorbellWrite (ringPriv 0x020008 0) 0x020008 0 ∧ aq0.sq.st = .active ∧ aq0.sq.rd = .idle ∧ aq0.cq.rd = .idle) := by decide +kernel

/-- The block with a queue whose QCB is in host memory, behind an empty bucket. -/
def poorBlk (x : Sq) : Block := { qBlk x cq0 with dict := [(dkey 0x3100 0x0B, 1)], bkt := [(10, { level := -1000, at_ := 1000 })] }

theorem wit_DoorbellsRing_held :
    (bktPassAll (qBlk sq0 cq0) 0 true (sqCharge (.q 0) sq0 sq0.qcbHost 4) = true) ∧
    (let q := { sq0 with qcbHost := true }
     fmGet? (poorBlk q).q.sqs 0 = some q ∧ bktPassAll (poorBlk q) q.part true (sqCharge (.q 0) q q.qcbHost 4) = false) ∧
    (let q := { sq0 with st := .held }
     fmGet? (qBlk q cq0).q.sqs 0 = some q ∧ q.st = .held) := by decide +kernel

theorem wit_RingsShareReads :
    (let q := { sq0 with rd := .wanted }
     fmGet? (qBlk q cq0).q.sqs 0 = some q ∧ q.st = .active ∧ q.dying = false ∧ q.pollUs ≠ 0 ∧
      bktPassAll (qBlk q cq0) q.part true (sqCharge (.q 0) q q.qcbHost 4) = true) ∧
    (let q := { sq0 with rd := .flying 900 true }
     tagsNow (qBlk q cq0) q.gen { rgen := 0, fgen := 0 } = true ∧ (16 - q.consumer).toNat = 2 ^ q.log2 ∧ q.qcbHost = false) ∧
    (DoorbellWrite (ringAt 0x100000 0) (0x100000 + 8 * 0) 0 ∧ sq0.ownerPort = 0 ∧ sq0.ownerFn = 0) := by decide +kernel

/-- A queue with 16 entries to fetch, and one whose read of the first of them is in flight. -/
def sqFetch : Sq := { sq0 with producer := 16 }
def sqBeat : Sq := { sq0 with producer := 16, fetches := [{ missing := [0, 1], drop := [], issued := 900 }] }

theorem wit_QueueReads :
    (let b := qBlk sq0 cq0
     sqOf b (.q 0) = some sq0 ∧ sq0.pollUs ≠ 0 ∧ b.tide.clock ≤ sq0.nextPoll) ∧
    (let q := { sq0 with rd := .flying 900 false }
     let b := qBlk q cq0
     tagsNow b q.gen { rgen := 0, fgen := 0 } = true ∧ (16 - q.consumer).toNat = 2 ^ q.log2 ∧ 2 ^ q.log2 < (17 - q.consumer).toNat ∧
      (fmGet? b.q.cqs q.cq).isSome = true ∧ q.cache = [] ∧ ctxOf b (0xFFFFFF) = none) ∧
    (let b := qBlk sqFetch cq0
     fetchReady b (.q 0) sqFetch = true ∧ fetchPass b (.q 0) sqFetch = true ∧ fetchTurn b 0 sqFetch = true ∧ fetchSize b sqFetch = 16) ∧
    (let b := qBlk sqBeat cq0
     tagsNow b sqBeat.gen { rgen := 0, fgen := 0 } = true ∧ (∃ f ∈ sqBeat.fetches, (1 : BitVec 32) ∈ f.missing) ∧
      (∀ f ∈ sqBeat.fetches, (1 : BitVec 32) ∉ f.drop) ∧ b.q.late = [] ∧ sqBeat.homeGone = true ∧
      tagsNow b sqBeat.gen { rgen := 0, fgen := 1 } = false) := by decide +kernel

/-- An entry that waits for the fence at 0x100008 to reach 6; opcode 0, 1 or 2. -/
def entryWait (op : BitVec 512) : BitVec 512 := (6#512 <<< 320) ||| (0x100008#512 <<< 176) ||| op

/-- A queue with an entry that has arrived. -/
def sqFront (e : BitVec 512) : Sq := { sq0 with producer := 1, fetchPtr := 1, cache := [(0, e)] }

/-- The block with it, its fence cached with value 5. -/
def frontBlk (e : BitVec 512) : Block :=
  { qBlk (sqFront e) cq0 with fen := { withCtx.fen with cache := [(0x2000008, { value := 5, used := 0, drop := false })] } }

/-- An entry with that opcode arrives at the front of its queue and waits for its first fence. -/
abbrev EntryHeld (op : BitVec 512) : Prop :=
  frontEntry (frontBlk (entryWait op)) 0 = some (entryWait op) ∧ entryReserved (entryWait op) = false ∧
  admitTest (frontBlk (entryWait op)) (sqFront (entryWait op)) (entryWait op) = none ∧
  ctxOf (frontBlk (entryWait op)) (eCtx (entryWait op)) = some ctx0 ∧ (frontBlk (entryWait op)).sb.items.length < 131072 ∧
  quotaFull (frontBlk (entryWait op)) 0 = false ∧ eWaitAddr (entryWait op) false ≠ 0 ∧ eWaitAddr (entryWait op) true = 0 ∧
  translate (frontBlk (entryWait op)) 0 0x100008 false = some 0x2000008 ∧ isLocal (frontBlk (entryWait op)) 0x2000008 = true ∧
  fenceNow (frontBlk (entryWait op)) 0x2000008 = some 5 ∧ (frontBlk (entryWait op)).fen.misses = [] ∧
  reached 5 (eWaitValue (entryWait op) false) = false ∧ fenceRoom (frontBlk (entryWait op)) 0x2000008 = true

/-- A read-ahead entry whose reserved flag is set. -/
def entryOdd : BitVec 512 := 0x101#512 ||| (1#512 <<< 32)

theorem wit_EntryAdmission :
    (EntryHeld 0x100#512 ∧ EntryHeld 0x101#512 ∧ EntryHeld 0x102#512) ∧
    (frontEntry (frontBlk 0x7F#512) 0 = some 0x7F#512 ∧ entryReserved 0x7F#512 = true ∧
      (fmGet? (frontBlk 0x7F#512).q.cqs 0).isSome = true) ∧
    (frontEntry (frontBlk entryOdd) 0 = some entryOdd ∧ entryReserved entryOdd = false ∧ eOpcode entryOdd = 1 ∧
      admitTest (frontBlk entryOdd) (sqFront entryOdd) entryOdd = some 0x22) :=
  ⟨⟨by decide +kernel, by decide +kernel, by decide +kernel⟩, by decide +kernel, by decide +kernel⟩

/-- A completion that waits. -/
def cqe0 : CqEnt where
  tag := 7
  status := 0
  kind := .item
  sq := 9
  nonDone := 0
  entries := 0
  event := 0
  time := 900
  ctx := 0
  cls := 1
  frame := 0
  sbTag := none
  waits := []
  first := 0

theorem wit_Completions :
    (let c := { cq0 with hold := [cqe0] }
     let b := qBlk sq0 c
     fmGet? b.q.cqs 0 = some c ∧ cqe0.waits = [] ∧ c.full = false ∧ c.bad = false ∧ cqe0.sbTag = none ∧ fmGet? b.q.sqs cqe0.sq = none ∧
      c.intEn = true ∧ c.count ≤ 1 ∧ 0x6000 + 32 * (c.producer.toNat % 2 ^ c.log2) + 32 ≤ 0x7020) ∧
    (let c := { cq0 with full := true }; c.full = true ∧ c.rd = .idle) ∧
    (let c := { cq0 with rd := .flying 900 false, producer := 16 }
     tagsNow (qBlk sq0 c) c.gen { rgen := 0, fgen := 0 } = true ∧ (c.producer - 0).toNat = 2 ^ c.log2 ∧ 2 ^ c.log2 < (c.producer - 17).toNat) ∧
    (let c := { cq0 with oldest := some 900, timeUs := 5, unreported := 1 }
     c.oldest = some 900 ∧ c.intEn = true ∧ c.timeUs ≠ 0 ∧ c.unreported ≠ 0) ∧
    (let b := { qBlk sq0 cq0 with q := { (qBlk sq0 cq0).q with ints := [(3, [{ fn := 0, vector := 3 }])] } }
     fmGet b.q.ints 3 [] = [{ fn := 0, vector := 3 }]) := by decide +kernel

/-! ## Witnesses: admin commands -/

/-- The opcode, the tag 7 and some fields (position, value) of an admin entry. -/
def adm (op : Nat) (fields : List (Nat × Nat)) : BitVec 512 :=
  BitVec.ofNat 512 (fields.foldl (fun n f => n ||| f.2 <<< f.1) (op ||| 7 <<< 16))

/-- A block with an entry in the secure mailbox. -/
def boxed (b : Block) (e : BitVec 512) : Block := { b with adm := { b.adm with mbEntry := some e, mbBusy := true } }

/-- The mailbox as the source of a command. -/
def box : AdminIn := { src := 4, presented := true }

/-- `AdminReady`, as a check. -/
def adminReadyB (b : Block) (x : AdminIn) (op : Nat) (e : BitVec 512) (fields : List (Nat × Nat)) (privOnly : Bool)
    (ctx : Option (BitVec 24)) (states : List CtxState) : Bool :=
  decide (b.mic.status = 2) && decide (b.rcv.stage = .idle) && decide (adminFront b x.src = some e) && decide (aOpcode e = op) &&
  reservedClear x.src e fields && (decide (aFunction e = 0) || x.presented) && (!privOnly || (adminOrg b x.src e).priv) &&
  (match ctx with
   | none => true
   | some h => match ctxOf b h with
     | none => false
     | some c => adminOwns (adminOrg b x.src e) c && decide (c.state ∈ states))

theorem admin_ready {b : Block} {x : AdminIn} {op : Nat} {e : BitVec 512} {fields : List (Nat × Nat)} {privOnly : Bool}
    {ctx : Option (BitVec 24)} {states : List CtxState} (h : adminReadyB b x op e fields privOnly ctx states = true) :
    AdminReady (live b) x op e fields privOnly ctx states := by
  simp only [adminReadyB, and_assoc, Bool.and_eq_true, decide_eq_true_eq, Bool.or_eq_true, Bool.not_eq_true'] at h
  obtain ⟨up, calm, front, isOp, clear, fn, rights, named⟩ := h
  refine ⟨⟨⟨⟨rfl, rfl⟩, up⟩, calm⟩, front, isOp, clear, fn, fun hp => rights.resolve_left (by simp [hp]), fun g hg => ?_⟩
  subst hg
  cases hc : ctxOf b g with
  | none => simp [hc] at named
  | some c => exact ⟨c, hc, by simpa [hc, live] using named⟩

/-- Entries of DUMP_BUFFER: the shortest buffer, and none. -/
def eDump (len : Nat) : BitVec 512 := adm 0x24 [(64, 0x1000), (128, len)]

theorem wit_AdminPlain :
    AdminReady (live (boxed withCtx (adm 0 []))) box 0x00 (adm 0 []) [] false none [] ∧
    AdminReady (live (boxed withCtx (eDump 0x800000))) box 0x24 (eDump 0x800000) [(64, 64), (128, 32)] true none [] ∧
    AdminReady (live (boxed withCtx (eDump 0))) box 0x24 (eDump 0) [(64, 64), (128, 32)] true none [] ∧
    (field (eDump 0x800000) 64 64 % 4096 = 0 ∧ 0x800000 ≤ field (eDump 0x800000) 128 32 ∧ field (eDump 0) 128 32 = 0) ∧
    (adminFront (boxed withCtx (adm 0x7F [])) 4 = some (adm 0x7F []) ∧ aOpcode (adm 0x7F []) < 0x80 ∧ aOpcode (adm 0x7F []) ∉ adminOpcodes ∧
      adminFront (boxed withCtx (adm 0x05 [])) 4 = some (adm 0x05 []) ∧ aOpcode (adm 0x05 []) ∉ adminOpcodes) :=
  ⟨admin_ready (by decide +kernel), admin_ready (by decide +kernel), admin_ready (by decide +kernel), by decide +kernel, by decide +kernel⟩

/-- SQ_CREATE for context 0 on CQ 0: ring at 0x4000, QCB at 0x5000, both in device memory. -/
def eSq (log2 : Nat) : BitVec 512 := adm 0x01 [(80, log2), (128, 0x4000), (192, 0x5000)]

/-- CQ_CREATE. -/
def eCq (log2 : Nat) : BitVec 512 := adm 0x03 [(64, log2), (80, 3), (128, 0x10000), (192, 0x7000)]

/-- The block with CQ 0 only. -/
def cqBlk : Block := { withCtx with q := { withCtx.q with cqs := [(0, cq0)] } }

/-- The scoreboard holds an item of SQ 0. -/
def busyBlk : Block := { qBlk sq0 cq0 with sb := { withCtx.sb with items := [(0, item0)] } }

theorem wit_AdminQueues :
    AdminReady (live (boxed cqBlk (eSq 4))) box 0x01 (eSq 4) sqCreateFields false (some ((eSq 4).extractLsb' 96 24)) [.created, .resident, .blocked] ∧
    AdminReady (live (boxed cqBlk (eSq 16))) box 0x01 (eSq 16) sqCreateFields false (some ((eSq 16).extractLsb' 96 24))
      [.created, .resident, .blocked] ∧
    (ctxOf cqBlk ((eSq 16).extractLsb' 96 24) = some ctx0 ∧ fmGet? cqBlk.q.cqs (field (eSq 16) 64 14) = some cq0 ∧
      inPart cqBlk 0 (field (eSq 16) 128 64) (64 * 2 ^ field (eSq 16) 80 5) = true ∧ inPart cqBlk 0 (field (eSq 4) 192 64) 64 = true ∧
      lowestFree (fmKeys cqBlk.q.sqs) 0 65536 = some 0 ∧ cq0.ownerPort = (adminOrg cqBlk 4 (eSq 4)).port ∧
      cq0.ownerFn = (adminOrg cqBlk 4 (eSq 4)).fn ∧ bktPassAll cqBlk 0 true (createCharge (eSq 4) (adminOrg cqBlk 4 (eSq 4))) = true) ∧
    AdminReady (live (boxed withCtx (eCq 4))) box 0x03 (eCq 4)
      [(64, 5), (69, 1), (70, 1), (71, 1), (72, 1), (80, 11), (96, 8), (112, 16), (128, 64), (192, 64)] false none [] ∧
    AdminReady (live (boxed withCtx (eCq 20))) box 0x03 (eCq 20)
      [(64, 5), (69, 1), (70, 1), (71, 1), (72, 1), (80, 11), (96, 8), (112, 16), (128, 64), (192, 64)] false none [] ∧
    (inOwnersPart withCtx 0 0 (field (eCq 20) 128 64) (32 * 2 ^ field (eCq 20) 64 5) = true ∧
      inOwnersPart withCtx 0 0 (field (eCq 20) 192 64) 64 = true ∧ lowestFree (fmKeys withCtx.q.cqs) 0 16384 = some 0) ∧
    AdminReady (live (boxed (qBlk sq0 cq0) (adm 2 []))) box 0x02 (adm 2 []) [(64, 16), (80, 1)] false none [] ∧
    AdminReady (live (boxed busyBlk (adm 2 []))) box 0x02 (adm 2 []) [(64, 16), (80, 1)] false none [] ∧
    (let out (b : Block) := putSq (giveUpFetches (adminTake (boxed b (adm 2 [])) 4) (.q 0) sq0 true) (.q 0)
       { sq0 with dying := true, gen := sq0.gen + 1, cache := [], fetches := [], rd := .idle, rung := false, holdReq := false, probe := [],
                  batches := sq0.batches.filter (fun z => z.closed) }
     sqSpent (finish (out (qBlk sq0 cq0), [])) 0 = true ∧ sqSpent (finish (out busyBlk, [])) 0 = false ∧ sq0.dying = false ∧
      mayDestroy (adminOrg busyBlk 4 (adm 2 [])) 0 0 = true) ∧
    (sqSpent (qBlk { sq0 with dying := true } cq0) 0 = true) ∧
    AdminReady (live (boxed cqBlk (adm 4 []))) box 0x04 (adm 4 []) [(64, 14)] false none [] ∧ cqBlk.q.sqs = [] :=
  ⟨admin_ready (by decide +kernel), admin_ready (by decide +kernel), by decide +kernel, admin_ready (by decide +kernel),
   admin_ready (by decide +kernel), by decide +kernel, admin_ready (by decide +kernel), admin_ready (by decide +kernel),
   by decide +kernel, by decide +kernel, admin_ready (by decide +kernel), rfl⟩

/-- CONTEXT_CREATE in partition 0, with the level-1 table at 2 MiB. -/
def eCtxNew (span : Nat) : BitVec 512 := adm 0x08 [(72, span), (128, 0x200000)]

/-- The block with two contexts allowed to function 0, ID 0 in use. -/
def ctxBlk (fresh : Nat) : Block :=
  { withCtx with dict := [(dkey 0x2010 1, 2), (dkey 0x2010 2, 2)], obj := { withCtx.obj with fresh := fresh, freed := [9] } }

/-- CONTEXT_QUERY that waits for its write. -/
def queryBlk : Block :=
  { withCtx with adm := { withCtx.adm with busy := some { src := 4, entry := adm 0x0A [(128, 0x8000)], wait := .query 2 (ctxBytes ctx0), gen := 0 } } }

theorem wit_AdminContexts :
    AdminReady (live (boxed (ctxBlk 1) (eCtxNew 0))) box 0x08 (eCtxNew 0) [(64, 5), (72, 5), (128, 64)] false none [] ∧
    AdminReady (live (boxed (ctxBlk (2 ^ 20)) (eCtxNew 18))) box 0x08 (eCtxNew 18) [(64, 5), (72, 5), (128, 64)] false none [] ∧
    (inPart (ctxBlk 1) (field (eCtxNew 18) 64 5) (field (eCtxNew 18) 128 64) (8 * 2 ^ field (eCtxNew 18) 72 5) = true ∧
      ctxOwned (ctxBlk 1) (adminOrg (ctxBlk 1) 4 (eCtxNew 0)) < dget (ctxBlk 1) 0x2010 2 ∧
      (takeCtxId (ctxBlk 1).obj).map (fun x => x.1) = some 1 ∧ (takeCtxId (ctxBlk (2 ^ 20)).obj).map (fun x => x.1) = some 9) ∧
    AdminReady (live (boxed withCtx (adm 9 []))) box 0x09 (adm 9 []) [(64, 24)] false (some (pHandle (adm 9 [])))
      [.created, .resident, .blocked, .lost] ∧
    (ctxOf withCtx (pHandle (adm 9 [])) = some ctx0 ∧
      (let d (b : Block) : Block := finish (ctxDestroyStart (adminTake (boxed b (adm 9 [])) 4) ctx0)
       ctxRuns (d withCtx) 0 = [] ∧ (ctxOf (d withCtx) 0).isSome = true ∧ ctxRuns (d heatBlk) 0 ≠ [] ∧ (ctxOf (d heatBlk) 0).isSome = true)) ∧
    AdminReady (live (boxed heatBlk (adm 9 []))) box 0x09 (adm 9 []) [(64, 24)] false (some (pHandle (adm 9 [])))
      [.created, .resident, .blocked, .lost] ∧
    AdminReady (live (boxed withCtx (adm 0x0A [(128, 0x8000)]))) box 0x0A (adm 0x0A [(128, 0x8000)]) [(64, 24), (88, 1), (128, 64)] false
      (some (pHandle (adm 0x0A [(128, 0x8000)]))) [.created, .resident, .blocked, .lost, .destroying] ∧
    (queryBlk.adm.busy.map (fun y => (y.wait, y.gen)) = some (.query 2 (ctxBytes ctx0), 0) ∧ tagsNow queryBlk 0 { rgen := 0, fgen := 0 } = true ∧
      field (adm 0x0A [(128, 0x8000)]) 128 64 % 64 = 0) ∧
    (let b := { withCtx with obj := { withCtx.obj with ctxs := [(0, { ctx0 with state := .destroying })] } }
     ctxRuns b ctx0.handle = []) :=
  ⟨admin_ready (by decide +kernel), admin_ready (by decide +kernel), by decide +kernel, admin_ready (by decide +kernel),
   by decide +kernel, admin_ready (by decide +kernel), admin_ready (by decide +kernel), by decide +kernel, by decide +kernel⟩

/-- PARTITION_CREATE of partition 1: clusters 2 and 63, one range of one unit from unit 1,024, `slots` slots, ports 0 to 3. -/
def ePart (slots : Nat) : BitVec 512 := adm 0x10 [(64, 1), (72, slots), (80, 15), (84, 1), (128, 0x8000000000000004), (192, 1024), (224, 1)]

/-- The fields of PARTITION_CREATE. -/
def partFields : List (Nat × Nat) :=
  [(64, 5), (72, 7), (80, 4), (84, 1), (86, 2), (128, 64), (192, 31), (224, 31), (256, 31), (288, 31), (320, 31), (352, 31), (384, 31), (416, 31)]

/-- A block whose partition 1 nothing names. -/
def partsBlk : Block := { withCtx with obj := { withCtx.obj with parts := [(0, part0), (1, { part0 with clusters := 4, ranges := [(1024, 1)] })] } }

/-- GROUP_DEFINE of group 4,095 with `n` members. -/
def eGroup (n : Nat) : BitVec 512 := adm 0x14 [(64, 4095), (80, n), (128, 0x9000)]

theorem wit_AdminPartitions :
    AdminReady (live (boxed withCtx (ePart 1))) box 0x10 (ePart 1) partFields true none [] ∧
    AdminReady (live (boxed withCtx (ePart 60))) box 0x10 (ePart 60) partFields true none [] ∧
    (unusedRangesZero (ePart 60) = true ∧ (∀ r ∈ partRanges (ePart 60), r.2 ≠ 0) ∧
      field (ePart 60) 72 7 + (withCtx.obj.parts.map (fun p => p.2.slots)).sum ≤ 64 ∧ fmHas withCtx.obj.parts (field (ePart 60) 64 5) = false ∧
      (∀ p ∈ withCtx.obj.parts, p.2.clusters &&& (ePart 60).extractLsb' 128 64 = 0 ∧
        ∀ y ∈ p.2.ranges, ∀ r ∈ partRanges (ePart 60), rangesMeet y r = false)) ∧
    AdminReady (live (boxed partsBlk (adm 0x11 [(64, 1)]))) box 0x11 (adm 0x11 [(64, 1)]) [(64, 5)] true none [] ∧
    (fmHas partsBlk.obj.parts 1 = true ∧ partUsed partsBlk 1 = false) ∧
    AdminReady (live (boxed withCtx (eGroup 1))) box 0x14 (eGroup 1) [(64, 16), (80, 7), (88, 1), (128, 64)] true none [] ∧
    AdminReady (live (boxed withCtx (eGroup 64))) box 0x14 (eGroup 64) [(64, 16), (80, 7), (88, 1), (128, 64)] true none [] ∧
    (field (eGroup 64) 64 16 ≤ 4095 ∧ field (eGroup 64) 80 7 ≤ 64 ∧ groupNamed withCtx (field (eGroup 64) 64 16) = false) ∧
    (field 63#32 18 14 = 0 ∧ field 63#32 16 2 = 0 ∧ field 63#32 0 16 < 64 ∧ field 0#32 0 16 < 64) ∧
    AdminReady (live (boxed withCtx (adm 0x15 [(64, 5)]))) box 0x15 (adm 0x15 [(64, 5)]) [(64, 16)] true none [] ∧
    (fmHas withCtx.obj.groups 5 = true ∧ groupNamed withCtx 5 = false) :=
  ⟨admin_ready (by decide +kernel), admin_ready (by decide +kernel), by decide +kernel, admin_ready (by decide +kernel),
   by decide +kernel, admin_ready (by decide +kernel), admin_ready (by decide +kernel), by decide +kernel, by decide +kernel,
   admin_ready (by decide +kernel), by decide +kernel⟩

/-- MAP of a page at 0x40200000 to 0x400000, with a new level-2 table at 0x20000; `big` maps 2 MiB. -/
def eMap (big : Nat) : BitVec 512 := adm 0x18 [(88, big), (89, 1), (128, 0x40200000), (192, 0x400000), (256, 0x20000)]

/-- UNMAP of it, raw. -/
def eUnmap : BitVec 512 := adm 0x19 [(89, 1), (128, 0x200000)]

/-- The context with a span of two level-1 entries. -/
def ctxWide : Ctx := { ctx0 with span := 1 }

/-- A block where that context's page at 0x200000 is mapped. -/
def mapBlk : Block :=
  { withCtx with
    obj := { withCtx.obj with ctxs := [(0, ctxWide)] }
    mem := memWriteBytes (memWriteBytes [] 0x1000000 (leBytes 8 0x20001)) (0x20000 + 8 * 32) (leBytes 8 0x400003) }

/-- A gated UNMAP of it that pends. -/
def pendMap : Pend := { no := 0, src := 4, tag := 7, opcode := 0x19, fn := 0, port := 0, kind := .unmap 0 0x200000 false 0x2000008 6 }

theorem wit_AdminMappings :
    AdminReady (live (boxed mapBlk (eMap 0))) box 0x18 (eMap 0) [(64, 24), (88, 1), (89, 1), (128, 48), (192, 64), (256, 64)] false
      (some (pHandle (eMap 0))) [.created, .resident, .blocked] ∧
    AdminReady (live (boxed mapBlk (eMap 1))) box 0x18 (eMap 1) [(64, 24), (88, 1), (89, 1), (128, 48), (192, 64), (256, 64)] false
      (some (pHandle (eMap 1))) [.created, .resident, .blocked] ∧
    (ctxOf mapBlk (pHandle (eMap 1)) = some ctxWide ∧ field (eMap 1) 128 48 % pageSize true = 0 ∧ field (eMap 1) 192 64 % pageSize true = 0 ∧
      field (eMap 1) 128 48 < 2 ^ (30 + ctxWide.span) ∧ inPart mapBlk 0 (field (eMap 1) 192 64) (pageSize true) = true ∧
      rdLE (adminTake (boxed mapBlk (eMap 1)) 4) (ctxWide.ptRoot + 8) 8 % 2 = 0 ∧ inPart mapBlk 0 0x20000 0x20000 = true ∧
      (∀ a ∈ l2Addrs 0x20000 0x40200000 true, rdLE (adminTake (boxed mapBlk (eMap 1)) 4) a 8 % 2 = 0 ∨ a = 0x20000 + 8 * 32)) ∧
    AdminReady (live (boxed mapBlk eUnmap)) box 0x19 eUnmap [(64, 24), (88, 1), (89, 1), (128, 48), (192, 48), (256, 64)] false
      (some (pHandle eUnmap)) [.created, .resident, .blocked, .lost] ∧
    (mappedPage (adminTake (boxed mapBlk eUnmap) 4) ctxWide 0x200000 false = some (0x20000, 0x400000)) ∧
    (let b := { mapBlk with adm := { mapBlk.adm with pend := [pendMap] } }
     gateOpen b 0 = true ∧ mappedPage b ctxWide 0x200000 false = some (0x20000, 0x400000)) ∧
    AdminReady (live (boxed withCtx (adm 0x1C []))) box 0x1C (adm 0x1C []) [(64, 24), (88, 2)] false (some (pHandle (adm 0x1C [])))
      [.created, .resident, .blocked] ∧
    AdminReady (live (boxed withCtx (adm 0x1C [(88, 1)]))) box 0x1C (adm 0x1C [(88, 1)]) [(64, 24), (88, 2)] false
      (some (pHandle (adm 0x1C [(88, 1)]))) [.created, .resident, .blocked] ∧
    (ctxHeats withCtx 0 = [] ∧ ctx0.state = .resident) ∧
    AdminReady (live (boxed withCtx (adm 0x1D []))) box 0x1D (adm 0x1D []) [(64, 24)] false (some (pHandle (adm 0x1D [])))
      [.created, .resident, .blocked] :=
  ⟨admin_ready (by decide +kernel), admin_ready (by decide +kernel), by decide +kernel, admin_ready (by decide +kernel),
   by decide +kernel, by decide +kernel, admin_ready (by decide +kernel), admin_ready (by decide +kernel), by decide +kernel,
   admin_ready (by decide +kernel)⟩

/-! ## Witnesses: microcode -/

/-- MICROCODE_LOAD of an image of 128 bytes at 0x1000. -/
def eImage : BitVec 512 := adm 0x20 [(64, 0x1000), (128, 128)]

/-- A block whose executor waits for that image. -/
def imageBlk : Block := { withCtx with adm := { withCtx.adm with busy := some { src := 4, entry := eImage, wait := .image, gen := 0 } } }

/-- A block that holds an image, checked or not. -/
def heldImage (passed : Bool) : Block := { withCtx with mic := { withCtx.mic with image := some { src := 4, tag := 7, bytes := [], passed := passed } } }

/-- A dictionary write by the secure master. -/
def secWrite (idx sub len v : Nat) : DictAcc :=
  { path := .secure, org := { port := 0, fn := 0, priv := 0 }, tag := 0, idx := idx, sub := sub, len := len, value := v }

/-- `DictReady`, as a check. -/
theorem dict_ready {b : Block} {a : DictAcc} {d : Desc} (h : (decide (b.mic.selftest ≠ 0) && reachesDict a && !dictBusy b &&
    !winBusy b a && decide (dictDesc a.idx a.sub = some d) && decide (writeCheck b a = none)) = true) : DictReady (live b) a d := by
  simp only [and_assoc, Bool.and_eq_true, decide_eq_true_eq, Bool.not_eq_true'] at h
  exact ⟨⟨rfl, rfl⟩, h.1, h.2.1, h.2.2.1, h.2.2.2.1, h.2.2.2.2.1, h.2.2.2.2.2⟩

/-- The block before boot, its SRAM tested. -/
def unbooted : Block := { booted with mic := { booted.mic with status := 0 } }

/-- The entry that a write names, where it is one. -/
def entOf (a : DictAcc) : Desc := (dictDesc a.idx a.sub).getD (dEnt 0 0 0 0 0)

/-- Writes of `BOOT_CMD` and `CUSTOMER_KEY_HASH`. -/
def wBoot : DictAcc := secWrite 0xA000 6 1 1
def wKey : DictAcc := secWrite 0xA000 3 48 5

theorem wit_MicrocodeImages :
    AdminReady (live (boxed withCtx eImage)) box 0x20 eImage [(64, 64), (128, 32), (160, 1)] true none [] ∧
    (field eImage 64 64 % 64 = 0 ∧ tagsNow imageBlk 0 { rgen := 0, fgen := 0 } = true ∧ withCtx.mic.image = none) ∧
    (imageCheck imageBlk [] (field eImage 128 32) false true).isSome = true ∧
    ((heldImage false).mic.image.map (fun x => x.passed) = some false ∧ (heldImage true).mic.image.map (fun x => x.passed) = some true ∧
      handlersRun (heldImage true) = false) ∧
    DictReady (live unbooted) wBoot (entOf wBoot) ∧ unbooted.mic.selftest = 1 ∧
    ({ unbooted.mic with status := 1 } : Micro).status = 1 ∧
    DictReady (live booted) wKey (entOf wKey) ∧ booted.mic.keyHash = none ∧
    DictReady (live { booted with mic := { booted.mic with keyHash := some 3 } }) wKey (entOf wKey) :=
  ⟨admin_ready (by decide +kernel), by decide +kernel, by decide +kernel, by decide +kernel, dict_ready (by decide +kernel),
   by decide +kernel, by decide +kernel, dict_ready (by decide +kernel), by decide +kernel, dict_ready (by decide +kernel)⟩

/-- A customer submission of opcode 0x80, and the block it arrives in; `d` is the opcode's descriptor: present, no privilege, for
a Resident context, 16 × 1,024 steps, entry point 0x3000. -/
def eCust : BitVec 512 := 0x180#512
def dCust : BitVec 64 := 0x0000300000100000#64 ||| 0x45#64
def custBlk (d : BitVec 64) : Block := { qBlk (sqFront eCust) cq0 with mic := { withCtx.mic with desc := [(0, d), (128, d)] } }

theorem wit_HandlerStarts :
    (frontEntry (custBlk dCust) 0 = some eCust ∧ 0x80 ≤ eOpcode eCust ∧ entryReserved eCust = false ∧ imageHolds (custBlk dCust) 0x80 = false ∧ fmHas (custBlk dCust).mic.seqs (0 % 2) = false ∧
      bitAt (descOf (custBlk dCust) false 0x80) 0 = true ∧ admitTest (custBlk dCust) (sqFront eCust) eCust = none) ∧
    (frontEntry (custBlk 0) 0 = some eCust ∧ bitAt (descOf (custBlk 0) false 0x80) 0 = false) ∧
    AdminReady (live (boxed (custBlk dCust) (adm 0x80 []))) box 0x80 (adm 0x80 []) [(64, 448)] (bitAt dCust 1) none (dsCtxStates dCust) ∧
    (let d := dCust ||| 0xA#64
     bitAt d 3 = true ∧ dsCtxStates d = [.resident]) ∧
    AdminReady (live (boxed (custBlk (dCust ||| 0xA)) (adm 0x80 []))) box 0x80 (adm 0x80 []) [(64, 448)] true (some (pHandle (adm 0x80 [])))
      (dsCtxStates (dCust ||| 0xA)) :=
  ⟨by decide +kernel, by decide +kernel, admin_ready (by decide +kernel), by decide +kernel, admin_ready (by decide +kernel)⟩

/-- A customer handler of a submission on SQ 0 that is at a micro address, with some registers. -/
def ms0 (pc : Nat) (regs : FMap Word) : MicroSeq where
  who := some (.sub 0)
  entry := 0x180
  ctx := some 0
  pc := pc
  regs := regs
  count := 0
  steps := 5
  limit := 1024
  pend := false
  reply := 0
  result := 0
  carry := false
  fence := 0

/-- The block in which it runs, with one nano word for the micro address 0x3000: source registers 1 and 2, destination 3, `DST_EN`. -/
def msBlk (w : BitVec 256) (ms : MicroSeq) : Block :=
  { qBlk (sqFront (entryWait 0x180)) cq0 with
    fen := { withCtx.fen with cache := [(0x2000008, { value := 5, used := 0, drop := false })] }
    mic := { withCtx.mic with seqs := [(0, ms)], micro := [(0x3000, BitVec.ofNat 32 (0x3001 * 64))], nano := [(0, w)] } }

/-- A nano word with operation, service and size. -/
def nano (op svc size : Nat) : BitVec 256 :=
  BitVec.ofNat 256 (op + 1 * 2 ^ 8 + 2 * 2 ^ 14 + 3 * 2 ^ 20 + 2 ^ 26 + svc * 2 ^ 28 + size * 2 ^ 32)

/-- The handler at the first of its microwords, its registers 1 and 2 holding an address of the context and 6. -/
def msRun : MicroSeq := ms0 0x3000 [(1, 0x100008), (2, 6)]

theorem wit_MicrowordRuns :
    (seqRuns (msBlk (nano 1 0 0) msRun) 0 = some msRun ∧ inRegion 0x3000 = true ∧ inRegion 0x3FFF = true ∧
      nwService (nano 1 0 0) = 0 ∧ nwOp (nano 10 0 0) = 10 ∧ nwOp (nano 6 0 0) = 6 ∧ (wreg msRun 2).toNat < 64) ∧
    (nwOp (nano 8 0 0) = 8 ∧ field (nano 8 0 0) 48 4 + 1 ≤ 8) ∧
    (nwService (nano 0 1 0) = 1 ∧ svcBytes (msBlk (nano 0 1 0) msRun) msRun 0x100008 1 false = some [0x2000008]) ∧
    (nwService (nano 0 2 3) = 2 ∧ nwSize (nano 0 2 3) = 3 ∧
      svcBytes (msBlk (nano 0 2 3) msRun) msRun 0x100008 8 true = some ((List.range 8).map (fun i => 0x2000008 + i))) ∧
    (let b := msBlk (nano 0 4 3) msRun
     nwService (nano 0 4 3) = 4 ∧ svcFence b msRun 0x100008 true = some 0x2000008 ∧ isLocal b 0x2000008 = true ∧
      (fenceEnt b 0x2000008).map (fun f => (f.value, f.drop)) = some (5, false) ∧ b.fen.misses = [] ∧ b.fen.waits = [] ∧
      reached 6 5 = true) ∧
    nwService (nano 0 5 3) = 5 := by decide +kernel

/-- A handler at an export, with some registers. -/
def msSub (pc : Nat) (regs : FMap Word) : Block := msBlk (nano 0 0 0) (ms0 pc regs)

/-- The registers that hold an entry which waits for the fence at 0x100008 to reach 6; its opcode comes from register 13. -/
def regsEntry : FMap Word := [(0, 0x180), (2, 0x0008000000000000), (3, 0x10), (5, 6), (13, 0)]

/-- A handler of a customer admin command, on the executor's microsequencer, that may pend; its registers 14 and 15 name the fence at
0x100008 and the value 6. -/
def msAdm (pc st : Nat) (steps : Nat) : MicroSeq :=
  { ms0 pc [(13, BitVec.ofNat 64 st), (14, 0x100008), (15, 6)] with who := some (.admin 4 7 0x80 0), steps := steps }

/-- The block in which that handler runs. -/
def admBlk (ms : MicroSeq) : Block :=
  { msBlk (nano 0 0 0) ms with mic := { withCtx.mic with seqs := [(2, ms)], desc := [(128, dCust)] } }

/-- That handler pends. -/
def pendCust : Pend := { no := 0, src := 4, tag := 7, opcode := 0x80, fn := 0, port := 0, kind := .customer (msAdm 0x3100 0 0) 0x2000008 6 }

theorem wit_HandlerEnds :
    ((seqAt (msSub 0x10 [(13, 0x22)]) 0 0x10).isSome = true ∧ entryStatus 0x22 = true ∧ entryStatus 0x20 = true ∧ entryStatus 0 = false ∧
      (sqFront (entryWait 0x180)).dying = false ∧ (sqFront (entryWait 0x180)).holdReq = false) ∧
    (let ms := { ms0 0x3000 [] with steps := 1024 }
     ms.limit ≤ ms.steps) ∧
    (let b := msSub 0x11 regsEntry
     let ms := ms0 0x11 regsEntry
     seqAt b 0 0x11 = some ms ∧ entryKind (admitEntry ms) = some .barrier ∧ eCtx (admitEntry ms) = eCtx ms.entry ∧
      admitTest b (sqFront (entryWait 0x180)) (admitEntry ms) = none ∧ quotaFull b 0 = false ∧
      eWaitAddr (admitEntry ms) false = 0x100008 ∧ eWaitAddr (admitEntry ms) true = 0 ∧
      translate b (eCtx (admitEntry ms)) 0x100008 false = some 0x2000008 ∧ reached 5 (eWaitValue (admitEntry ms) false) = false ∧ fenceRoom b 0x2000008 = true) ∧
    ((seqAt (admBlk (msAdm 0x12 0x0E30 5)) 2 0x12).isSome = true ∧ finalStatus 0x30 = true ∧ field 0x0E30#64 8 8 ≤ 0x0E ∧ finalStatus 0x31 = false) ∧
    (let ms := msAdm 0x13 0x3100 5
     let b := admBlk ms
     seqAt b 2 0x13 = some ms ∧ bitAt (descOf b true 0x80) 2 = true ∧ inRegion (field (wreg ms 13) 0 14) = true ∧
      svcFence b ms (wreg ms 14) false = some 0x2000008 ∧ reached 5 (wreg ms 15) = false ∧ fenceRoom b 0x2000008 = true) ∧
    (let b := { withCtx with adm := { withCtx.adm with pend := [pendCust] } }
     b.adm.busy = none ∧ fmHas b.mic.seqs 2 = false ∧ handlerWaits b 0 = false) := by decide +kernel

/-! ## Witnesses: fences -/

/-- A local fence, and one whose home is chip 1. -/
def fA : Word := 0x2000008
def fR : Word := 0x0010000002000008

/-- Who signals. -/
def by0 : SigBy := { chip := 0, ctx := 0, tag := 0, part := 0, deps := [], after := .nothing }

/-- The heat's block with a fence state. -/
def fenBlk (f : Fences) : Block := { heatBlk with fen := f }

/-- Nothing cached; the operation waits for the read of the fence. -/
def missOf (o : FOp) : Fences := { withCtx.fen with misses := [{ addr := fA, op := o, drop := false, held := true }] }

/-- The fence is cached with value 5. -/
def cached : Fences := { withCtx.fen with cache := [(0x2000008, { value := 5, used := 0, drop := false })] }

/-- A write-through of a value to an address. -/
def wr0 (a v : Word) : FWrite := { addr := a, value := v, due := 2000, deps := [], after := [] }

/-- A baton of the heat on L0. -/
def batL : Baton := { bat0 with ent := { ent0 with pos := 12 } }

/-- The cycle of run 0 alone, waiting on core 0. -/
def cyc0 : CreditSet := { runs := [0], values := [(fA, 5)], young := 0, core := 0, since := 0 }

/-- Core 0 waits for a credit that it has itself declared. -/
def cycleBlk : Block :=
  { heatBlk with
    cores := [(0, { core0 with hold := .localFence fA 6 true, credits := [fA] })]
    walk := { heatBlk.walk with pass := some [cyc0], prev := [cyc0] } }

theorem wit_FenceEvents :
    (let b := fenBlk (missOf (.wait (.item 0 false) 6))
     fenceEnt b fA = none ∧ fenceRoom { b with fen := { b.fen with misses := [] } } fA = true ∧ b.fen.cache.length < 32768 ∧ b.fen.misses.filter (fun m => m.addr = fA) = b.fen.misses ∧
      itemOf b 0 = some item0 ∧ reached 5 6 = false) ∧
    (fenceEnt (fenBlk (missOf (.signal 6 by0))) fA = none ∧ (6 : Word) ≠ 5 ∧ reached 6 5 = true ∧ reached 4 5 = false ∧
      (fenBlk (missOf (.signal 6 by0))).fen.waits = []) ∧
    (let w := wr0 fA 6
     (fA, w.value) ∉ (wr0 fR 1).deps ∧ (wr0 fR 1).addr ≠ fA ∧ w.addr = fA) ∧
    (let y := { wr0 fR 1 with deps := [(fA, 6)] }
     y.deps = [(fA, (wr0 fA 6).value)]) ∧
    (let b := { heatBlk with cores := [(0, { core0 with hold := .remoteFence fR 6 3000 true })] }
     (coreOf b 0).run = some 0 ∧ runOf b 0 = some run0 ∧ run0.abort = none ∧ run0.endedAt = none ∧ 0 ∈ run0.clusters ∧ 0 ∉ run0.partsEnded) ∧
    (let b := { heatBlk with ports := [(0, { CPort.fresh with out := [batL] })] }
     (portOf b 0).out.find? (fun y => y.id = batL.id && isL y.ent.pos) = some batL ∧ batL.run = 0) ∧
    (({ heatBlk.sb with full := true, fullSince := some (900, 50) } : Scoreboard).fullSince = some (900, 50) ∧
      ({ heatBlk.sb with quota := [(0, (900, 50))] } : Scoreboard).full = false) ∧
    (let w : Fences := { withCtx.fen with writes := [wr0 fA 6], acks := [{ deps := [(fA, 6)], next := .remote fR 1 by0 }] }
     w.acks = [{ deps := [(fA, (wr0 fA 6).value)], next := .remote fR 1 by0 }]) ∧
    (heatBlk.walk.pass = none) := by decide +kernel

theorem wit_FenceEvents_walker :
    (heatBlk.walk.pass = none ∧ timeRuns heatBlk = true ∧ heatBlk.tide.time ≤ ({ heatBlk.walk with due := 5000 } : Walker).due) ∧
    orphans { heatBlk with walk := { heatBlk.walk with pass := some [] } } = [] ∧
    (orphans cycleBlk = [] ∧ cyc0.runs = cyc0.runs ∧ cyc0.young = 0 ∧ (coreOf cycleBlk 0).holdFrom = cyc0.since ∧ ctx0.handle = run0.ctx ∧
      (creditWaits cycleBlk).find? (fun w => w.1 = 0 && w.2.1 = 0) = some (0, 0, fA, 6) ∧ ctxOf cycleBlk run0.ctx = some ctx0 ∧ ctx0.state = .resident ∧
      cycleBlk.rel.samples = []) ∧
    (let b := { heatBlk with
       cores := [(0, { core0 with hold := .localFence fA 6 true })]
       walk := { heatBlk.walk with pass := some [], enders := [(0x2000008, true)] } }
     orphans b = [(0, 0, fA, 6)]) := by decide +kernel

/-- `n` fences of this chip, each pinned by a wait. -/
def pinnedWaits (n : Nat) : List FWaitRec := (List.range n).map (fun i => { addr := BitVec.ofNat 64 (8 * i), value := 1, who := .chip 1 })

theorem eraseDups_nodup {α : Type} [BEq α] [LawfulBEq α] {l : List α} (h : l.Nodup) : l.eraseDups = l := by
  induction l with
  | nil => rfl
  | cons a l ih =>
    have h := List.nodup_cons.1 h
    rw [List.eraseDups_cons, List.filter_eq_self.2 (fun b hb => by simpa using fun e : b = a => h.1 (e ▸ hb)), ih h.2]

/-- With as many as the cache has places, none can be given away. -/
theorem room_full (n : Nat) (b : Block) (hn : chipNo b = 0) (hw : b.fen.waits = pinnedWaits n) (hm : b.fen.misses = []) (a : Word)
    (hl : n ≤ 32768) (hf : fenceCapacity ≤ n) (ha : 262144 ≤ a.toNat) : fenceRoom b a = false := by
  have nodup : ((List.range n).map (fun i => BitVec.ofNat 64 (8 * i))).Nodup := by
    refine List.Nodup.map_on (fun x hx y hy h => ?_) List.nodup_range
    have h := congrArg BitVec.toNat h
    simp only [BitVec.toNat_ofNat, List.mem_range] at h hx hy
    omega
  have here : b.fen.waits.filter (fun w => isLocal b w.addr.toNat) = b.fen.waits := by
    refine List.filter_eq_self.2 (fun w h => ?_)
    rw [hw] at h
    obtain ⟨i, hi, rfl⟩ := List.mem_map.1 h
    have hi := List.mem_range.1 hi
    simp only [isLocal, gchip, hn, BitVec.toNat_ofNat, Nat.shiftRight_eq_div_pow, decide_eq_true_eq]
    omega
  have held : claimedFences b = (List.range n).map (fun i => BitVec.ofNat 64 (8 * i)) := by
    rw [claimedFences, here, hm, hw]
    simp only [List.filter_nil, List.map_nil, List.append_nil, pinnedWaits, List.map_map]
    exact eraseDups_nodup nodup
  have new : ((List.range n).map (fun i => BitVec.ofNat 64 (8 * i))).contains a = false := by
    simp only [List.contains_eq_mem, List.mem_map, List.mem_range, decide_eq_false_iff_not, not_exists, not_and]
    intro i hi e
    have e := congrArg BitVec.toNat e
    simp only [BitVec.toNat_ofNat] at e
    omega
  rw [fenceRoom, pinRoom, held]
  simp only [List.filter_cons, new, Bool.not_false, if_true, List.filter_nil, List.length_map, List.length_range]
  have one : ([a] : List Word).eraseDups.length = 1 := by simp [eraseDups_nodup]
  have some_ : ([a] : List Word).eraseDups.isEmpty = false := by simp [eraseDups_nodup]
  simp only [one, some_, Bool.false_or, decide_eq_false_iff_not]
  omega

/-- A message of chip 1 in its turn. -/
def hdr1 : GzHdr := { port := 0, src := 1, dst := 0, gen := 0, seq := 0, tree := false, hops := 0, detoured := false }

/-- A block with port 0 admitted and a route to chip 1. -/
def linked (b : Block) : Block :=
  { b with fab := { b.fab with ports := [(0, { LinkPort.fresh with trained := true, admitted := true })], routes := [(1, (0, 1))] } }

theorem in_turn {b : Block} {h : GzHdr} {tree : Bool} (ht : (decide (b.rcv.stage = .idle) && decide (h.port < 6) &&
    (linkOf b h.port).admitted && decide (h.dst = chipNo b) && decide (h.hops < 63) && (match fmGet? b.fab.rx (spaceKey h.src tree) with
      | some x => decide (x.gen = h.gen) && decide (x.next = h.seq) && decide (x.held = [])
      | none => decide (h.seq = 0))) = true) : InTurn (live b) h tree := by
  simp only [and_assoc, Bool.and_eq_true, decide_eq_true_eq] at ht
  obtain ⟨idle, onPort, open_, mine, near, turn⟩ := ht
  refine ⟨⟨rfl, rfl⟩, idle, onPort, open_, mine, near, ?_⟩
  cases hc : fmGet? b.fab.rx (spaceKey h.src tree) with
  | none => simpa [live, hc] using turn
  | some x => simpa [live, hc, and_assoc] using turn

/-- A watch on the fence of chip 1. -/
def watch0 : RWatch := { addr := fR, value := 6, sent := true, retry := none }

/-- Core 0 waits for that fence. -/
def remBlk : Block :=
  { heatBlk with
    cores := [(0, { core0 with hold := .remoteFence fR 6 3000 false })]
    fen := { withCtx.fen with waits := [{ addr := fR, value := 6, who := .core 0 false }], watches := [watch0] } }

theorem wit_FenceMessages :
    InTurn (live (linked (fenBlk cached))) hdr1 false ∧
    (let b := linked (fenBlk cached)
     isLocal b fA.toNat = true ∧ (fenceEnt b fA).map (fun x => (x.value, x.drop)) = some (5, false) ∧ b.fen.misses = [] ∧ b.fen.waits = [] ∧
      b.fen.writes = [] ∧ (6 : Word) ≠ 5 ∧ reached 6 5 = true ∧ reached 4 5 = false ∧ reached 5 6 = false ∧ reached 5 4 = true) ∧
    (let b := linked { heatBlk with fen := { withCtx.fen with signals := [{ seq := 0, chip := 1, after := .nothing }] } }
     (∀ x ∈ b.fen.signals, x.after = .nothing)) ∧
    InTurn (live (linked remBlk)) hdr1 false ∧
    (let b := linked remBlk
     gchip fR.toNat = hdr1.src ∧ isLocal b fR.toNat = false ∧ b.fen.waits.filter (fun w => w.addr = fR && reached 6 w.value) = b.fen.waits ∧
      (coreOf b 0).run = some 0 ∧ runOf b 0 = some run0 ∧ run0.abort = none) ∧
    (let b := linked { remBlk with fen := { remBlk.fen with watches := [{ watch0 with retry := some 2000 }] } }
     b.fen.watches.find? (fun x => x.addr = fR && x.value = 6) = some { watch0 with retry := some 2000 } ∧ routed b (gchip fR.toNat) = true) :=
  ⟨in_turn (by decide +kernel), by decide +kernel, by decide +kernel, in_turn (by decide +kernel), by decide +kernel, by decide +kernel⟩

/-- A block whose cache is full of pinned fences. -/
def fullBlk (ws : List FWaitRec) : Block := linked (fenBlk { withCtx.fen with waits := ws })

theorem full_watch (n : Nat) (hl : n ≤ 32768) (hf : fenceCapacity ≤ n) :
    InTurn (live (fullBlk (pinnedWaits n))) hdr1 false ∧ fenceEnt (fullBlk (pinnedWaits n)) fA = none ∧
      fenceRoom (fullBlk (pinnedWaits n)) fA = false :=
  ⟨in_turn rfl, rfl, room_full n _ rfl rfl rfl fA hl hf (by decide)⟩

/-- A watch that arrives while every place of the cache is pinned. -/
theorem wit_FenceMessages_busy :
    ∃ ws, InTurn (live (fullBlk ws)) hdr1 false ∧ fenceEnt (fullBlk ws) fA = none ∧ fenceRoom (fullBlk ws) fA = false :=
  ⟨pinnedWaits fenceCapacity, full_watch fenceCapacity (by decide) (Nat.le_refl _)⟩

/-! ## Witnesses: heats and slots -/

/-- An LC entry for reservation 3: `entryBe` with class 0. -/
def entryLc : BitVec 512 :=
  0x1000000000000000000000000000000000000001000000000#256 ++ 0x10100000000008ffff00030000000000070101#256

/-- Work items that are ready: LC, BE, and a document of 10 tokens in chunks of 4, two at once. -/
def itemLc : Item := { newItem 0 0 0 entryLc 0 .heat with w0 := .done, w1 := .done, stage := .composer }
def itemBe : Item := { newItem 0 0 0 entryBe 0 .heat with w0 := .done, w1 := .done, stage := .composer, desc := some 0, starveBy := 9000 }
def doc0 : Doc :=
  { tokens := 10, len := 4, par := 2, total := 3, next := 2, again := [], flying := 1, failed := none, skips := false, replayed := false }
def itemDoc : Item := { itemBe with stage := .running, doc := some doc0 }

/-- A reservation of clusters 0 and 1 in every frame, and the sheet that has it. -/
def res3 : Reservation := { ref := 3, perLog2 := 0, mixing := false, phase := 0, offset := 100, budget := 5000, mask := 3 }
def sheet0 : Sheet := { id := 1, planVer := 0, frameLen := 1000000, advGen := 0, total := 84, crc := 0, res := [res3], wins := [] }

/-- A block with a work item, whose partition 0 has that sheet. -/
def readyBlk (i : Item) : Block :=
  { withCtx with
    sb := { withCtx.sb with items := [(0, i)] }
    tide := { withCtx.tide with refOn := true, sheets := [(0, { SheetSlot.fresh with active := some sheet0 })] } }

/-- Without the sheet, every cluster ACTIVE. -/
def beBlk (i : Item) : Block :=
  { readyBlk i with
    tide := { withCtx.tide with refOn := true, sheets := [] }
    pwr := { withCtx.pwr with clusters := [(0, { PwrRec.fresh with order := 3, state := 3 }), (1, { PwrRec.fresh with order := 3, state := 2 })] } }

/-- A run of another heat that has ended and still holds cluster 0. -/
def runEnded (done : Bool) : Run := { run0 with endedAt := some 900, done := done, lc := true, tag := 1 }

/-- The block in which it does. -/
def heldBlk (done : Bool) : Block := { readyBlk itemLc with comp := { withCtx.comp with runs := [(0, runEnded done)], nextRun := 1 } }

/-- The occurrence that waits for it. -/
def late0 : LateOcc := { tag := 0, part := 0, res := res3, begun := 500, due := 5500, frame := 0, overrun := false }

theorem wit_HeatStarts :
    (let b := readyBlk itemLc
     liveSheet b 0 = some sheet0 ∧ sheet0.res.find? (fun y => decide (y.ref = 3)) = some res3 ∧ framesRun b = true ∧
      inFrame res3.perLog2 res3.phase b.tide.frame = true ∧ occBegun b 0 3 = false ∧ lcReady b 0 3 = [(0, itemLc)] ∧
      b.pwr.hold = false ∧ occHeld b 0 (resClusters res3) = false ∧ resClusters res3 = [0, 1] ∧ (∀ c ∈ [0, 1], withdrawn b c = false)) ∧
    (lcReady (readyBlk itemBe) 0 3 = [] ∧ occBegun (readyBlk itemBe) 0 3 = false) ∧
    (let b := { readyBlk itemLc with pwr := { withCtx.pwr with hold := true } }
     lcReady b 0 3 = [(0, itemLc)] ∧ b.pwr.hold = true) ∧
    (let b := heldBlk false
     lcReady b 0 3 = [(0, itemLc)] ∧ occHeld b 0 (resClusters res3) = true ∧ (∀ x ∈ b.comp.runs, x.2.lc = true ∨ x.2.overrun = true)) ∧
    (runOf (heldBlk true) 0 = some (runEnded true) ∧ (runEnded true).endedAt ≠ none ∧ (runEnded true).released = false ∧
      (heldBlk true).comp.lateWait = []) ∧
    (let b := { heldBlk true with comp := { (heldBlk true).comp with lateWait := [late0] } }
     b.comp.runs = [(0, runEnded true)] ∧ b.live = [] ∧ itemOf b late0.tag = some itemLc ∧ itemLc.stage = .composer) ∧
    (let d : BitVec 256 := 0x0000000A000000808000000000#256
     bitAt d 39 = true ∧ field d 64 32 ≠ 0) ∧
    (bePick (beBlk itemBe) 0 = some (0, itemBe, [0]) ∧ itemBe.doc = none ∧ clusterHeld (beBlk itemBe) 0 = false ∧
      2 ≤ (pwrOf (beBlk itemBe) 0).state ∧ 2 ≤ (pwrOf (beBlk itemBe) 1).state ∧ 0 ∈ partClusters (beBlk itemBe) 0) ∧
    (bePick (beBlk itemDoc) 0 = some (0, itemDoc, [0]) ∧ pendingChunk doc0 = some 2 ∧ itemOf (beBlk itemDoc) 0 = some itemDoc ∧
      min doc0.len (doc0.tokens - 2 * doc0.len) = 2) ∧
    (itemOf (beBlk itemBe) 0 = some itemBe ∧ beWaits itemBe = true ∧ itemBe.starved = false) := by
  and_intros <;> decide +kernel

/-- The read of a BE descriptor, answered. -/
def beRead : HeatRead := { sq := 0, ord := 0, g := { t := { rgen := 0, fgen := 0 }, port := 0, beats := 1 } }

theorem wit_HeatStarts_descriptor :
    (let i := { itemBe with descRd := .flying 1 false }
     itemOf (beBlk i) 0 = some i ∧ i.stage = .composer ∧ heatReadNow (beBlk i) 0 beRead = true ∧
      heatReadNow (beBlk i) 0 { beRead with ord := 1 } = false) := by decide +kernel

/-- A context that waits for a slot, with ID 1, and partition 0 with a number of slots. -/
def ctxWait : Ctx := { ctx0 with handle := 1, state := .created, slot := none, slotWait := some 900 }
def slotBlk (slots : Nat) (c : Ctx) : Block :=
  { withCtx with obj := { withCtx.obj with ctxs := [(0, c), (1, ctxWait)], parts := [(0, { part0 with slots := slots })], hct := [1, 0] } }

/-- Context 0 Blocked for long. -/
def ctxBlk0 : Ctx := { ctx0 with state := .blocked, blockedAt := 100, evictAt := 5000 }

theorem wit_SlotTurns :
    (let b := { slotBlk 2 ctx0 with obj := { (slotBlk 2 ctx0).obj with hct := [0] } }
     fmGet? b.obj.ctxs 1 = some ctxWait ∧ ctxWait.slotWait ≠ none ∧ inHct b ctxWait = false ∧ field ctxWait.handle 0 20 = 1) ∧
    (let b := slotBlk 2 ctx0
     slotNext b 0 = some ctxWait ∧ inHct b ctxWait = true ∧ b.sb.items = [] ∧ slotFree b 0 = true ∧
      lowestFree ((b.obj.ctxs.map Prod.snd).filterMap (fun x => x.slot)) 0 64 = some 1) ∧
    (let b := slotBlk 1 ctx0
     slotNext b 0 = some ctxWait ∧ slotFree b 0 = false ∧ idleHolder b 0 = some ctx0 ∧ field ctx0.handle 0 20 ≠ field ctxWait.handle 0 20 ∧
      lowestFree (((leaveSlot b ctx0 .created).obj.ctxs.map Prod.snd).filterMap (fun x => x.slot)) 0 64 = some 0) ∧
    (let b := slotBlk 1 ctxBlk0
     slotFree b 0 = false ∧ idleHolder b 0 = none ∧ evictionDue b 0 = 5000 ∧
      evictable (passTo b (evictionDue b 0)) 0 = some ctxBlk0 ∧
      lowestFree (((leaveSlot b ctxBlk0 .created).obj.ctxs.map Prod.snd).filterMap (fun x => x.slot)) 0 64 = some 0) := by decide +kernel

/-! ## Witnesses: time, frames and sheets -/

/-- The block with the tide unit in a state. -/
def tideBlk (f : Tide → Tide) : Block := { withCtx with tide := f { withCtx.tide with refOn := true, good := 3 } }

/-- A plan of chips 0 and 1, both members in rack 0, with a time master and a rack leader. -/
def plan0 (tm leader : Nat) (two : Bool) : Plan where
  version := 1
  twoRack := two
  compat := false
  timeMaster := tm
  rackLeader := leader
  crc := 0
  chips := [{ chip := 0, member := true, rack := 0, parent := 0, reach := 0x8001 }, { chip := 1, member := true, rack := 0, parent := 0, reach := 0x8001 }]
  groups := []

/-- The block under a plan, port 0 leading to chip 1. -/
def planned (p : Plan) (b : Block) : Block := { linked b with fab := { (linked b).fab with plan := some p } }

/-- The announce of chip 1. -/
def ann0 : Announce := { nextFsync := 1001000, origin := 0, length := 50000, pending := 0, changeAt := 0, corr := 0 }

/-- A write of `TIME_SET_NS`. -/
def wTime : DictAcc := secWrite 0x4000 3 8 77

theorem wit_TideTime :
    (let b := tideBlk id
     b.tide.refOn = true ∧ b.fab.plan = none ∧ 1000 * 100 = dget b 0x4000 1 * 100 ∧ b.tide.timeSet = none ∧ b.tide.announce = none ∧
      b.tide.good ≠ 0 ∧ b.tide.locked = true ∧ b.tide.fsyncOk = true ∧ b.tide.slew = 0 ∧ timeMaster b = true) ∧
    (let b := tideBlk (fun t => { t with locked := false, fsyncOk := false, time := 0 })
     b.tide.locked = false ∧ b.tide.freeRun = false ∧ b.tide.time = 0 ∧ 1000 ≤ dget b 0x4000 1 * 100) ∧
    InTurn (live (planned (plan0 1 1 false) (tideBlk id))) { hdr1 with tree := true } true ∧
    InTurn (live (planned (plan0 1 0 true) (tideBlk id))) hdr1 false ∧ rackLeader (planned (plan0 1 0 true) (tideBlk id)) = true ∧
    (framesRun (tideBlk id) = true ∧ (tideBlk (fun t => { t with refOn := false, timeHold := true })).tide.timeHold = true ∧
      (tideBlk (fun t => { t with refOn := false })).tide.timeHold = false ∧
      runOf { heatBlk with comp := { heatBlk.comp with runs := [(0, { run0 with lc := true })] } } 0 = some { run0 with lc := true }) ∧
    DictReady (live (tideBlk id)) wTime (entOf wTime) ∧
    DictReady (live (planned (plan0 1 1 false) (tideBlk id))) wTime (entOf wTime) ∧ timeMaster (planned (plan0 1 1 false) (tideBlk id)) = false :=
  ⟨by decide +kernel, by decide +kernel, in_turn (by decide +kernel), in_turn (by decide +kernel), by decide +kernel, by decide +kernel,
   dict_ready (by decide +kernel), dict_ready (by decide +kernel), by decide +kernel⟩

/-- The announces of R271 that a chip keeps, and the one that the rack leader corrects. -/
theorem wit_TideTime_announce :
    (InTurn (live (planned (plan0 0 1 true) (tideBlk id))) { hdr1 with tree := true } true ∧
      hdr1.src ≠ (plan0 0 1 true).timeMaster ∧ hdr1.src = (plan0 0 1 true).rackLeader ∧
      rackOf (planned (plan0 0 1 true) (tideBlk id)) (chipNo (planned (plan0 0 1 true) (tideBlk id))) =
        rackOf (planned (plan0 0 1 true) (tideBlk id)) hdr1.src) ∧
    (InTurn (live (planned (plan0 1 0 true) (tideBlk id))) { hdr1 with tree := true } true ∧
      hdr1.src = (plan0 1 0 true).timeMaster ∧ chipNo (planned (plan0 1 0 true) (tideBlk id)) = (plan0 1 0 true).rackLeader ∧
      (planned (plan0 1 0 true) (tideBlk id)).tide.locked = true) :=
  ⟨⟨in_turn (by decide +kernel), by decide +kernel, by decide +kernel, by decide +kernel⟩,
   in_turn (by decide +kernel), by decide +kernel, by decide +kernel, by decide +kernel⟩

/-- A heat with a deadline. -/
def runDue : Run := { run0 with lc := true, deadline := some 5000 }

/-- A member chip in frame 7. -/
def inDomain : Block := planned (plan0 0 1 false) (tideBlk (fun t => { t with member := true, frame := 7, length := 50000 }))

theorem wit_TideFrames :
    (timeRuns (tideBlk id) = true ∧ (tideBlk id).tide.inFrames = true ∧ frameReached 1 1 = true ∧ frameReached 0 1 = false) ∧
    (timeRuns (tideBlk (fun t => { t with inFrames := false })) = true) ∧
    (let b := { heatBlk with comp := { heatBlk.comp with runs := [(0, runDue)] } }
     b.comp.lateWait = [] ∧ b.comp.runs.find? (fun x => decide (x.2.tag = 0) && x.2.deadline.isSome && x.2.endedAt.isNone && !x.2.overrun) = some (0, runDue)) ∧
    (late0.tag = 0 ∧ late0.overrun = false) ∧
    InTurn (live inDomain) { hdr1 with tree := true } true ∧
    (inDomain.tide.member = true ∧ (6, 1) ∉ inDomain.tide.seen ∧ frameReached inDomain.tide.frame ((6 + 2) % 2 ^ 48) = false ∧
      frameReached inDomain.tide.frame ((5 + 2) % 2 ^ 48) = true) ∧
    InTurn (live inDomain) hdr1 false ∧
    (timeMaster inDomain = true ∧ inDomain.tide.length < max (dget inDomain 0x4010 2) (max inDomain.tide.maxFloor 60000) ∧
      rackOf inDomain 1 = rackOf inDomain (chipNo inDomain)) ∧
    (let b := { inDomain with tide := { inDomain.tide with member := false } }
     InTurn (live b) hdr1 false ∧ b.tide.member = false) ∧
    (let b := tideBlk (fun t => { t with pendLen := some (60000, 1) })
     timeRuns b = true ∧ b.tide.inFrames = true ∧ frameReached ((b.tide.frame + 1) % 2 ^ 48) 1 = true ∧
      0 ≤ (b.tide.baseTime : Int) + frameDiff 1 b.tide.baseFrame * b.tide.length) := by
  and_intros <;> first | exact in_turn (by decide +kernel) | decide +kernel

/-- A sheet of 96 bytes for partition 0, its CRC field zero: one reservation, of clusters 0 and 1. -/
def sheetBytes : List Byte :=
  leBytes 4 0x45444954 ++ leBytes 2 1 ++ leBytes 2 0 ++ leBytes 4 9 ++ leBytes 4 0 ++ leBytes 4 50000 ++ leBytes 4 0 ++ leBytes 2 1 ++
    leBytes 2 0 ++ leBytes 4 64 ++ leBytes 4 0 ++ leBytes 4 96 ++ leBytes 24 0 ++
    (leBytes 2 3 ++ leBytes 2 0 ++ leBytes 4 0 ++ leBytes 4 100 ++ leBytes 4 5000 ++ leBytes 8 3 ++ leBytes 8 0)

/-- INSTALL and REMOVE of partition 0's sheet. -/
def wSheet (v : Nat) : DictAcc := secWrite 0x4100 4 1 v

/-- A block whose entries name a sheet at 0x10000. -/
def sheetBlk (x : SheetSlot) : Block :=
  { tideBlk (fun t => { t with length := 50000, sheets := [(0, x)] }) with
    dict := [(dkey 0x4100 1, 0x10000), (dkey 0x4100 2, 96), (dkey 0x4100 3, 40), (dkey 0x4010 3, 4)] }

/-- Writes of the frame entries. -/
def wFrame (sub len v : Nat) : DictAcc := secWrite 0x4010 sub len v

theorem wit_TideSheets :
    DictReady (live (sheetBlk SheetSlot.fresh)) (wSheet 1) (entOf (wSheet 1)) ∧
    DictReady (live (sheetBlk SheetSlot.fresh)) (wSheet 2) (entOf (wSheet 2)) ∧
    (inPart (sheetBlk SheetSlot.fresh) 0 0x10000 96 = true ∧ SheetSlot.fresh.status ≠ 1 ∧ SheetSlot.fresh.active = none) ∧
    DictReady (live (sheetBlk { SheetSlot.fresh with active := some sheet0 })) (wSheet 2) (entOf (wSheet 2)) ∧
    (let x := { SheetSlot.fresh with status := 1, loading := some (wSheet 1, 0x10000, 96, 40) }
     DictReady (live (sheetBlk x)) (wSheet 1) (entOf (wSheet 1)) ∧ DictReady (live (sheetBlk x)) (wSheet 2) (entOf (wSheet 2)) ∧
      x.loading = some (wSheet 1, 0x10000, 96, 40)) ∧
    (sheetFormat sheetBytes = true ∧ (sheetOfBytes sheetBytes).res = [res3] ∧ sheetCheck (sheetBlk SheetSlot.fresh) 0 95 40 sheetBytes = some 6) ∧
    DictReady (live (sheetBlk SheetSlot.fresh)) (wFrame 2 4 1000) (entOf (wFrame 2 4 1000)) ∧
    DictReady (live (sheetBlk SheetSlot.fresh)) (wFrame 2 4 10000000) (entOf (wFrame 2 4 10000000)) ∧
    (frameRights (sheetBlk SheetSlot.fresh) = true ∧ lengthLeast (sheetBlk SheetSlot.fresh) ≤ 1000 ∧
      frameReached (dget (sheetBlk SheetSlot.fresh) 0x4010 3) (((sheetBlk SheetSlot.fresh).tide.frame + 4) % 2 ^ 48) = true ∧
      frameRights (planned (plan0 1 1 false) (sheetBlk SheetSlot.fresh)) = false ∧ noSheets (sheetBlk SheetSlot.fresh) = true) ∧
    DictReady (live (sheetBlk SheetSlot.fresh)) (wFrame 3 6 40) (entOf (wFrame 3 6 40)) ∧
    DictReady (live (sheetBlk SheetSlot.fresh)) (wFrame 1 8 40) (entOf (wFrame 1 8 40)) :=
  ⟨dict_ready (by decide +kernel), dict_ready (by decide +kernel), by decide +kernel, dict_ready (by decide +kernel),
   ⟨dict_ready (by decide +kernel), dict_ready (by decide +kernel), rfl⟩, by decide +kernel, dict_ready (by decide +kernel),
   dict_ready (by decide +kernel), by decide +kernel, dict_ready (by decide +kernel), dict_ready (by decide +kernel)⟩

/-! ## Witnesses: live tables -/

/-- A live table of 100 rows of 64 bytes, ID 5. -/
def liveDir : BitVec 256 :=
  BitVec.ofNat 256 (packFields [(0, 48, 0x108000), (64, 16, 16), (80, 16, 64), (96, 32, 100), (128, 48, 0x2000), (176, 1, 1), (177, 1, 1), (178, 12, 5)])

/-- A record that waits, and its seal for frame 7; an empty epoch's seal. -/
def rec0 : StagedRec := { uid := 0, pos := 0, row := 3, data := [1, 2], add := false, tag := none }
def seal1 : Seal := { liveId := 5, epoch := 2, frame := 7, count := 1, units := 1, crc := crc32c (recBytes rec0) }
def seal0 : Seal := { liveId := 5, epoch := 1, frame := 7, count := 0, units := 0, crc := 0 }

/-- Its registry entry on a replica of source chip 1, in service at epoch 1; its window is in every frame. -/
def live0 : Live where
  source := 1
  part := 0
  cluster := 0
  ctx := 0
  dirVa := 0x100100
  spad := 0x1000
  dir := liveDir
  inService := true
  applying := false
  held := false
  missed := false
  epoch := 1
  frame := 6
  lastSeal := 0
  lastFrame := none
  served := none
  first := some 7
  queue := []
  recs := [rec0]
  seals := [seal1]
  suspend := none
  gaps := []
  apply := none

/-- The window. -/
def win0 : Window := { live := 5, perLog2 := 0, phase := 0, offset := 200, length := 1000 }

/-- A member chip with that table; the staging ring is 4 KiB at 0x400000. -/
def liveBlk (l : Live) : Block :=
  { inDomain with
    live := [(5, l)], fuse := BitVec.allOnes 896
    tide := { inDomain.tide with sheets := [(0, { SheetSlot.fresh with active := some { sheet0 with wins := [win0] } })] }
    dict := [(dkey 0x3040 1, 0x800000), (dkey 0x3040 3, 0x400000), (dkey 0x3040 4, 12), (dkey 0x3041 1, 5)] }

/-- On the source, with a block of one record ready: 32 bytes of header and 72 of record, so 13 words, at 0x101000. -/
def entryUpd : BitVec 512 :=
  0#256 ++ 0x101000_0000_000d_00000000_00000000_00000002#256
def itemUpd : Item := { newItem 0 0 0 entryUpd 0 .tableUpdate with w0 := .done, w1 := .done, stage := .updating }
def srcBlk : Block := { liveBlk { live0 with source := 0 } with sb := { inDomain.sb with items := [(0, itemUpd)] } }

/-- A header for one record of the table, and the record. -/
def updHdr : BitVec 256 := BitVec.ofNat 256 (packFields [(0, 12, 5), (32, 32, 1)])
def updRec0 : UpdRec := { row := 99, data := leBytes 64 1 }

/-- An apply that waits for its partition, and one whose records are written. -/
def apply0 : Apply := { frame := 7, epoch := 2, started := false, recs := [rec0], flying := 0, tags := [] }

theorem wit_TableUpdates :
    (blockNext srcBlk = some (0, itemUpd) ∧ blockReads srcBlk itemUpd 32 = true ∧ headerOk srcBlk itemUpd 0 = false ∧
      eSignalAddr itemUpd.entry = 0 ∧ headerOk srcBlk itemUpd updHdr = true ∧ blockReads srcBlk itemUpd (8 * eLength itemUpd.entry) = true ∧
      field updHdr 0 12 = 5 ∧ field updHdr 32 32 = 1 ∧ updRec0.data.length = tRowBytes liveDir ∧ updRec0.row.toNat < tRows liveDir ∧
      itemOf srcBlk 0 = some itemUpd ∧ heatReadNow srcBlk 0 beRead = true ∧ unacked srcBlk itemUpd = [] ∧
      (stagePut { srcBlk with dict := (dkey 0x3040 4, 6) :: srcBlk.dict } updRec0.data).isNone = true ∧
      ((stagePut { srcBlk with stagePos := 8 } updRec0.data).map Prod.fst) = some 8) ∧
    InTurn (live (liveBlk live0)) { hdr1 with tree := true } true ∧
    (let h := { hdr1 with tree := true }
     isSource (liveBlk live0) live0 = false ∧ live0.inService = true ∧ seal1.liveId = 5 ∧
      ((stagePut (arrived { liveBlk live0 with stagePos := 4032 } (tre h) (.updateData 5 true [updRec0])) updRec0.data).map Prod.fst) = some 4032) ∧
    (let b := liveBlk live0
     liveOf b 5 = some live0 ∧ framesRun b = true ∧ live0.served ≠ some b.tide.frame ∧ windowIn b live0.part 5 b.tide.frame = some win0 ∧
      windowIdle live0 b.tide.frame = false ∧ live0.seals.find? (fun x => decide (x.frame = b.tide.frame)) = some seal1 ∧
      sealReady live0 seal1 = true ∧ seal1.count ≠ 0 ∧ dget b 0x3040 3 ≠ 0 ∧ live0.gaps = [] ∧ live0.apply = none) ∧
    (let l := { live0 with gaps := [{ last := 5, epoch := 2, frame := 6 }] }
     windowIdle l 7 = false ∧ (∀ g ∈ l.gaps, frameReached 7 g.frame = true → g.epoch = l.epoch + 1)) ∧
    (let l := { live0 with seals := [] }
     windowIdle l 7 = false ∧ ∀ e ∈ l.seals, e.frame ≠ 7) ∧
    (let l := { live0 with seals := [seal0] }
     l.seals.find? (fun x => decide (x.frame = 7)) = some seal0 ∧ sealReady l seal0 = true ∧ seal0.count = 0) ∧
    (let b := liveBlk { live0 with apply := some apply0 }
     (∀ c ∈ partClusters b 0, clusterHeld b c = false) ∧ b.comp.runs = [] ∧ (applyD b 0).isSome = true ∧ b.comp.lateWait = []) := by
  and_intros <;> first | exact in_turn (by decide +kernel) | decide +kernel

/-- Writes of `CTL_CMD` and of the registry base. -/
def wCtl (v : Nat) : DictAcc := secWrite 0x3041 3 1 v
def wReg : DictAcc := secWrite 0x3040 1 8 0x800000

/-- A registry entry: valid, source chip 1, partition 0, cluster 0, context 0, directory at 0x100100, apply area at 0x1000. -/
def regEnt : BitVec 256 := BitVec.ofNat 256 (packFields [(0, 12, 1), (12, 1, 1), (64, 48, 0x100100), (128, 24, 0x1000)])

theorem wit_TableControl :
    DictReady (live (liveBlk { live0 with source := 0 })) (wCtl 1) (entOf (wCtl 1)) ∧
    DictReady (live (liveBlk { live0 with source := 0 })) (wCtl 2) (entOf (wCtl 2)) ∧
    (DictReady (live (liveBlk live0)) (wCtl 1) (entOf (wCtl 1)) ∧ DictReady (live (liveBlk live0)) (wCtl 2) (entOf (wCtl 2)) ∧
      isSource (liveBlk live0) live0 = false) ∧
    DictReady (live (liveBlk live0)) (wCtl 3) (entOf (wCtl 3)) ∧
    (dget (liveBlk live0) 0x3041 1 = 5 ∧ isSource (liveBlk live0) { live0 with source := 0 } = true ∧
      resyncCheck (liveBlk live0) 5 0 liveDir = some 1 ∧ resyncCheck (liveBlk live0) 5 regEnt 0 = some 2 ∧
      resyncCheck (liveBlk live0) 5 regEnt liveDir = none ∧ isLocal (liveBlk live0) 0x800000 = true ∧
      isLocal (liveBlk live0) fR.toNat = false) ∧
    DictReady (live (liveBlk { live0 with inService := false })) wReg (entOf wReg) ∧ DictReady (live (liveBlk live0)) wReg (entOf wReg) :=
  ⟨dict_ready (by decide +kernel), dict_ready (by decide +kernel),
   ⟨dict_ready (by decide +kernel), dict_ready (by decide +kernel), by decide +kernel⟩, dict_ready (by decide +kernel), by decide +kernel,
   dict_ready (by decide +kernel), dict_ready (by decide +kernel)⟩

/-! ## Witnesses: links, routes and the plan -/

/-- A block under a plan with a link port in a state. -/
def portBlk (p : Nat) (l : LinkPort) : Block :=
  let b := planned (plan0 0 1 false) (tideBlk id)
  { b with fab := { b.fab with ports := [(p, l)] }, rcv := { b.rcv with genWritten := true } }

/-- A trained port, and an admitted one. -/
def portUp : LinkPort := { LinkPort.fresh with trained := true, state := 2, lastRx := 900, lastHb := 900, lastTx := 950 }
def portIn : LinkPort := { portUp with state := 3, admitted := true, ident := 0x121004001 }

/-- The LINK_IDENT of chip 1 facing port 5: port 4, class 0x21, plan version 1. -/
def ident1 : Word := BitVec.ofNat 64 (packFields [(0, 12, 1), (12, 3, 4), (24, 8, 0x21), (32, 32, 1)])

/-- Writes of a port's `OVERRIDE` and `TEST_CMD`. -/
def wOver (p v : Nat) : DictAcc := secWrite (0x5010 + p) 4 1 v
def wTest (p v : Nat) : DictAcc := secWrite (0x5010 + p) 7 1 v

theorem wit_LinkPorts :
    ((linkOf (portBlk 0 LinkPort.fresh) 0).trained = false ∧ (linkOf (portBlk 5 LinkPort.fresh) 5).state ≠ 5 ∧ LinkPort.fresh.state ≠ 6) ∧
    (portUp.trained = true ∧ ident1 ≠ 0 ∧ swappedWith (portBlk 0 portUp) 0 ident1 = none ∧ checkOutcome (portBlk 5 portUp) 5 ident1 = 9 ∧
      checkOutcome (portBlk 0 portUp) 0 ident1 = 6 ∧ portUp.waiting = []) ∧
    (reachOf (portBlk 0 portUp) 0 = 1 ∧ reachOf (portBlk 1 portUp) 1 ≠ 1 ∧ idleState (portBlk 1 LinkPort.fresh) 1 = 7 ∧
      idleState (portBlk 0 LinkPort.fresh) 0 ≠ 7) ∧
    (let b := { portBlk 1 LinkPort.fresh with fab := { (portBlk 1 LinkPort.fresh).fab with stale := true } }
     (linkOf b 1).trained = false ∧ reachOf b 1 ≠ 1 ∧ b.fab.stale = true) ∧
    ({ portUp with state := 5 } : LinkPort).state = 5 ∧
    DictReady (live (portBlk 0 LinkPort.fresh)) (wOver 0 1) (entOf (wOver 0 1)) ∧ DictReady (live (portBlk 5 { portIn with heardId := true })) (wOver 5 0) (entOf (wOver 5 0)) ∧
    swappedWith (portBlk 5 portIn) 5 portIn.ident = none ∧
    DictReady (live (portBlk 0 portIn)) (wTest 0 1) (entOf (wTest 0 1)) ∧ DictReady (live (portBlk 5 portIn)) (wTest 5 2) (entOf (wTest 5 2)) ∧
    (portIn.lower = false ∧ portIn.state ≠ 6) := by
  and_intros <;> first | exact dict_ready (by decide +kernel) | decide +kernel

/-- The link test commands that meet a lower port of the pattern 2, a HELD port, an untrained one, and a port under test. -/
theorem wit_LinkPorts_test :
    (let b := { portBlk 0 { portIn with lower := true } with dict := [(dkey 0x5010 6, 2)] }
     DictReady (live b) (wTest 0 1) (entOf (wTest 0 1)) ∧ (linkOf b 0).lower = true ∧ dget b 0x5010 6 = 2) ∧
    (let b := portBlk 5 { LinkPort.fresh with state := 6 }
     DictReady (live b) (wTest 5 1) (entOf (wTest 5 1)) ∧ (linkOf b 5).lower = false ∧ (linkOf b 5).trained = false ∧ (linkOf b 5).state = 6) ∧
    (DictReady (live (portBlk 0 LinkPort.fresh)) (wTest 0 1) (entOf (wTest 0 1)) ∧ LinkPort.fresh.trained = false ∧ LinkPort.fresh.state ≠ 6) ∧
    (let b := portBlk 5 { portUp with state := 5, trained := false }
     DictReady (live b) (wTest 5 2) (entOf (wTest 5 2)) ∧ (linkOf b 5).state = 5) ∧
    (let l := { portUp with downs := List.replicate 15 1000 }
     16 ≤ (l.downs.filter (fun u => decide ((portBlk 0 l).tide.clock < u + 1000000000))).length + 1) :=
  ⟨⟨dict_ready (by decide +kernel), by decide +kernel, by decide +kernel⟩,
   ⟨dict_ready (by decide +kernel), by decide +kernel, by decide +kernel, by decide +kernel⟩,
   ⟨dict_ready (by decide +kernel), rfl, by decide⟩, ⟨dict_ready (by decide +kernel), by decide +kernel⟩, by decide +kernel⟩

/-- A message of chip 3 for chip 1, arriving on port 5. -/
def hdrFwd (hops : Nat) : GzHdr := { port := 5, src := 3, dst := 1, gen := 0, seq := 0, tree := false, hops := hops, detoured := false }

/-- A block with ports 0 and 5 admitted, reach class 2 on port 0. -/
def fwdBlk : Block :=
  let b := planned (plan0 0 1 false) (tideBlk id)
  { b with fab := { b.fab with
      ports := [(0, portIn), (5, portIn)]
      plan := some { plan0 0 1 false with chips := [{ chip := 0, member := true, rack := 0, parent := 0, reach := 2 }] } } }

/-- A gap before message 5 of chip 1. -/
def gapSpace : RxSpace := { gen := 0, next := 3, held := [(5, .fenceBusy 8, hdr1)], gap := some 900 }

/-- Writes of INSTALL and of the chip number. -/
def wPlan : DictAcc := secWrite 0x5000 3 1 1
def wChip : DictAcc := secWrite 0x5000 7 2 9

theorem wit_FabricRouting :
    ((linkOf fwdBlk 0).trained = true ∧ 1 ≠ chipNo fwdBlk ∧ newerState fwdBlk 1 0 0 = true ∧
      newerState { fwdBlk with fab := { fwdBlk.fab with graph := [(1, (0, 4, 0))] } } 1 0 4 = false) ∧
    (({ fwdBlk.fab with stale := true } : Fabric).stale = true ∧ fwdBlk.mic.status = 2) ∧
    ((linkOf fwdBlk 5).admitted = true ∧ (hdrFwd 61).dst ≠ chipNo fwdBlk ∧ oddPort fwdBlk 5 = false ∧ (hdrFwd 61).hops + 1 < 63 ∧
      63 ≤ (hdrFwd 62).hops + 1 ∧ gzKnown 0x31 = true ∧ gzKnown 0x43 = false ∧ (∀ x ∈ fwdBlk.fab.resend, x.dst ≠ 1) ∧
      nextPort { fwdBlk with fab := { fwdBlk.fab with routes := [] } } 1 = none ∧ nextPort fwdBlk 1 = some 0 ∧ (linkOf fwdBlk 0).admitted = true ∧ reachOf fwdBlk 0 ≠ 1) ∧
    ((linkOf fwdBlk 5).trained = true ∧ reachOf fwdBlk 5 ≠ 1 ∧ reachOf (portBlk 0 portUp) 0 = 1) ∧
    (let b := { fwdBlk with fab := { fwdBlk.fab with rx := [(2, gapSpace)] } }
     fmGet? b.fab.rx (spaceKey 1 false) = some gapSpace ∧ hdr1.gen = gapSpace.gen) ∧
    InTurn (live (linked heatBlk)) hdr1 false ∧
    (let b := linked { heatBlk with cores := [(0, { core0 with hold := .remoteFence fR 6 3000 false })] }
     (1, 0) ∉ b.fab.aborts ∧ runOf b 0 = some run0 ∧ run0.part = 0 ∧ run0.endedAt = none ∧ run0.abort = none ∧ remoteDeps b 0 ≠ []) ∧
    DictReady (live fwdBlk) wPlan (entOf wPlan) ∧ fwdBlk.fab.status ≠ 1 ∧ isLocal fwdBlk 0x1000 = true ∧ isLocal fwdBlk 0x10000000001000 = false ∧
    DictReady (live fwdBlk) wChip (entOf wChip) ∧ ownMask fwdBlk ≠ 0 ∧ ownMask booted = 0 ∧ DictReady (live booted) wChip (entOf wChip) ∧
    (let b := { fwdBlk with fab := { fwdBlk.fab with loading := some (wPlan, 0x1000, 64) } }
     b.fab.loading = some (wPlan, 0x1000, 64)) := by
  and_intros <;> first | exact in_turn (by decide +kernel) | exact dict_ready (by decide +kernel) | decide +kernel

/-! ## Witnesses: recovery and chip reset -/

/-- A block in a recovery stage. -/
def rcvBlk (b : Block) (st : RecStage) : Block := { b with rcv := { b.rcv with stage := st } }

/-- Core 0 waits for a local fence, its watchdog due at 9,000. -/
def hangBlk : Block := { heatBlk with cores := [(0, { core0 with hold := .localFence fA 6 false, waitBy := 9000 })] }

/-- Writes of START and of `RESET_GENERATION`. -/
def wStart : DictAcc := secWrite 0x6000 9 1 1
def wGen : DictAcc := secWrite 0x6000 0x0A 1 9

/-- A block whose reset generation has not been written, its links down. -/
def genBlk (w : Bool) : Block := { withCtx with rcv := { withCtx.rcv with genWritten := w } }

theorem wit_RecoveryTriggers :
    (heatBlk.rcv.stage = .idle ∧ (rcvBlk heatBlk .dump).rcv.stage ≠ .idle) ∧
    (let b := { heatBlk with walk := { heatBlk.walk with due := 0 } }
     unitPending b 0x05 = true ∧ unitPending b 0x0C = false ∧ unitPending b 0x4F = false) ∧
    (let b := { heatBlk with ports := [(63, { CPort.fresh with out := [{ bat0 with id := 65535, ent := { ent0 with pos := 15 } }] })] }
     ((portOf b 63).out.find? (fun x => decide (x.id = 65535))).map (fun x => (x.ent.pos, x.deadline)) = some (15, 2000)) ∧
    (let b := pushBlk
     portHeld b 0 = some ent0 ∧ lowestFree ((portOf b 0).out.map (fun x => x.id)) 0 65536 = some 0) ∧
    (let b := { heatBlk with fen := { withCtx.fen with writes := [wr0 fA 6] } }
     b.fen.writes.find? (fun w => decide (w.addr = fA) && w.deps.isEmpty) = some (wr0 fA 6)) ∧
    (let b := { withCtx with obj := { withCtx.obj with ctxs := [(0, { ctx0 with state := .destroying, destroyBy := 8000 })] } }
     (fmGet? b.obj.ctxs 0).map (fun c => (c.state, c.destroyBy)) = some (.destroying, 8000)) ∧
    (fmHas (fenBlk cached).fen.cache 0x2000008 = true ∧ fencePinned (fenBlk cached) 0x2000008 = false) ∧
    ((coreOf heatBlk 0).run = some 0 ∧ runOf heatBlk 0 = some run0 ∧ run0.endedAt = none ∧ sampleOf heatBlk 0 = none ∧
      (unitOf heatBlk (unitNo 0 15)).state = 0 ∧ (unitOf heatBlk unitXp).state = 0) ∧
    (unitSame heatBlk { heatBlk with walk := { heatBlk.walk with due := heatBlk.walk.due + 1 } } 0x05 = false ∧
      (noteSteps heatBlk (dput heatBlk 0x6000 5 2000)).rcv.ackWas = [(heatBlk.tide.clock, 50000)]) ∧
    (localWait (coreOf hangBlk 0) = some (fA, 6, false) ∧ runOf hangBlk 0 = some run0 ∧ run0.clusters = [0] ∧ run0.partsEnded = []) ∧
    DictReady (live heatBlk) wStart (entOf wStart) ∧ DictReady (live (rcvBlk heatBlk .drain)) wStart (entOf wStart) ∧
    DictReady (live (genBlk true)) wGen (entOf wGen) ∧ DictReady (live (genBlk false)) wGen (entOf wGen) ∧
    (∀ p ∈ [0, 1, 2, 3, 4, 5], (linkOf (genBlk false) p).trained = false) := by
  and_intros <;> first | exact dict_ready (by decide +kernel) | decide +kernel

/-- A block in the dump, the buffer of port 0 registered. -/
def dumpBlk : Block :=
  { rcvBlk heatBlk .dump with rcv := { heatBlk.rcv with stage := .dump, cause := 255, buffers := [(0, (0x10000, 0x800000))] } }

theorem wit_RecoverySteps :
    (rcvBlk heatBlk .fence).rcv.stage = .fence ∧ ((rcvBlk heatBlk .drain).rcv.stage = .drain ∧ drained (rcvBlk heatBlk .drain) = true ∧
      drained (rcvBlk pushBlk .drain) = true ∧ drained (rcvBlk { heatBlk with fen := { withCtx.fen with writes := [wr0 fA 6] } } .drain) = false) ∧
    (dumpBlk.rcv.stage = .dump ∧ 0x4F ∉ dumpBlk.rcv.badUnits ∧ 0 ∉ dumpBlk.rcv.badUnits ∧ fmHas dumpBlk.rcv.buffers 0 = true ∧
      0 ∉ dumpBlk.rcv.badPorts ∧ dumpBlk.rcv.badPorts = [] ∧ 1 ≤ dumpBlk.rcv.cause ∧ dumpBlk.rcv.cause < 256 ∧
      (rcvBlk heatBlk .dump).rcv.buffers = []) ∧
    ((rcvBlk heatBlk .propagate).rcv.stage = .propagate ∧ (rcvBlk heatBlk .propagate).rcv.remote = []) := by decide +kernel

/-- The block in reset, at some pins. -/
def resetAt (p : Pins) : State := { pending := [], pin := p, blk := Block.fresh }

/-- Under the plan, with port 5 admitted and the axis Z through it alone. -/
def axisBlk : Block := portBlk 5 { portIn with result := 9, passed := true }

theorem wit_ResetSignals :
    (let s := resetAt { Pins.inReset with long := true }
     s.pin.rst = true ∧ s.pin.release = none ∧ s.pin.long = true ∧ resetMv s.blk ≤ resetMv s.blk ∧ resetMv s.blk - 1 < resetMv s.blk) ∧
    (Pins.inReset.long = false ∧ Pins.inReset.release = none) ∧
    (let s := resetAt { Pins.inReset with long := true, release := some 5, low := true }
     s.pin.release = some 5 ∧ s.pin.low = true ∧ resetMv s.blk < resetMv s.blk + 1) ∧
    (let s := resetAt { Pins.inReset with release := some 5 }
     s.pin.release = some 5 ∧ s.pin.low = false ∧ s.pin.long = false) ∧
    (let b := { booted with mic := { booted.mic with selftest := 0 } }
     b.mic.selftest = 0) ∧
    mayDrive axisBlk 2 = true := by decide +kernel

/-! ## Witnesses: silent errors -/

/-- The heat's partition has the shadow partition 1, of cluster 2; engines all present. -/
def shadowBlk (x : Sample) (runs : FMap Run) : Block :=
  { heatBlk with
    fuse := BitVec.allOnes 896
    obj := { heatBlk.obj with parts := [(0, part0), (1, { part0 with clusters := 4, ranges := [(1024, 1)] })] }
    dict := [(dkey 0x6020 3, 1), (dkey 0x6020 4, 0x900000)]
    pwr := { heatBlk.pwr with clusters := [(0, { PwrRec.fresh with state := 3 }), (1, { PwrRec.fresh with state := 2 }), (2, { PwrRec.fresh with state := 2 })] }
    comp := { heatBlk.comp with runs := (0, run0) :: runs, nextRun := 3 }
    rel := { heatBlk.rel with samples := [(0, x)] } }

/-- Its sample, before the shadow run. -/
def samp0 : Sample where
  shadow := none
  third := none
  captureRun := none
  budget := 0
  since := 1000
  stage := .runs
  attempts := 0
  unit := none
  mismatch := 0
  more := []
  corpus := none

/-- A shadow run on cluster 2 and a third run on cluster 1, both over. -/
def runShadow : Run := { run0 with kind := .shadow, part := 1, clusters := [2], endedAt := some 1000, done := true, released := true }
def runThird : Run := { run0 with kind := .arbitration, clusters := [1], endedAt := some 1000, done := true, released := true }

theorem wit_SampledHeats :
    (let b := shadowBlk samp0 []
     fmGet? b.rel.samples 0 = some samp0 ∧ runOf b 0 = some run0 ∧ itemOf b run0.tag = some item0 ∧ shadowPart b run0.part = 1 ∧
      b.tide.clock ≤ samp0.since + dget b 0x6010 2 * 1000 ∧ placeOther b 1 run0 item0 0 [] = some [2] ∧ run0.endedAt = none) ∧
    (let x := { samp0 with stage := .arbitrate, shadow := some 1 }
     let b := shadowBlk x [(1, runShadow)]
     runOf b 1 = some runShadow ∧ placeOther b 1 run0 item0 0 ([0] ++ [2]) = none ∧ placeOther b 0 run0 item0 0 ([0] ++ [2]) = some [1]) ∧
    (let x := { samp0 with stage := .arbitrate, shadow := some 1 }
     placeOther (shadowBlk x [(1, { runShadow with clusters := [1] })]) 1 run0 item0 0 ([0] ++ [1]) = some [2]) ∧
    (let x := { samp0 with stage := .capture 0, shadow := some 1, third := some 2, unit := some (unitNo 0 0, 0, 0) }
     let b := shadowBlk x [(1, runShadow), (2, runThird)]
     runOf b 2 = some runThird ∧ startsOpen b = true ∧ applyBars b runThird.part = false ∧
      (∀ y ∈ b.comp.runs, y.1 ≠ 2 → y.2.released = false → ∀ c ∈ runThird.clusters, c ∉ y.2.clusters)) := by
  and_intros <;> decide +kernel

/-- A block with a scan set in which every kind has 64 bytes at offset 256, a budget of 5,000 ns and the signature 77. -/
def scanBlk (u : Nat) (x : UnitRec) : Block :=
  { withCtx with
    fuse := BitVec.allOnes 896
    pwr := { withCtx.pwr with clusters := [(0, { PwrRec.fresh with state := 2 })] }
    rel := { withCtx.rel with scan := some (List.replicate 6 (256, 64, 5000, 77)), units := [(u, x)] } }

/-- A unit under test by run 0. -/
def tested : UnitRec := { UnitRec.fresh with testing := some 0 }

/-- The block while that test runs. -/
def testBlk : Block := { scanBlk 0 tested with comp := { withCtx.comp with runs := [(0, testRun withCtx 0 0)], nextRun := 1 } }

/-- Writes of `TEST_CMD`, of a unit's state and of `SCAN_BASE`. -/
def wUnit (u : Nat) : DictAcc := secWrite 0x6040 9 2 u
def wState (idx sub v : Nat) : DictAcc := secWrite idx sub 1 v
def wScan (v : Nat) : DictAcc := secWrite 0x6040 1 8 v

/-- The first 32 bytes of a scan set of 256 bytes, with a CRC. -/
def scanHead (crc : Nat) : List Byte := leBytes 4 0x4E414353 ++ leBytes 4 0 ++ leBytes 4 6 ++ leBytes 4 crc ++ leBytes 16 0

/-- 32 bytes of it that are zero. -/
def scanZero : List Byte := List.replicate 32 0

theorem scan_crc_head : (scanHead 0).foldl crcByte 0xFFFFFFFF#32 = 990777368#32 := by decide +kernel

theorem scan_crc_zeros :
    scanZero.foldl crcByte 990777368#32 = 402938883#32 ∧ scanZero.foldl crcByte 402938883#32 = 127911886#32 ∧
    scanZero.foldl crcByte 127911886#32 = 2285876231#32 ∧ scanZero.foldl crcByte 2285876231#32 = 3213904385#32 ∧
    scanZero.foldl crcByte 3213904385#32 = 64320690#32 ∧ scanZero.foldl crcByte 64320690#32 = 728451634#32 ∧
    scanZero.foldl crcByte 728451634#32 = 56274054#32 := by
  and_intros <;> decide +kernel

/-- The scan set. -/
def scanBytes : List Byte :=
  scanHead 4238693241 ++ (scanZero ++ (scanZero ++ (scanZero ++ (scanZero ++ (scanZero ++ (scanZero ++ scanZero))))))

theorem scan_set : (scanSet scanBytes).isSome = true := by
  have hb : scanBytes.take 12 ++ List.replicate 4 0 ++ scanBytes.drop 16 =
      scanHead 0 ++ (scanZero ++ (scanZero ++ (scanZero ++ (scanZero ++ (scanZero ++ (scanZero ++ scanZero)))))) := by decide +kernel
  obtain ⟨z1, z2, z3, z4, z5, z6, z7⟩ := scan_crc_zeros
  have hc : crc32c (scanHead 0 ++ (scanZero ++ (scanZero ++ (scanZero ++ (scanZero ++ (scanZero ++ (scanZero ++ scanZero))))))) =
      4238693241#32 := by
    simp only [crc32c, List.foldl_append, scan_crc_head, z1, z2, z3, z4, z5, z6, z7]; decide
  have hf : scanBytes.length = 256 ∧ bytesField scanBytes 0 4 = 0x4E414353 ∧ bytesField scanBytes 8 4 = 6 ∧ bytesField scanBytes 12 4 = 4238693241 := by
    decide +kernel
  unfold scanSet
  simp only [hb, hc, hf]
  simp

theorem wit_UnitTests :
    (testable (scanBlk 0 UnitRec.fresh) 0 = true ∧ testable (scanBlk 0 UnitRec.fresh) 960 = true ∧ testable (scanBlk 0 UnitRec.fresh) 896 = false) ∧
    (let b := scanBlk 0 { UnitRec.fresh with due := true }
     scanOf b 0 = some (256, 64, 5000, 77) ∧ clusterPart b 0 = some 0 ∧ beOpen b 0 = true ∧ beFits b 0 0 5000 = true ∧
      clusterHeld b 0 = false ∧ (pwrOf b 0).state ≥ 2 ∧ (starveClaims b 0 (fun _ => true) ++ lateClaims b).contains 0 = false ∧ unitPos 0 ≠ 15) ∧
    ((unitOf testBlk 0).testing = some 0 ∧ testBlk.comp.lateWait = [] ∧ testBlk.rel.samples = [] ∧ corporaOf testBlk 0 = [] ∧
      (unitOf testBlk 0).state = 0 ∧ (runOf testBlk 0).isSome = true) ∧
    DictReady (live (scanBlk 0 UnitRec.fresh)) (wUnit 0) (entOf (wUnit 0)) ∧
    DictReady (live (scanBlk 0 UnitRec.fresh)) (wUnit 1023) (entOf (wUnit 1023)) ∧ (isUnit 897 = false ∧ isUnit 1024 = false) ∧
    DictReady (live withCtx) (wState 0x6140 1 1) (entOf (wState 0x6140 1 1)) ∧ unitEntry unitXp = (0x6140, 1) ∧ isUnit unitXp = true ∧
    DictReady (live withCtx) (wState 0x613F 15 1) (entOf (wState 0x613F 15 1)) ∧ unitEntry 1023 = (0x613F, 15) ∧ isUnit 1023 = true ∧
    DictReady (live withCtx) (wScan 0) (entOf (wScan 0)) ∧
    DictReady (live { withCtx with dict := [(dkey 0x6040 2, 256)] }) (wScan 4096) (entOf (wScan 4096)) ∧
    (scanBytes.length = dget { withCtx with dict := [(dkey 0x6040 2, 256)] } 0x6040 2 ∧ scanSet [] = none) :=
  ⟨by decide +kernel, by decide +kernel, by decide +kernel, dict_ready (by decide +kernel), dict_ready (by decide +kernel), by decide +kernel,
   dict_ready (by decide +kernel), by decide +kernel, by decide +kernel, dict_ready (by decide +kernel), by decide +kernel, by decide +kernel,
   dict_ready (by decide +kernel), dict_ready (by decide +kernel), by decide +kernel⟩

/-! ## Witnesses: dictionary and registers -/

/-- An operation of the dictionary by function 1 of port 0, whose privilege bits are undefined. -/
def userAcc (idx sub v : Nat) : DictAcc :=
  { path := .view, org := { port := 0, fn := 1, priv := 3 }, tag := 2, idx := idx, sub := sub, len := 1, value := v }

theorem dict_arrives {b : Block} {a : DictAcc} (h : (decide (b.mic.selftest ≠ 0) && reachesDict a && !dictBusy b && !winBusy b a) = true) :
    DictArrives (live b) a := by
  simp only [and_assoc, Bool.and_eq_true, decide_eq_true_eq, Bool.not_eq_true'] at h
  exact ⟨⟨rfl, rfl⟩, h.1, h.2.1, h.2.2.1, h.2.2.2⟩

/-- A plain write, one that an entry's condition refuses, a calibration write and the writes of rows of their own. -/
def wPoll : DictAcc := secWrite 0x2030 2 4 500
def wWarn : DictAcc := secWrite 0x4020 1 4 499
def calFirst : Nat × Nat := (calEntries.head?).getD (0, 0)
def wCal : DictAcc := secWrite calFirst.1 calFirst.2 (entOf (secWrite calFirst.1 calFirst.2 0 0)).bytes (entOf (secWrite calFirst.1 calFirst.2 0 0)).dflt
def wCtxTab : DictAcc := secWrite 0x2010 1 8 0x400000
def wAq (v : Nat) : DictAcc := secWrite 0x2043 8 1 v

/-- Port 3 with an admin queue, enabled or not; the configuration that enabling needs. -/
def aqBlk3 (en : Bool) (wait : Option DictAcc) : Block :=
  { booted with
    q := { booted.q with aqs := [(3, { aq0 with enabled := en, enabling := wait })] }
    pwr := { booted.pwr with calLoaded := true }
    rcv := { booted.rcv with genWritten := true }
    dict := [(dkey 0x2000 0x14, 1)] }

theorem wit_DictionaryAccess :
    (dictDesc 0x2030 2 = some (entOf wPoll) ∧ isCmdEntry 0x2030 2 = false) ∧
    DictArrives (live booted) (userAcc 0x2030 2 500) ∧ (writeCheck booted (userAcc 0x2030 2 500)).isSome = true ∧
    DictArrives (live booted) (userAcc 0x2FFF 2 0) ∧ (readCheck booted (userAcc 0x2FFF 2 0) true).isSome = true ∧
    (readCheck booted (secWrite 0x2030 2 0 0) true = none ∧ readCheck booted (secWrite 0x2030 2 0 0) false = none) ∧
    DictReady (live booted) wPoll (entOf wPoll) ∧ (ownRow wPoll = false ∧ entryCond booted 0x2030 2 (writeValue wPoll (entOf wPoll)) = none) ∧
    DictReady (live booted) wWarn (entOf wWarn) ∧
    (ownRow wWarn = false ∧ (entryCond booted 0x4020 1 499).isSome = true) ∧
    DictReady (live booted) wCal (entOf wCal) ∧
    (calEntries.contains (wCal.idx, wCal.sub) = true ∧ entryCond booted wCal.idx wCal.sub (writeValue wCal (entOf wCal)) = none) ∧
    DictReady (live booted) wCtxTab (entOf wCtxTab) ∧ DictReady (live withCtx) wCtxTab (entOf wCtxTab) ∧
    DictReady (live (aqBlk3 true none)) (wAq 0) (entOf (wAq 0)) ∧ DictReady (live (aqBlk3 true none)) (wAq 1) (entOf (wAq 1)) ∧
    DictReady (live (aqBlk3 false none)) (wAq 1) (entOf (wAq 1)) ∧ ownerMode (aqBlk3 false none) 3 = 1 ∧
    ((aqOf (aqBlk3 false (some (wAq 1))) 3).map (fun q => q.enabling) = some (some (wAq 1)) ∧ dictDesc 0x2043 8 = some (entOf (wAq 1))) ∧
    ({ booted.mgt with notify := [(3, 1)] } : Mgt).notify = [(3, 1)] :=
  ⟨by decide +kernel, dict_arrives (by decide +kernel), by decide +kernel, dict_arrives (by decide +kernel), by decide +kernel,
   by decide +kernel, dict_ready (by decide +kernel), by decide +kernel, dict_ready (by decide +kernel), by decide +kernel,
   dict_ready (by decide +kernel), by decide +kernel, dict_ready (by decide +kernel), dict_ready (by decide +kernel),
   dict_ready (by decide +kernel), dict_ready (by decide +kernel), dict_ready (by decide +kernel), by decide +kernel, by decide +kernel, rfl⟩

/-- An operation over the management bus. -/
def busAcc : DictAcc := { secWrite 0x2030 2 4 500 with path := .i3c }

/-- A refused `CTL_CMD`, a HELD port released by NONE, a busy window, an operation that waits for another's end, and the end of the one
under way. -/
theorem wit_DictionaryAccess_turns :
    (DictArrives (live booted) (secWrite 0x3041 3 1 4) ∧ (writeCheck booted (secWrite 0x3041 3 1 4)).map Prod.fst = some 4) ∧
    (let b := portBlk 5 { LinkPort.fresh with state := 6 }
     DictReady (live b) (wTest 5 0) (entOf (wTest 5 0)) ∧ ownRow (wTest 5 0) = false ∧
      entryCond b 0x5015 7 (writeValue (wTest 5 0) (entOf (wTest 5 0))) = none ∧ (linkOf (noted b (wTest 5 0)) 5).state = 6) ∧
    (let b := { booted with regs := { booted.regs with dictQ := [{ op := .bad, acc := busAcc }] } }
     DictArrives (live b) busAcc ∧ pathOps b busAcc ≠ 0 ∧ pathOps booted busAcc = 0) ∧
    (let b := aqBlk3 false (some (wAq 1))
     winBusy b (wAq 1) = true ∧ winBusy b busAcc = false ∧ dictBusy b = true ∧ pathOps b busAcc < 8 ∧
      winBusy b (userAcc 0x2030 2 0) = false ∧ isWindow Path.view = true ∧ reachesDict busAcc = true ∧ b.mic.selftest ≠ 0) ∧
    (let b := { aqBlk3 false (some (wAq 1)) with regs := { booted.regs with dictQ := [{ op := .bad, acc := busAcc }] } }
     b.q.aqs = [(3, { aq0 with enabled := false, enabling := some (wAq 1) })] ∧ booted.regs.dictQ = []) ∧
    ((aqOf (aqBlk3 false none) 3).any (fun q => q.enabled) = false ∧ (aqBlk3 false none).pwr.calLoaded = true ∧
      (aqBlk3 false none).rcv.genWritten = true ∧ ownerMode booted 3 = 0) :=
  ⟨⟨dict_arrives (by decide +kernel), by decide +kernel⟩, ⟨dict_ready (by decide +kernel), by decide +kernel⟩,
   ⟨dict_arrives (by decide +kernel), by decide +kernel⟩, by decide +kernel, by decide +kernel, by decide +kernel⟩

/-- A 4-byte register write by the secure master, by a USER of port 0, and through the debug port. -/
def regSec (off v : Nat) : RegAcc := { org := { port := 0, fn := 0, priv := 0 }, path := .secure, off := off, width := 4, data := BitVec.ofNat 64 v }
def regUser (off v : Nat) : RegAcc := { regSec off v with path := .view }
def regDbg (off v : Nat) : RegAcc := { regSec off v with path := .dbg }

theorem reg_reaches {b : Block} {r : RegAcc} {g : Region} {o v data : Nat} (h : (decide (b.mic.selftest ≠ 0) && decide (viewIdx r = some v) &&
    decide (r.width = 4) && decide (r.off % 4 = 0) && decide (r.off < 0x200000) && decide (regionOf r.off = g) && decide (regionOff r.off = o) &&
    decide (r.data.toNat % 2 ^ 32 = data)) = true) : RegReaches (live b) r g o v data := by
  simp only [and_assoc, Bool.and_eq_true, decide_eq_true_eq] at h
  obtain ⟨tested, view, width, aligned, inside, region, location, value⟩ := h
  exact ⟨⟨rfl, rfl⟩, tested, view, width, aligned, inside, region, location, value⟩

theorem reg_guard {b : Block} {r : RegAcc}
    (h : (if r.path = .dbg then decide (dget b 0x8010 2 = 1) && dbgWritable r.off else granted b r) = true) : RegGuard (live b) r := by
  unfold RegGuard
  split at h <;> simp_all [live]

theorem wit_RegisterWrites :
    (RegReaches (live booted) (regSec 0x10840 1) .control 0x840 4 1 ∧ RegGuard (live booted) (regSec 0x10840 1) ∧ booted.adm.mbBusy = false ∧
      (boxed booted 0).adm.mbBusy = true) ∧
    (RegReaches (live booted) (regSec 0x80000 1) .snap 0 4 1 ∧ RegReaches (live booted) (regSec 0x10020 1) .control 0x20 4 1 ∧
      (viewOf booted 4).refGen = booted.regs.wgen ∧ (viewOf { booted with regs := { booted.regs with wgen := 1 } } 4).refGen ≠ 1) ∧
    (RegReaches (live booted) (regSec 0x1F014 0xFFFF00FF) .control 0x14 4 0xFFFF00FF ∧ regOwnRow (regSec 0x1F014 0xFFFF00FF) = false ∧
      RegReaches (live booted) (regSec 0x1F018 7) .control 0x18 4 7 ∧ RegReaches (live booted) (regSec 0x1F01C 7) .control 0x1C 4 7 ∧
      RegReaches (live booted) (regSec 0x10010 0x10000) .control 0x10 4 0x10000 ∧ regOwnRow (regSec 0x10010 0x10000) = false ∧
      RegReaches (live booted) (regSec 0x1083C 5) .control 0x83C 4 5 ∧ regOwnRow (regSec 0x1083C 5) = false) ∧
    (let b := { booted with dict := [(dkey 0x8010 2, 1)] }
     RegReaches (live b) (regDbg 0xE000C 0xFFFFFFFF) .debug 0xC 5 0xFFFFFFFF ∧ RegGuard (live b) (regDbg 0xE000C 0xFFFFFFFF) ∧
      RegReaches (live b) (regDbg 0xE0010 0x3F003F) .debug 0x10 5 0x3F003F ∧ RegReaches (live b) (regDbg 0xE0030 0xFFFF0001) .debug 0x30 5 0xFFFF0001) ∧
    (RegReaches (live booted) (regUser 0xC0008 0xFFFF007F) .dict 8 0 0xFFFF007F ∧ RegReaches (live booted) (regUser 0x3FFC 1) .table 0x3FFC 0 1 ∧
      RegReaches (live booted) (regUser 0x30000 1) .none 0x30000 0 1 ∧ RegReaches (live booted) (regUser 0x10014 1) .control 0x14 0 1 ∧
      granted booted (regUser 0x10014 1) = false ∧ regOwnRow (regUser 0x10014 1) = false) ∧
    (let r := { regSec 0x10014 0 with width := 2 }
     viewIdx r = some 4 ∧ r.off < 0x200000 ∧ regOwnRow r = false ∧ ¬ (r.width = 4 ∧ r.off % 4 = 0) ∧ ¬ (r.width = 8 ∧ r.off % 8 = 0)) ∧
    (let r := { regUser 0xC0000 5 with width := 8 }
     viewIdx r = some 0 ∧ r.off < 0x200000 ∧ regOwnRow r = false ∧ r.path ≠ .dbg ∧ regionOf r.off = .dict ∧ regionOff r.off = 0 ∧
      r.off % 8 = 0) ∧
    (checking booted = false ∧
      (let b := { booted with regs := { booted.regs with crcOn := true, refValid := true, passOk := true } }
       b.regs.passOk = true ∧ checking b = true ∧ b.rcv.stage = .idle)) :=
  ⟨⟨reg_reaches (by decide +kernel), reg_guard (by decide +kernel), by decide +kernel, rfl⟩,
   ⟨reg_reaches (by decide +kernel), reg_reaches (by decide +kernel), by decide +kernel, by decide +kernel⟩,
   ⟨reg_reaches (by decide +kernel), by decide +kernel, reg_reaches (by decide +kernel), reg_reaches (by decide +kernel),
    reg_reaches (by decide +kernel), by decide +kernel, reg_reaches (by decide +kernel),
    by decide +kernel⟩,
   ⟨reg_reaches (by decide +kernel), reg_guard (by decide +kernel), reg_reaches (by decide +kernel), reg_reaches (by decide +kernel)⟩,
   ⟨reg_reaches (by decide +kernel), reg_reaches (by decide +kernel), reg_reaches (by decide +kernel), reg_reaches (by decide +kernel),
    by decide +kernel, by decide +kernel⟩,
   by decide +kernel, by decide +kernel, by decide +kernel⟩

/-- The pass of the configuration CRC reads no register of the reference. -/
theorem coveredBytes_regs (b : Block) (r : Regs) : coveredBytes { b with regs := r } = coveredBytes b := rfl

/-- A block that compares, with a reference. -/
def crcBlk (n : Nat) : Block :=
  { booted with regs := { booted.regs with crcOn := true, refValid := true, passOk := true, refActive := n } }

theorem crc_differs (b : Block) (r : Nat → Regs) (hr : ∀ n, (r n).refActive = n) :
    ∃ n, (crc32c (coveredBytes { b with regs := r n })).toNat ≠ (r n).refActive :=
  ⟨(crc32c (coveredBytes b)).toNat + 1, by rw [coveredBytes_regs, hr]; omega⟩

/-- A pass that finds another value than its reference. -/
theorem wit_RegisterWrites_crc :
    ∃ n, (crcBlk n).regs.passOk = true ∧ checking (crcBlk n) = true ∧ (crcBlk n).rcv.stage = .idle ∧
      (crc32c (coveredBytes (crcBlk n))).toNat ≠ (crcBlk n).regs.refActive := by
  obtain ⟨n, hn⟩ := crc_differs booted (fun n => (crcBlk n).regs) (fun _ => rfl)
  exact ⟨n, rfl, rfl, rfl, hn⟩

/-! ## Witnesses: power and debug -/

/-- Cluster 0 in a power state, under an order; a brownout hold, or none. -/
def pwrBlk (order state : Nat) (hold : Bool) : Block :=
  { withCtx with
    tide := { withCtx.tide with refOn := true }
    pwr := { withCtx.pwr with hold := hold, holdFrom := 500, aboveFrom := 600, clusters := [(0, { PwrRec.fresh with order := order, state := state })] } }

/-- A BE heat waits for a cluster that is `OFF`. -/
def wakeBlk : Block := { beBlk itemBe with pwr := { withCtx.pwr with clusters := [] } }

/-- The sheet has an occurrence for cluster 0. -/
def needBlk (order state : Nat) : Block :=
  { pwrBlk order state false with tide := { (pwrBlk order state false).tide with length := 1000000, sheets := [(0, { SheetSlot.fresh with active := some sheet0 })] } }

theorem wit_PowerEvents :
    ((pwrBlk 3 3 false).pwr.hold = false ∧ dget (pwrBlk 3 3 false) 0x7000 1 - 1 < dget (pwrBlk 3 3 false) 0x7000 1 ∧ (pwrBlk 3 3 true).pwr.hold = true ∧
      dget (pwrBlk 3 3 false) 0x7000 2 - 1 < dget (pwrBlk 3 3 false) 0x7000 2) ∧
    (withCtx.mic.status = 2 ∧ (List.replicate 32 (1000, 1000)).length = 32) ∧
    ((clusterPart (pwrBlk 3 3 false) 0).isSome = true ∧ (pwrOf (pwrBlk 3 3 false) 0).order = 3 ∧ clusterUnused (pwrBlk 3 3 false) 0 = true) ∧
    (clusterPart (pwrBlk 2 2 false) 0 = some 0 ∧ (pwrOf (pwrBlk 2 2 false) 0).order = 2 ∧ dget (pwrBlk 2 2 false) 0x7010 2 ≠ 0xFFFFFFFF ∧
      nextNeed (pwrBlk 2 2 false) 0 0 = none) ∧
    ((nextNeed (needBlk 2 2) 0 0).any (fun n => decide (clockAt (needBlk 2 2) n ≤
        max (needBlk 2 2).tide.clock ((pwrOf (needBlk 2 2) 0).idle + dget (needBlk 2 2) 0x7010 2 * 1000) + wakeOffLead (needBlk 2 2))) = true ∧
      (wakeSet (needBlk 2 2) 0).contains 0 = false ∧ (pwrOf (needBlk 0 0) 0).order = 0 ∧ (nextNeed (needBlk 0 0) 0 0).isSome = true) ∧
    (let s := { sheet0 with res := [{ res3 with perLog2 := 1, phase := 1 }] }
     let b := { needBlk 2 2 with
       dict := [(dkey 0x7010 2, 1)]
       tide := { (needBlk 2 2).tide with sheets := [(0, { SheetSlot.fresh with active := some s })] } }
     (nextNeed b 0 0).any (fun n => decide (
       max b.tide.clock ((pwrOf b 0).idle + dget b 0x7010 2 * 1000) + wakeOffLead b < clockAt b n)) = true) ∧
    ((pwrOf wakeBlk 0).order = 0 ∧ (wakeSet wakeBlk 0).contains 0 = true ∧ clusterPart wakeBlk 0 = some 0) := by
  and_intros <;> decide +kernel

/-- Core 0 stopped at an SLW whose only slot is BRK. -/
def stopCore : CoreSt := { core0 with brkStop := some { cause := .brk, code := 0, since := 900 }, slw := some { slwOf 64 1 [0] with stage := .c1 } }
def stopBlk : Block := { heatBlk with cores := [(0, stopCore)], dict := [(dkey 0x8010 2, 1)] }

theorem wit_DebugCommands :
    (stopBlk.rcv.stage = .idle ∧ stopCore.run = some 0 ∧ runOf stopBlk 0 = some run0 ∧ run0.abort = none ∧ run0.endedAt = none ∧ stopCore.ended = false ∧
      stopCore.hold = .none ∧ stopCore.bound = false ∧ stopCore.loops = [] ∧ stopCore.haltReq = false ∧
      stopCore.slw = some { slwOf stopCore.off 1 [0] with stage := .c1 } ∧ stopCore.off + 16 < (curStream stopCore).len ∧
      stopBlk.regs.coreSel % 64 = 0 ∧ run0.kind = .primary ∧ run0.partsEnded.contains 0 = false) ∧
    RegReaches (live stopBlk) (regDbg 0xE0014 1) .debug 0x14 5 1 ∧ RegGuard (live stopBlk) (regDbg 0xE0014 1) ∧
    RegReaches (live stopBlk) (regSec 0xE0014 2) .debug 0x14 4 2 ∧ RegGuard (live stopBlk) (regSec 0xE0014 2) ∧
    RegReaches (live stopBlk) (regDbg 0xE0014 4) .debug 0x14 5 4 ∧ RegGuard (live stopBlk) (regDbg 0xE0014 4) :=
  ⟨by decide +kernel, reg_reaches (by decide +kernel), reg_guard (by decide +kernel), reg_reaches (by decide +kernel),
   reg_guard (by decide +kernel), reg_reaches (by decide +kernel), reg_guard (by decide +kernel)⟩

/-! ## Ill-formed commands are refused, and the last operand of each range is not -/

def orgOk : Origin := ⟨3, 255, 3⟩
def dbOk : DbWrite := ⟨orgOk, .view, 0, 8, 0xFFFFFFFFFFFFFFFF⟩
def regOk : RegAcc := ⟨orgOk, .view, 0, 4, 0xFFFFFFFF⟩
def dictOk : DictAcc := ⟨.secure, orgOk, 0, 65535, 255, 2, 65535⟩
def hdrOk : GzHdr := ⟨5, 4095, 4095, 0, 0, false, 0, false⟩
def annOk : Announce := ⟨0, 0, 0, 0, 2 ^ 48 - 1, 0⟩
def sealOk : Seal := ⟨4095, 0, 2 ^ 48 - 1, 0, 0, 0⟩

theorem test_wf_numbers :
    (Instr.slwIssue 63).wf = true ∧ (Instr.slwIssue 64).wf = false ∧
    (Instr.depthReport 0 13 0).wf = true ∧ (Instr.depthReport 0 14 0).wf = false ∧
    (Instr.bePlace 31).wf = true ∧ (Instr.bePlace 32).wf = false ∧
    (Instr.interruptRequest 3).wf = true ∧ (Instr.interruptRequest 4).wf = false ∧
    (Instr.linkTrained 5).wf = true ∧ (Instr.linkTrained 6).wf = false ∧
    (Instr.bypassDrive 2).wf = true ∧ (Instr.bypassDrive 3).wf = false ∧
    (Instr.gapTimeout 4095 false).wf = true ∧ (Instr.gapTimeout 4096 false).wf = false ∧
    (Instr.completeEntry 3).wf = true ∧ (Instr.completeEntry 4).wf = false ∧
    (Instr.testDue 0x380).wf = true ∧ (Instr.testDue 0x381).wf = false ∧ (Instr.testDue 1024).wf = false ∧
    (Instr.powerStateReport 0 3).wf = true ∧ (Instr.powerStateReport 0 4).wf = false := by decide

theorem test_wf_objects :
    (Instr.heat 65535).wf = true ∧ (Instr.heat 65536).wf = false ∧
    (Instr.completionWrite 16383).wf = true ∧ (Instr.completionWrite 16384).wf = false ∧
    (Instr.beStarve 131071).wf = true ∧ (Instr.beStarve 131072).wf = false ∧
    (Instr.hctRecordReadReturn 1048575).wf = true ∧ (Instr.hctRecordReadReturn 1048576).wf = false ∧
    (Instr.windowBegin 4095).wf = true ∧ (Instr.windowBegin 4096).wf = false ∧
    (Instr.occurrenceBegin 0 65535).wf = true ∧ (Instr.occurrenceBegin 0 65536).wf = false ∧
    (Instr.batonWatchdog 0 65535).wf = true ∧ (Instr.batonWatchdog 0 65536).wf = false ∧
    (Instr.unmapFenceReached 4 0).wf = true ∧ (Instr.unmapFenceReached 5 0).wf = false ∧
    (Instr.adminNop ⟨4, true⟩).wf = true ∧ (Instr.adminNop ⟨5, true⟩).wf = false := by decide

theorem test_wf_accesses :
    (Instr.ring dbOk).wf = true ∧ (Instr.ring { dbOk with width := 3 }).wf = false ∧
    (Instr.ring { dbOk with width := 4 }).wf = false ∧ (Instr.ring { dbOk with org := ⟨4, 0, 0⟩ }).wf = false ∧
    (Instr.ring { dbOk with org := ⟨0, 256, 0⟩ }).wf = false ∧ (Instr.ring { dbOk with org := ⟨0, 0, 4⟩ }).wf = false ∧
    (Instr.snapshot regOk).wf = true ∧ (Instr.snapshot { regOk with data := 0x100000000 }).wf = false ∧
    (Instr.dictRead dictOk).wf = true ∧ (Instr.dictRead { dictOk with idx := 65536 }).wf = false ∧
    (Instr.dictRead { dictOk with sub := 256 }).wf = false ∧ (Instr.dictRead { dictOk with value := 65536 }).wf = false ∧
    (Instr.entryFetchIssue (.aq 3)).wf = true ∧ (Instr.entryFetchIssue (.aq 4)).wf = false ∧
    (Instr.fetchTimeout (.program 63)).wf = true ∧ (Instr.fetchTimeout (.program 64)).wf = false := by decide

theorem test_wf_messages :
    (Instr.fenceBusy hdrOk 0).wf = true ∧ (Instr.fenceBusy { hdrOk with port := 6 } 0).wf = false ∧
    (Instr.fenceBusy { hdrOk with src := 4096 } 0).wf = false ∧ (Instr.fenceBusy { hdrOk with dst := 4096 } 0).wf = false ∧
    (Instr.timeAnnounce hdrOk annOk).wf = true ∧ (Instr.timeAnnounce hdrOk { annOk with changeAt := 2 ^ 48 }).wf = false ∧
    (Instr.tideJoinAccept hdrOk (2 ^ 48 - 1)).wf = true ∧ (Instr.tideJoinAccept hdrOk (2 ^ 48)).wf = false ∧
    (Instr.epochSeal hdrOk sealOk).wf = true ∧ (Instr.epochSeal hdrOk { sealOk with liveId := 4096 }).wf = false ∧
    (Instr.remoteWaitDeadline (.baton 63 65535)).wf = true ∧ (Instr.remoteWaitDeadline (.core 64)).wf = false ∧
    (Instr.sramUncorrectable (.heatState 63 1)).wf = true ∧ (Instr.sramUncorrectable (.heatState 64 1)).wf = false ∧
    (Instr.dumpAccessLimit (.write 3)).wf = true ∧ (Instr.dumpAccessLimit (.write 4)).wf = false := by decide

/-! ## Worked examples of the spec -/

/-- The fence near the wrap of spec/05_fences_dependencies.md: outcome 0 forward, 1 equal, 2 regressive. -/
theorem test_fence_wrap :
    reached 0xFFFFFFFFFFFFFFF0 0x10 = false ∧ signalOutcome 0x12 0xFFFFFFFFFFFFFFF0 = 0 ∧ reached 0x12 0x10 = true ∧
    signalOutcome 0xFFFFFFFFFFFFFFF8 0x12 = 2 ∧ signalOutcome 0x12 0x12 = 1 := by decide

/-- Entry 0 of the worked example of spec/03_queues.md. -/
def exEntry : BitVec 512 :=
  (0x0000000000017701#64 ++ 0x0000000000000000#64 ++ 0x0000000000005D21#64 ++ 0x0040000001080000#64) ++
  (0x0000000000400000#64 ++ 0x0100004000100000#64 ++ 0x0000019205FF0140#64 ++ 0x00100C370A000001#64)

theorem test_entry_fields :
    eOpcode exEntry = 1 ∧ eTag exEntry = 0x0A00 ∧ eCtx exEntry = 0x100C37 ∧ eLc exEntry = true ∧ eRes exEntry = 0x0140 ∧
    eAffCluster exEntry = 0xFF ∧ eAffStack exEntry = 5 ∧ eLength exEntry = 0x0192 ∧ eProgram exEntry = 0x004000100000 ∧
    eWaitAddr exEntry false = 0x004000000100 ∧ eWaitAddr exEntry true = 0 ∧ eSignalAddr exEntry = 0x004000000108 ∧
    eWaitValue exEntry false = 0x5D21 ∧ eSignalValue exEntry = 0x17701 := by decide +kernel

/-- ALI a1; ALIH a1; XCALL a1 + 0; LOOP of count 3 and body 3; AADD a4, a4 (spec/06_long_words.md, spec/07_engine_slots.md). -/
theorem test_slot_fields :
    slotOp 0x0020000000000123 = 0x23 ∧ slotFields 0x0020000000000123 = ⟨1, 0, 0, false, 0, 0x200000⟩ ∧
    slotOp 0x0000004000000124 = 0x24 ∧ slotFields 0x0000004000000124 = ⟨1, 0, 0, false, 0, 0x40⟩ ∧
    slotOp 0x0000000001002051 = 0x51 ∧ slotFields 0x0000000001002051 = ⟨0, 1, 0, false, 1, 0⟩ ∧
    slotOp 0x0003000300800038 = 0x38 ∧ slotFields 0x0003000300800038 = ⟨0, 0, 0, true, 0, 0x30003⟩ ∧
    slotOp 0x0018000000808420 = 0x20 ∧ slotFields 0x0018000000808420 = ⟨4, 4, 0, true, 0, 0x180000⟩ := by decide

/-- The headers of the two examples: C0 and position 4 with patches a2 and a3; position 10 again, end of the stream. -/
theorem test_header_fields :
    hC0 0x0000032000000041 = true ∧ hC1 0x0000032000000041 = false ∧ hEng 0x0000032000000041 4 = true ∧
    hPatch 0x0000032000000041 1 = 2 ∧ hPatch 0x0000032000000041 2 = 3 ∧
    hC1 0x0002005404000003 = true ∧ hEng 0x0002005404000003 10 = false ∧ hRepeat 0x0002005404000003 10 = true ∧
    hEnd 0x0002005404000003 = true ∧ hPatch 0x0002005404000003 0 = 4 ∧ hPatch 0x0002005404000003 1 = 5 := by decide

/-- The engine slot of the COPY of 1,024 rows, and its source (spec/07_engine_slots.md). -/
def exCopy : BitVec 256 := 0x0000040000000000#64 ++ 0x0000000011060003#64 ++ 0x0000000051060003#64 ++ 0x0000000000000060#64

theorem test_engine_slot :
    gOpcode exCopy = 0x60 ∧ gSelect exCopy = 0 ∧ gRepeat exCopy = 1024 ∧ gItd exCopy = 0 ∧
    gDesc exCopy 0 = 0x5106000300000000 ∧ gDesc exCopy 1 = 0x1106000300000000 ∧ gDesc exCopy 2 = 0 ∧
    dAddr (gDesc exCopy 0) = 0 ∧ dSize (gDesc exCopy 0) = 768 ∧ dStride (gDesc exCopy 0) = 1536 ∧
    dPatch (gDesc exCopy 0) = true ∧ dMem (gDesc exCopy 0) = true ∧ dMem (gDesc exCopy 1) = false := by decide

/-- The page of spec/02_objects.md: level-1 entry at + 0x240, level-2 entry at + 0x1A2B0. -/
def exPages : Block :=
  { Block.fresh with mem := memWriteLE (memWriteLE Block.fresh.mem 0x1000240 8 0x2000001) 0x201A2B0 8 0x271000038C500003 }

theorem test_translation : walkPage exPages { ctx0 with span := 7 } 0x1234560123 =
    some { ctx := 0, vbase := 0x1234560000, size := 0x10000, gbase := 0x271000038C500000, writable := true } := by decide +kernel

/-- The advisories of spec/18_power.md: A 1,111 changes nothing, A 1,116 gives K 1,027, A 1,180 then gives K 1,086; the floor of
r 1,054 is 51,470 ns. -/
def exPower (a : Nat) (k : List Nat) : Block := { booted with pwr := { booted.pwr with ageing := a, factors := k } }

theorem test_advisory :
    (advise (exPower 1111 [1024])).pwr.factors = [1024] ∧ (advise (exPower 1116 [1024])).pwr.factors = [1027, 1024] ∧
    (advise (exPower 1180 [1027, 1024])).pwr.factors = [1086, 1027, 1024] ∧
    ceilDiv (1111 * 1048576) (eolFactor * 1024) = 992 ∧ ceilDiv (1180 * 1048576) (eolFactor * 1024) = 1054 ∧
    10 * ceilDiv (50000 * 1054) 10240 = 51470 := by
  refine ⟨?_, ?_, ?_, ?_, ?_, ?_⟩ <;> decide +kernel

/-- The audit record of spec/17_dictionary.md, but for its CRC. -/
theorem test_audit_words :
    (auditRecord { type := 1, path := .i3c, idx := 0x611E, sub := 6, new := 2 } 1 0x12 0).extractLsb' 0 128 =
      0x000000120001611E#64 ++ 0x0006000000010001#64 := by decide +kernel

/-- The check value of CRC-32C: "123456789" (PRESUMED: the polynomial's published check value). -/
theorem test_crc32c : crc32c [0x31, 0x32, 0x33, 0x34, 0x35, 0x36, 0x37, 0x38, 0x39] = 0xE3069283 := by decide +kernel

/-- Cluster record 30 of spec/17_dictionary.md: every position fused present, position 5 Quarantined. -/
def exCluster : Block :=
  { Block.fresh with fuse := ~~~0#896
                     rel := { Block.fresh.rel with units := [(unitNo 30 5, { unitOf Block.fresh (unitNo 30 5) with state := 2 })] } }

theorem test_cluster_record : clusterRecord exCluster 30 % 2 ^ 64 = 0xFF00002000203FFF := by decide +kernel

end Sys2Proof.Tests
end

section
/-! PROOFS. Where a command acts, its answer is the block that its change gives: the lifts under `Booted` and `Running`. -/

namespace Sys2Proof.Machine

open Sys2Proof

/-! ## Where commands act -/

theorem alive_eq_true {s : State} (h : Alive s) : alive s = true := by
  obtain ⟨hrst, hstop⟩ := h
  simp [alive, hrst, hstop]

theorem ready_of_booted {s : State} (h : Booted s) : ready s.blk = true := by
  simp [ready, h.2]

theorem liftU_booted {s : State} (h : Booted s) (f : Block → Block) : liftU f s = .next (s.withBlk (f s.blk)) :=
  (liftU_spec f s).1 (alive_eq_true h.1) (ready_of_booted h)

theorem liftR_running {s : State} (h : Running s) (f : Block → Block) : liftR f s = .next (s.withBlk (f s.blk)) :=
  (liftR_spec f s).1 (alive_eq_true h.1.1) (ready_of_booted h.1) h.2

theorem liftRA_running {s : State} (h : Running s) (f : Block → Act) : liftRA f s = .next (s.withBlk (finish (f s.blk))) :=
  liftR_running h fun b => finish (f b)

/-! ## Effects that change nothing -/

theorem actEach_eq_act {α : Type} {b : Block} {f : Block → α → Act} {l : List α} (h : ∀ x ∈ l, f b x = act b) :
    actEach b l f = act b := by
  induction l with
  | nil => rfl
  | cons x xs ih =>
    have hx : f b x = act b := h x (by simp)
    have hxs : actEach b xs f = act b := ih fun y hy => h y (by simp [hy])
    simpa [actEach, hx] using hxs

/-! ## Keyed maps and free numbers -/

theorem mem_of_fmGet? {α : Type} {m : FMap α} {k : Nat} {v : α} (h : fmGet? m k = some v) : (k, v) ∈ m := by
  induction m with
  | nil => simp [fmGet?] at h
  | cons p t ih =>
    obtain ⟨j, w⟩ := p
    by_cases e : j = k
    · have hv : w = v := by simpa [fmGet?, e] using h
      simp [e, hv]
    · exact List.mem_cons_of_mem _ (ih (by simpa [fmGet?, e] using h))

/-- What the search for a free number finds is within its range and free. -/
theorem lowestFree_some {used : List Nat} {start fuel i : Nat} (h : lowestFree used start fuel = some i) :
    start ≤ i ∧ i < start + fuel ∧ i ∉ used := by
  induction fuel generalizing start with
  | zero => simp [lowestFree] at h
  | succ fuel ih =>
    by_cases hu : start ∈ used
    · obtain ⟨hle, hlt, hfree⟩ := ih (start := start + 1) (by simpa [lowestFree, hu] using h)
      exact ⟨by omega, by omega, hfree⟩
    · have : start = i := by simpa [lowestFree, hu] using h
      subst this
      exact ⟨le_rfl, by omega, hu⟩

theorem mem_of_lowestFree_none {used : List Nat} {start fuel : Nat} (h : lowestFree used start fuel = none) {i : Nat}
    (hi : start ≤ i) (hi' : i < start + fuel) : i ∈ used := by
  induction fuel generalizing start with
  | zero => omega
  | succ fuel ih =>
    by_cases hu : start ∈ used
    · by_cases e : i = start
      · exact e ▸ hu
      · exact ih (start := start + 1) (by simpa [lowestFree, hu] using h) (by omega) (by omega)
    · simp [lowestFree, hu] at h

/-- The search succeeds where fewer numbers are in use than it tries. -/
theorem lowestFree_isSome {used : List Nat} {fuel : Nat} (start : Nat) (h : used.length < fuel) :
    ∃ i, lowestFree used start fuel = some i := by
  refine Option.ne_none_iff_exists'.mp fun hn => ?_
  have hsub : List.range' start fuel ⊆ used := fun i hi => by
    rw [List.mem_range'_1] at hi
    exact mem_of_lowestFree_none hn hi.1 hi.2
  have hlen := (List.subperm_of_subset List.nodup_range' hsub).length_le
  rw [List.length_range'] at hlen
  omega

end Sys2Proof.Machine
end

section
/-! PROOFS. The dispatch crossbar (spec/07_engine_slots.md): what the acceptance of a baton and the end of a head leave in the port,
the core and the rest of the block; the hand-over of a core's oldest entry; the releases of a held head; the fall of `CAP_STATE`. -/

namespace Sys2Proof.Machine

open Sys2Proof

/-! ## Charges and outputs -/

/-- Charging buckets changes nothing else of the block (R244). -/
theorem bktTakeAll_eq (b : Block) (p : Nat) (l : List (Nat × Nat)) :
    bktTakeAll b p l = { b with bkt := (bktTakeAll b p l).bkt } := by
  induction l generalizing b with
  | nil => rfl
  | cons x xs ih => exact ih (bktTake b p x.1 x.2)

@[simp] theorem coreOf_bktTakeAll (b : Block) (p : Nat) (l : List (Nat × Nat)) (c : Nat) : coreOf (bktTakeAll b p l) c = coreOf b c := by
  rw [bktTakeAll_eq]; rfl
@[simp] theorem portOf_bktTakeAll (b : Block) (p : Nat) (l : List (Nat × Nat)) (c : Nat) : portOf (bktTakeAll b p l) c = portOf b c := by
  rw [bktTakeAll_eq]; rfl
@[simp] theorem bktTakeAll_ctr (b : Block) (p : Nat) (l : List (Nat × Nat)) : (bktTakeAll b p l).ctr = b.ctr := by
  rw [bktTakeAll_eq]
@[simp] theorem bktTakeAll_mem (b : Block) (p : Nat) (l : List (Nat × Nat)) : (bktTakeAll b p l).mem = b.mem := by
  rw [bktTakeAll_eq]
@[simp] theorem bktTakeAll_out (b : Block) (p : Nat) (l : List (Nat × Nat)) : (bktTakeAll b p l).out = b.out := by
  rw [bktTakeAll_eq]

@[simp] theorem coreOf_capTake (b : Block) (c : Nat) : coreOf (capTake b) c = coreOf b c := rfl
@[simp] theorem portOf_capTake (b : Block) (c : Nat) : portOf (capTake b) c = portOf b c := rfl
@[simp] theorem capTake_ctr (b : Block) : (capTake b).ctr = b.ctr := rfl
@[simp] theorem capTake_mem (b : Block) : (capTake b).mem = b.mem := rfl
@[simp] theorem capTake_out (b : Block) : (capTake b).out = b.out := rfl

@[simp] theorem coreOf_emit (b : Block) (e : OutEvent) (c : Nat) : coreOf (emit b e) c = coreOf b c := rfl
@[simp] theorem portOf_emit (b : Block) (e : OutEvent) (c : Nat) : portOf (emit b e) c = portOf b c := rfl
@[simp] theorem emit_ctr (b : Block) (e : OutEvent) : (emit b e).ctr = b.ctr := rfl
@[simp] theorem emit_mem (b : Block) (e : OutEvent) : (emit b e).mem = b.mem := rfl
@[simp] theorem emit_out (b : Block) (e : OutEvent) : (emit b e).out = e :: b.out := rfl

@[simp] theorem portOf_cnt (b : Block) (key c : Nat) : portOf (cnt b key) c = portOf b c := rfl

/-! ## Acceptance of a baton (R188, R192) -/

/-- The ID that the next baton of a port takes. -/
def nextId (p : CPort) : Nat := (lowestFree (p.out.map (fun x => x.id)) 0 65536).getD 0

/-- A port with fewer than 65,536 batons outstanding has a free ID. -/
theorem nextId_free {p : CPort} (h : p.out.length < 65536) : nextId p < 65536 ∧ ∀ y ∈ p.out, y.id ≠ nextId p := by
  obtain ⟨i, hi⟩ := lowestFree_isSome (used := p.out.map (fun x => x.id)) 0 (by simpa using h)
  obtain ⟨-, hlt, hfree⟩ := lowestFree_some hi
  have hid : nextId p = i := by simp [nextId, hi]
  rw [hid]
  exact ⟨by omega, fun y hy e => hfree (e ▸ List.mem_map_of_mem hy)⟩

/-- The record that an accepted baton leaves at its port. -/
def newBaton (b : Block) (c : Nat) (h : Head) (e : PushEnt) (slots : List Nat) (bag : Option Nat) (copy : Bool) : Baton where
  id := nextId (portOf b c)
  ent := e
  run := h.run
  order := (coreOf b c).pushed - (coreOf b c).pushQ.length
  call := h.call
  slots := slots
  bag := bag
  since := stamp b
  deadline := b.tide.clock + (if isL e.pos then dget b 0x2030 1 else dget b 0x6000 3) * 1000
  copy := copy
  cancelled := false

/-- The port once it has accepted a baton: a credit of the engine is taken, and the baton is outstanding. -/
def portAccepts (p : CPort) (x : Baton) : CPort :=
  { p with credit := fmSet p.credit x.ent.pos (creditOf p x.ent.pos - 1), out := p.out ++ [x] }

/-- The acceptance of a baton as a chain of operations, of which each changes one part of the block. -/
theorem acceptBaton_eq (b : Block) (c : Nat) (h : Head) (e : PushEnt) (slots : List Nat) (bag : Option Nat) (copy : Bool) :
    acceptBaton b c h e slots bag copy =
      let charged := capTake (bktTakeAll (putPort b c (portAccepts (portOf b c) (newBaton b c h e slots bag copy))) h.part e.charge)
      let counted := if copy || (applyOf h.run).isSome then charged
        else putCore charged c { coreOf charged c with batonCnt := satInc 32 (coreOf charged c).batonCnt }
      emit (cnt counted cBatonPush) (.baton c (batonWord e h.lc h.tell (nextId (portOf b c)))) := rfl

section
variable (b : Block) (c : Nat) (h : Head) (e : PushEnt) (slots : List Nat) (bag : Option Nat) (copy : Bool)

@[simp] theorem portOf_acceptBaton : portOf (acceptBaton b c h e slots bag copy) c =
    portAccepts (portOf b c) (newBaton b c h e slots bag copy) := by
  rw [acceptBaton_eq]; dsimp only; split <;> simp

/-- The core counts a baton of a heat, but not the COPY of a capture, nor a baton of a table's apply (R436). -/
theorem coreOf_acceptBaton (hc : (copy || (applyOf h.run).isSome) = false) : coreOf (acceptBaton b c h e slots bag copy) c =
    { coreOf b c with batonCnt := satInc 32 (coreOf b c).batonCnt } := by
  simp [acceptBaton_eq, hc]

@[simp] theorem acceptBaton_ctr : (acceptBaton b c h e slots bag copy).ctr = (cnt b cBatonPush).ctr := by
  rw [acceptBaton_eq]; dsimp only; split <;> simp [cnt, cntAdd]

@[simp] theorem acceptBaton_mem : (acceptBaton b c h e slots bag copy).mem = b.mem := by
  rw [acceptBaton_eq]; dsimp only; split <;> simp

@[simp] theorem acceptBaton_out : (acceptBaton b c h e slots bag copy).out =
    .baton c (batonWord e h.lc h.tell (nextId (portOf b c))) :: b.out := by
  rw [acceptBaton_eq]; dsimp only; split <;> simp

end

/-! ## The end of a core's head -/

/-- The core has handed over its head: the marks of its holds are cleared, it went last, and its oldest entry is gone. -/
theorem headGone_core (b : Block) (c : Nat) : headGone b c false =
    putCore (putPort b c { portOf b c with coreHeld := HeldMark.clear, lastX := false, capX := none }) c
      { coreOf b c with pushQ := (coreOf b c).pushQ.drop 1 } := by
  simp [headGone, putMark, putPort, coreOf, portOf]

/-! ## The hand-over of a core's oldest entry (R17) -/

/-- The head that a core offers for an entry of run `n`. -/
def headFor (b : Block) (n : Nat) (r : Run) (e : PushEnt) : Head where
  run := n
  lc := r.lc
  part := r.part
  tell := heatPart b r
  call := none
  work := .baton e [] none

/-- The number of a heat's run names no table's apply. -/
theorem applyOf_heat {n : Nat} (h : n < 2 ^ 32) : applyOf n = none := by
  simpa [applyOf] using h

theorem coreHead_eq {b : Block} {c n : Nat} {r : Run} {e : PushEnt} {es : List PushEnt} (hq : (coreOf b c).pushQ = e :: es)
    (hn : (coreOf b c).run = some n) (hr : runOf b n = some r) : coreHead b c = some (headFor b n r e) := by
  simp [coreHead, hq, hn, hr, headFor]

theorem xHead_of_empty {b : Block} {c : Nat} (h : (portOf b c).xq = []) : xHead b c = none := by
  simp [xHead, h]

/-- A run that serves no sample has no inputs captured (R355). -/
theorem capWanted_of_no_sample {b : Block} {h : Head} (c : Nat) (xp : Bool) (hs : sampleOf b h.run = none) :
    capWanted b c xp h = none := by
  simp [capWanted, hs]

/-- A baton that may pass, and whose inputs are not under capture, is accepted at its source's turn. -/
theorem offer_passes {b : Block} {c : Nat} {xp : Bool} {h : Head} {e : PushEnt} {slots : List Nat} {bag : Option Nat}
    (hw : h.work = .baton e slots bag) (hs : sampleOf b h.run = none) (hx : (portOf b c).capX = none)
    (hp : passes b c e.pos h.part h.lc e.charge = true) :
    offer b c xp h = (true, headGone (acceptBaton b c h e slots bag false) c xp) := by
  simp [offer, hw, capWanted_of_no_sample c xp hs, hx, hp]

/-- The oldest entry of core `c` is `e`, of heat run `n`; the expander has nothing at the port, no inputs are captured, an ID is left,
and cluster, credit, buckets and power cap let it pass (R17, R192, R244, R246, R431). -/
structure CoreHeadPasses (b : Block) (c n : Nat) (r : Run) (e : PushEnt) (es : List PushEnt) : Prop where
  core : c < 64
  run : (coreOf b c).run = some n
  served : runOf b n = some r
  noSample : sampleOf b n = none
  oldest : (coreOf b c).pushQ = e :: es
  alone : (portOf b c).xq = []
  noCapture : (portOf b c).capX = none
  idLeft : (portOf b c).out.length < 65536
  notApply : n < 2 ^ 32
  passes : passes b c e.pos r.part r.lc e.charge = true

section
variable {b : Block} {c n : Nat} {r : Run} {e : PushEnt} {es : List PushEnt}

theorem handshake_eq (h : CoreHeadPasses b c n r e es) :
    handshake b c = headGone (acceptBaton b c (headFor b n r e) e [] none false) c false := by
  have hoffer : offer b c false (headFor b n r e) = _ := offer_passes rfl h.noSample h.noCapture h.passes
  simp [handshake, h.idLeft, h.core, headOf, coreHead_eq h.oldest h.run h.served, xHead_of_empty h.alone, sourceOrder, offerAll, hoffer]

theorem portOf_handshake (h : CoreHeadPasses b c n r e es) : portOf (handshake b c) c =
    { portAccepts (portOf b c) (newBaton b c (headFor b n r e) e [] none false) with
      coreHeld := HeldMark.clear, lastX := false, capX := none } := by
  simp [handshake_eq h, headGone_core]

theorem coreOf_handshake (h : CoreHeadPasses b c n r e es) : coreOf (handshake b c) c =
    { coreOf b c with pushQ := es, batonCnt := satInc 32 (coreOf b c).batonCnt } := by
  have hc : (false || (applyOf (headFor b n r e).run).isSome) = false := by simp [headFor, applyOf_heat h.notApply]
  simp [handshake_eq h, headGone_core, coreOf_acceptBaton b c _ e [] none false hc, h.oldest]

theorem handshake_out (h : CoreHeadPasses b c n r e es) :
    (handshake b c).out = .baton c (batonWord e r.lc (heatPart b r) (nextId (portOf b c))) :: b.out := by
  simp [handshake_eq h, headGone_core, headFor]

theorem handshake_ctr (h : CoreHeadPasses b c n r e es) : (handshake b c).ctr = (cnt b cBatonPush).ctr := by
  simp [handshake_eq h, headGone_core]

theorem handshake_mem (h : CoreHeadPasses b c n r e es) : (handshake b c).mem = b.mem := by
  simp [handshake_eq h, headGone_core]

end

/-! ## Releases of a held head (R244, R246) -/

theorem descIssue_of_unwanted {b : Block} (h : ∀ x ∈ b.sb.items, x.2.descRd ≠ .wanted) (t : Nat) : descIssue b t = act b := by
  unfold descIssue
  cases hi : itemOf b t with
  | none => rfl
  | some i =>
    have hne : i.descRd ≠ .wanted := h (t, i) (mem_of_fmGet? hi)
    simp [hne]

theorem retryFetch_of_no_hold {b : Block} {c : Nat} (h : (coreOf b c).hold = .none) : retryFetch b c = act b := by
  unfold retryFetch
  dsimp only
  split
  · rfl
  · rw [h]

theorem retryCall_of_no_calls {b : Block} {c : Nat} (h : (coreOf b c).calls = []) : retryCall b c = act b := by
  simp [retryCall, curCall, h]

/-- Where nothing but a head of the port waits for a bucket, the release is a hand-over. -/
theorem breakwaterRelease_eq_handshake {b : Block} {c : Nat} (hb : bucketHeld b c = true) (hq : waitingReads b = [])
    (hd : ∀ x ∈ b.sb.items, x.2.descRd ≠ .wanted) (hh : (coreOf b c).hold = .none) (hc : (coreOf b c).calls = []) :
    breakwaterRelease b c = act (handshake b c) := by
  have hdesc : actEach b (fmKeys b.sb.items) descIssue = act b := actEach_eq_act fun t _ => descIssue_of_unwanted hd t
  simp [breakwaterRelease, hq, hdesc, retryFetch_of_no_hold hh, retryCall_of_no_calls hc, hb]

/-! ## `CAP_STATE` (R246) -/

theorem capState_lc {b : Block} {u : Nat} (h : b.cap.heldLc = some u) (hu : b.tide.clock < u + 10000) : capState b = 2 := by
  simp [capState, capRecent, h, hu]

theorem capRecent_of_no_hold {b : Block} {lc : Bool} (hh : capHolding b lc = false)
    (h : (if lc then b.cap.heldLc else b.cap.heldBe) = none) : capRecent b lc = false := by
  simp [capRecent, hh, h]

theorem capState_be {b : Block} {u : Nat} (hh : capHolding b true = false) (hl : b.cap.heldLc = none) (h : b.cap.heldBe = some u)
    (hu : b.tide.clock < u + 10000) : capState b = 1 := by
  have hlc : capRecent b true = false := capRecent_of_no_hold hh hl
  have hbe : capRecent b false = true := by simp [capRecent, h, hu]
  simp [capState, hlc, hbe]

theorem capState_none {b : Block} (hh : capHolding b true = false) (hh' : capHolding b false = false) (hl : b.cap.heldLc = none)
    (h : b.cap.heldBe = none) : capState b = 0 := by
  simp [capState, capRecent_of_no_hold hh hl, capRecent_of_no_hold hh' h]

theorem capTimeout_lc {b : Block} {u : Nat} (hh : capHolding b true = false) (h : b.cap.heldLc = some u)
    (hu : b.tide.clock < u + 10000) :
    capTimeout b = { passTo b (u + 10000) with cap := { b.cap with heldLc := none } } := by
  simp [capTimeout, capState_lc h hu, hh, h]

theorem capTimeout_be {b : Block} {u : Nat} (hh : capHolding b true = false) (hh' : capHolding b false = false)
    (hl : b.cap.heldLc = none) (h : b.cap.heldBe = some u) (hu : b.tide.clock < u + 10000) :
    capTimeout b = { passTo b (u + 10000) with cap := { b.cap with heldBe := none } } := by
  simp [capTimeout, capState_be hh hl h hu, hh', h]

/-! ## The statement -/

/-- Settles O23: BATON_HANDSHAKE and both releases come to one hand-over of the core's oldest entry, and CAP_STATE_TIMEOUT ends the
last hold of the class that decides `CAP_STATE`. -/
theorem handsOver : Obligations.HandsOver := by
  unfold Obligations.HandsOver
  refine ⟨?_, ?_⟩
  · intro s c n r e es hs hc b k p hn hr hsample hq hxq hcap hlen hlt hpass handed
    have h : CoreHeadPasses b c n r e es := ⟨hc, hn, hr, hsample, hq, hxq, hcap, hlen, hlt, hpass⟩
    have key : handed (s.withBlk (handshake b c)) := by
      obtain ⟨hid, hfree⟩ := nextId_free hlen
      have hcredit : creditOf (portOf (handshake b c) c) e.pos = creditOf p e.pos - 1 := by
        rw [portOf_handshake h]; exact fmGet_fmSet_self _ _ _ _
      have hcount : fmGet (handshake b c).ctr cBatonPush 0 = satAdd 32 (fmGet b.ctr cBatonPush 0) 1 := by
        rw [handshake_ctr h, cnt_value]
      exact ⟨nextId p, newBaton b c (headFor b n r e) e [] none false, hid, hfree, rfl, rfl, rfl, rfl,
        congrArg CPort.out (portOf_handshake h), congrArg CoreSt.pushQ (coreOf_handshake h), hcredit,
        congrArg CoreSt.batonCnt (coreOf_handshake h), handshake_out h, hcount, handshake_mem h⟩
    refine ⟨⟨_, liftR_running hs _, key⟩, fun hheld => ⟨_, liftR_running hs _, ?_⟩, fun hheld hreads hdesc hhold hcalls =>
      ⟨_, liftRA_running hs fun b => breakwaterRelease b c, ?_⟩⟩
    · have hcapHeld : (portOf s.blk c).coreHeld.cap.isSome = true := hheld
      simpa only [hcapHeld, Bool.true_or, if_true] using key
    · have hbucket : bucketHeld b c = true := by
        have : (portOf b c).coreHeld.bucket = true := hheld
        simp [bucketHeld, this]
      rw [breakwaterRelease_eq_handshake hbucket hreads hdesc hhold hcalls]
      exact key
  · intro s u hs hlc hbe hu b'
    refine ⟨fun h => ?_, fun hl h => ⟨?_, capState_be hlc hl h hu, capState_none hlc hbe hl rfl⟩⟩
    · exact (liftU_booted hs capTimeout).trans (by rw [capTimeout_lc hlc h hu]; rfl)
    · exact (liftU_booted hs capTimeout).trans (by rw [capTimeout_be hlc hbe hl h hu]; rfl)

end Sys2Proof.Machine
end

section
/-! PROOFS. Small laws that several families need: keyed maps, the lifts of replies, and what write-backs, completions and reports of the
queues can change (R66 to R68, R101). -/

namespace Sys2Proof.Machine

open Sys2Proof

/-! ## Keyed maps -/

theorem fmGet?_eq_none {α : Type} {m : FMap α} {k : Nat} (h : k ∉ fmKeys m) : fmGet? m k = none := by
  cases hv : fmGet? m k with
  | none => rfl
  | some v => exact absurd (List.mem_map_of_mem (f := Prod.fst) (mem_of_fmGet? hv)) h

@[simp] theorem fmGet?_fmErase_self {α : Type} (m : FMap α) (k : Nat) : fmGet? (fmErase m k) k = none :=
  fmGet?_eq_none (by simp [fmErase, fmKeys])

/-! ## Where commands act -/

theorem lift_of_alive {s : State} (h : Alive s) (f : Block → Block) : lift f s = .next (s.withBlk (f s.blk)) :=
  lift_alive (alive_eq_true h)

theorem liftA_alive {s : State} (h : Alive s) (f : Block → Act) : liftA f s = .next (s.withBlk (finish (f s.blk))) :=
  lift_of_alive h fun b => finish (f b)

theorem liftReply_running {s : State} (h : Running s) (l : List Access) (f : Block → Block) :
    liftReply l f s = .next (s.withBlk (f s.blk)) :=
  (liftReply_spec l f s).1 (alive_eq_true h.1.1) (ready_of_booted h.1) h.2

theorem liftReplyA_running {s : State} (h : Running s) (l : List Access) (f : Block → Act) :
    liftReplyA l f s = .next (s.withBlk (finish (f s.blk))) :=
  liftReply_running h l fun b => finish (f b)

@[simp] theorem withBlk_blk (s : State) (b : Block) : (s.withBlk b).blk = noteSteps s.blk b := rfl

/-- A command that answers a block gives what holds of that block. -/
theorem gives_withBlk {o : Host.Outcome State Fault Refusal} {s : State} {b : Block} {P : State → Prop}
    (h : o = .next (s.withBlk b)) (hP : P (s.withBlk b)) : Gives o P := ⟨_, h, hP⟩

/-! ## Write-backs, completions and reports: all that they change -/

/-- `b` differs from `a` at most in the queues, the memory, the highest stamp, the bucket levels and the outputs: all that the write-back of a
queue, a completion or an interrupt request changes (R66 to R68, R94, R101). -/
def WritesBack (a b : Block) : Prop :=
  ∃ q mem floor bkt out, b = { a with q := q, mem := mem, tide := { a.tide with stampFloor := floor }, bkt := bkt, out := out }

namespace WritesBack

variable {a b c : Block}

theorem refl (a : Block) : WritesBack a a := ⟨_, _, _, _, _, rfl⟩

theorem trans (h : WritesBack a b) (h' : WritesBack b c) : WritesBack a c := by
  obtain ⟨_, _, _, _, _, rfl⟩ := h
  obtain ⟨_, _, _, _, _, rfl⟩ := h'
  exact ⟨_, _, _, _, _, rfl⟩

theorem foldl {α : Type} {f : Block → α → Block} (h : ∀ b x, WritesBack b (f b x)) (l : List α) (b : Block) :
    WritesBack b (l.foldl f b) := by
  induction l generalizing b with
  | nil => exact refl b
  | cons x xs ih => exact (h b x).trans (ih (f b x))

section
variable (h : WritesBack a b)
include h

theorem obj : b.obj = a.obj := by obtain ⟨_, _, _, _, _, rfl⟩ := h; rfl
theorem dict : b.dict = a.dict := by obtain ⟨_, _, _, _, _, rfl⟩ := h; rfl
theorem adm : b.adm = a.adm := by obtain ⟨_, _, _, _, _, rfl⟩ := h; rfl
theorem sb : b.sb = a.sb := by obtain ⟨_, _, _, _, _, rfl⟩ := h; rfl
theorem fen : b.fen = a.fen := by obtain ⟨_, _, _, _, _, rfl⟩ := h; rfl
theorem comp : b.comp = a.comp := by obtain ⟨_, _, _, _, _, rfl⟩ := h; rfl
theorem cores : b.cores = a.cores := by obtain ⟨_, _, _, _, _, rfl⟩ := h; rfl
theorem rcv : b.rcv = a.rcv := by obtain ⟨_, _, _, _, _, rfl⟩ := h; rfl
theorem regs : b.regs = a.regs := by obtain ⟨_, _, _, _, _, rfl⟩ := h; rfl
theorem pwr : b.pwr = a.pwr := by obtain ⟨_, _, _, _, _, rfl⟩ := h; rfl
theorem tableGen : b.tableGen = a.tableGen := by obtain ⟨_, _, _, _, _, rfl⟩ := h; rfl
theorem sheets : b.tide.sheets = a.tide.sheets := by obtain ⟨_, _, _, _, _, rfl⟩ := h; rfl

end

end WritesBack

theorem writesBack_emit (b : Block) (e : OutEvent) : WritesBack b (emit b e) := ⟨_, _, _, _, _, rfl⟩
theorem writesBack_wr (b : Block) (k : Nat) (l : List Byte) : WritesBack b (wr b k l) := ⟨_, _, _, _, _, rfl⟩
theorem writesBack_noteStamp (b : Block) (t : Nat) : WritesBack b (noteStamp b t) := ⟨_, _, _, _, _, rfl⟩
theorem writesBack_bktTake (b : Block) (p k n : Nat) : WritesBack b (bktTake b p k n) := ⟨_, _, _, _, _, rfl⟩

theorem writesBack_putSq (b : Block) (r : QRef) (s : Sq) : WritesBack b (putSq b r s) := by
  cases r <;> exact ⟨_, _, _, _, _, rfl⟩
theorem writesBack_putCq (b : Block) (r : QRef) (c : Cq) : WritesBack b (putCq b r c) := by
  cases r <;> exact ⟨_, _, _, _, _, rfl⟩

theorem writesBack_hostAcc (b : Block) (host : Bool) (port fn addr len : Nat) (write : Bool) :
    WritesBack b (hostAcc b host port fn addr len write) := by
  unfold hostAcc; split <;> exact ⟨_, _, _, _, _, rfl⟩

theorem writesBack_wrOwn (b : Block) (g : Nat) (l : List Byte) : WritesBack b (wrOwn b g l) := by
  unfold wrOwn; split <;> exact ⟨_, _, _, _, _, rfl⟩

theorem writesBack_ringPut (b : Block) (base log2 size seq t : Nat) (l : List Byte) : WritesBack b (ringPut b base log2 size seq t l) := by
  unfold ringPut
  split
  · exact .refl b
  · exact (writesBack_wrOwn _ _ _).trans (writesBack_noteStamp _ _)

theorem writesBack_sqWriteback (b : Block) (r : QRef) : WritesBack b (sqWriteback b r) := by
  unfold sqWriteback
  cases sqOf b r with
  | none => exact .refl b
  | some q =>
    have h (c : Block) : WritesBack b (hostAcc (noteStamp (wr (putSq b r { q with sinceWb := 0 })
        (memKey q.qcbHost q.hostPort (q.qcbAddr + 0x20)) (sqQcbBytes q)) q.lastEvent) q.qcbHost q.hostPort q.ownerFn (q.qcbAddr + 0x20) 32 true) :=
      (writesBack_putSq b r _).trans <| (writesBack_wr _ _ _).trans <| (writesBack_noteStamp _ _).trans (writesBack_hostAcc _ _ _ _ _ _ _)
    cases r with
    | aq p => exact h b
    | q n =>
      dsimp only
      split
      · exact (h b).trans (writesBack_bktTake _ _ _ _)
      · exact h b

theorem writesBack_sqConsume (b : Block) (r : QRef) (rej : Bool) : WritesBack b (sqConsume b r rej) := by
  unfold sqConsume
  cases sqOf b r with
  | none => exact .refl b
  | some q =>
    dsimp only
    split
    · exact (writesBack_putSq _ _ _).trans (writesBack_sqWriteback _ _)
    · exact writesBack_putSq _ _ _

theorem writesBack_cqWriteback (b : Block) (r : QRef) : WritesBack b (cqWriteback b r) := by
  unfold cqWriteback
  split
  · exact .refl b
  · exact (writesBack_wr _ _ _).trans (writesBack_hostAcc _ _ _ _ _ _ _)

theorem writesBack_cqWriteEntry (b : Block) (r : QRef) (c : Cq) (e : BitVec 256) : WritesBack b (cqWriteEntry b r c e) := by
  have put (b : Block) (a : Nat) (l : List Byte) : WritesBack b
      (hostAcc (wr b (memKey c.ringHost c.hostPort a) l) c.ringHost c.hostPort c.ownerFn a l.length true) :=
    (writesBack_wr _ _ _).trans (writesBack_hostAcc _ _ _ _ _ _ _)
  unfold cqWriteEntry
  exact (put _ _ _).trans <| (put _ _ _).trans <| (writesBack_noteStamp _ _).trans <|
    (writesBack_putCq _ _ _).trans (writesBack_cqWriteback _ _)

theorem writesBack_raiseInt (b : Block) (port fn vector : Nat) : WritesBack b (raiseInt b port fn vector) := by
  unfold raiseInt; dsimp only; split <;> exact ⟨_, _, _, _, _, rfl⟩

theorem writesBack_adminWriteOne (b : Block) (p : Nat) : WritesBack b (adminWriteOne b p) := by
  unfold adminWriteOne
  split
  · exact .refl b
  · split
    · exact .refl b
    · split
      · dsimp only
        refine WritesBack.trans ?_ ((writesBack_cqWriteEntry _ _ _ _).trans (writesBack_raiseInt _ _ _ _))
        split
        · exact .refl b
        · exact writesBack_sqWriteback _ _
      · exact .refl b

theorem writesBack_adminFlush (b : Block) (p : Nat) : WritesBack b (adminFlush b p) := by
  unfold adminFlush
  split
  · exact .refl b
  · exact WritesBack.foldl (fun b _ => writesBack_adminWriteOne b p) _ _

theorem writesBack_adminPost (b : Block) (p : Nat) (x : AdminCompl) : WritesBack b (adminPost b p x) := by
  unfold adminPost
  split
  · exact .refl b
  · exact WritesBack.trans (b := { b with q := { b.q with aqs := _ } }) ⟨_, _, _, _, _, rfl⟩ (writesBack_adminFlush _ p)

/-! ## The executor's source and its reports (R101, R105) -/

/-- `b` differs from `a` at most in what the taking and the reporting of an admin command change: what a write-back changes, and the
registers of the secure mailbox (R397). -/
def Reports (a b : Block) : Prop :=
  ∃ entry busy done compl,
    WritesBack { a with adm := { a.adm with mbEntry := entry, mbBusy := busy, mbDone := done, mbCompl := compl } } b

theorem reports_of_writesBack {a b : Block} (h : WritesBack a b) : Reports a b := ⟨_, _, _, _, h⟩

theorem reports_adminTake (b : Block) (src : Nat) : Reports b (adminTake b src) := by
  unfold adminTake
  split
  · exact ⟨_, _, _, _, .refl _⟩
  · exact reports_of_writesBack (writesBack_sqConsume _ _ _)

theorem reports_mailboxPost (b : Block) (x : AdminCompl) (final : Bool) : Reports b (mailboxPost b x final) := by
  unfold mailboxPost
  dsimp only
  split
  · exact ⟨_, _, _, _, writesBack_emit _ _⟩
  · exact ⟨_, _, _, _, .refl _⟩

theorem reports_adminReport (b : Block) (src : Nat) (tag : BitVec 16) (opcode fn status detail result : Nat) (final : Bool) :
    Reports b (adminReport b src tag opcode fn status detail result final) := by
  unfold adminReport
  dsimp only
  split
  · exact reports_mailboxPost _ _ _
  · exact reports_of_writesBack (writesBack_adminPost _ _ _)

namespace Reports

variable {a b : Block} (h : Reports a b)
include h

theorem obj : b.obj = a.obj := by obtain ⟨_, _, _, _, h⟩ := h; exact h.obj
theorem dict : b.dict = a.dict := by obtain ⟨_, _, _, _, h⟩ := h; exact h.dict
theorem sb : b.sb = a.sb := by obtain ⟨_, _, _, _, h⟩ := h; exact h.sb
theorem comp : b.comp = a.comp := by obtain ⟨_, _, _, _, h⟩ := h; exact h.comp
theorem regs : b.regs = a.regs := by obtain ⟨_, _, _, _, h⟩ := h; exact h.regs
theorem pwr : b.pwr = a.pwr := by obtain ⟨_, _, _, _, h⟩ := h; exact h.pwr
theorem tableGen : b.tableGen = a.tableGen := by obtain ⟨_, _, _, _, h⟩ := h; exact h.tableGen
theorem sheets : b.tide.sheets = a.tide.sheets := by obtain ⟨_, _, _, _, h⟩ := h; exact h.sheets
theorem busy : b.adm.busy = a.adm.busy := by
  obtain ⟨_, _, _, _, h⟩ := h; rw [h.adm]

end Reports

end Sys2Proof.Machine
end

section
/-! PROOFS. Control slots that are skipped (spec/06_long_words.md): what is left of core, run and registers; GSEND with a group number of more
than 16 bits, which refutes O9. -/

namespace Sys2Proof.Machine

open Sys2Proof

/-! ## A control slot that is skipped (R171 to R174) -/

section
variable (b : Block) (c : Nat) (r : Run) (reason slot op off sva detail : Nat)

theorem skipWrite_keeps : (skipWrite b c r reason slot op off sva detail).cores = b.cores ∧
    (skipWrite b c r reason slot op off sva detail).comp = b.comp ∧ (skipWrite b c r reason slot op off sva detail).regs = b.regs := by
  unfold skipWrite
  split
  · exact ⟨rfl, rfl, rfl⟩
  · have h := writesBack_ringPut
    exact ⟨(h _ _ _ _ _ _ _).cores, (h _ _ _ _ _ _ _).comp, (h _ _ _ _ _ _ _).regs⟩

@[simp] theorem coreOf_skipWrite (d : Nat) : coreOf (skipWrite b c r reason slot op off sva detail) d = coreOf b d := by
  rw [coreOf, (skipWrite_keeps b c r reason slot op off sva detail).1, coreOf]
@[simp] theorem runOf_skipWrite (n : Nat) : runOf (skipWrite b c r reason slot op off sva detail) n = runOf b n := by
  rw [runOf, (skipWrite_keeps b c r reason slot op off sva detail).2.1, runOf]
@[simp] theorem skipWrite_regs : (skipWrite b c r reason slot op off sva detail).regs = b.regs :=
  (skipWrite_keeps b c r reason slot op off sva detail).2.2

variable {r} {n : Nat} (hr : runOf b n = some r)
include hr

/-- A skip counts on its core (R171). -/
theorem coreOf_skipAt : coreOf (skipAt b c n reason slot op off sva detail) c =
    { coreOf b c with skips := (coreOf b c).skips + 1 } := by
  simp only [skipAt, hr]; split <;> simp

/-- A skip marks its run (R171). -/
theorem runOf_skipAt : runOf (skipAt b c n reason slot op off sva detail) n = some { r with skips := true } := by
  simp only [skipAt, hr]; split <;> simp

theorem skipAt_regs : (skipAt b c n reason slot op off sva detail).regs = b.regs := by
  simp only [skipAt, hr]; split <;> simp

end

/-- A slot that is skipped: the SLW ends, and the core goes on after it with one skip more. -/
theorem ctrlRow_skip {c n : Nat} {r : Run} {s : State} {op : BitVec 8} {f : SlotFields} (h : SlotReady s c n r) {reason : Nat}
    (hf : ctrlSlot (slotBlk s c op f) c n r (oneSlw (coreOf s.blk c) op f) 0 (slotWord op f) false none = .skip reason) :
    Gives (ctrlRow c op f s) (fun t => (coreOf t.blk c).off = (coreOf s.blk c).off + 16 ∧
      (coreOf t.blk c).held = (coreOf s.blk c).held ∧ (coreOf t.blk c).skips = (coreOf s.blk c).skips + 1) := by
  obtain ⟨hrun, -⟩ := runOf_of_issuing h.issues
  have hrun' : runOf (slotBlk s c op f) n = some r := by simpa [slotBlk] using hrun
  let b := skipAt (slotBlk s c op f) c n reason 0 (slotOp (slotWord op f)).toNat (coreOf s.blk c).off
    (streamVa (coreOf (slotBlk s c op f) c) (coreOf s.blk c).off) (slotWord op f).toNat
  have hcore : coreOf b c = { inSlot (coreOf s.blk c) op f with skips := (coreOf s.blk c).skips + 1 } :=
    (coreOf_skipAt _ _ _ _ _ _ _ _ hrun').trans (by rw [slotBlk, coreOf_putCore]; rfl)
  have hmark : runOf b n = some { r with skips := true } := runOf_skipAt _ _ _ _ _ _ _ _ hrun'
  have hregs : b.regs = s.blk.regs := skipAt_regs _ _ _ _ _ _ _ _ hrun'
  have hstream : curStream (coreOf b c) = curStream (coreOf s.blk c) := by rw [hcore]; rfl
  have hflow := slwFlow_seq b c n { oneSlw (coreOf s.blk c) op f with stage := .engines, value := none, flow := .seq } rfl
    (show hEnd 1#64 = false by decide) (by rw [hcore]; exact h.noLoop) (by rw [hstream]; exact h.known)
    (by rw [hstream]; exact h.more)
  refine gives_withBlk (ctrlRow_leaves c n r s op f h b none (by rw [hf]; exact ⟨rfl, rfl⟩) (by simp [hmark])
    (by rw [hregs]) (by rw [hcore]; rfl)) ?_
  rw [Option.getD_none, hflow]
  simp only [finish_act, withBlk_blk, coreOf_noteSteps, coreOf_putCore, hcore]
  exact ⟨rfl, rfl, trivial⟩

/-! ## GSEND with a group number of more than 16 bits (R164) -/

theorem exec_gsend (c : Nat) (f : SlotFields) (s : State) : exec (.gsend c f) s = ctrlRow c 0x4C f s := rfl

/-- A slot that is not in its opcode's form is skipped with RESERVED_FIELD (R155, R172). -/
theorem ctrlSlot_illegal {b : Block} {c n : Nat} {r : Run} {w : Slw} {op : BitVec 8} {f : SlotFields} {fm : Form}
    (hflow : isFlow op = false) (hform : formOf op = some fm) (hill : formLegal fm f = false) :
    ctrlSlot b c n r w 0 (slotWord op f) false none = .skip skReservedField := by
  simp [ctrlSlot, hflow, hform, hill]

/-- An immediate with a bit that its form does not use is illegal. -/
theorem formLegal_of_wide {fm : Form} {f : SlotFields} (h : f.imm &&& ~~~(formWith fm f.i).imm ≠ 0) : formLegal fm f = false := by
  simp only [formLegal, decide_eq_false h, Bool.and_false, Bool.false_and]

/-- `IMM` of GSEND holds a group number of 16 bits: a slot with a larger one is skipped. -/
theorem gsend_wide_skips {s : State} {c n : Nat} {r : Run} (h : SlotReady s c n r) {a b : BitVec 5} {imm : BitVec 32}
    (himm : imm &&& ~~~0xFFFF ≠ 0) :
    Gives (exec (.gsend c ⟨0, a, b, false, 0, imm⟩) s) (fun t => (coreOf t.blk c).off = (coreOf s.blk c).off + 16 ∧
      (coreOf t.blk c).held = (coreOf s.blk c).held ∧ (coreOf t.blk c).skips = (coreOf s.blk c).skips + 1) := by
  rw [exec_gsend]
  exact ctrlRow_skip h (ctrlSlot_illegal (by decide) rfl (formLegal_of_wide himm))

/-! ## The counterexample -/

/-- A heat of context 0. -/
def wideRun : Run := { newRun Block.fresh .primary 0 (newItem 0 0 0 0 0 .heat) 0 false [0] with ctx := 0 }

/-- Its context, resident. -/
def wideCtx : Ctx where
  handle := 0
  state := .resident
  ownerPort := 0
  ownerFn := 0
  part := 0
  lostCause := 0
  ptRoot := 0
  span := 0
  lostTime := 0
  completed := 0
  aborted := 0
  replayed := 0
  created := 0
  slot := some 0
  yielding := false
  slotWait := none
  blockedAt := 0
  evictAt := 0
  idleAt := 0
  destroyBy := 0

/-- A plan that lists one group, empty, under the number 0x1_0000. -/
def widePlan : Plan where
  version := 1
  twoRack := false
  compat := false
  timeMaster := 0
  rackLeader := 0
  crc := 0
  chips := []
  groups := [(0x10000, { members := [], flat := [] })]

/-- The heat between two SLWs of its stream on core 0, under that plan; the page of address 0 is cached for its context. -/
def wideBlk : Block :=
  let f := Block.fresh
  { f with
    mic := { f.mic with status := 2, selftest := 1 }
    obj := { f.obj with ctxs := [(0, wideCtx)], tlb := [{ ctx := 0, vbase := 0, size := 0x10000, gbase := 0, writable := true }] }
    comp := { f.comp with runs := [(0, wideRun)], nextRun := 1 }
    cores := [(0, { CoreSt.fresh with run := some 0, levels := [{ stream := namedStream 0 4096, ret := 0 }] })]
    fab := { f.fab with plan := some widePlan } }

/-- The chip out of reset, with that block. -/
def wideState : State :=
  { pending := [], pin := { Pins.inReset with rst := false, long := true }, blk := wideBlk }

theorem wideState_ready : SlotReady wideState 0 0 wideRun where
  run := ⟨⟨⟨rfl, rfl⟩, rfl⟩, rfl⟩
  core := by decide
  issues := by decide
  fresh := rfl
  noHold := by decide
  known := rfl
  noSync := rfl
  noBreak := by decide
  noLoop := rfl
  more := by decide

/-- Refutes O9: the clause on domain groups does not bound the group number. `IMM` 0x1_0000 names a group of the plan of
`wideState`, all of whose (no) members have routes, but R164 gives the number 16 bits, so the slot is skipped and holds no signal. -/
theorem not_slotSendCall : ¬ Obligations.SlotSendCall := by
  unfold Obligations.SlotSendCall
  intro h
  obtain ⟨-, hdomain, -⟩ := h wideState 0 0 wideRun 0 0 0x10000 wideState_ready (by decide) rfl (by decide)
  have hheld := hdomain _ { members := [], flat := [] } (by decide) rfl rfl (by simp) (by decide) (by decide) (by decide)
  obtain ⟨t, ht, -, hnone, -⟩ := gsend_wide_skips wideState_ready (a := 0) (b := 0) (imm := 0x10000) (by decide)
  cases hheld.symm.trans ht
  exact absurd (congrArg List.length hnone) (by decide)

end Sys2Proof.Machine
end

section
/-! PROOFS. The executor of admin commands (R98 to R106): what its taking of an entry and its reports leave unchanged, and the state that a
ready command leaves when it ends, waits or pends. -/

namespace Sys2Proof.Machine

open Sys2Proof

/-! ## What names objects reads the objects alone -/

theorem ctxOf_congr {a b : Block} (h : a.obj = b.obj) (g : BitVec 24) : ctxOf a g = ctxOf b g := by rw [ctxOf, h]; rfl
theorem partOf_congr {a b : Block} (h : a.obj = b.obj) (p : Nat) : partOf a p = partOf b p := by rw [partOf, h]; rfl
theorem dget_congr {a b : Block} (h : a.dict = b.dict) (i k : Nat) : dget a i k = dget b i k := by rw [dget, h]; rfl
theorem isLocal_congr {a b : Block} (h : a.dict = b.dict) (g : Nat) : isLocal a g = isLocal b g := by
  rw [isLocal, chipNo, dget_congr h]; rfl
theorem inPart_congr {a b : Block} (ho : a.obj = b.obj) (hd : a.dict = b.dict) (p g len : Nat) : inPart a p g len = inPart b p g len := by
  rw [inPart, partOf_congr ho, isLocal_congr hd]; rfl

section
variable (b : Block) (src : Nat)

@[simp] theorem adminTake_obj : (adminTake b src).obj = b.obj := (reports_adminTake b src).obj
@[simp] theorem adminTake_dict : (adminTake b src).dict = b.dict := (reports_adminTake b src).dict
@[simp] theorem adminTake_sb : (adminTake b src).sb = b.sb := (reports_adminTake b src).sb
@[simp] theorem adminTake_comp : (adminTake b src).comp = b.comp := (reports_adminTake b src).comp
@[simp] theorem adminTake_regs : (adminTake b src).regs = b.regs := (reports_adminTake b src).regs
@[simp] theorem adminTake_pwr : (adminTake b src).pwr = b.pwr := (reports_adminTake b src).pwr
@[simp] theorem adminTake_tableGen : (adminTake b src).tableGen = b.tableGen := (reports_adminTake b src).tableGen
@[simp] theorem adminTake_sheets : (adminTake b src).tide.sheets = b.tide.sheets := (reports_adminTake b src).sheets
@[simp] theorem ctxOf_adminTake (g : BitVec 24) : ctxOf (adminTake b src) g = ctxOf b g := ctxOf_congr (adminTake_obj b src) g
@[simp] theorem partOf_adminTake (p : Nat) : partOf (adminTake b src) p = partOf b p := partOf_congr (adminTake_obj b src) p
@[simp] theorem dget_adminTake (i k : Nat) : dget (adminTake b src) i k = dget b i k := dget_congr (adminTake_dict b src) i k
@[simp] theorem isLocal_adminTake (g : Nat) : isLocal (adminTake b src) g = isLocal b g := isLocal_congr (adminTake_dict b src) g
@[simp] theorem inPart_adminTake (p g len : Nat) : inPart (adminTake b src) p g len = inPart b p g len :=
  inPart_congr (adminTake_obj b src) (adminTake_dict b src) p g len

variable (tag : BitVec 16) (opcode fn status detail result : Nat) (final : Bool)

@[simp] theorem adminReport_obj : (adminReport b src tag opcode fn status detail result final).obj = b.obj :=
  (reports_adminReport _ _ _ _ _ _ _ _ _).obj
@[simp] theorem adminReport_regs : (adminReport b src tag opcode fn status detail result final).regs = b.regs :=
  (reports_adminReport _ _ _ _ _ _ _ _ _).regs
@[simp] theorem adminReport_pwr : (adminReport b src tag opcode fn status detail result final).pwr = b.pwr :=
  (reports_adminReport _ _ _ _ _ _ _ _ _).pwr
@[simp] theorem adminReport_tableGen : (adminReport b src tag opcode fn status detail result final).tableGen = b.tableGen :=
  (reports_adminReport _ _ _ _ _ _ _ _ _).tableGen
@[simp] theorem adminReport_busy : (adminReport b src tag opcode fn status detail result final).adm.busy = b.adm.busy :=
  (reports_adminReport _ _ _ _ _ _ _ _ _).busy

end

@[simp] theorem hostAcc_q (b : Block) (host : Bool) (port fn addr len : Nat) (write : Bool) :
    (hostAcc b host port fn addr len write).q = b.q := by
  unfold hostAcc; split <;> rfl

theorem sqWriteback_aq_sqs (b : Block) (p : Nat) : (sqWriteback b (.aq p)).q.sqs = b.q.sqs := by
  unfold sqWriteback
  cases sqOf b (.aq p) with
  | none => rfl
  | some q => simp only [hostAcc_q]; rfl

/-- The executor's source is no submission queue. -/
@[simp] theorem adminTake_sqs (b : Block) (src : Nat) : (adminTake b src).q.sqs = b.q.sqs := by
  unfold adminTake sqConsume
  split
  · rfl
  · cases sqOf b (.aq src) with
    | none => rfl
    | some q =>
      dsimp only
      split
      · exact sqWriteback_aq_sqs _ _
      · rfl

/-! ## A ready command -/

section
variable {s : State} {x : AdminIn} {op : Nat} {e : BitVec 512} {fields : List (Nat × Nat)} {privOnly : Bool} {ctx : Option (BitVec 24)}
  {states : List CtxState}

/-- The checks of R103 pass. -/
theorem adminCheck_ready (h : AdminReady s x op e fields privOnly ctx states) :
    adminCheck (adminTake s.blk x.src) x e (adminOrg s.blk x.src e) true privOnly ctx states = none := by
  have hshown : (decide (aFunction e ≠ 0) && !x.presented) = false := by
    rcases h.shown with hf | hp
    · simp [hf]
    · simp [hp]
  have hrights : (privOnly && !(adminOrg s.blk x.src e).priv) = false := by
    cases hp : privOnly with
    | false => rfl
    | true => simp [h.rights hp]
  unfold adminCheck
  simp only [hshown, hrights, Bool.not_true, Bool.false_eq_true, if_false]
  cases hc : ctx with
  | none => rfl
  | some g =>
    obtain ⟨c, hctx, howns, hstate⟩ := h.owns g hc
    simp [hctx, howns, hstate]

variable {also legal : BitVec 512 → Bool} {ctxAt : BitVec 512 → Option (BitVec 24)} {run : Block → BitVec 512 → AdminOrg → AdminRes}

/-- A ready command is taken, its checks pass, and it is carried out (R103). -/
theorem adminRun_ready (h : AdminReady s x op e fields privOnly ctx states) (halso : also e = true) (hlegal : legal e = true)
    (hctx : ctxAt e = ctx) : adminRun x op fields also legal privOnly ctxAt states run s = .next (s.withBlk (finish
      (adminFinish (adminTake s.blk x.src) x.src e (run (adminTake s.blk x.src) e (adminOrg s.blk x.src e))))) := by
  refine (liftRA_running h.run _).trans ?_
  simp only [adminStep, h.front, h.opcode, halso, h.clear, hlegal, hctx, Bool.and_self, if_true, decide_true, adminCheck_ready h]

theorem adminRun_ok (h : AdminReady s x op e fields privOnly ctx states) (halso : also e = true) (hlegal : legal e = true)
    (hctx : ctxAt e = ctx) {f : Block → Block} {res : Nat}
    (hrun : run (adminTake s.blk x.src) e (adminOrg s.blk x.src e) = .ok (act (f (adminTake s.blk x.src))) res) :
    adminRun x op fields also legal privOnly ctxAt states run s = .next (adminOk s x e f res) := by
  rw [adminRun_ready h halso hlegal hctx, hrun]; rfl

theorem adminRun_wait (h : AdminReady s x op e fields privOnly ctx states) (halso : also e = true) (hlegal : legal e = true)
    (hctx : ctxAt e = ctx) {w : ParamWait}
    (hrun : run (adminTake s.blk x.src) e (adminOrg s.blk x.src e) = .wait w (adminTake s.blk x.src)) :
    adminRun x op fields also legal privOnly ctxAt states run s = .next (adminWaits s x e w) := by
  rw [adminRun_ready h halso hlegal hctx, hrun]; rfl

theorem adminRun_pend (h : AdminReady s x op e fields privOnly ctx states) (halso : also e = true) (hlegal : legal e = true)
    (hctx : ctxAt e = ctx) {k : PendKind} {d : Block}
    (hrun : run (adminTake s.blk x.src) e (adminOrg s.blk x.src e) = .pend k (act d)) :
    adminRun x op fields also legal privOnly ctxAt states run s = .next (adminPends s x e d k) := by
  rw [adminRun_ready h halso hlegal hctx, hrun]; rfl

end

/-! ## The end of a parameter read (R104) -/

/-- The block once the executor waits for no parameter any more. -/
def executorFree (b : Block) : Block := { b with adm := { b.adm with busy := none } }

/-! ## The block once a command has ended -/

section
variable (s : State) (x : AdminIn) (e : BitVec 512) (f : Block → Block) (result : Nat)

@[simp] theorem adminOk_obj : (adminOk s x e f result).blk.obj = (f (adminTake s.blk x.src)).obj := by simp [adminOk]
@[simp] theorem adminOk_regs : (adminOk s x e f result).blk.regs = (f (adminTake s.blk x.src)).regs := by simp [adminOk]
@[simp] theorem adminOk_pwr : (adminOk s x e f result).blk.pwr = (f (adminTake s.blk x.src)).pwr := by simp [adminOk]
@[simp] theorem adminOk_tableGen : (adminOk s x e f result).blk.tableGen = (f (adminTake s.blk x.src)).tableGen := by simp [adminOk]

end

end Sys2Proof.Machine
end

section
/-! PROOFS. Context records and slots (spec/02_objects.md): what the writing of a record, the clearing of mappings and the end of a
context leave of the objects. -/

namespace Sys2Proof.Machine

open Sys2Proof

/-- What every step of a fold keeps, the fold keeps. -/
theorem foldl_keeps {α β γ : Type} (g : β → γ) {f : β → α → β} (h : ∀ b x, g (f b x) = g b) (l : List α) (b : β) :
    g (l.foldl f b) = g b := by
  induction l generalizing b with
  | nil => rfl
  | cons x xs ih => exact (ih (f b x)).trans (h b x)

/-! ## A context record written (R33, R35, R37) -/

theorem wrOwn_eq (b : Block) (g : Nat) (l : List Byte) : wrOwn b g l = { b with mem := (wrOwn b g l).mem } := by
  unfold wrOwn; split <;> rfl

theorem wrOwn_noteStamp (b : Block) (g t : Nat) (l : List Byte) : noteStamp (wrOwn b g l) t =
    { b with mem := (wrOwn b g l).mem, tide := { b.tide with stampFloor := max b.tide.stampFloor t } } := by
  rw [wrOwn_eq]; rfl

/-- The writing of a record changes the contexts, the memory and the stamp, and nothing else. -/
theorem putCtx_eq (b : Block) (c : Ctx) : ∃ writes mem floor, putCtx b c =
    { b with
      obj := { b.obj with ctxs := fmSet b.obj.ctxs (field c.handle 0 20) c, slotWrites := writes }
      mem := mem
      tide := { b.tide with stampFloor := floor } } := by
  unfold putCtx slotThrough
  dsimp only
  split
  · exact ⟨_, _, _, wrOwn_noteStamp _ _ _ _⟩
  · rw [wrOwn_noteStamp]
    exact ⟨_, _, _, wrOwn_eq _ _ _⟩

section
variable (b : Block) (c : Ctx)

@[simp] theorem putCtx_ctxs : (putCtx b c).obj.ctxs = fmSet b.obj.ctxs (field c.handle 0 20) c := by
  obtain ⟨_, _, _, h⟩ := putCtx_eq b c; rw [h]
@[simp] theorem putCtx_sb : (putCtx b c).sb = b.sb := by
  obtain ⟨_, _, _, h⟩ := putCtx_eq b c; rw [h]
@[simp] theorem putCtx_comp : (putCtx b c).comp = b.comp := by
  obtain ⟨_, _, _, h⟩ := putCtx_eq b c; rw [h]
@[simp] theorem putCtx_ctr : (putCtx b c).ctr = b.ctr := by
  obtain ⟨_, _, _, h⟩ := putCtx_eq b c; rw [h]
@[simp] theorem putCtx_clock : (putCtx b c).tide.clock = b.tide.clock := by
  obtain ⟨_, _, _, h⟩ := putCtx_eq b c; rw [h]

/-- A record that has been written is the one that its handle names. -/
@[simp] theorem ctxOf_putCtx : ctxOf (putCtx b c) c.handle = some c := by
  simp [ctxOf]

theorem ctxOf_putCtx_ne {g : BitVec 24} (h : field g 0 20 ≠ field c.handle 0 20) : ctxOf (putCtx b c) g = ctxOf b g := by
  simp [ctxOf, fmGet?_fmSet_ne _ _ h]

end

/-! ## What the end of a context keeps of the objects -/

@[simp] theorem putOnPort_obj (b : Block) (p : Nat) (m : GzOut) : (putOnPort b p m).obj = b.obj := by
  unfold putOnPort
  dsimp only
  split
  · split <;> rfl
  · rfl

@[simp] theorem gzRoute_obj (b : Block) (m : GzOut) : (gzRoute b m).obj = b.obj := by
  unfold gzRoute
  split
  · split
    · rfl
    · split
      · exact putOnPort_obj _ _ _
      · rfl
  · rfl

@[simp] theorem gzSend_obj (b : Block) (dst : Nat) (m : GzMsg) : (gzSend b dst m).obj = b.obj := gzRoute_obj _ _

@[simp] theorem cancelWaits_obj (b : Block) (p : Waiter → Bool) : (cancelWaits b p).obj = b.obj := by
  unfold cancelWaits unwatchIdle
  exact foldl_keeps Block.obj (fun b w => by split <;> simp) _ _

@[simp] theorem pendEnd_obj (b : Block) (p : Pend) (status detail result : Nat) : (pendEnd b p status detail result).obj = b.obj :=
  adminReport_obj _ _ _ _ _ _ _ _ _

@[simp] theorem supersede_obj (b : Block) (l : List Pend) : (supersede b l).obj = b.obj :=
  foldl_keeps Block.obj (fun b p => by simp) l b

@[simp] theorem fencePageGone_obj (b : Block) (g size : Nat) : (fencePageGone b g size).obj = b.obj := rfl

theorem clearMappings_obj (b : Block) (c : Ctx) :
    (clearMappings b c).obj = { b.obj with tlb := b.obj.tlb.filter (fun t => decide (t.ctx ≠ c.handle)) } :=
  foldl_keeps Block.obj (fun b p => by simp) _ _

/-- The objects once a context has gone (R44). -/
theorem ctxGone_obj (b : Block) (c : Ctx) : (ctxGone b c).obj =
    { b.obj with
      ctxs := fmErase b.obj.ctxs (field c.handle 0 20)
      incs := fmSet b.obj.incs (field c.handle 0 20) ((field c.handle 20 4 + 1) % 16)
      freed := b.obj.freed ++ [field c.handle 0 20]
      hct := b.obj.hct.filter (fun x => decide (x ≠ field c.handle 0 20))
      tlb := b.obj.tlb.filter (fun t => decide (t.ctx ≠ c.handle)) } := by
  unfold ctxGone
  dsimp only
  rw [wrOwn_eq]
  simp [clearMappings_obj]

end Sys2Proof.Machine
end

section
/-! PROOFS. Creating, destroying and querying contexts (spec/02_objects.md, R30 to R35, R40, R44). -/

namespace Sys2Proof.Machine

open Sys2Proof

theorem takeCtxId_incs {a : Objects} {id : Nat} {o : Objects} (h : takeCtxId a = some (id, o)) : o.incs = a.incs := by
  unfold takeCtxId at h
  split at h
  · cases h; rfl
  · split at h
    · cases h; rfl
    · cases h

/-- A handle holds its ID and its incarnation (R30). -/
theorem mkHandle_eq {id : Nat} (h : id < 2 ^ 20) (inc : Nat) : mkHandle id inc = BitVec.ofNat 24 (id + inc % 16 * 2 ^ 20) := by
  rw [mkHandle, Nat.mod_eq_of_lt h]

/-- CONTEXT_CREATE passes its checks: the context gets the ID that has been free the longest (R31, R40). -/
theorem ctxCreate_ok {b : Block} {e : BitVec 512} {o : AdminOrg} {p : Partition} {id : Nat} {objs : Objects}
    (hpart : partOf b (field e 64 5) = some p) (hport : p.portMask.testBit o.port = true) (hspan : field e 72 5 ≤ 18)
    (halign : field e 128 64 % 0x10000 = 0) (hinside : inPart b (field e 64 5) (field e 128 64) (8 * 2 ^ field e 72 5) = true)
    (hbase : fmHas b.dict (dkey 0x2010 1) = true) (hmax : ctxOwned b o < dget b 0x2010 2) (hid : takeCtxId b.obj = some (id, objs)) :
    ctxCreate b e o = .ok (act (putCtx { b with obj := objs } (ctxNew b e o (mkHandle id (fmGet b.obj.incs id 0)))))
      (mkHandle id (fmGet b.obj.incs id 0)).toNat := by
  have hspan' : ¬ field e 72 5 > 18 := by omega
  have hmax' : ¬ ctxOwned b o ≥ dget b 0x2010 2 := by omega
  simp only [ctxCreate, hpart, hport, hspan', halign, hinside, hbase, hmax', hid, takeCtxId_incs hid, Bool.not_true, Bool.false_eq_true,
    ne_eq, not_true_eq_false, if_false]

/-- CONTEXT_DESTROY asks for the end of every work item of the context that has not started, and of every run in flight (R44). -/
theorem ctxDestroyStart_spec (b : Block) (c : Ctx) :
    (fmGet? (ctxDestroyStart b c).1.obj.ctxs (field c.handle 0 20)).map (fun z => z.state) = some .destroying ∧
    (∀ y ∈ b.sb.items, y.2.ctx = c.handle → (y.2.stage = .waiting ∨ y.2.stage = .composer) →
      .work y.1 0x15 ∈ (ctxDestroyStart b c).2) ∧
    ∀ y ∈ ctxRuns b c.handle, .abort y.1 0x15 ∈ (ctxDestroyStart b c).2 := by
  refine ⟨by simp [ctxDestroyStart], fun y hy hctx hstage => ?_, fun y hy => ?_⟩
  · have hidle : Task.work y.1 stDestroyed ∈ (b.sb.items.filter (fun x => x.2.ctx = c.handle &&
        (decide (x.2.stage = .waiting) || decide (x.2.stage = .composer)))).map (fun x => Task.work x.1 stDestroyed) :=
      List.mem_map.mpr ⟨y, by simpa [hy, hctx] using hstage, rfl⟩
    simp only [ctxDestroyStart, putCtx_sb, List.mem_append]
    exact .inl (.inl hidle)
  · have hruns : Task.abort y.1 stDestroyed ∈ (ctxRuns b c.handle).map (fun x => Task.abort x.1 stDestroyed) :=
      List.mem_map_of_mem hy
    simp only [ctxDestroyStart, ctxRuns, putCtx_comp, List.mem_append]
    exact .inl (.inr hruns)

theorem ctxDestroy_begun {b : Block} {h : BitVec 24} {c : Ctx} (hc : ctxOf b h = some c) {d : Block}
    (hd : d = finish (ctxDestroyStart b c)) :
    (∀ c', ctxOf d h = some c' → ctxRuns d h = [] → ctxDestroy b h = .ok (act (ctxGone d c')) 0) ∧
    (∀ c', ctxOf d h = some c' → ctxRuns d h ≠ [] → ctxDestroy b h = .pend (.ctxDestroy h) (act d)) ∧
    (ctxOf d h = none → ctxDestroy b h = .ok (act d) 0) := by
  subst hd
  refine ⟨fun c' hc' hr => ?_, fun c' hc' hr => ?_, fun hn => ?_⟩
  · simp [ctxDestroy, hc, hc', hr]
  · simp [ctxDestroy, hc, hc', hr]
  · simp [ctxDestroy, hc, hn]

/-- The reply to the write of CONTEXT_QUERY ends the command with the context's state (R104). -/
theorem paramReturn_query {b : Block} {y : AdminBusy} {g : ReadTag} {st : Nat} {bs : List Byte} (hbusy : b.adm.busy = some y)
    (htags : tagsNow b y.gen g.t = true) (hwait : y.wait = .query st bs) :
    paramReturn b g .written = adminFinish (executorFree b) y.src y.entry
      (.ok (act (wr (executorFree b)
        (memKey (bitAt y.entry 88) (adminOrg b y.src y.entry).serve (field y.entry 128 64)) bs)) st) := by
  simp [paramReturn, executorFree, hbusy, htags, hwait]

/-- Settles O34: each command by the checks that its hypotheses meet; the end of a context by what it leaves of the objects. -/
theorem adminContexts : Obligations.AdminContexts := by
  unfold Obligations.AdminContexts
  intro s x e b o
  refine ⟨?_, ?_, ?_, ?_, ?_, ?_⟩
  · intro p id objs h hpart hport hspan halign hinside hbase hmax hid hlt
    let c := ctxNew (adminTake b x.src) e o (mkHandle id (fmGet b.obj.incs id 0))
    refine ⟨c, ?_, rfl, rfl, rfl, rfl, rfl, rfl, rfl, ?_⟩
    · exact mkHandle_eq hlt _
    · refine adminRun_ok h rfl rfl rfl ?_
      have hok := ctxCreate_ok (b := adminTake b x.src) (e := e) (o := o) (p := p) (id := id) (objs := objs) (by simpa using hpart) hport hspan
        halign (by simpa using hinside) (by simpa using hbase) (by simpa [ctxOwned] using hmax) (by simpa using hid)
      rw [adminTake_obj] at hok
      exact hok
  · intro c h hc begun d
    have hc' : ctxOf (adminTake b x.src) (pHandle e) = some c := by simpa using hc
    obtain ⟨hends, hpends, hgone⟩ := ctxDestroy_begun hc' (d := d) rfl
    obtain ⟨hstate, hitems, hruns⟩ := ctxDestroyStart_spec (adminTake b x.src) c
    refine ⟨⟨hstate, fun y hy => hitems y (by simpa using hy), fun y hy => hruns y (by simpa [ctxRuns] using hy)⟩, ?_, ?_, ?_⟩
    · exact fun c' hd hr => adminRun_ok h rfl rfl rfl (f := fun _ => ctxGone d c') (hends c' hd hr)
    · exact fun c' hd hr => adminRun_pend h rfl rfl rfl (hpends c' hd hr)
    · exact fun hd => adminRun_ok h rfl rfl rfl (f := fun _ => d) (hgone hd)
  · intro id c hs hc hstate hruns d
    refine (liftR_running hs fun b => ctxDestroyDone b id).trans ?_
    simp only [ctxDestroyDone, show fmGet? s.blk.obj.ctxs id = some c from hc, hstate, show ctxRuns s.blk c.handle = [] from hruns]
    rfl
  · intro c id d
    have hobj := ctxGone_obj b c
    refine ⟨by simp [d, id, hobj], by simp [d, id, hobj], by simp [d, id, hobj], fun y hy => ?_⟩
    have hkept : y ∈ b.obj.tlb.filter (fun t => decide (t.ctx ≠ c.handle)) := by simpa [d, hobj] using hy
    simpa using (List.mem_filter.mp hkept).2
  · intro c h hc halign
    refine adminRun_wait h rfl rfl rfl ?_
    simp [ctxQuery, show ctxOf s.blk (pHandle e) = some c from hc, halign]
  · intro y g st bs hs hbusy htags hwait
    refine (liftReplyA_running hs [.param] fun b => paramReturn b g .written).trans ?_
    rw [paramReturn_query hbusy htags hwait]
    rfl

end Sys2Proof.Machine
end

section
/-! PROOFS. Partitions and groups (spec/02_objects.md, R47, R48, R58 to R60): power orders and what they leave unchanged, the checks that pass. -/

namespace Sys2Proof.Machine

open Sys2Proof

/-! ## Power orders (R430) -/

/-- An order changes the power record, the wake count and the outputs, and nothing else. -/
theorem orderPower_keeps (b : Block) (c st : Nat) : (orderPower b c st).obj = b.obj ∧ (orderPower b c st).regs = b.regs ∧
    (orderPower b c st).tableGen = b.tableGen := by
  unfold orderPower
  dsimp only
  split
  · exact ⟨rfl, rfl, rfl⟩
  · split <;> exact ⟨rfl, rfl, rfl⟩

theorem order_orderPower (b : Block) (c st d : Nat) :
    (pwrOf (orderPower b c st) d).order = if d = c then st else (pwrOf b d).order := by
  unfold orderPower
  dsimp only
  split
  · rename_i h
    split
    · rename_i e; rw [e, h]
    · rfl
  · by_cases e : d = c
    · subst e; simp [pwrOf, emit]
    · split <;> simp [pwrOf, emit, cnt, cntAdd, e, fmGet?_fmSet_ne]

/-- Every cluster of a list has been ordered. -/
theorem order_foldl {c : Nat} (st : Nat) (l : List Nat) (b : Block) (h : c ∈ l ∨ (pwrOf b c).order = st) :
    (pwrOf (l.foldl (fun b c => orderPower b c st) b) c).order = st := by
  induction l generalizing b with
  | nil => simpa using h
  | cons x xs ih =>
    refine ih _ ?_
    rw [order_orderPower]
    by_cases e : c = x
    · simp [e]
    · simpa [e] using h

theorem mem_maskClusters {m : BitVec 64} {c : Nat} : c ∈ maskClusters m ↔ c < 64 ∧ m.getLsbD c = true := by
  simp [maskClusters]

/-! ## Partitions (R47, R48) -/

/-- The partition that a PARTITION_CREATE entry describes. -/
def partNew (e : BitVec 512) : Partition where
  clusters := e.extractLsb' 128 64
  ranges := partRanges e
  slots := field e 72 7
  portMask := field e 80 4
  remoteMap := bitAt e 84

/-- The block once the partition of an entry has been made. -/
def partMade (b : Block) (e : BitVec 512) : Block :=
  tableChanged (wgenUp ((maskClusters (partNew e).clusters).foldl (fun b c => orderPower b c 2)
    (bktFill { b with obj := { b.obj with parts := fmSet b.obj.parts (field e 64 5) (partNew e) } } (field e 64 5))))

theorem partCreate_ok {b : Block} {e : BitVec 512} (hroom : b.obj.parts.length < 32) (hmask : field e 128 64 ≠ 0)
    (hlen : ∀ r ∈ partRanges e, r.2 ≠ 0) (hslots : 1 ≤ field e 72 7) (hsum : field e 72 7 + (b.obj.parts.map (fun p => p.2.slots)).sum ≤ 64)
    (hfree : fmHas b.obj.parts (field e 64 5) = false) (hapart : ∀ p ∈ b.obj.parts, p.2.clusters &&& e.extractLsb' 128 64 = 0 ∧
      ∀ y ∈ p.2.ranges, ∀ r ∈ partRanges e, rangesMeet y r = false) :
    partCreate b e = .ok (act (partMade b e)) 0 := by
  have hmask' : e.extractLsb' 128 64 ≠ 0 := fun h => hmask (by simp [field, h])
  have hranges : (partRanges e).any (fun r => decide (r.2 = 0)) = false := by
    simpa using fun a b hab => hlen (a, b) hab
  have hother : b.obj.parts.any (fun p => decide (p.2.clusters &&& e.extractLsb' 128 64 ≠ 0)
      || p.2.ranges.any (fun r => (partRanges e).any (rangesMeet r))) = false := by
    refine List.any_eq_false.mpr fun p hp => ?_
    obtain ⟨hclusters, hmeet⟩ := hapart p hp
    have hno : p.2.ranges.any (fun r => (partRanges e).any (rangesMeet r)) = false :=
      List.any_eq_false.mpr fun y hy => by
        rw [Bool.not_eq_true, List.any_eq_false]
        exact fun r hr => by simp [hmeet y hy r hr]
    simp [hclusters, hno]
  have h32 : ¬ b.obj.parts.length ≥ 32 := by omega
  have hlow : ¬ field e 72 7 < 1 := by omega
  have hhigh : ¬ field e 72 7 > 64 := by omega
  have hsum' : ¬ field e 72 7 + (b.obj.parts.map (fun p => p.2.slots)).sum > 64 := by omega
  simp only [partCreate, h32, hmask', hranges, hlow, hhigh, hfree, hother, hsum', decide_false, Bool.or_false, Bool.false_eq_true, if_false]
  rfl

theorem partMade_spec (b : Block) (e : BitVec 512) :
    (partMade b e).obj.parts = fmSet b.obj.parts (field e 64 5) (partNew e) ∧
    (∀ c, c < 64 → bitAt e (128 + c) = true → (pwrOf (partMade b e) c).order = 2) ∧
    (partMade b e).regs.wgen = (b.regs.wgen + 1) % 2 ^ 16 ∧ (partMade b e).tableGen = (b.tableGen + 1) % 2 ^ 32 := by
  let made := bktFill { b with obj := { b.obj with parts := fmSet b.obj.parts (field e 64 5) (partNew e) } } (field e 64 5)
  let ordered := (maskClusters (partNew e).clusters).foldl (fun b c => orderPower b c 2) made
  have hobj : ordered.obj = made.obj := foldl_keeps Block.obj (fun b c => (orderPower_keeps b c 2).1) _ _
  have hregs : ordered.regs = made.regs := foldl_keeps Block.regs (fun b c => (orderPower_keeps b c 2).2.1) _ _
  have hgen : ordered.tableGen = made.tableGen := foldl_keeps Block.tableGen (fun b c => (orderPower_keeps b c 2).2.2) _ _
  refine ⟨congrArg Objects.parts hobj, fun c hc hbit => ?_, ?_, ?_⟩
  · refine order_foldl 2 _ made (.inl (mem_maskClusters.mpr ⟨hc, ?_⟩))
    simpa [partNew, hc, bitAt] using hbit
  · exact congrArg (fun r : Regs => (r.wgen + 1) % 2 ^ 16) hregs
  · exact congrArg (fun n => (n + 1) % 2 ^ 32) hgen

theorem offIfLoose_keeps (b : Block) (c : Nat) : (offIfLoose b c).obj = b.obj ∧ (offIfLoose b c).regs = b.regs := by
  unfold offIfLoose
  split
  · exact ⟨(orderPower_keeps b c 0).1, (orderPower_keeps b c 0).2.1⟩
  · exact ⟨rfl, rfl⟩

/-- The block once a partition has gone (R48). -/
def partGone (b : Block) (e : BitVec 512) (q : Partition) : Block :=
  tableChanged (wgenUp ((maskClusters q.clusters).foldl offIfLoose { b with obj := { b.obj with parts := fmErase b.obj.parts (field e 64 5) } }))

theorem partGone_spec (b : Block) (e : BitVec 512) (q : Partition) :
    (partGone b e q).obj.parts = fmErase b.obj.parts (field e 64 5) ∧ (partGone b e q).regs.wgen = (b.regs.wgen + 1) % 2 ^ 16 := by
  let erased := { b with obj := { b.obj with parts := fmErase b.obj.parts (field e 64 5) } }
  let loose := (maskClusters q.clusters).foldl offIfLoose erased
  have hobj : loose.obj = erased.obj := foldl_keeps Block.obj (fun b c => (offIfLoose_keeps b c).1) _ _
  have hregs : loose.regs = erased.regs := foldl_keeps Block.regs (fun b c => (offIfLoose_keeps b c).2) _ _
  exact ⟨congrArg Objects.parts hobj, congrArg (fun r : Regs => (r.wgen + 1) % 2 ^ 16) hregs⟩

@[simp] theorem partUsed_adminTake (b : Block) (src p : Nat) : partUsed (adminTake b src) p = partUsed b p := by
  simp [partUsed, sheetOf]

/-! ## Groups (R58 to R60) -/

/-- A cluster is a member of a local group without further checks. -/
theorem memberCheck_cluster {m : BitVec 32} (hzero : field m 18 14 = 0) (hkind : field m 16 2 = 0) (hval : field m 0 16 < 64)
    (b : Block) (g : Nat) : memberCheck b g m = none := by
  have hval' : ¬ field m 0 16 ≥ 64 := by omega
  simp [memberCheck, hzero, hkind, hval']

/-- The group of the clusters that member words name. -/
def clusterGroup (l : List (BitVec 32)) : Group where
  members := l.map (fun m => (field m 16 2, field m 0 16))
  flat := ascending (l.map (fun m => field m 0 16))

/-- The block once that group has been defined. -/
def groupOfClusters (b : Block) (g : Nat) (l : List (BitVec 32)) : Block :=
  wgenUp { b with obj := { b.obj with groups := fmSet b.obj.groups g (clusterGroup l) } }

theorem groupDefine_clusters {l : List (BitVec 32)} (h : ∀ m ∈ l, field m 18 14 = 0 ∧ field m 16 2 = 0 ∧ field m 0 16 < 64)
    (b : Block) (g : Nat) : groupDefine b g l.length l = .ok (act (groupOfClusters b g l)) 0 := by
  have hcheck : l.findSome? (memberCheck b g) = none := List.findSome?_eq_none_iff.mpr fun m hm =>
    memberCheck_cluster (h m hm).1 (h m hm).2.1 (h m hm).2.2 b g
  have hflat : (l.map (fun m => (field m 16 2, field m 0 16))).flatMap (memberClusters b) = l.map (fun m => field m 0 16) := by
    rw [List.flatMap_map, List.map_eq_flatMap]
    exact List.flatMap_congr fun m hm => by simp [memberClusters, (h m hm).2.1]
  simp only [groupDefine, List.take_length, hcheck, hflat]
  rfl

/-- Settles O35: each command by the checks that its hypotheses meet, and by what its effect leaves of objects, registers and power
records. -/
theorem adminPartitions : Obligations.AdminPartitions := by
  unfold Obligations.AdminPartitions
  intro s x e
  dsimp only
  refine ⟨?_, ?_, ?_, ?_, ?_⟩
  · intro h hunused hroom hmask hlen hslots hsum hfree hapart
    have hok := partCreate_ok (b := adminTake s.blk x.src) (e := e) (by simpa using hroom) hmask hlen hslots (by simpa using hsum)
      (by simpa using hfree) (by simpa using hapart)
    refine ⟨_, adminRun_ok h rfl hunused rfl (f := fun b => partMade b e) hok, ?_⟩
    obtain ⟨hparts, horder, hwgen, hgen⟩ := partMade_spec (adminTake s.blk x.src) e
    refine ⟨?_, fun c hc hbit => ?_, ?_, ?_⟩
    · simp [partOf, hparts, partNew]
    · simpa [pwrOf] using horder c hc hbit
    · simpa using hwgen
    · simpa using hgen
  · intro p h hpart hunused
    have hok : partDestroy (adminTake s.blk x.src) e = .ok (act (partGone (adminTake s.blk x.src) e p)) 0 := by
      simp [partDestroy, hpart, hunused, partGone]
    refine ⟨_, adminRun_ok h rfl rfl rfl (f := fun b => partGone b e p) hok, ?_⟩
    obtain ⟨hparts, hwgen⟩ := partGone_spec (adminTake s.blk x.src) e p
    exact ⟨by simp [partOf, hparts], by simpa using hwgen⟩
  · intro h hmax hlow hhigh hfree
    refine adminRun_wait h rfl rfl rfl ?_
    have hrange : ¬ (field e 64 16 > 4095 ∨ field e 80 7 < 1 ∨ field e 80 7 > 64) := by omega
    have hnamed : groupNamed (adminTake s.blk x.src) (field e 64 16) = false := by simpa [groupNamed] using hfree
    simp only [groupStart, if_neg hrange, hnamed, Bool.false_eq_true, if_false]
  · intro y h g l hs hbusy htags hwait hl
    have hret : paramReturn s.blk h (.members l) = adminFinish (executorFree s.blk) y.src y.entry
        (groupDefine (executorFree s.blk) g l.length l) := by
      simp [paramReturn, executorFree, hbusy, htags, hwait]
    refine gives_withBlk (liftReplyA_running hs [.param] fun b => paramReturn b h (.members l)) ?_
    rw [hret, groupDefine_clusters hl]
    simp [adminFinish, groupOfClusters, clusterGroup, wgenUp, executorFree]
  · intro h hhas hnamed
    refine adminRun_ok h rfl rfl rfl ?_
    have hhas' : fmHas (adminTake s.blk x.src).obj.groups (field e 64 16) = true := by simpa using hhas
    have hnamed' : groupNamed (adminTake s.blk x.src) (field e 64 16) = false := by simpa [groupNamed] using hnamed
    simp only [groupDelete, hhas', hnamed', Bool.not_true, Bool.false_eq_true, if_false]

end Sys2Proof.Machine
end

section
/-! PROOFS. Mappings and residency (spec/02_objects.md, R49 to R55, R106, R108, R240). -/

namespace Sys2Proof.Machine

open Sys2Proof

/-! ## MAP (R50, R51) -/

theorem l1Addr_eq (c : Ctx) (va : Nat) : l1Addr c va = c.ptRoot + 8 * (va / 2 ^ 30) := by rw [l1Addr, Nat.shiftRight_eq_div_pow]

/-- Where the level-2 entries of a MAP go: the table that the level-1 entry `e1` names, or the new one of the entry. -/
def mapTable (e : BitVec 512) (e1 : Nat) : Nat := if e1 % 2 = 0 then field e 256 64 else e1 / 0x20000 * 0x20000

/-- The block once a MAP has written its entries: the level-1 entry of a new table, and the level-2 entries of the page. -/
def mapWritten (b : Block) (c : Ctx) (e : BitVec 512) (e1 : Nat) : Block :=
  (l2Addrs (mapTable e e1) (field e 128 48) (bitAt e 88)).foldl
    (fun b a => wrLE b a 8 (l2Entry (field e 192 64) (bitAt e 89) (bitAt e 88)))
    (if e1 % 2 = 0 then wrLE b (l1Addr c (field e 128 48)) 8 (field e 256 64 + 1) else b)

theorem mapPage_ok {b : Block} {e : BitVec 512} {c : Ctx} {e1 : Nat} (hc : ctxOf b (pHandle e) = some c)
    (he1 : e1 = rdLE b (l1Addr c (field e 128 48)) 8) (hva : field e 128 48 % pageSize (bitAt e 88) = 0)
    (hg : field e 192 64 % pageSize (bitAt e 88) = 0) (hspan : field e 128 48 < 2 ^ (30 + c.span))
    (hinside : (if isLocal b (field e 192 64) then inPart b c.part (field e 192 64) (pageSize (bitAt e 88))
      else (partOf b c.part).any (fun p => p.remoteMap)) = true)
    (hfresh : e1 % 2 = 0 → field e 256 64 ≠ 0 ∧ field e 256 64 % 0x20000 = 0 ∧ inPart b c.part (field e 256 64) 0x20000 = true)
    (hfree : ∀ a ∈ l2Addrs (mapTable e e1) (field e 128 48) (bitAt e 88), rdLE b a 8 % 2 = 0) :
    mapPage b e = .ok (act (mapWritten b c e e1)) 0 := by
  have halign : ¬ (field e 128 48 % pageSize (bitAt e 88) ≠ 0 ∨ field e 192 64 % pageSize (bitAt e 88) ≠ 0) := by
    rw [hva, hg]; simp
  have hspan' : ¬ field e 128 48 ≥ 2 ^ (30 + c.span) := by omega
  have hused : (l2Addrs (mapTable e e1) (field e 128 48) (bitAt e 88)).any (fun a => decide (rdLE b a 8 % 2 = 1)) = false :=
    List.any_eq_false.mpr fun a ha => by simp [hfree a ha]
  simp only [mapPage, hc, if_neg halign, if_neg hspan', hinside, ← he1, Bool.not_true, Bool.false_eq_true, if_false]
  by_cases h1 : e1 % 2 = 0
  · obtain ⟨hne, hl2, hpart⟩ := hfresh h1
    simp only [mapTable, h1, if_true] at hused
    simp [h1, hne, hl2, hpart, hused, mapWritten, mapTable]
  · simp only [mapTable, h1, if_false] at hused
    simp [h1, hused, mapWritten, mapTable]

/-! ## UNMAP (R53, R55) -/

/-- The block once a page has been cleared. -/
def pageCleared (b : Block) (c : Ctx) (va : Nat) (big : Bool) (t g : Nat) : Block :=
  fencePageGone (tlbDrop ((l2Addrs t va big).foldl (fun b a => wrLE b a 8 0) b) c.handle va (pageSize big)) g (pageSize big)

theorem unmapPage_mapped {b : Block} {c : Ctx} {va : Nat} {big : Bool} {t g : Nat} (h : mappedPage b c va big = some (t, g)) :
    unmapPage b c va big = pageCleared b c va big t g := by
  simp only [unmapPage, h]; rfl

/-- A raw UNMAP clears the page, and a gated one of the same page is superseded. -/
theorem unmapStart_raw {b : Block} {e : BitVec 512} {c : Ctx} {t g : Nat} (hc : ctxOf b (pHandle e) = some c) (hraw : bitAt e 89 = true)
    (hmap : mappedPage b c (field e 128 48) (bitAt e 88) = some (t, g)) :
    unmapStart b e = .ok (act (supersede (pageCleared b c (field e 128 48) (bitAt e 88) t g)
      (gatedOf b c.handle (fun v y => decide (v = field e 128 48) && y = bitAt e 88)))) 0 := by
  simp [unmapStart, hc, hraw, hmap, unmapPage_mapped hmap]

/-- The one pending command is a gated UNMAP whose fence has reached its value. -/
theorem unmapReached_one {b : Block} {p : Pend} {h : BitVec 24} {c : Ctx} {va t g : Nat} {big : Bool} {f w : Word}
    (hkind : p.kind = .unmap h va big f w) (hpend : b.adm.pend = [p]) (hopen : gateOpen b p.no = true) (hc : ctxOf b h = some c)
    (hmap : mappedPage b c va big = some (t, g)) :
    unmapReached b p.src p.tag = pendEnd (pageCleared b c va big t g) p 0x30 0 0 := by
  simp [unmapReached, hpend, unmapOpen, hkind, hopen, hc, unmapPage_mapped hmap]
  rfl

/-! ## Residency (R36, R108, R240) -/

@[simp] theorem hctTouch_head (b : Block) (id : Nat) : (hctTouch b id).obj.hct.head? = some id := rfl

theorem ctxHeats_congr {a b : Block} (h : a.sb = b.sb) (g : BitVec 24) : ctxHeats a g = ctxHeats b g := by rw [ctxHeats, h]; rfl

/-- RELEASE of a Resident context without admitted work: it gives up its slot and yields no more. -/
theorem ctxOf_residencyRelease {b : Block} {c : Ctx} (hc : ctxOf b c.handle = some c) (hstate : c.state = .resident)
    (hidle : ctxHeats b c.handle = []) :
    ctxOf (residencyRelease b c.handle) c.handle = some { c with state := .created, slot := none, yielding := false } := by
  unfold residencyRelease
  dsimp only
  generalize hb' : (if b.obj.hct.contains (field c.handle 0 20) then
    { b with obj := { b.obj with hct := b.obj.hct.filter (fun x => decide (x ≠ field c.handle 0 20)) ++ [field c.handle 0 20] } }
    else b) = b'
  have hc' : ctxOf b' c.handle = some c := by rw [← hb', ← hc]; split <;> rfl
  have hidle' : ctxHeats b' c.handle = [] := by rw [← hb', ← hidle]; split <;> rfl
  simp only [hc', hidle', hstate, leaveSlot, decide_true, List.isEmpty_nil, Bool.and_self, if_true]
  exact ctxOf_putCtx b' { c with state := .created, slot := none, yielding := false }

theorem yieldMark_eq {b : Block} {g : BitVec 24} {c : Ctx} (hc : ctxOf b g = some c) :
    yieldMark b g = putCtx b { c with yielding := true } := by
  simp only [yieldMark, hc]

/-- Settles O36: each command by the checks that its hypotheses meet. -/
theorem adminMappings : Obligations.AdminMappings := by
  unfold Obligations.AdminMappings
  intro s x e c
  dsimp only
  intro hc
  have htaken : ctxOf (adminTake s.blk x.src) (pHandle e) = some c := by simpa using hc
  refine ⟨?_, ?_, ?_, ?_, ?_⟩
  · simp only [← l1Addr_eq]
    intro h hva hg hspan hinside hfresh hfree
    exact adminRun_ok h rfl rfl rfl (f := fun b => mapWritten b c e (rdLE (adminTake s.blk x.src) (l1Addr c (field e 128 48)) 8))
      (mapPage_ok htaken rfl hva hg hspan (by simpa using hinside) (by simpa using hfresh) hfree)
  · intro t g h hraw hmap
    exact adminRun_ok h rfl rfl rfl (f := fun b => supersede (pageCleared b c (field e 128 48) (bitAt e 88) t g)
      (gatedOf (adminTake s.blk x.src) c.handle (fun v y => decide (v = field e 128 48) && y = bitAt e 88)))
      (unmapStart_raw htaken hraw hmap)
  · intro p v f w y t g hs hkind hpend hopen hmap
    refine (liftR_running hs fun b => unmapReached b p.src p.tag).trans ?_
    rw [unmapReached_one hkind hpend hopen hc hmap]
    rfl
  · intro h
    refine ⟨fun hpreload => ⟨?_, rfl⟩, fun hrelease hstate hidle hhandle => ?_⟩
    · exact adminRun_ok h (by simp [hpreload]) (by simp [hpreload]) rfl (f := fun b => hctTouch b (field e 64 20)) rfl
    · refine ⟨_, adminRun_ok h (by simp [hrelease]) rfl rfl (f := fun b => residencyRelease b (pHandle e)) rfl, ?_⟩
      beta_reduce
      rw [ctxOf_congr (adminOk_obj _ _ _ _ _), ← hhandle]
      rw [← hhandle] at htaken hidle
      rw [ctxOf_residencyRelease htaken hstate ((ctxHeats_congr (adminTake_sb _ _) _).trans hidle)]
      rfl
  · intro h
    refine adminRun_ok h rfl rfl rfl (f := fun b => putCtx b { c with yielding := true }) ?_
    rw [yieldMark_eq htaken]

end Sys2Proof.Machine
end

section
/-! PROOFS. Contexts take and leave execution slots (R36 to R38, R237 to R240). -/

namespace Sys2Proof.Machine

open Sys2Proof

/-! ## A slot given and given up -/

/-- The block once a context has been given slot `k`: its record is written, and becomes the most recently used of the HCT. -/
def slotGiven (b : Block) (c : Ctx) (k : Nat) : Block :=
  hctTouch (putCtx b { c with state := .resident, slot := some k, slotWait := none }) (field c.handle 0 20)

/-- A slot given to a context all of whose items have programs brings about nothing else (R38, R221). -/
theorem slotGive_eq {b : Block} {c : Ctx} {k : Nat} (hfree : lowestFree ((b.obj.ctxs.map Prod.snd).filterMap (fun x => x.slot)) 0 64 = some k)
    (hprog : ∀ x ∈ b.sb.items, x.2.ctx = c.handle → hasProgram x.2.entry = true) : slotGive b c = act (slotGiven b c k) := by
  have hends : b.sb.items.filter (fun x => x.2.ctx = c.handle && decide (x.2.kind = .heat) && decide (x.2.stage = .composer) &&
      !hasProgram x.2.entry) = [] := List.filter_eq_nil_iff.mpr fun x hx => by
    by_cases hctx : x.2.ctx = c.handle
    · simp [hprog x hx hctx]
    · simp [hctx]
  have hitems : (slotGiven b c k).sb.items = b.sb.items := congrArg Scoreboard.items (putCtx_sb b _)
  simp only [slotGive, hfree]
  exact congrArg (fun l => (slotGiven b c k, l.map (fun x => Task.work x.1 stDone))) ((congrArg _ hitems).trans hends)

@[simp] theorem ctxOf_slotGiven (b : Block) (c : Ctx) (k : Nat) :
    ctxOf (slotGiven b c k) c.handle = some { c with state := .resident, slot := some k, slotWait := none } :=
  ctxOf_putCtx b { c with state := .resident, slot := some k, slotWait := none }

theorem ctxOf_slotGiven_ne (b : Block) {c : Ctx} (k : Nat) {g : BitVec 24} (h : field g 0 20 ≠ field c.handle 0 20) :
    ctxOf (slotGiven b c k) g = ctxOf b g :=
  ctxOf_putCtx_ne b { c with state := .resident, slot := some k, slotWait := none } h

@[simp] theorem slotGiven_ctr (b : Block) (c : Ctx) (k : Nat) : (slotGiven b c k).ctr = b.ctr := putCtx_ctr b _
@[simp] theorem slotGiven_clock (b : Block) (c : Ctx) (k : Nat) : (slotGiven b c k).tide.clock = b.tide.clock := putCtx_clock b _

@[simp] theorem ctxOf_leaveSlot (b : Block) (v : Ctx) (st : CtxState) :
    ctxOf (leaveSlot b v st) v.handle = some { v with state := st, slot := none, yielding := false } :=
  ctxOf_putCtx b { v with state := st, slot := none, yielding := false }

@[simp] theorem leaveSlot_ctxs (b : Block) (v : Ctx) (st : CtxState) :
    (leaveSlot b v st).obj.ctxs = fmSet b.obj.ctxs (field v.handle 0 20) { v with state := st, slot := none, yielding := false } :=
  putCtx_ctxs b _

@[simp] theorem leaveSlot_sb (b : Block) (v : Ctx) (st : CtxState) : (leaveSlot b v st).sb = b.sb := putCtx_sb b _
@[simp] theorem leaveSlot_ctr (b : Block) (v : Ctx) (st : CtxState) : (leaveSlot b v st).ctr = b.ctr := putCtx_ctr b _
@[simp] theorem leaveSlot_clock (b : Block) (v : Ctx) (st : CtxState) : (leaveSlot b v st).tide.clock = b.tide.clock := putCtx_clock b _

/-! ## The rules that give a slot -/

section
variable {b : Block} {p : Nat} {c : Ctx} {k : Nat}

theorem slotAssign_free (hnext : slotNext b p = some c) (hin : inHct b c = true) (hfree : slotFree b p = true) :
    slotAssign b p = slotGive b c := by
  simp [slotAssign, hnext, hin, hfree]

theorem slotAssign_idle {v : Ctx} (hnext : slotNext b p = some c) (hin : inHct b c = true) (hfull : slotFree b p = false)
    (hidle : idleHolder b p = some v) : slotAssign b p = slotGive (leaveSlot b v .created) c := by
  simp [slotAssign, hnext, hin, hfull, hidle]

theorem eviction_blocked {v : Ctx} (hnext : slotNext b p = some c) (hin : inHct b c = true) (hfull : slotFree b p = false)
    (hidle : idleHolder b p = none) (hv : evictable (passTo b (evictionDue b p)) p = some v) :
    eviction b p = slotGive (cnt (leaveSlot (passTo b (evictionDue b p)) v .created) cSlotEvict) c := by
  simp [eviction, hnext, hin, hfull, hidle, hv]

end

theorem hctReturn_waits {b : Block} {id : Nat} {x : Ctx} (hx : fmGet? b.obj.ctxs id = some x) (hwait : x.slotWait ≠ none)
    (hout : inHct b x = false) : hctReturn b id = hctTouch b id := by
  simp [hctReturn, hx, hout, Option.isSome_iff_ne_none.mpr hwait]

/-- Settles O44: each rule comes down to a slot given, to the block itself or to that in which another context has left its slot. -/
theorem slotTurns : Obligations.SlotTurns := by
  unfold Obligations.SlotTurns
  intro s p k c hs
  dsimp only
  refine ⟨fun id x hx hwait hout _ => ⟨?_, rfl⟩, fun hnext hin hprog => ⟨fun hfree hlow => ?_, fun v hfull hne hlow => ⟨fun hidle => ?_,
    fun hidle hv => ?_⟩⟩⟩
  · refine (liftReply_running hs [.hct id] fun b => hctReturn b id).trans ?_
    rw [hctReturn_waits hx hwait hout]
  · have hact := (slotAssign_free hnext hin hfree).trans (slotGive_eq hlow hprog)
    refine gives_withBlk ((liftRA_running hs fun b => slotAssign b p).trans (by rw [hact, finish_act])) ?_
    exact ⟨by simp [ctxOf_congr (noteSteps_obj _ _)], by simp [slotGiven]⟩
  · have hact := (slotAssign_idle hnext hin hfull hidle).trans (slotGive_eq hlow (by simpa using hprog))
    refine gives_withBlk ((liftRA_running hs fun b => slotAssign b p).trans (by rw [hact, finish_act])) ?_
    exact ⟨⟨by simp [ctxOf_congr (noteSteps_obj _ _)], by simp [slotGiven]⟩,
      by simp [ctxOf_congr (noteSteps_obj _ _), ctxOf_slotGiven_ne _ _ hne]⟩
  · have hact := (eviction_blocked hnext hin hfull hidle hv).trans (slotGive_eq (k := k) (by simpa using hlow) (by simpa using hprog))
    refine gives_withBlk ((liftRA_running hs fun b => eviction b p).trans (by rw [hact, finish_act])) ?_
    refine ⟨⟨by simp [ctxOf_congr (noteSteps_obj _ _)], by simp [slotGiven]⟩,
      by simp [ctxOf_congr (noteSteps_obj _ _), ctxOf_slotGiven_ne _ _ hne, ctxOf_congr (cnt_obj _ _)], by simp, ?_⟩
    have hcount : fmGet (cnt (leaveSlot (passTo s.blk (evictionDue s.blk p)) v .created) cSlotEvict).ctr 0x198 0 =
      satAdd 32 (fmGet (leaveSlot (passTo s.blk (evictionDue s.blk p)) v .created).ctr 0x198 0) 1 := cnt_value _ _
    simpa using hcount

end Sys2Proof.Machine
end

section
/-! PROOFS. Admission and rejection of entries (R39, R68, R72, R76, R85, R119, R125). -/

namespace Sys2Proof.Machine

open Sys2Proof

/-! ## An entry taken from its ring (R66, R68) -/

/-- Entry `e` has been taken from queue `n`, which was `s`, and `b` has become `b'`; `rej` says that it was not admitted. -/
structure EntryTaken (b : Block) (n : Nat) (s : Sq) (rej : Bool) (b' : Block) : Prop where
  writes : WritesBack b b'
  cqs : b'.q.cqs = b.q.cqs
  sq : ∃ s', fmGet? b'.q.sqs n = some s' ∧ s'.cq = s.cq ∧ s'.consumer = s.consumer + 1 ∧
    s'.rejected = if rej then satInc 32 s.rejected else s.rejected

theorem sqWriteback_q {b : Block} {n : Nat} {s : Sq} (h : fmGet? b.q.sqs n = some s) :
    (sqWriteback b (.q n)).q = { b.q with sqs := fmSet b.q.sqs n { s with sinceWb := 0 } } := by
  simp only [sqWriteback, sqOf, h]
  split
  · exact hostAcc_q _ _ _ _ _ _ _
  · exact hostAcc_q _ _ _ _ _ _ _

theorem sqConsume_taken {b : Block} {n : Nat} {s : Sq} (rej : Bool) (h : fmGet? b.q.sqs n = some s) :
    EntryTaken b n s rej (sqConsume b (.q n) rej) := by
  refine ⟨writesBack_sqConsume _ _ _, ?_, ?_⟩
  · simp only [sqConsume, sqOf, h]
    split
    · rw [sqWriteback_q (fmGet?_fmSet_self _ _ _)]; rfl
    · rfl
  · simp only [sqConsume, sqOf, h]
    split
    · rw [sqWriteback_q (fmGet?_fmSet_self _ _ _)]
      exact ⟨_, fmGet?_fmSet_self _ _ _, rfl, rfl, rfl⟩
    · exact ⟨_, fmGet?_fmSet_self _ _ _, rfl, rfl, rfl⟩

theorem entryTake_taken {b : Block} {n : Nat} {s : Sq} (e : BitVec 512) (rej : Bool) (h : fmGet? b.q.sqs n = some s) :
    EntryTaken b n s rej (entryTake b n e rej).2 := by
  simp only [entryTake, h]
  obtain ⟨hwrites, hcqs, hsq⟩ := sqConsume_taken (b := putSq b (.q n) _) rej (fmGet?_fmSet_self b.q.sqs n _)
  exact ⟨(writesBack_putSq _ _ _).trans hwrites, hcqs, hsq⟩

/-! ## Completion without admission (R76, R92) -/

/-- CQ `m`, which held the completions `l`, holds `l'`, and the block has not changed otherwise but in the CQs. -/
structure Pushed (b : Block) (m : Nat) (l' : List CqEnt) (b' : Block) : Prop where
  sqs : b'.q.sqs = b.q.sqs
  sb : b'.sb = b.sb
  cq : ∃ c, fmGet? b'.q.cqs m = some c ∧ c.hold = l'

theorem cqPush_pushed {b : Block} {m : Nat} {c : Cq} (x : CqEnt) (h : fmGet? b.q.cqs m = some c) :
    Pushed b m (c.hold ++ [x]) (cqPush b m x) := by
  simp only [cqPush, h]
  exact ⟨rfl, rfl, _, fmGet?_fmSet_self _ _ _, rfl⟩

theorem foldl_cqPush_pushed {α : Type} {m : Nat} (f : α → CqEnt) (l : List α) {b : Block} {c : Cq} (h : fmGet? b.q.cqs m = some c) :
    Pushed b m (c.hold ++ l.map f) (l.foldl (fun b x => cqPush b m (f x)) b) := by
  induction l generalizing b c with
  | nil => exact ⟨rfl, rfl, c, h, (List.append_nil _).symm⟩
  | cons x xs ih =>
    obtain ⟨hsqs, hsb, c', hc', hhold⟩ := cqPush_pushed (f x) h
    obtain ⟨hsqs', hsb', c'', hc'', hhold'⟩ := ih hc'
    exact ⟨hsqs'.trans hsqs, hsb'.trans hsb, c'', hc'', by simp [hhold', hhold]⟩

/-- The end of an entry marks the batches of its queue `s`, and the completions of those that it makes complete join those of the CQ. -/
theorem entryOver_spec {b : Block} {n ord status time frame : Nat} {keep wait : Option Nat} {s : Sq} {c : Cq}
    (hs : fmGet? b.q.sqs n = some s) (hc : fmGet? b.q.cqs s.cq = some c) : ∃ batches l c',
    (entryOver b n ord status time frame keep wait).q.sqs = fmSet b.q.sqs n { s with batches := batches } ∧
    (entryOver b n ord status time frame keep wait).sb = b.sb ∧
    fmGet? (entryOver b n ord status time frame keep wait).q.cqs s.cq = some c' ∧ c'.hold = c.hold ++ l := by
  simp only [entryOver, hs]
  obtain ⟨hsqs, hsb, c', hc', hhold⟩ := foldl_cqPush_pushed (batchEnt n) (b := putSq b (.q n) _) _ hc
  exact ⟨_, _, c', hsqs, hsb, hc', hhold⟩

/-- Entry `e` of queue `n`, which was `q`, has been completed with status `st` to its CQ, which was `c`, and not admitted. -/
def Rejected (b : Block) (n : Nat) (q : Sq) (c : Cq) (e : BitVec 512) (st : Nat) (d : Block) : Prop :=
  (sqOf d (.q n)).map (fun x => (x.consumer, x.rejected)) = some (q.consumer + 1, satInc 32 q.rejected) ∧ d.sb.items = b.sb.items ∧
    ∃ x l c', fmGet? d.q.cqs q.cq = some c' ∧ c'.hold = c.hold ++ x :: l ∧ x.tag = eTag e ∧ x.status = st ∧ x.kind = .item ∧
      x.sq = n ∧ x.ctx = eCtx e

/-- The entry's completion, and then that of each batch that its end makes complete, join those of the CQ. -/
theorem rejectEntry_rejected {b b' : Block} {n : Nat} {q : Sq} {c : Cq} (e : BitVec 512) {st : Nat} (ord : Nat)
    (htaken : EntryTaken b n q true b') (hc : fmGet? b.q.cqs q.cq = some c) (hst : st ≠ stDone) :
    Rejected b n q c e st (rejectEntry b' n ord e st) := by
  obtain ⟨hwrites, hcqs, s', hs', hcq, hconsumer, hrejected⟩ := htaken
  obtain ⟨hsqs, hsb, c', hc', hhold⟩ :=
    cqPush_pushed (itemEnt e n st (stamp b') 0 none []) (hcqs ▸ hcq ▸ hc : fmGet? b'.q.cqs s'.cq = some c)
  simp only [rejectEntry, hs', hst, if_false]
  obtain ⟨batches, l, c'', hsqs', hsb', hc'', hhold'⟩ := entryOver_spec (ord := ord) (status := st)
    (time := stamp (cqPush b' s'.cq (itemEnt e n st (stamp b') 0 none []))) (frame := 0) (keep := none) (wait := none) (hsqs ▸ hs') hc'
  refine ⟨?_, ?_, itemEnt e n st (stamp b') 0 none [], l, c'', hcq ▸ hc'', ?_, rfl, rfl, rfl, rfl, rfl⟩
  · simp [sqOf, hsqs', hconsumer, hrejected]
  · rw [hsb', hsb, hwrites.sb]
  · rw [hhold', hhold, List.append_assoc]; rfl

/-- A test of R39 that fails gives a status other than that of an end without fault. -/
theorem admitTest_ne_stDone {b : Block} {q : Sq} {e : BitVec 512} {st : Nat} (h : admitTest b q e = some st) : st ≠ stDone := by
  unfold admitTest at h
  split at h
  · cases h; decide
  · split at h
    · cases h; decide
    · split at h
      · cases h; decide
      · cases h; decide
      · cases h

/-! ## A work item allocated (R125) -/

/-- A work item that finds room gets a free tag; but for the scoreboard and the counters, nothing changes. -/
theorem sbAlloc_spec {b : Block} (i : Item) (h : b.sb.items.length < sbCapacity) : ∃ t sb ctr,
    sbAlloc b i = some (t, { b with sb := sb, ctr := ctr }) ∧ itemOf b t = none ∧ fmGet? sb.items t = some i := by
  obtain ⟨t, ht⟩ := lowestFree_isSome (used := fmKeys b.sb.items) 0 (by simpa [fmKeys] using h)
  obtain ⟨-, -, hfree⟩ := lowestFree_some ht
  simp only [sbAlloc, ht]
  split
  · exact ⟨t, _, _, rfl, fmGet?_eq_none hfree, fmGet?_fmSet_self _ _ _⟩
  · exact ⟨t, _, _, rfl, fmGet?_eq_none hfree, fmGet?_fmSet_self _ _ _⟩

/-- What the settling of a context can change: its record, with what the writing of it changes (R38, R237). -/
theorem settleCtx_eq (b : Block) (h : BitVec 24) (heat : Bool) : ∃ obj mem floor,
    settleCtx b h heat = { b with obj := obj, mem := mem, tide := { b.tide with stampFloor := floor } } := by
  have put (c : Ctx) : ∃ obj mem floor, putCtx b c = { b with obj := obj, mem := mem, tide := { b.tide with stampFloor := floor } } := by
    obtain ⟨_, _, _, hput⟩ := putCtx_eq b c
    exact ⟨_, _, _, hput⟩
  unfold settleCtx
  cases ctxOf b h with
  | none => exact ⟨_, _, _, rfl⟩
  | some c =>
    dsimp only
    split
    · split
      · split <;> exact ⟨_, _, _, rfl⟩
      · split
        · exact put _
        · exact ⟨_, _, _, rfl⟩
    · split
      · exact put _
      · exact ⟨_, _, _, rfl⟩
    · split
      · exact put _
      · exact ⟨_, _, _, rfl⟩
    · exact ⟨_, _, _, rfl⟩

/-! ## A wait registered (R119, R122) -/

theorem claimedFences_congr {a b : Block} (hf : a.fen = b.fen) (hd : a.dict = b.dict) : claimedFences a = claimedFences b := by
  have hlocal : isLocal a = isLocal b := funext fun g => isLocal_congr hd g
  rw [claimedFences, hf, hlocal]
  rfl

theorem fenceRoom_congr {a b : Block} (hf : a.fen = b.fen) (hd : a.dict = b.dict) (g : Word) : fenceRoom a g = fenceRoom b g := by
  simp only [fenceRoom, pinRoom, claimedFences_congr hf hd]

theorem fenceNow_congr {a b : Block} (hf : a.fen = b.fen) (hd : a.dict = b.dict) (g : Word) : fenceNow a g = fenceNow b g := by
  simp only [fenceNow, fenceEnt, isLocal_congr hd, hf]

/-- A fence whose value no read delays is one of this chip, cached, with no operation that waits for a read. -/
theorem fenceNow_some {b : Block} {g cur : Word} (h : fenceNow b g = some cur) :
    isLocal b g.toNat = true ∧ b.fen.misses.any (fun m => decide (m.addr = g)) = false ∧ ∃ x, fenceEnt b g = some x ∧ x.value = cur := by
  unfold fenceNow at h
  split at h
  · rename_i hnow
    obtain ⟨hlocal, hmiss⟩ := (Bool.and_eq_true _ _).mp hnow
    exact ⟨hlocal, by simpa using hmiss, Option.map_eq_some_iff.mp h⟩
  · cases h

/-- The block once the first wait of item `i` has been registered with a cached fence, which it has used. -/
def waitRegistered (b : Block) (g v : Word) (t : Nat) (i : Item) : Block :=
  let b := fenceTouch b g
  putItem { b with fen := { b.fen with waits := b.fen.waits ++ [{ addr := g, value := v, who := .item t false }] } } t
    { i with w0 := .registered g v }

/-- A wait of a work item on a fence of this chip whose value no read delays: not reached, and with room, it is registered. -/
theorem doFence_registers {b : Block} {g v cur : Word} {t : Nat} {i : Item} (hcur : fenceNow b g = some cur)
    (hv : reached cur v = false) (hroom : fenceRoom b g = true) (hi : itemOf b t = some i) :
    doFence b g (.wait (.item t false) v) = act (waitRegistered b g v t i) := by
  obtain ⟨hlocal, hmiss, x, hx, hxv⟩ := fenceNow_some hcur
  have hroom' : fenceRoom (fenceTouch b g) g = true := hroom
  have hi' : fmGet? b.sb.items t = some i := hi
  simp only [doFence, hlocal, hx, hmiss, applyFence, applyWait, hxv, hv, hroom', if_true, Bool.false_eq_true, if_false]
  simp only [noteRegistered, itemOf, fenceTouch, hi', waitRegistered, Bool.false_eq_true, if_false]

/-- An effect that brings about no other. -/
theorem finish_single {b d : Block} {x : Task} (hidle : b.rcv.stage = .idle)
    (h : doTask { b with sb := { b.sb with readySeq := b.sb.readySeq + 1 } } x = act d) : finish (b, [x]) = d := by
  have hfuel : ∃ k, taskFuel b = k + 1 + 1 := ⟨taskFuel b - 2, by unfold taskFuel; omega⟩
  obtain ⟨k, hk⟩ := hfuel
  simp only [finish, followUps, List.isEmpty_cons, Bool.false_eq_true, if_false, hidle, if_true, hk, runTasks, h]
  rfl

/-! ## Admission (R39, R85) -/

theorem submitKind_eq {b : Block} {n : Nat} {e : BitVec 512} {kind : ItemKind} (hfront : frontEntry b n = some e)
    (hkind : entryKind e = some kind) : submitKind b n kind = submit b n e kind := by
  simp [submitKind, hfront, hkind]

/-- An entry with one wait, on a fence of this chip that has not reached the value, becomes a work item whose wait goes to the fence. -/
theorem submit_admits {b : Block} {n : Nat} {q : Sq} {e : BitVec 512} {kind : ItemKind} {c : Ctx} {g cur : Word}
    (hq : fmGet? b.q.sqs n = some q) (htest : admitTest b q e = none) (hc : ctxOf b (eCtx e) = some c)
    (hroom : b.sb.items.length < sbCapacity) (hquota : quotaFull b c.part = false) (hfirst : eWaitAddr e false ≠ 0)
    (hsecond : eWaitAddr e true = 0) (haddr : translate b (eCtx e) (eWaitAddr e false) false = some g.toNat)
    (hcur : fenceNow b g = some cur) (hv : reached cur (eWaitValue e false) = false)
    (hpin : fenceRoom b g = true) {t : Nat} {b' : Block}
    (halloc : sbAlloc (entryTake b n e false).2 (newItem n (entryTake b n e false).1 q.gen e c.part kind) = some (t, b')) :
    submit b n e kind = (settleCtx b' (eCtx e) false, [.fence g (.wait (.item t false) (eWaitValue e false))]) := by
  obtain ⟨hlocal, -, x, hx, hxv⟩ := fenceNow_some hcur
  have hwaits : entryWaits b e = some [(false, g, eWaitValue e false)] := by
    simp [entryWaits, hfirst, hsecond, haddr]
  have hreached : waitReached b q (false, g, eWaitValue e false) = false := by
    simp [waitReached, fenceKnown, hx, hxv, hv]
  have hneeds : pinNeeds b q [(false, g, eWaitValue e false)] = [g] := by
    simp [pinNeeds, hlocal, hreached, List.eraseDups_cons]
  have hpin' : pinRoom b [g] = true := hpin
  have hfull : ¬ b.sb.items.length ≥ sbCapacity := by omega
  simp [submit, hq, htest, hc, admitItem, hfull, hquota, hwaits, hneeds, hpin', hreached, waitsDone, halloc]

/-- Entry `e` of queue `n`, which was `q`, has become a work item of a kind for context `c` under a tag that was free; its first wait is
registered with fence `g`, and it has no second. -/
def Waits (b : Block) (n : Nat) (q : Sq) (e : BitVec 512) (c : Ctx) (g : Word) (kind : ItemKind) (d : Block) : Prop :=
  ∃ tag i, itemOf b tag = none ∧ itemOf d tag = some i ∧ i.sq = n ∧ i.entry = e ∧ i.ctx = eCtx e ∧ i.part = c.part ∧ i.kind = kind ∧
    i.stage = .waiting ∧ i.w0 = .registered g (eWaitValue e false) ∧ i.w1 = .done ∧
    (sqOf d (.q n)).map (fun x => x.consumer) = some (q.consumer + 1) ∧
    d.fen.waits = b.fen.waits ++ [{ addr := g, value := eWaitValue e false, who := .item tag false }]

theorem submit_waits {b : Block} {n : Nat} {q : Sq} {e : BitVec 512} {kind : ItemKind} {c : Ctx} {g cur : Word}
    (hidle : b.rcv.stage = .idle) (hq : fmGet? b.q.sqs n = some q) (htest : admitTest b q e = none) (hc : ctxOf b (eCtx e) = some c)
    (hroom : b.sb.items.length < sbCapacity) (hquota : quotaFull b c.part = false) (hfirst : eWaitAddr e false ≠ 0)
    (hsecond : eWaitAddr e true = 0) (haddr : translate b (eCtx e) (eWaitAddr e false) false = some g.toNat)
    (hcur : fenceNow b g = some cur) (hv : reached cur (eWaitValue e false) = false) (hpin : fenceRoom b g = true) :
    Waits b n q e c g kind (finish (submit b n e kind)) := by
  obtain ⟨hwrites, -, s', hs', -, hconsumer, -⟩ := entryTake_taken e false hq
  let i := newItem n (entryTake b n e false).1 q.gen e c.part kind
  obtain ⟨t, sb, ctr, halloc, hfree, hitem⟩ := sbAlloc_spec (b := (entryTake b n e false).2) i (by rw [hwrites.sb]; exact hroom)
  have hsubmit := submit_admits hq htest hc hroom hquota hfirst hsecond haddr hcur hv hpin halloc
  obtain ⟨obj, mem, floor, hsettle⟩ := settleCtx_eq { (entryTake b n e false).2 with sb := sb, ctr := ctr } (eCtx e) false
  generalize settleCtx { (entryTake b n e false).2 with sb := sb, ctr := ctr } (eCtx e) false = d at hsubmit hsettle
  have hsqs : fmGet? d.q.sqs n = some s' := by rw [hsettle]; exact hs'
  have hfen : d.fen = b.fen := by rw [hsettle]; exact hwrites.fen
  have hdict : d.dict = b.dict := by rw [hsettle]; exact hwrites.dict
  have hrcv : d.rcv = b.rcv := by rw [hsettle]; exact hwrites.rcv
  have hitem' : itemOf d t = some i := by rw [hsettle]; exact hitem
  let d' : Block := { d with sb := { d.sb with readySeq := d.sb.readySeq + 1 } }
  have htask : doTask d' (.fence g (.wait (.item t false) (eWaitValue e false))) = act (waitRegistered d' g (eWaitValue e false) t i) :=
    doFence_registers ((fenceNow_congr (a := d') hfen hdict g).trans hcur) hv ((fenceRoom_congr (a := d') hfen hdict g).trans hpin) hitem'
  rw [hsubmit, finish_single (by rw [hrcv]; exact hidle) htask]
  refine ⟨t, { i with w0 := .registered g (eWaitValue e false) }, ?_, fmGet?_fmSet_self _ _ _, rfl, rfl, rfl, rfl, rfl, rfl, rfl, ?_, ?_, ?_⟩
  · simpa [itemOf, hwrites.sb] using hfree
  · simp [i, newItem, hsecond]
  · simp [sqOf, waitRegistered, putItem, fenceTouch, d', hsqs, hconsumer]
  · simp [waitRegistered, putItem, fenceTouch, d', hfen]

/-! ## The commands -/

theorem entryKind_eq {e : BitVec 512} {kind : ItemKind} (hres : entryReserved e = false)
    (hop : (if eOpcode e = 0 then some ItemKind.barrier else if eOpcode e = 1 then some ItemKind.heat
      else if eOpcode e = 2 then some ItemKind.tableUpdate else none) = some kind) : entryKind e = some kind := by
  simp only [entryKind, hres, Bool.false_eq_true, if_false, hop]

/-- Settles O30: an admitted entry by the registration of its wait, one that is not admitted by its completion. -/
theorem entryAdmission : Obligations.EntryAdmission := by
  unfold Obligations.EntryAdmission
  intro s n q e hs b hq hfront
  refine ⟨?_, ?_⟩
  · intro c g cur hres htest hc hroom hquota hfirst hsecond haddr _ hcur _ hv hpin
    have admits (kind : ItemKind) (hkind : entryKind e = some kind) :
        Gives (liftRA (fun b => submitKind b n kind) s) (fun t => Waits b n q e c g kind t.blk) := by
      refine gives_withBlk (liftRA_running hs fun b => submitKind b n kind) ?_
      rw [submitKind_eq hfront hkind]
      exact submit_waits hs.2 hq htest hc hroom hquota hfirst hsecond haddr hcur hv hpin
    exact ⟨fun hop => admits .barrier (entryKind_eq hres (by simp [hop])), fun hop => admits .heat (entryKind_eq hres (by simp [hop])),
      fun hop => admits .tableUpdate (entryKind_eq hres (by simp [hop]))⟩
  · intro c hc
    have gives {o : Host.Outcome State Fault Refusal} {st : Nat} (hst : st ≠ stDone)
        (ho : o = .next (s.withBlk (rejectEntry (entryTake b n e true).2 n (entryTake b n e true).1 e st))) :
        Gives o (fun t => Rejected b n q c e st t.blk) :=
      gives_withBlk ho (rejectEntry_rejected e _ (entryTake_taken e true hq) hc hst)
    refine ⟨fun hres => gives (st := stBadState) (by decide) ?_, fun st hres hop htest => gives (admitTest_ne_stDone htest) ?_⟩
    · refine (liftR_running hs fun b => match frontEntry b n with
        | some e => if entryReserved e then rejectFront b n e else b
        | none => b).trans ?_
      rw [show frontEntry s.blk n = some e from hfront]
      simp only [hres, if_true]
      rfl
    · have hsubmit : submitKind b n .heat = act (rejectEntry (entryTake b n e true).2 n (entryTake b n e true).1 e st) := by
        rw [submitKind_eq hfront (entryKind_eq hres (by simp [hop]))]
        simp [submit, hq, htest]
      exact (liftRA_running hs fun b => submitKind b n .heat).trans (congrArg (fun a => Host.Outcome.next (s.withBlk (finish a))) hsubmit)

end Sys2Proof.Machine
end

section
/-! PROOFS. The dictionary arbiter (R407, R408, R411): what a counted origin and an answer leave unchanged, what an accepted write does, and
the operations whose turn it is. -/

namespace Sys2Proof.Machine

open Sys2Proof

/-! ## An access as the block finds it (R384) -/

/-- Only the counters change when the origin of an access is counted. -/
theorem noted_eq (b : Block) (a : DictAcc) : ∃ ctr, noted b a = { b with ctr := ctr } := by
  have counted (o : Origin) : ∃ ctr, noteOrigin b o = { b with ctr := ctr } := by
    unfold noteOrigin
    split <;> exact ⟨_, rfl⟩
  unfold noted
  split
  · exact counted _
  · exact counted _
  · exact ⟨_, rfl⟩

section
variable (b : Block) (a : DictAcc)

@[simp] theorem noted_regs : (noted b a).regs = b.regs := by obtain ⟨_, h⟩ := noted_eq b a; rw [h]
@[simp] theorem noted_out : (noted b a).out = b.out := by obtain ⟨_, h⟩ := noted_eq b a; rw [h]
@[simp] theorem noted_dict : (noted b a).dict = b.dict := by obtain ⟨_, h⟩ := noted_eq b a; rw [h]
@[simp] theorem noted_obj : (noted b a).obj = b.obj := by obtain ⟨_, h⟩ := noted_eq b a; rw [h]
@[simp] theorem noted_pwr : (noted b a).pwr = b.pwr := by obtain ⟨_, h⟩ := noted_eq b a; rw [h]
@[simp] theorem noted_rcv : (noted b a).rcv = b.rcv := by obtain ⟨_, h⟩ := noted_eq b a; rw [h]
@[simp] theorem aqOf_noted (p : Nat) : aqOf (noted b a) p = aqOf b p := by obtain ⟨_, h⟩ := noted_eq b a; rw [h]; rfl
@[simp] theorem ownerMode_noted (p : Nat) : ownerMode (noted b a) p = ownerMode b p := by obtain ⟨_, h⟩ := noted_eq b a; rw [h]; rfl
@[simp] theorem pathOps_noted (x : DictAcc) : pathOps (noted b a) x = pathOps b x := by obtain ⟨_, h⟩ := noted_eq b a; rw [h]; rfl
@[simp] theorem writeCheck_noted (x : DictAcc) : writeCheck (noted b a) x = writeCheck b x := by
  obtain ⟨_, h⟩ := noted_eq b a; rw [h]; rfl
@[simp] theorem readCheck_noted (x : DictAcc) (value : Bool) : readCheck (noted b a) x value = readCheck b x value := by
  obtain ⟨_, h⟩ := noted_eq b a; rw [h]; rfl
@[simp] theorem entryCond_noted (i k v : Nat) : entryCond (noted b a) i k v = entryCond b i k v := by
  obtain ⟨_, h⟩ := noted_eq b a; rw [h]; rfl

end

/-! ## Turns (R408, R411) -/

theorem DictReady.arrives {s : State} {a : DictAcc} {d : Desc} (h : DictReady s a d) : DictArrives s a :=
  ⟨h.alive, h.tested, h.path, h.idle, h.quiet⟩

section
variable {s : State} {a : DictAcc}

/-- An operation that finds the arbiter free is performed. -/
theorem dictTurn_free (h : DictArrives s a) (op : DictOp) (f : Block → Act) : dictTurn s.blk op a f = f (noted s.blk a) := by
  simp [dictTurn, h.path, h.tested, h.quiet, h.idle]

/-- An operation through a window that is busy is ignored and counted. -/
theorem dictTurn_ignored (hpath : reachesDict a = true) (htested : s.blk.mic.selftest ≠ 0) (hbusy : winBusy s.blk a = true) (op : DictOp)
    (f : Block → Act) : dictTurn s.blk op a f = act (cnt (noted s.blk a) cAccessDrop) := by
  simp [dictTurn, hpath, htested, hbusy]

/-- An operation that arrives while another is under way waits. -/
theorem dictTurn_waits (hpath : reachesDict a = true) (htested : s.blk.mic.selftest ≠ 0) (hquiet : winBusy s.blk a = false)
    (hbusy : dictBusy s.blk = true) (op : DictOp) (f : Block → Act) :
    dictTurn s.blk op a f = act (dictQueue (noted s.blk a) op a) := by
  simp [dictTurn, hpath, htested, hquiet, hbusy]

end

/-! ## Answers (R407, R411 to R413) -/

@[simp] theorem winDone_out (b : Block) (a : DictAcc) (data status : Nat) : (winDone b a data status).out = b.out := by
  unfold winDone; split <;> rfl
@[simp] theorem winDone_dict (b : Block) (a : DictAcc) (data status : Nat) : (winDone b a data status).dict = b.dict := by
  unfold winDone; split <;> rfl
@[simp] theorem winDone_dictQ (b : Block) (a : DictAcc) (data status : Nat) : (winDone b a data status).regs.dictQ = b.regs.dictQ := by
  unfold winDone; split <;> rfl
@[simp] theorem winDone_wgen (b : Block) (a : DictAcc) (data status : Nat) : (winDone b a data status).regs.wgen = b.regs.wgen := by
  unfold winDone; split <;> rfl
@[simp] theorem winDone_aud (b : Block) (a : DictAcc) (data status : Nat) : (winDone b a data status).aud = b.aud := by
  unfold winDone; split <;> rfl
@[simp] theorem winDone_pwr (b : Block) (a : DictAcc) (data status : Nat) : (winDone b a data status).pwr = b.pwr := by
  unfold winDone; split <;> rfl
@[simp] theorem winDone_q (b : Block) (a : DictAcc) (data status : Nat) : (winDone b a data status).q = b.q := by
  unfold winDone; split <;> rfl
@[simp] theorem winDone_fab (b : Block) (a : DictAcc) (data status : Nat) : (winDone b a data status).fab = b.fab := by
  unfold winDone; split <;> rfl

/-- An operation joins those that wait, where its path has room. -/
theorem dictQueue_waits {b : Block} {a : DictAcc} (op : DictOp) (h : isWindow a.path = true ∨ pathOps b a < 8) :
    (dictQueue b op a).regs.dictQ = b.regs.dictQ ++ [{ op := op, acc := a }] ∧ (dictQueue b op a).out = b.out ∧
      (dictQueue b op a).dict = b.dict := by
  have hroom : (!isWindow a.path && decide (8 ≤ pathOps b a)) = false := by
    rcases h with hwin | hlt
    · simp [hwin]
    · simp [hlt]
  simp [dictQueue, hroom]

/-! ## The audit log (R418) -/

theorem notify_ringPut_eq (b : Block) (base log2 size seq t kind n : Nat) (l : List Byte) :
    ∃ mem floor out notes, notify (ringPut b base log2 size seq t l) kind n =
      { b with mem := mem, tide := { b.tide with stampFloor := floor }, out := out, mgt := { b.mgt with notify := notes } } := by
  unfold ringPut
  split
  · exact ⟨_, _, _, _, rfl⟩
  · rw [wrOwn_noteStamp]; exact ⟨_, _, _, _, rfl⟩

/-- An audit record changes the log, with its mirror in memory and NOTIFY, and nothing else. -/
theorem auditN_eq (b : Block) (e : AuditEv) (count : Nat) : ∃ overrun mem floor out notes, auditN b e count =
    { b with
      aud := { b.aud with
        ring := fmSet b.aud.ring (b.aud.seq % 4096) (auditRecord e count b.aud.seq (stamp b))
        seq := b.aud.seq + 1
        overrun := overrun }
      mem := mem
      tide := { b.tide with stampFloor := floor }
      out := out
      mgt := { b.mgt with notify := notes } } := by
  unfold auditN
  dsimp only
  obtain ⟨_, _, _, _, h⟩ := notify_ringPut_eq _ _ _ _ _ _ _ _ _
  rw [h]
  exact ⟨_, _, _, _, _, rfl⟩

end Sys2Proof.Machine
end

section
/-! PROOFS. Writes of dictionary entries (R401, R407, R415, R418, R420): what an accepted write changes. -/

namespace Sys2Proof.Machine

open Sys2Proof

/-! ## Calibration (R420) -/

/-- The calibration entries written once entry `(i, k)` has been (R420). -/
def calDoneWith (b : Block) (i k : Nat) : List Nat :=
  if b.pwr.calDone.contains (dkey i k) then b.pwr.calDone else dkey i k :: b.pwr.calDone

/-- The calibration is loaded once entry `(i, k)` has been written too (R420). -/
def calLoadedWith (b : Block) (i k : Nat) : Bool := calEntries.all (fun e => (calDoneWith b i k).contains (dkey e.1 e.2))

theorem calWritten_loading {b : Block} (i k : Nat) (h : b.pwr.calLoaded = false) : calWritten b i k =
    notify (if calLoadedWith b i k then tableChanged
        { b with pwr := { b.pwr with calDone := calDoneWith b i k, calLoaded := calLoadedWith b i k } }
      else { b with pwr := { b.pwr with calDone := calDoneWith b i k, calLoaded := calLoadedWith b i k } }) 3 b.aud.seq := by
  rw [calWritten, if_neg (by simp [h])]; rfl

/-- `c` differs from `b` at most in the calibration's state, `TABLE_GEN`, NOTIFY and the outputs. -/
def TableChanges (b c : Block) : Prop :=
  ∃ pwr gen notes out, c = { b with pwr := pwr, tableGen := gen, mgt := { b.mgt with notify := notes }, out := out }

theorem TableChanges.refl (b : Block) : TableChanges b b := ⟨_, _, _, _, rfl⟩

theorem TableChanges.trans {b c d : Block} (h : TableChanges b c) (h' : TableChanges c d) : TableChanges b d := by
  obtain ⟨_, _, _, _, rfl⟩ := h
  obtain ⟨_, _, _, _, rfl⟩ := h'
  exact ⟨_, _, _, _, rfl⟩

theorem calWritten_changes (b : Block) (i k : Nat) : TableChanges b (calWritten b i k) := by
  by_cases h : b.pwr.calLoaded = true
  · rw [calWritten, if_pos h]
    split <;> exact ⟨_, _, _, _, rfl⟩
  · rw [calWritten_loading i k (Bool.not_eq_true _ ▸ h)]
    split <;> exact ⟨_, _, _, _, rfl⟩

theorem calWritten_calLoaded {b : Block} (i k : Nat) (h : b.pwr.calLoaded = false) : (calWritten b i k).pwr.calLoaded =
    calEntries.all (fun e => decide (dkey e.1 e.2 = dkey i k) || b.pwr.calDone.contains (dkey e.1 e.2)) := by
  have hdone (key : Nat) : (calDoneWith b i k).contains key = (decide (key = dkey i k) || b.pwr.calDone.contains key) := by
    unfold calDoneWith
    split
    · rename_i hin
      by_cases hk : key = dkey i k
      · simpa [hk] using hin
      · simp [hk]
    · rw [List.contains_cons, beq_eq_decide]
  have hloaded : calLoadedWith b i k =
      calEntries.all (fun e => decide (dkey e.1 e.2 = dkey i k) || b.pwr.calDone.contains (dkey e.1 e.2)) := by
    simp only [calLoadedWith, hdone]
  rw [calWritten_loading i k h, ← hloaded]
  split <;> rfl

/-! ## The parts of an accepted write (R407) -/

/-- The dictionary with the value of an accepted write; a command entry keeps none. -/
def storedDict (b : Block) (a : DictAcc) (d : Desc) : FMap Nat :=
  if isCmdEntry a.idx a.sub then b.dict else fmSet b.dict (dkey a.idx a.sub) (writeValue a d)

/-- `WGEN` after an accepted write (R401). -/
def storedWgen (b : Block) (a : DictAcc) (d : Desc) : Nat :=
  if isCovered d a.idx a.sub then (b.regs.wgen + 1) % 2 ^ 16 else b.regs.wgen

/-- The block with the value of an accepted write and its `WGEN`. -/
def valueStored (b : Block) (a : DictAcc) (d : Desc) : Block :=
  let c := if isCmdEntry a.idx a.sub then b else dput b a.idx a.sub (writeValue a d)
  if isCovered d a.idx a.sub then wgenUp c else c

/-- `TABLE_GEN`, which was `gen`, rises once in one step (R415). -/
def genOnce (gen : Nat) (c : Block) : Block := if c.tableGen = gen then c else { c with tableGen := (gen + 1) % 2 ^ 32 }

/-- The capability table and the calibration follow a write that changed `b` into `c` (R415, R420). -/
def tableFollows (b c : Block) (a : DictAcc) (d : Desc) : Block :=
  let c := if inTable d a.idx a.sub && decide (writeValue a d ≠ entryNow b a.idx a.sub) then tableChanged c else c
  genOnce b.tableGen (if d.cal then calWritten c a.idx a.sub else c)

/-- The audit record of an accepted write (R418). -/
def writeRecord (b : Block) (a : DictAcc) (d : Desc) : AuditEv :=
  { type := auDictWrite, path := a.path, org := a.org, idx := a.idx, sub := a.sub, old := entryNow b a.idx a.sub % 2 ^ 64,
    new := writeValue a d % 2 ^ 64, trunc := decide (d.bytes > 8), cal := d.cal }

/-- The block once an accepted write has taken effect and been recorded, before its answer. -/
def recorded (b : Block) (a : DictAcc) (d : Desc) : Block :=
  let c := tableFollows b (valueStored b a d) a d
  if a.idx = 0x9000 ∧ (a.sub = 2 ∨ a.sub = 4) then c else audit c (writeRecord b a d)

theorem dictStore_eq (b : Block) (a : DictAcc) (d : Desc) : dictStore b a d =
    winDone (dictReply (recorded b a d) a drOk []) a a.value (winStatus drOk 0 0 false false 0) := rfl

theorem valueStored_eq (b : Block) (a : DictAcc) (d : Desc) : valueStored b a d =
    { b with dict := storedDict b a d, regs := { b.regs with wgen := storedWgen b a d } } := by
  unfold valueStored storedDict storedWgen
  by_cases hcmd : isCmdEntry a.idx a.sub = true
  · by_cases hcov : isCovered d a.idx a.sub = true <;> simp only [hcmd, hcov, if_true, Bool.false_eq_true, if_false]
    rfl
  · by_cases hcov : isCovered d a.idx a.sub = true <;> simp only [hcmd, hcov, if_true, Bool.false_eq_true, if_false] <;> rfl

theorem genOnce_changes (gen : Nat) (c : Block) : TableChanges c (genOnce gen c) := by
  unfold genOnce; split <;> exact ⟨_, _, _, _, rfl⟩

theorem tableChangedIf_changes (p : Prop) [Decidable p] (c : Block) : TableChanges c (if p then tableChanged c else c) := by
  split <;> exact ⟨_, _, _, _, rfl⟩

theorem tableFollows_changes (b c : Block) (a : DictAcc) (d : Desc) : TableChanges c (tableFollows b c a d) := by
  have calIf (p : Bool) (c : Block) : TableChanges c (if p then calWritten c a.idx a.sub else c) := by
    split
    · exact calWritten_changes _ _ _
    · exact .refl _
  exact TableChanges.trans (tableChangedIf_changes _ c) (.trans (calIf _ _) (genOnce_changes _ _))

@[simp] theorem genOnce_pwr (gen : Nat) (c : Block) : (genOnce gen c).pwr = c.pwr := by
  unfold genOnce; split <;> rfl

theorem tableFollows_calLoaded (b : Block) {c : Block} {a : DictAcc} {d : Desc} (hcal : d.cal = true) (h : c.pwr.calLoaded = false) :
    (tableFollows b c a d).pwr.calLoaded =
      calEntries.all (fun e => decide (dkey e.1 e.2 = dkey a.idx a.sub) || c.pwr.calDone.contains (dkey e.1 e.2)) := by
  have hpwr (p : Prop) [Decidable p] : (if p then tableChanged c else c).pwr = c.pwr := by split <;> rfl
  unfold tableFollows
  dsimp only
  rw [genOnce_pwr, if_pos hcal, calWritten_calLoaded _ _ (by rw [hpwr]; exact h), hpwr]

/-- All that an accepted write changes before its answer, but for the calibration and the audit log, which have lemmas of their own. -/
theorem recorded_eq (b : Block) (a : DictAcc) (d : Desc) : ∃ pwr gen mgt out aud mem floor, recorded b a d =
    { b with
      dict := storedDict b a d
      regs := { b.regs with wgen := storedWgen b a d }
      pwr := pwr, tableGen := gen, mgt := mgt, out := out, aud := aud, mem := mem
      tide := { b.tide with stampFloor := floor } } := by
  obtain ⟨_, _, _, _, h⟩ := tableFollows_changes b (valueStored b a d) a d
  unfold recorded
  rw [h, valueStored_eq]
  dsimp only
  split
  · exact ⟨_, _, _, _, _, _, _, rfl⟩
  · rw [audit]
    obtain ⟨_, _, _, _, _, haudit⟩ := auditN_eq _ (writeRecord b a d) 1
    rw [haudit]
    exact ⟨_, _, _, _, _, _, _, rfl⟩

/-- The audit record of an accepted write (R418). -/
theorem recorded_aud {b : Block} {a : DictAcc} (d : Desc) (h : a.idx ≠ 0x9000) : (recorded b a d).aud.seq = b.aud.seq + 1 ∧
    fmGet? (recorded b a d).aud.ring (b.aud.seq % 4096) = some (auditRecord (writeRecord b a d) 1 b.aud.seq (stamp b)) := by
  obtain ⟨_, _, _, _, hf⟩ := tableFollows_changes b (valueStored b a d) a d
  unfold recorded
  rw [hf, valueStored_eq, if_neg (fun hno => h hno.1), audit]
  dsimp only
  obtain ⟨_, _, _, _, _, haudit⟩ := auditN_eq _ (writeRecord b a d) 1
  rw [haudit]
  exact ⟨rfl, fmGet?_fmSet_self _ _ _⟩

theorem recorded_calLoaded {b : Block} {a : DictAcc} {d : Desc} (hcal : d.cal = true) (h : b.pwr.calLoaded = false) :
    (recorded b a d).pwr.calLoaded =
      calEntries.all (fun e => decide (dkey e.1 e.2 = dkey a.idx a.sub) || b.pwr.calDone.contains (dkey e.1 e.2)) := by
  have hpwr : (valueStored b a d).pwr = b.pwr := by rw [valueStored_eq]
  have hfollows := tableFollows_calLoaded b (c := valueStored b a d) (a := a) hcal (by rw [hpwr]; exact h)
  unfold recorded
  dsimp only
  split
  · rw [hfollows, hpwr]
  · obtain ⟨_, _, _, _, _, haudit⟩ := auditN_eq (tableFollows b (valueStored b a d) a d) (writeRecord b a d) 1
    rw [audit, haudit, hfollows, hpwr]

/-! ## An accepted write with its answer -/

section
variable (b : Block) (a : DictAcc) (d : Desc)

@[simp] theorem dictStore_out_head : (dictStore b a d).out.head? = some (.dict a.path a.org a.tag 0 []) := by
  rw [dictStore_eq, winDone_out]; rfl
@[simp] theorem dictStore_dict : (dictStore b a d).dict = storedDict b a d := by
  obtain ⟨_, _, _, _, _, _, _, h⟩ := recorded_eq b a d
  rw [dictStore_eq, winDone_dict, h]; rfl
@[simp] theorem dictStore_wgen : (dictStore b a d).regs.wgen = storedWgen b a d := by
  obtain ⟨_, _, _, _, _, _, _, h⟩ := recorded_eq b a d
  rw [dictStore_eq, winDone_wgen, h]; rfl
@[simp] theorem dictStore_dictQ : (dictStore b a d).regs.dictQ = b.regs.dictQ := by
  obtain ⟨_, _, _, _, _, _, _, h⟩ := recorded_eq b a d
  rw [dictStore_eq, winDone_dictQ, h]; rfl
@[simp] theorem dictStore_fab : (dictStore b a d).fab = b.fab := by
  obtain ⟨_, _, _, _, _, _, _, h⟩ := recorded_eq b a d
  rw [dictStore_eq, winDone_fab, h]; rfl

theorem dictStore_aud : (dictStore b a d).aud = (recorded b a d).aud := by rw [dictStore_eq, winDone_aud]; rfl
theorem dictStore_pwr : (dictStore b a d).pwr = (recorded b a d).pwr := by rw [dictStore_eq, winDone_pwr]; rfl

theorem dget_dictStore_self (h : isCmdEntry a.idx a.sub = false) : dget (dictStore b a d) a.idx a.sub = writeValue a d := by
  simp [dget, storedDict, h]

theorem dget_dictStore_ne {i k : Nat} (h : dkey i k ≠ dkey a.idx a.sub) : dget (dictStore b a d) i k = dget b i k := by
  have hget : fmGet? (storedDict b a d) (dkey i k) = fmGet? b.dict (dkey i k) := by
    unfold storedDict
    split
    · rfl
    · exact fmGet?_fmSet_ne _ _ h
  simp only [dget, dictStore_dict, hget]

end

end Sys2Proof.Machine
end

section
/-! PROOFS. Dictionary operations in their turn (R406 to R413): refusals, reads, descriptions, and the writes of entries without a row of
their own. -/

namespace Sys2Proof.Machine

open Sys2Proof

/-! ## Refusals (R407) -/

theorem auditLim_eq (b : Block) (key : Nat) (e : AuditEv) : ∃ aud mem floor out mgt, auditLim b key e =
    { b with aud := aud, mem := mem, tide := { b.tide with stampFloor := floor }, out := out, mgt := mgt } := by
  have audited (count : Nat) (limits : FMap (Nat × Nat)) : ∃ aud mem floor out mgt,
      { auditN b e count with aud := { (auditN b e count).aud with limits := limits } } =
        { b with aud := aud, mem := mem, tide := { b.tide with stampFloor := floor }, out := out, mgt := mgt } := by
    obtain ⟨_, _, _, _, _, h⟩ := auditN_eq b e count
    rw [h]
    exact ⟨_, _, _, _, _, rfl⟩
  unfold auditLim
  dsimp only
  split
  · split
    · exact ⟨_, _, _, _, _, rfl⟩
    · exact audited _ _
  · exact audited _ _

section
variable (b : Block) (a : DictAcc) (write : Bool) (result step : Nat)

/-- A refusal is recorded or not, and then answered. -/
theorem dictRefuse_eq : ∃ aud mem floor out mgt, dictRefuse b a write result step = winDone (dictReply
    { b with aud := aud, mem := mem, tide := { b.tide with stampFloor := floor }, out := out, mgt := mgt } a result []) a a.value
    (winStatus result 0 0 false false 0) := by
  unfold dictRefuse
  dsimp only
  split
  · obtain ⟨_, _, _, _, _, h⟩ := auditLim_eq b
      (limitKey auDictRefused (pathCode a.path * 4096 + auditOrigin a.path a.org))
      { type := auDictRefused, result := result, path := a.path, org := a.org, idx := a.idx, sub := a.sub,
        new := if write then a.value % 2 ^ 64 else 0, detail := step, trunc := write && decide (a.len > 8) }
    rw [h]
    exact ⟨_, _, _, _, _, rfl⟩
  · exact ⟨_, _, _, _, _, rfl⟩

@[simp] theorem dictRefuse_out_head : (dictRefuse b a write result step).out.head? = some (.dict a.path a.org a.tag result []) := by
  obtain ⟨_, _, _, _, _, h⟩ := dictRefuse_eq b a write result step
  rw [h, winDone_out]; rfl
@[simp] theorem dictRefuse_dictQ : (dictRefuse b a write result step).regs.dictQ = b.regs.dictQ := by
  obtain ⟨_, _, _, _, _, h⟩ := dictRefuse_eq b a write result step
  rw [h, winDone_dictQ]; rfl
@[simp] theorem dictRefuse_q : (dictRefuse b a write result step).q = b.q := by
  obtain ⟨_, _, _, _, _, h⟩ := dictRefuse_eq b a write result step
  rw [h, winDone_q]; rfl

end

/-! ## Reads and descriptions (R406, R411, R412) -/

section
variable {b : Block} {a : DictAcc} {d : Desc}

theorem dictReadOp_refused {e : Nat × Nat} (h : readCheck b a true = some e) : dictReadOp b a = dictRefuse b a false e.1 e.2 := by
  simp [dictReadOp, h]

theorem dictReadOp_answered (h : readCheck b a true = none) (hd : dictDesc a.idx a.sub = some d) : dictReadOp b a =
    winDone (dictReply b a drOk (leBytes d.bytes (dictValue b a.idx a.sub % 2 ^ (8 * d.bytes)))) a
      (dictValue b a.idx a.sub % 2 ^ (8 * d.bytes)) (winStatus drOk d.type 0 false false d.bytes) := by
  simp [dictReadOp, h, hd]

theorem infoFlags_eq (cal cov : Bool) : packFields [(0, 1, b2n cal), (1, 1, b2n cov)] = b2n cal + 2 * b2n cov := by
  cases cal <;> cases cov <;> decide

theorem dictInfoOp_answered (h : readCheck b a false = none) (hd : dictDesc a.idx a.sub = some d) : dictInfoOp b a =
    winDone (emit b (.info a.path a.org a.tag d.type d.access (b2n d.cal + 2 * b2n (isCovered d a.idx a.sub)) d.bytes d.dflt)) a d.dflt
      (winStatus drOk d.type d.access d.cal (isCovered d a.idx a.sub) d.bytes) := by
  simp [dictInfoOp, h, hd, infoFlags_eq]

end

/-! ## The check of a write (R407) -/

theorem writeCheck_congr {b c : Block} (hmic : c.mic = b.mic) (howner : ∀ p, ownerMode c p = ownerMode b p) (a : DictAcc) :
    writeCheck c a = writeCheck b a := by
  simp only [writeCheck, ready, mayWrite, mayWriteP, isPrivileged, hmic, howner]

theorem ownerMode_congr {b c : Block} (h : c.dict = b.dict) (p : Nat) : ownerMode c p = ownerMode b p := dget_congr h _ _

theorem dget_dput_ne {b : Block} {i k j l : Nat} (v : Nat) (h : dkey j l ≠ dkey i k) : dget (dput b i k v) j l = dget b j l := by
  rw [dget, dput, fmGet?_fmSet_ne _ _ h]; rfl

theorem writeCheck_ctlResult (b : Block) (r : Nat) (a : DictAcc) : writeCheck (ctlResult b r) a = writeCheck b a :=
  writeCheck_congr (b := b) (c := ctlResult b r) rfl (fun p => (dget_dput_ne r (by unfold dkey; omega) :
    dget (dput b 0x3041 4 r) 0x2000 (0x11 + p % 4) = dget b 0x2000 (0x11 + p % 4))) a

/-! ## What a write settles (R128, R245, R246, R308) -/

theorem settleBucket_eq (b : Block) (i k : Nat) : ∃ bkt cap, settleBucket b i k = { b with bkt := bkt, cap := cap } := by
  unfold settleBucket
  split
  · exact ⟨_, _, rfl⟩
  · split
    · exact ⟨_, _, rfl⟩
    · split <;> exact ⟨_, _, rfl⟩

theorem settleBucket_self (b : Block) {i : Nat} (k : Nat) (h : ¬ (0x3100 ≤ i ∧ i ≤ 0x311F)) (h' : i ≠ 0x3030) : settleBucket b i k = b := by
  unfold settleBucket
  rw [if_neg (fun hb => h ⟨hb.1, hb.2.1⟩), if_neg (fun hb => h ⟨hb.1, hb.2.1⟩), if_neg (fun hb => h' hb.1)]

theorem settleQuota_eq (b : Block) (i k : Nat) : ∃ quota, settleQuota b i k = { b with sb := { b.sb with quota := quota } } := by
  have kept (l : List Nat) (b : Block) : ∃ quota, l.foldl (fun b p => quotaNote b p false) b = { b with sb := { b.sb with quota := quota } } := by
    induction l generalizing b with
    | nil => exact ⟨_, rfl⟩
    | cons p ps ih =>
      obtain ⟨_, h⟩ := ih (quotaNote b p false)
      exact ⟨_, h⟩
  unfold settleQuota
  split
  · exact kept _ _
  · exact ⟨_, rfl⟩

theorem settleQuota_self (b : Block) {i k : Nat} (h : (i, k) ≠ (0x2030, 3)) : settleQuota b i k = b :=
  if_neg (fun hq => h (Prod.ext hq.1 hq.2))

theorem settleTestCmd_self (b : Block) {i k : Nat} (h : ¬ (0x5010 ≤ i ∧ i ≤ 0x5015 ∧ k = 7)) : settleTestCmd b i k = b := if_neg h

/-- Entries of `TEST_CMD` are command entries. -/
theorem settleTestCmd_of_not_cmd (b : Block) {i k : Nat} (h : isCmdEntry i k = false) : settleTestCmd b i k = b := by
  refine settleTestCmd_self b fun ⟨hlo, hhi, hk⟩ => ?_
  simp [isCmdEntry, hlo, hhi, hk] at h

theorem linkOf_testRelease {b : Block} {p : Nat} (h : (linkOf b p).state = 6) :
    linkOf (testRelease b p) p = { linkOf b p with state := idleState b p, downs := [] } := by
  rw [testRelease, if_pos h, linkOf, putLink, fmGet?_fmSet_self]; rfl

/-! ## A write of an entry without a row of its own -/

section
variable {b : Block} {a : DictAcc}

theorem dictWriteOp_refused {e : Nat × Nat} (h : writeCheck b a = some e) (hctl : ¬ (a.idx = 0x3041 ∧ a.sub = 3 ∧ e.1 = 0x04)) :
    dictWriteOp b a = act (dictRefuse b a true e.1 e.2) := by
  have hself : ctlReserved b a = b := if_neg (by simpa [h, drRange, and_assoc] using hctl)
  simp [dictWriteOp, h, hself, dictWrite]

/-- A reserved `CTL_CMD` sets `CTL_RESULT` too (R294). -/
theorem dictWriteOp_ctl {e : Nat × Nat} (h : writeCheck b a = some e) (hctl : a.idx = 0x3041 ∧ a.sub = 3 ∧ e.1 = 0x04) :
    dictWriteOp b a = act (dictRefuse (dput b 0x3041 4 (1 + Config.ctlRefused (a.value % 256) % 4)) a true e.1 e.2) := by
  have hset : ctlReserved b a = ctlResult b (1 + Config.ctlRefused (a.value % 256) % 4) :=
    if_pos (by simpa [h, drRange, and_assoc] using hctl)
  simp only [dictWriteOp, h, hset, dictWrite, writeCheck_ctlResult]
  rfl

variable {d : Desc}

theorem dictWriteOp_condition {e : Nat × Nat} (hd : dictDesc a.idx a.sub = some d) (h : writeCheck b a = none)
    (hcond : entryCond b a.idx a.sub (writeValue a d) = some e) : dictWriteOp b a = act (dictRefuse b a true e.1 e.2) := by
  have hself : ctlReserved b a = b := if_neg (by simp [h])
  simp [dictWriteOp, h, hd, hcond, hself, dictWrite]

theorem dictWriteOp_accepted (hd : dictDesc a.idx a.sub = some d) (h : writeCheck b a = none)
    (hcond : entryCond b a.idx a.sub (writeValue a d) = none) : dictWriteOp b a =
    act (settleTestCmd (settleQuota (settleBucket (dictStore (settleBucket b a.idx a.sub) a d) a.idx a.sub) a.idx a.sub) a.idx a.sub) := by
  obtain ⟨_, _, hbkt⟩ := settleBucket_eq b a.idx a.sub
  have hcheck : writeCheck (settleBucket b a.idx a.sub) a = none := by
    rw [← h]
    exact writeCheck_congr (by rw [hbkt]) (fun p => ownerMode_congr (by rw [hbkt]) p) a
  simp [dictWriteOp, h, hd, hcond, dictWrite, hcheck]

theorem dictWriteOp_stores (hd : dictDesc a.idx a.sub = some d) (h : writeCheck b a = none)
    (hcond : entryCond b a.idx a.sub (writeValue a d) = none) (hbucket : ¬ (0x3100 ≤ a.idx ∧ a.idx ≤ 0x311F)) (hcap : a.idx ≠ 0x3030)
    (hquota : (a.idx, a.sub) ≠ (0x2030, 3)) (htest : ¬ (0x5010 ≤ a.idx ∧ a.idx ≤ 0x5015 ∧ a.sub = 7)) :
    dictWriteOp b a = act (dictStore b a d) := by
  rw [dictWriteOp_accepted hd h hcond, settleBucket_self _ _ hbucket hcap, settleBucket_self _ _ hbucket hcap, settleQuota_self _ hquota,
    settleTestCmd_self _ htest]

/-- Whatever it settles, an accepted write of an entry that is no command leaves the value, and its answer stands last. -/
theorem dictWriteOp_value (hd : dictDesc a.idx a.sub = some d) (h : writeCheck b a = none)
    (hcond : entryCond b a.idx a.sub (writeValue a d) = none) (hcmd : isCmdEntry a.idx a.sub = false) : ∃ c, dictWriteOp b a = act c ∧
    dget c a.idx a.sub = writeValue a d ∧ c.out.head? = some (.dict a.path a.org a.tag 0 []) := by
  refine ⟨_, dictWriteOp_accepted hd h hcond, ?_⟩
  rw [settleTestCmd_of_not_cmd _ hcmd]
  obtain ⟨_, _, hbkt⟩ := settleBucket_eq (dictStore (settleBucket b a.idx a.sub) a d) a.idx a.sub
  rw [hbkt]
  obtain ⟨_, hquota⟩ := settleQuota_eq { dictStore (settleBucket b a.idx a.sub) a d with bkt := _, cap := _ } a.idx a.sub
  rw [hquota]
  exact ⟨dget_dictStore_self _ a d hcmd, dictStore_out_head _ a d⟩

/-- A write of `TEST_CMD` that starts and ends no test releases a held port (R308). -/
theorem dictWriteOp_testCmd {p : Nat} (hd : dictDesc a.idx a.sub = some d) (h : writeCheck b a = none)
    (hcond : entryCond b a.idx a.sub (writeValue a d) = none) (hp : p < 6) (hi : a.idx = 0x5010 + p) (hk : a.sub = 7) :
    dictWriteOp b a = act (testRelease (dictStore b a d) p) := by
  have htest : 0x5010 ≤ a.idx ∧ a.idx ≤ 0x5015 ∧ a.sub = 7 := ⟨by omega, by omega, hk⟩
  rw [dictWriteOp_accepted hd h hcond, settleBucket_self _ _ (by omega) (by omega), settleBucket_self _ _ (by omega) (by omega),
    settleQuota_self _ (fun hq => absurd (congrArg Prod.fst hq) (by dsimp only; omega)), settleTestCmd, if_pos htest, hi,
    Nat.add_sub_cancel_left]

end

end Sys2Proof.Machine
end

section
/-! PROOFS. The enabling of admin queues (R96), and the operations of the dictionary that waited for its end (R408). -/

namespace Sys2Proof.Machine

open Sys2Proof

/-! ## Admin queue pairs -/

@[simp] theorem fmGet?_fmMod_self {α : Type} (m : FMap α) (k : Nat) (f : α → α) : fmGet? (fmMod m k f) k = (fmGet? m k).map f := by
  induction m with
  | nil => rfl
  | cons x xs ih =>
    obtain ⟨j, v⟩ := x
    by_cases hj : j = k
    · simp [fmMod, fmGet?, hj]
    · simpa [fmMod, fmGet?, hj] using ih

theorem aqOf_congr {b c : Block} (h : c.q.aqs = b.q.aqs) (p : Nat) : aqOf c p = aqOf b p := by rw [aqOf, h]; rfl

@[simp] theorem aqOf_putAq (b : Block) (p : Nat) (x : Aq) : aqOf (putAq b p x) p = some x := fmGet?_fmSet_self _ _ _

@[simp] theorem aqOf_putSq (b : Block) (p : Nat) (s : Sq) : aqOf (putSq b (.aq p) s) p = (aqOf b p).map (fun a => { a with sq := s }) :=
  fmGet?_fmMod_self b.q.aqs p fun a => { a with sq := s }

@[simp] theorem aqOf_putCq (b : Block) (p : Nat) (c : Cq) : aqOf (putCq b (.aq p) c) p = (aqOf b p).map (fun a => { a with cq := c }) :=
  fmGet?_fmMod_self b.q.aqs p fun a => { a with cq := c }

/-- What the write-backs and the completions of an admin queue pair leave: whether it is enabled, the enable that is under way, and the
place and state of its submission half. -/
def aqRun (b : Block) (p : Nat) : Option (Bool × Option DictAcc × BitVec 32 × BitVec 32 × SqState) :=
  (aqOf b p).map (fun x => (x.enabled, x.enabling, x.sq.consumer, x.sq.producer, x.sq.st))

theorem aqRun_congr {b c : Block} (h : c.q.aqs = b.q.aqs) (p : Nat) : aqRun c p = aqRun b p := by rw [aqRun, aqOf_congr h]; rfl

theorem aqRun_putCq (b : Block) (p : Nat) (c : Cq) : aqRun (putCq b (.aq p) c) p = aqRun b p := by
  rw [aqRun, aqOf_putCq, aqRun]
  cases aqOf b p <;> rfl

theorem aqRun_sqWriteback (b : Block) (p : Nat) : aqRun (sqWriteback b (.aq p)) p = aqRun b p := by
  unfold sqWriteback sqOf
  cases h : aqOf b p with
  | none => simp only [aqOf] at h; simp [h]
  | some x =>
    simp only [aqOf] at h
    simp only [h, Option.map_some]
    refine (aqRun_congr (b := putSq b (.aq p) { x.sq with sinceWb := 0 }) (by rw [hostAcc_q]; rfl) p).trans ?_
    rw [aqRun, aqOf_putSq, aqRun, aqOf, h]
    rfl

@[simp] theorem cqWriteback_q (b : Block) (r : QRef) : (cqWriteback b r).q = b.q := by
  unfold cqWriteback
  split
  · rfl
  · rw [hostAcc_q]; rfl

theorem aqRun_cqWriteEntry (b : Block) (p : Nat) (c : Cq) (e : BitVec 256) : aqRun (cqWriteEntry b (.aq p) c e) p = aqRun b p := by
  unfold cqWriteEntry
  dsimp only
  refine (aqRun_congr (by rw [cqWriteback_q]) p).trans ((aqRun_putCq _ p _).trans (aqRun_congr ?_ p))
  simp [noteStamp, wr]

theorem raiseInt_aqs (b : Block) (port fn vector : Nat) : (raiseInt b port fn vector).q.aqs = b.q.aqs := by
  unfold raiseInt; dsimp only; split <;> rfl

theorem aqRun_adminWriteOne (b : Block) (p : Nat) : aqRun (adminWriteOne b p) p = aqRun b p := by
  unfold adminWriteOne
  split
  · rfl
  · split
    · rfl
    · split
      · refine (aqRun_congr (raiseInt_aqs _ _ _ _) p).trans ((aqRun_cqWriteEntry _ p _ _).trans ?_)
        split
        · rfl
        · exact aqRun_sqWriteback b p
      · rfl

theorem aqRun_adminFlush (b : Block) (p : Nat) : aqRun (adminFlush b p) p = aqRun b p := by
  unfold adminFlush
  split
  · rfl
  · exact foldl_keeps (fun b => aqRun b p) (fun b _ => aqRun_adminWriteOne b p) _ b

/-! ## The start of an admin queue pair (R96) -/

/-- The block once the fetch requests of the time before the pair was stopped have been given up. -/
def fetchesGivenUp (b : Block) (p : Nat) : Block :=
  match aqOf b p with
  | some a => giveUpFetches b (.aq p) a.sq true
  | none => b

/-- The block once both halves of the pair have been configured anew and written. -/
def aqWritten (b : Block) (p : Nat) (producer : BitVec 32) : Block :=
  let held := ((aqOf b p).map (fun a => a.cq.aHold)).getD []
  let c := fetchesGivenUp b p
  cqWriteback (sqWriteback (putAq c p { enabled := true, enabling := none, sq := aqSq c p producer, cq := aqCq c p held }) (.aq p)) (.aq p)

theorem aqStart_eq (b : Block) (p : Nat) (producer : BitVec 32) : aqStart b p producer = adminFlush
    { aqWritten b p producer with adm := { (aqWritten b p producer).adm with everEnabled := true } } p := rfl

theorem fetchesGivenUp_regs (b : Block) (p : Nat) : (fetchesGivenUp b p).regs = b.regs := by
  unfold fetchesGivenUp; split <;> rfl

theorem aqWritten_regs (b : Block) (p : Nat) (producer : BitVec 32) : (aqWritten b p producer).regs = b.regs :=
  ((writesBack_sqWriteback _ _).trans (writesBack_cqWriteback _ _)).regs.trans (fetchesGivenUp_regs b p)

theorem aqRun_aqWritten (b : Block) (p : Nat) (producer : BitVec 32) :
    aqRun (aqWritten b p producer) p = some (true, none, producer, producer, .active) := by
  unfold aqWritten
  refine (aqRun_congr (by rw [cqWriteback_q]) p).trans ((aqRun_sqWriteback _ p).trans ?_)
  rw [aqRun, aqOf_putAq]; rfl

/-- An enabled queue pair is active at the `PRODUCER` that was read, and some queue has been enabled. -/
theorem aqStart_spec (b : Block) (p : Nat) (producer : BitVec 32) : (aqStart b p producer).adm.everEnabled = true ∧
    (aqStart b p producer).regs = b.regs ∧ aqRun (aqStart b p producer) p = some (true, none, producer, producer, .active) := by
  rw [aqStart_eq, aqRun_adminFlush, (writesBack_adminFlush _ p).adm, (writesBack_adminFlush _ p).regs]
  exact ⟨rfl, aqWritten_regs b p producer, aqRun_aqWritten b p producer⟩

/-! ## The end of the reads (R96, R408) -/

/-- The window that read `BUSY` changes, and nothing else. -/
theorem keepWindow_eq (was now : Block) (a : DictAcc) (data : Bool) : ∃ wins,
    keepWindow was now a data = { now with regs := { now.regs with wins := wins } } := by
  unfold keepWindow
  split <;> exact ⟨_, rfl⟩

section
variable {b : Block} {p : Nat} {q : Aq} {a : DictAcc} {d : Desc} {producer consumer : BitVec 32}

theorem aqReadDone_starts (hq : aqOf b p = some q) (ha : q.enabling = some a) (hd : dictDesc a.idx a.sub = some d) :
    aqReadDone b p true producer 0 =
      keepWindow b (aqStart (dictStore (putAq b p { q with enabling := none }) a d) p producer) a false := by
  simp [aqReadDone, hq, ha, hd]

theorem aqReadDone_refuses {ok : Bool} (hq : aqOf b p = some q) (ha : q.enabling = some a) (hno : (ok && decide (consumer = 0)) = false) :
    aqReadDone b p ok producer consumer = keepWindow b (dictRefuse (putAq b p { q with enabling := none }) a true drState 7) a false := by
  simp only [aqReadDone, hq, ha, hno, Bool.false_eq_true, if_false]

/-- A refused enable leaves the pair as it was, with none under way. -/
theorem aqReadDone_refused {ok : Bool} (hq : aqOf b p = some q) (ha : q.enabling = some a) (hno : (ok && decide (consumer = 0)) = false) :
    (aqReadDone b p ok producer consumer).q = (putAq b p { q with enabling := none }).q ∧
      (aqReadDone b p ok producer consumer).regs.dictQ = b.regs.dictQ ∧
      (aqReadDone b p ok producer consumer).out.head? = some (.dict a.path a.org a.tag 0x05 []) := by
  rw [aqReadDone_refuses hq ha hno]
  obtain ⟨_, hkeep⟩ := keepWindow_eq b (dictRefuse (putAq b p { q with enabling := none }) a true drState 7) a false
  rw [hkeep]
  exact ⟨dictRefuse_q _ _ _ _ _, dictRefuse_dictQ _ _ _ _ _, dictRefuse_out_head _ _ _ _ _⟩

theorem aqReadDone_started (hq : aqOf b p = some q) (ha : q.enabling = some a) (hd : dictDesc a.idx a.sub = some d) :
    (aqReadDone b p true producer 0).adm.everEnabled = true ∧ (aqReadDone b p true producer 0).regs.dictQ = b.regs.dictQ ∧
      aqRun (aqReadDone b p true producer 0) p = some (true, none, producer, producer, .active) := by
  rw [aqReadDone_starts hq ha hd]
  obtain ⟨hever, hregs, hrun⟩ := aqStart_spec (dictStore (putAq b p { q with enabling := none }) a d) p producer
  obtain ⟨_, hkeep⟩ := keepWindow_eq b (aqStart (dictStore (putAq b p { q with enabling := none }) a d) p producer) a false
  rw [hkeep]
  exact ⟨hever, (congrArg Regs.dictQ hregs).trans (dictStore_dictQ _ a d), hrun⟩

end

/-! ## What waited for the end (R408, R413) -/

/-- The one operation that waited, a bad request, is answered. -/
theorem dictDrain_bad {b : Block} {x : DictAcc} (hwaits : b.regs.dictQ = [{ op := .bad, acc := x }]) (hfree : dictBusy b = false) :
    ∃ c, dictDrain b.regs.dictQ.length b = act c ∧ c.regs.dictQ = [] ∧ c.out.head? = some (.dict x.path x.org x.tag 0x09 []) := by
  let b' : Block := { b with regs := { b.regs with dictQ := [] } }
  obtain ⟨_, hkeep⟩ := keepWindow_eq b' (dictMalformed b' x) x false
  refine ⟨keepWindow b' (dictMalformed b' x) x false, ?_, ?_, ?_⟩
  · simp only [hwaits, List.length_singleton, dictDrain, hfree, Bool.false_eq_true, if_false]
    rfl
  · rw [hkeep]
    exact winDone_dictQ _ _ _ _
  · rw [hkeep]
    exact congrArg List.head? (winDone_out _ _ _ _)

end Sys2Proof.Machine
end

section
/-! PROOFS. The dictionary's operations and MCTP (spec/16_registers_protection.md, spec/17_dictionary.md). -/

namespace Sys2Proof.Machine

open Sys2Proof

/-! ## The rows that write an entry (R32, R96, R420) -/

section
variable {s : State} {a : DictAcc}

theorem exec_dictRead (h : Alive s) : exec (.dictRead a) s =
    .next (s.withBlk (finish (dictTurn s.blk .read a (fun b => act (dictReadOp b a))))) :=
  liftA_alive h fun b => dictTurn b .read a (fun b => act (dictReadOp b a))

theorem exec_dictInfo (h : Alive s) : exec (.dictInfo a) s =
    .next (s.withBlk (finish (dictTurn s.blk .info a (fun b => act (dictInfoOp b a))))) :=
  liftA_alive h fun b => dictTurn b .info a (fun b => act (dictInfoOp b a))

theorem exec_dictBadRequest (h : Alive s) : exec (.dictBadRequest a) s = .next (s.withBlk (dictBad s.blk a)) :=
  lift_of_alive h fun b => dictBad b a

theorem exec_dictWrite (h : Alive s) (hrow : ownRow a = false) : exec (.dictWrite a) s =
    .next (s.withBlk (finish (dictTurn s.blk .write a (fun b => dictWriteOp b a)))) := by
  refine (liftA_alive h fun b => if ownRow a then act b else dictTurn b .write a (fun b => dictWriteOp b a)).trans ?_
  simp only [hrow, Bool.false_eq_true, if_false]

theorem exec_calWrite (h : Alive s) (hcal : calEntries.contains (a.idx, a.sub) = true) : exec (.calWrite a) s =
    .next (s.withBlk (finish (dictTurn s.blk .write a (fun b => dictWriteOp b a)))) := by
  refine (liftA_alive h fun b =>
    if calEntries.contains (a.idx, a.sub) then dictTurn b .write a (fun b => dictWriteOp b a) else act b).trans ?_
  simp only [hcal, if_true]

theorem exec_contextTableBase (h : DictArrives s a) (hi : a.idx = 0x2010) (hk : a.sub = 1) :
    exec (.contextTableBase a) s = .next (s.withBlk (finish (rowWrite (noted s.blk a) a (rowContextTableBase a)))) := by
  refine (liftA_alive h.alive fun b => if (rowContextTableBase a).mine then
    dictTurn b .write a (fun b => rowWrite b a (rowContextTableBase a)) else act b).trans ?_
  simp only [rowContextTableBase, hi, hk, decide_true, Bool.and_self, if_true, dictTurn_free h]

theorem exec_contextTableBase_stores {d : Desc} (h : DictReady s a d) (hi : a.idx = 0x2010) (hk : a.sub = 1) (hctxs : s.blk.obj.ctxs = []) :
    exec (.contextTableBase a) s = .next (s.withBlk (dictStore (noted s.blk a) a d)) := by
  rw [exec_contextTableBase h.arrives hi hk]
  simp [rowWrite, dictWrite, rowContextTableBase, h.checks, h.entry, hctxs, stateIf]

theorem exec_contextTableBase_refuses {d : Desc} (h : DictReady s a d) (hi : a.idx = 0x2010) (hk : a.sub = 1) (hctxs : s.blk.obj.ctxs ≠ []) :
    exec (.contextTableBase a) s = .next (s.withBlk (dictRefuse (noted s.blk a) a true 0x05 7)) := by
  rw [exec_contextTableBase h.arrives hi hk]
  simp [rowWrite, dictWrite, rowContextTableBase, h.checks, hctxs, stateIf, drState]

theorem exec_aqEnable {p : Nat} (h : DictArrives s a) (hp : p < 4) (hi : a.idx = 0x2040 + p) (hk : a.sub = 8) :
    exec (.aqEnable a p) s = .next (s.withBlk (aqEnableWrite (noted s.blk a) a p)) := by
  refine (lift_of_alive h.alive (fun b => if p < 4 ∧ a.idx = 0x2040 + p ∧ a.sub = 8 then
    (dictTurn b .write a (fun b => act (aqEnableWrite b a p))).1 else b)).trans ?_
  simp only [hp, hi, hk, and_self, if_true, dictTurn_free h]
  rfl

end

section
variable {s : State} {p : Nat} {ok : Bool} {producer consumer : BitVec 32} (h : Alive s)
include h

theorem exec_aqEnableReadComplete : exec (.aqEnableReadComplete p ok producer consumer) s = .next (s.withBlk (finish
    (dictDrain (retire (aqReadDone s.blk p ok producer consumer) [.enable p]).regs.dictQ.length
      (retire (aqReadDone s.blk p ok producer consumer) [.enable p])))) :=
  liftA_alive h fun b => dictDrain (retire (aqReadDone b p ok producer consumer) [.enable p]).regs.dictQ.length
    (retire (aqReadDone b p ok producer consumer) [.enable p])

/-- The end of the reads, when no operation waits for it. -/
theorem exec_aqEnableReadComplete_last (hempty : (aqReadDone s.blk p ok producer consumer).regs.dictQ = []) :
    exec (.aqEnableReadComplete p ok producer consumer) s =
      .next (s.withBlk (retire (aqReadDone s.blk p ok producer consumer) [.enable p])) := by
  rw [exec_aqEnableReadComplete h, show (retire (aqReadDone s.blk p ok producer consumer) [.enable p]).regs.dictQ = [] from hempty]
  rfl

end

/-- The calibration entries lie in three objects of their own. -/
theorem idx_of_calEntries {i k : Nat} (h : calEntries.contains (i, k) = true) : 0x7000 ≤ i ∧ i ≤ 0x7002 := by
  have hall : ∀ e ∈ calEntries, 0x7000 ≤ e.1 ∧ e.1 ≤ 0x7002 := by decide
  exact hall (i, k) (List.contains_iff_mem.mp h)

section
variable {b : Block} {a : DictAcc} {d : Desc} {p : Nat} {q : Aq}

theorem aqEnableWrite_stops (hcheck : writeCheck b a = none) (hd : dictDesc a.idx a.sub = some d) (hq : aqOf b p = some q)
    (hon : q.enabled = true) (h0 : a.value % 256 = 0) : aqEnableWrite b a p = putAq (dictStore b a d) p { q with enabled := false } := by
  simp [aqEnableWrite, hcheck, hd, hq, hon, h0]

theorem aqEnableWrite_reads (hcheck : writeCheck b a = none) (hd : dictDesc a.idx a.sub = some d)
    (hoff : ((aqOf b p).getD (aqFresh b p)).enabled = false) (h1 : a.value % 256 ≠ 0) (hcal : b.pwr.calLoaded = true)
    (hgen : b.rcv.genWritten = true) (howner : ownerMode b p ≠ 0) : aqEnableWrite b a p =
      winDone (putAq (hostAcc (hostAcc b true p 0 (dget b (0x2040 + p) 3) 4 false) true p 0
        (dget (hostAcc b true p 0 (dget b (0x2040 + p) 3) 4 false) (0x2040 + p) 4) 4 false) p
        { (aqOf b p).getD (aqFresh b p) with enabling := some a }) a a.value 1 := by
  simp [aqEnableWrite, hcheck, hd, hoff, h1, hcal, hgen, howner]

theorem aqEnableWrite_refuses (hcheck : writeCheck b a = none) (hd : dictDesc a.idx a.sub = some d) (h1 : a.value % 256 ≠ 0)
    (hno : ((aqOf b p).getD (aqFresh b p)).enabled = true ∨ b.pwr.calLoaded = false ∨ b.rcv.genWritten = false ∨ ownerMode b p = 0) :
    aqEnableWrite b a p = dictRefuse b a true drState 7 := by
  have hno' : (((aqOf b p).getD (aqFresh b p)).enabled || !b.pwr.calLoaded || !b.rcv.genWritten || decide (ownerMode b p = 0)) = true := by
    simpa [or_assoc] using hno
  simp only [aqEnableWrite, hcheck, hd, h1, hno', if_true, if_false]

theorem aqEnabled_of_any (hoff : (aqOf b p).any (fun q => q.enabled) = false) {x : Aq} (hx : x.enabled = false) :
    ((aqOf b p).getD x).enabled = false := by
  cases h : aqOf b p with
  | none => exact hx
  | some y => simpa [h] using hoff

end

/-! ## Bad requests (R407, R411, R413) -/

section
variable {b : Block} {a : DictAcc} (hpath : reachesDict a = true) (htested : b.mic.selftest ≠ 0)
include hpath htested

theorem dictBad_ignored (hbusy : winBusy b a = true) : dictBad b a = cnt (noted b a) cAccessDrop := by
  simp [dictBad, hpath, htested, hbusy]

theorem dictBad_answered (hfree : pathOps b a = 0) : dictBad b a = dictMalformed (noted b a) a := by
  simp [dictBad, hpath, htested, winBusy, hfree]

theorem dictBad_waits (hquiet : winBusy b a = false) (hbusy : pathOps b a ≠ 0) : dictBad b a = dictQueue (noted b a) .bad a := by
  simp [dictBad, hpath, htested, hquiet, hbusy]

end

/-! ## MCTP control messages (R412) -/

section
variable {b : Block} {path : Path} (hpath : mctpPath path = true) (htested : b.mic.selftest ≠ 0)
include hpath htested

theorem mctpAnswer_sent (cmd code : Nat) (data : List Nat) :
    mctpAnswer b path cmd code data = { b with out := .mctp path cmd code data :: b.out } := by
  simp [mctpAnswer, hpath, htested, emit]

theorem setEid_sets {op eid : Nat} (hop : op ≤ 1) (hlo : 8 ≤ eid) (hhi : eid ≤ 0xFE) : setEid b path op eid =
    { b with out := .mctp path 1 0 [0, eid, 0] :: b.out, mgt := { b.mgt with eids := fmSet b.mgt.eids (pathCode path) eid } } := by
  simp [setEid, hpath, htested, hop, hlo, hhi, mctpAnswer, emit]

theorem setEid_refuses {op eid : Nat} (hbad : 1 < op ∨ eid < 8 ∨ 0xFE < eid) :
    setEid b path op eid = { b with out := .mctp path 1 2 [] :: b.out } := by
  have hno : ¬ (mctpPath path && decide (b.mic.selftest ≠ 0) && decide (op ≤ 1) && decide (8 ≤ eid) && decide (eid ≤ 0xFE)) = true := by
    simp only [Bool.and_eq_true, decide_eq_true_eq]
    omega
  rw [setEid, if_neg hno, mctpAnswer_sent hpath htested]

end

/-! ## The parts of the statement -/

/-- A read, a description or a bad request through a busy window is ignored and counted (R411). -/
theorem exec_ignored {s : State} {a : DictAcc} {row : Instr} (halive : Alive s) (htested : s.blk.mic.selftest ≠ 0)
    (hpath : reachesDict a = true) (hbusy : winBusy s.blk a = true) (hrow : row ∈ [Instr.dictRead a, .dictInfo a, .dictBadRequest a]) :
    exec row s = .next (s.withBlk (cnt (noted s.blk a) cAccessDrop)) := by
  simp only [List.mem_cons, List.not_mem_nil, or_false] at hrow
  obtain rfl | rfl | rfl := hrow
  · rw [exec_dictRead halive, dictTurn_ignored hpath htested hbusy, finish_act]
  · rw [exec_dictInfo halive, dictTurn_ignored hpath htested hbusy, finish_act]
  · rw [exec_dictBadRequest halive, dictBad_ignored hpath htested hbusy]

/-- A read, a description or a write that arrives while another operation is under way waits (R408). -/
theorem exec_waits {s : State} {a : DictAcc} {row : Instr} {op : DictOp} (halive : Alive s) (htested : s.blk.mic.selftest ≠ 0)
    (hpath : reachesDict a = true) (hquiet : winBusy s.blk a = false) (hbusy : dictBusy s.blk = true)
    (hrow : (row, op) ∈ [(Instr.dictRead a, DictOp.read), (.dictInfo a, .info)] ∨ (ownRow a = false ∧ (row, op) = (.dictWrite a, .write))) :
    exec row s = .next (s.withBlk (dictQueue (noted s.blk a) op a)) := by
  simp only [List.mem_cons, List.not_mem_nil, or_false, Prod.mk.injEq] at hrow
  obtain (⟨rfl, rfl⟩ | ⟨rfl, rfl⟩) | ⟨hown, rfl, rfl⟩ := hrow
  · rw [exec_dictRead halive, dictTurn_waits hpath htested hquiet hbusy, finish_act]
  · rw [exec_dictInfo halive, dictTurn_waits hpath htested hquiet hbusy, finish_act]
  · rw [exec_dictWrite halive hown, dictTurn_waits hpath htested hquiet hbusy, finish_act]

/-- What an accepted write does (R401, R407, R418, R420). -/
theorem dictStore_spec (b : Block) (a : DictAcc) (d : Desc) :
    (dictStore b a d).out.head? = some (.dict a.path a.org a.tag 0 []) ∧
    (isCmdEntry a.idx a.sub = false → dget (dictStore b a d) a.idx a.sub = writeValue a d) ∧
    (∀ i k, dkey i k ≠ dkey a.idx a.sub → dget (dictStore b a d) i k = dget b i k) ∧
    (dictStore b a d).regs.wgen = (if isCovered d a.idx a.sub then (b.regs.wgen + 1) % 2 ^ 16 else b.regs.wgen) ∧
    (a.idx ≠ 0x9000 → (dictStore b a d).aud.seq = b.aud.seq + 1 ∧ fmGet? (dictStore b a d).aud.ring (b.aud.seq % 4096) =
      some (auditRecord (writeRecord b a d) 1 b.aud.seq (stamp b))) ∧
    (d.cal = true → b.pwr.calLoaded = false → (dictStore b a d).pwr.calLoaded =
      calEntries.all (fun e => decide (dkey e.1 e.2 = dkey a.idx a.sub) || b.pwr.calDone.contains (dkey e.1 e.2))) := by
  refine ⟨dictStore_out_head b a d, dget_dictStore_self b a d, fun i k => dget_dictStore_ne b a d, dictStore_wgen b a d, fun h => ?_,
    fun hcal h => ?_⟩
  · rw [dictStore_aud]; exact recorded_aud d h
  · rw [dictStore_pwr]; exact recorded_calLoaded hcal h

/-- Settles O57: writes by their parts, operations in their turn, the enabling of a queue pair by what its end leaves. -/
theorem dictionaryAccess : Obligations.DictionaryAccess := by
  unfold Obligations.DictionaryAccess
  refine ⟨fun b a d _ => dictStore_spec b a d, ?_, ?_, ?_, ?_, ?_, ?_⟩
  · intro s a h b
    refine ⟨fun e hrow hcheck => ⟨fun hctl => ?_, fun hctl => ?_⟩, fun e hcheck => ?_, fun d hcheck hd => ?_, fun d hcheck hd => ?_,
      fun hfree => ?_, fun hbusy => ?_⟩
    · rw [exec_dictWrite h.alive hrow, dictTurn_free h, dictWriteOp_refused (by simpa using hcheck) hctl, finish_act]
    · rw [exec_dictWrite h.alive hrow, dictTurn_free h, dictWriteOp_ctl (by simpa using hcheck) hctl, finish_act]
    · rw [exec_dictRead h.alive, dictTurn_free h, finish_act, dictReadOp_refused (by simpa using hcheck)]
    · rw [exec_dictRead h.alive, dictTurn_free h, finish_act, dictReadOp_answered (by simpa using hcheck) hd]
      rfl
    · rw [exec_dictInfo h.alive, dictTurn_free h, finish_act, dictInfoOp_answered (by simpa using hcheck) hd]
      rfl
    · rw [exec_dictBadRequest h.alive, dictBad_answered h.path h.tested hfree]
      rfl
    · rw [exec_dictBadRequest h.alive, dictBad_waits h.path h.tested h.quiet hbusy]
  · intro s a halive htested hpath
    refine ⟨fun hbusy row hrow => ?_, fun hquiet hbusy hroom row op hrow => ?_⟩
    · exact gives_withBlk (exec_ignored halive htested hpath hbusy hrow) ⟨by simp, by simp, by simp⟩
    · have waits := exec_waits halive htested hpath hquiet hbusy hrow
      obtain ⟨hdictQ, hout, hdict⟩ := dictQueue_waits (b := noted s.blk a) (a := a) op (by simpa using hroom)
      exact gives_withBlk waits ⟨by simpa using hdictQ, by simpa using hout, by simpa using hdict⟩
  · intro s a d h b v refused
    have hcheck : writeCheck b a = none := (writeCheck_noted s.blk a a).trans h.checks
    have hcond : entryCond b a.idx a.sub v = entryCond s.blk a.idx a.sub v := entryCond_noted _ _ _ _ _
    have hpair (p : Nat) : aqOf b p = aqOf s.blk p := aqOf_noted _ _ _
    have hpwr : b.pwr = s.blk.pwr := noted_pwr _ _
    have hrcv : b.rcv = s.blk.rcv := noted_rcv _ _
    have hmode (p : Nat) : ownerMode b p = ownerMode s.blk p := ownerMode_noted _ _ _
    refine ⟨fun hrow hok => ⟨fun hbucket hcap hquota htest => ?_, fun p hp hi hk hstate => ?_, fun hcmd => ?_⟩, fun e hrow hno => ?_,
      fun hcal hok => ?_, fun hi hk => ⟨fun hctxs => ?_, fun hctxs => ?_⟩, fun p hp hi hk => ⟨fun q hq hon => ⟨fun h0 => ?_, fun h1 => ?_⟩,
      fun hoff h1 => ⟨fun hcal hgen howner => ?_, fun hno => ?_⟩⟩⟩
    · rw [exec_dictWrite h.alive hrow, dictTurn_free h.arrives,
        dictWriteOp_stores h.entry hcheck (hcond.trans hok) hbucket hcap hquota htest, finish_act]
    · refine gives_withBlk ((exec_dictWrite h.alive hrow).trans
        (by rw [dictTurn_free h.arrives, dictWriteOp_testCmd h.entry hcheck (hcond.trans hok) hp hi hk, finish_act])) ?_
      have hlink : linkOf (dictStore b a d) p = linkOf b p := by rw [linkOf, dictStore_fab]; rfl
      have hreleased := linkOf_testRelease (b := dictStore b a d) (hlink ▸ hstate)
      rw [hlink] at hreleased
      exact hreleased
    · obtain ⟨c, hact, hvalue, hhead⟩ := dictWriteOp_value h.entry hcheck (hcond.trans hok) hcmd
      exact gives_withBlk ((exec_dictWrite h.alive hrow).trans (by rw [dictTurn_free h.arrives, hact, finish_act])) ⟨hvalue, hhead⟩
    · rw [exec_dictWrite h.alive hrow, dictTurn_free h.arrives, dictWriteOp_condition h.entry hcheck (hcond.trans hno), finish_act]
    · have hidx := idx_of_calEntries hcal
      rw [exec_calWrite h.alive hcal, dictTurn_free h.arrives, dictWriteOp_stores h.entry hcheck (hcond.trans hok) (by omega) (by omega)
        (fun hq => absurd (congrArg Prod.fst hq) (by dsimp only; omega)) (by omega), finish_act]
    · exact exec_contextTableBase_stores h hi hk hctxs
    · exact exec_contextTableBase_refuses h hi hk hctxs
    · rw [exec_aqEnable h.arrives hp hi hk, aqEnableWrite_stops hcheck h.entry ((hpair p).trans hq) hon h0]
    · rw [exec_aqEnable h.arrives hp hi hk, aqEnableWrite_refuses hcheck h.entry h1 (.inl (by rw [hpair, hq]; exact hon))]
      rfl
    · rw [exec_aqEnable h.arrives hp hi hk, aqEnableWrite_reads hcheck h.entry (aqEnabled_of_any (hpair p ▸ hoff) rfl) h1
        (hpwr ▸ hcal) (hrcv ▸ hgen) (hmode p ▸ howner), hpair]
    · rw [exec_aqEnable h.arrives hp hi hk, aqEnableWrite_refuses hcheck h.entry h1 (.inr (by rw [hpwr, hrcv, hmode]; exact hno))]
      rfl
  · intro s p q a d producer consumer halive hq ha hd
    refine ⟨fun x hwaits haqs => ?_, fun hempty => ⟨?_, fun hconsumer => ?_, ?_⟩⟩
    · obtain ⟨hpair, hdictQ, -⟩ := aqReadDone_refused (ok := false) (producer := producer) (consumer := consumer) hq ha rfl
      have hfree : dictBusy (retire (aqReadDone s.blk p false producer consumer) [.enable p]) = false := by
        simp [dictBusy, retire, hpair, putAq, haqs, fmSet]
      obtain ⟨c, hact, hdone, hhead⟩ := dictDrain_bad (b := retire (aqReadDone s.blk p false producer consumer) [.enable p])
        (hdictQ.trans hwaits) hfree
      exact gives_withBlk ((exec_aqEnableReadComplete halive).trans (by rw [hact, finish_act])) ⟨hdone, hhead⟩
    · obtain ⟨hever, hdictQ, hrun⟩ := aqReadDone_started (producer := producer) hq ha hd
      exact gives_withBlk (exec_aqEnableReadComplete_last halive (hdictQ.trans hempty)) ⟨hever, hrun⟩
    · have hno : (true && decide (consumer = 0)) = false := by simpa using hconsumer
      obtain ⟨hpair, hdictQ, hhead⟩ := aqReadDone_refused (producer := producer) hq ha hno
      refine gives_withBlk (exec_aqEnableReadComplete_last halive (hdictQ.trans hempty)) ⟨?_, hhead⟩
      exact (aqOf_congr (congrArg Queues.aqs hpair) p).trans (aqOf_putAq _ _ _)
    · obtain ⟨hpair, hdictQ, hhead⟩ := aqReadDone_refused (ok := false) (producer := producer) (consumer := consumer) hq ha rfl
      refine gives_withBlk (exec_aqEnableReadComplete_last halive (hdictQ.trans hempty)) ⟨?_, hhead⟩
      exact (aqOf_congr (congrArg Queues.aqs hpair) p).trans (aqOf_putAq _ _ _)
  · intro s path halive htested hpath
    have hmctp : mctpPath path = true := by obtain rfl | rfl := hpath <;> rfl
    refine ⟨fun op eid hop hlo hhi => ?_, fun op eid hbad => ?_, ?_, fun type htype => ?_, fun type h0 h1 h2 => ?_, ?_, fun cmd hcmd => ?_⟩
    · refine (lift_of_alive halive fun b => setEid b path op eid).trans ?_
      rw [setEid_sets hmctp htested hop hlo hhi]
    · refine (lift_of_alive halive fun b => setEid b path op eid).trans ?_
      rw [setEid_refuses hmctp htested hbad]
    · refine (lift_of_alive halive fun b => mctpAnswer b path 2 0 [eidOf b path, 0, 0]).trans ?_
      rw [mctpAnswer_sent hmctp htested]
      rfl
    · refine (lift_of_alive halive fun b => if type = 0xFF ∨ type = 0 ∨ type = 0x7F then
        mctpAnswer b path 4 0 (Config.mctpVersions type) else mctpAnswer b path 4 0x80 []).trans ?_
      rw [if_pos htype, mctpAnswer_sent hmctp htested]
    · refine (lift_of_alive halive fun b => if type = 0xFF ∨ type = 0 ∨ type = 0x7F then
        mctpAnswer b path 4 0 (Config.mctpVersions type) else mctpAnswer b path 4 0x80 []).trans ?_
      rw [if_neg (by simp [h0, h1, h2]), mctpAnswer_sent hmctp htested]
    · refine (lift_of_alive halive fun b => mctpAnswer b path 5 0 [1, 0x7F]).trans ?_
      rw [mctpAnswer_sent hmctp htested]
    · refine (lift_of_alive halive fun b => if cmd = 1 ∨ cmd = 2 ∨ cmd = 4 ∨ cmd = 5 then b else mctpAnswer b path cmd 5 []).trans ?_
      rw [if_neg (by simpa using hcmd), mctpAnswer_sent hmctp htested]
  · intro s k q l halive hnotify
    refine (lift_of_alive halive notifySend).trans ?_
    simp only [notifySend, hnotify]
    rfl

end Sys2Proof.Machine
end

section
/-! PROOFS. The rules of queues (spec/03_queues.md): what a queue reads after it has been replaced, written back or set to a state, and what
the reads of a driver index do (R68, R80, R81). -/

namespace Sys2Proof.Machine

open Sys2Proof

/-! ## Queues replaced -/

theorem fmMod_fmMod {α : Type} (m : FMap α) (k : Nat) (f g : α → α) : fmMod (fmMod m k f) k g = fmMod m k fun a => g (f a) := by
  simp only [fmMod, List.map_map]
  refine List.map_congr_left fun p _ => ?_
  by_cases hp : p.1 = k <;> simp [hp]

@[simp] theorem putSq_putSq (b : Block) (r : QRef) (x y : Sq) : putSq (putSq b r x) r y = putSq b r y := by
  cases r <;> simp [putSq, fmMod_fmMod]

@[simp] theorem sqOf_putSq_q (b : Block) (n : Nat) (y : Sq) : sqOf (putSq b (.q n) y) (.q n) = some y := fmGet?_fmSet_self _ _ _

theorem sqOf_putSq {b : Block} {r : QRef} {x : Sq} (h : sqOf b r = some x) (y : Sq) : sqOf (putSq b r y) r = some y := by
  cases r with
  | q n => exact sqOf_putSq_q b n y
  | aq p =>
    obtain ⟨a, ha, -⟩ := Option.map_eq_some_iff.mp h
    simp [sqOf, putSq, ha]

@[simp] theorem cqOf_putCq_q (b : Block) (m : Nat) (c : Cq) : cqOf (putCq b (.q m) c) (.q m) = some c := fmGet?_fmSet_self _ _ _

theorem cqOf_putCq {b : Block} {r : QRef} {c : Cq} (h : cqOf b r = some c) (d : Cq) : cqOf (putCq b r d) r = some d := by
  cases r with
  | q m => exact cqOf_putCq_q b m d
  | aq p =>
    obtain ⟨a, ha, -⟩ := Option.map_eq_some_iff.mp h
    simp [cqOf, putCq, ha]

theorem sqOf_congr {a b : Block} (h : a.q = b.q) (r : QRef) : sqOf a r = sqOf b r := by
  cases r <;> simp only [sqOf, h]
theorem cqOf_congr {a b : Block} (h : a.q = b.q) (r : QRef) : cqOf a r = cqOf b r := by
  cases r <;> simp only [cqOf, h]

@[simp] theorem sqOf_noteSteps (a b : Block) (r : QRef) : sqOf (noteSteps a b) r = sqOf b r := rfl
@[simp] theorem cqOf_noteSteps (a b : Block) (r : QRef) : cqOf (noteSteps a b) r = cqOf b r := rfl
@[simp] theorem sqOf_retire (b : Block) (l : List Access) (r : QRef) : sqOf (retire b l) r = sqOf b r := rfl
@[simp] theorem cqOf_retire (b : Block) (l : List Access) (r : QRef) : cqOf (retire b l) r = cqOf b r := rfl
@[simp] theorem sqOf_hostAcc (b : Block) (host : Bool) (port fn addr len : Nat) (write : Bool) (r : QRef) :
    sqOf (hostAcc b host port fn addr len write) r = sqOf b r := sqOf_congr (hostAcc_q _ _ _ _ _ _ _) r
@[simp] theorem cqOf_hostAcc (b : Block) (host : Bool) (port fn addr len : Nat) (write : Bool) (r : QRef) :
    cqOf (hostAcc b host port fn addr len write) r = cqOf b r := cqOf_congr (hostAcc_q _ _ _ _ _ _ _) r
@[simp] theorem bktTakeAll_q (b : Block) (p : Nat) (l : List (Nat × Nat)) : (bktTakeAll b p l).q = b.q := by rw [bktTakeAll_eq]
@[simp] theorem sqOf_bktTakeAll (b : Block) (p : Nat) (l : List (Nat × Nat)) (r : QRef) : sqOf (bktTakeAll b p l) r = sqOf b r :=
  sqOf_congr (bktTakeAll_q b p l) r

/-! ## Write-backs (R66, R68) -/

theorem WritesBack.clock {a b : Block} (h : WritesBack a b) : b.tide.clock = a.tide.clock := by obtain ⟨_, _, _, _, _, rfl⟩ := h; rfl
theorem WritesBack.aud {a b : Block} (h : WritesBack a b) : b.aud = a.aud := by obtain ⟨_, _, _, _, _, rfl⟩ := h; rfl

/-- A write-back counts its queue's entries anew, and changes no queue otherwise. -/
theorem sqWriteback_queues {b : Block} {r : QRef} {x : Sq} (h : sqOf b r = some x) :
    (sqWriteback b r).q = (putSq b r { x with sinceWb := 0 }).q := by
  simp only [sqWriteback, h]
  cases r with
  | aq p => exact hostAcc_q _ _ _ _ _ _ _
  | q n => dsimp only; split <;> exact hostAcc_q _ _ _ _ _ _ _

theorem sqOf_sqWriteback {b : Block} {r : QRef} {x : Sq} (h : sqOf b r = some x) :
    sqOf (sqWriteback b r) r = some { x with sinceWb := 0 } :=
  (sqOf_congr (sqWriteback_queues h) r).trans (sqOf_putSq h _)

theorem sqOf_sqSetState {b : Block} {r : QRef} {x : Sq} (h : sqOf b r = some x) (st : SqState) :
    sqOf (sqSetState b r st) r = some { x with st := st, lastEvent := stamp b, sinceWb := 0 } := by
  simp only [sqSetState, h]
  exact sqOf_sqWriteback (sqOf_putSq h _)

theorem writesBack_sqSetState (b : Block) (r : QRef) (st : SqState) : WritesBack b (sqSetState b r st) := by
  unfold sqSetState
  cases sqOf b r with
  | none => exact .refl b
  | some x => exact (writesBack_putSq _ _ _).trans (writesBack_sqWriteback _ _)

/-- The state of a submission queue is no completion queue's. -/
theorem sqSetState_cqs {b : Block} {r : QRef} {x : Sq} (h : sqOf b r = some x) (st : SqState) : (sqSetState b r st).q.cqs = b.q.cqs := by
  simp only [sqSetState, h]
  rw [sqWriteback_queues (sqOf_putSq h _)]
  cases r <;> rfl

/-! ## Reads of `PRODUCER` (R80, R81) -/

/-- The block once a `PRODUCER` read of queue `x` has been issued: in flight from now on, charged, and the poll interval begins anew if a
doorbell has caused it. -/
def readIssued (b : Block) (r : QRef) (x : Sq) : Block :=
  let y := { x with rd := .flying b.tide.clock false, rung := false,
                    nextPoll := if x.rung then b.tide.clock + x.pollUs * 1000 else x.nextPoll }
  bktTakeAll (hostAcc (putSq b r y) x.qcbHost x.hostPort x.ownerFn x.qcbAddr 4 false) x.part (sqCharge r x x.qcbHost 4)

theorem sqOf_readIssued {b : Block} {r : QRef} {x : Sq} (h : sqOf b r = some x) (y : Sq) : sqOf (readIssued b r y) r =
    some { y with rd := .flying b.tide.clock false, rung := false,
                  nextPoll := if y.rung then b.tide.clock + y.pollUs * 1000 else y.nextPoll } := by
  rw [readIssued, sqOf_bktTakeAll, sqOf_hostAcc]
  exact sqOf_putSq h _

/-- The buckets of a block do not depend on its queues. -/
theorem bktPassAll_putSq (b : Block) (r : QRef) (x : Sq) (p : Nat) (lc : Bool) (l : List (Nat × Nat)) :
    bktPassAll (putSq b r x) p lc l = bktPassAll b p lc l := by
  cases r <;> rfl

theorem sqRuns_putSq (b : Block) (r : QRef) (x y : Sq) : sqRuns (putSq b r x) r y = sqRuns b r y := by
  cases r with
  | q n => rfl
  | aq p => simp only [sqRuns, aqOf_putSq]; cases aqOf b p <;> rfl

theorem sqRuns_q {b : Block} {n : Nat} {x : Sq} (hst : x.st = .active) (hdying : x.dying = false) : sqRuns b (.q n) x = true := by
  simp [sqRuns, hst, hdying]

theorem putSq_stage (b : Block) (r : QRef) (x : Sq) : (putSq b r x).rcv.stage = b.rcv.stage := by cases r <;> rfl
theorem putSq_clock (b : Block) (r : QRef) (x : Sq) : (putSq b r x).tide.clock = b.tide.clock := by cases r <;> rfl

section
variable {b : Block} {r : QRef} {x : Sq} (hx : sqOf b r = some x) (hruns : sqRuns b r x = true) (hstage : b.rcv.stage = .idle)
include hx

theorem readWant_wanted (h : x.rd = .wanted) (byRing : Bool) : readWant b r byRing = putSq b r { x with rung := x.rung || byRing } := by
  simp only [readWant, hx, h]

theorem readWant_flying {u : Nat} {again : Bool} (h : x.rd = .flying u again) (byRing : Bool) :
    readWant b r byRing = putSq b r { x with rd := .flying u (again || byRing) } := by
  simp only [readWant, hx, h]

/-- A read of `PRODUCER` asked for leaves the state of its queue alone. -/
theorem readWant_st (byRing : Bool) : (sqOf (readWant b r byRing) r).map (fun y => y.st) = some x.st := by
  have hput (y : Sq) : sqOf (putSq b r y) r = some y := sqOf_putSq hx y
  unfold readWant
  simp only [hx]
  split
  · have hissue : (sqOf (readIssue (putSq b r { x with rd := .wanted, rung := byRing }) r) r).map (fun y => y.st) = some x.st := by
      unfold readIssue
      simp only [hput]
      split
      · rw [sqOf_bktTakeAll, sqOf_hostAcc, putSq_putSq, hput]; rfl
      · rw [hput]; rfl
    split
    · exact hissue
    · exact hissue
  · rw [hput]; rfl
  · rw [hput]; rfl

/-- A `PRODUCER` read that a bucket holds waits, and is counted (R244). -/
theorem readWant_held (hrd : x.rd = .idle) (hpass : bktPassAll b x.part true (sqCharge r x x.qcbHost 4) = false) (byRing : Bool) :
    readWant b r byRing = cnt (putSq b r { x with rd := .wanted, rung := byRing }) cBwHold := by
  have hheld : readIssue (putSq b r { x with rd := .wanted, rung := byRing }) r = putSq b r { x with rd := .wanted, rung := byRing } := by
    have hno := (bktPassAll_putSq b r { x with rd := .wanted, rung := byRing } x.part true (sqCharge r x x.qcbHost 4)).trans hpass
    have hcharge : sqCharge r { x with rd := .wanted, rung := byRing } x.qcbHost 4 = sqCharge r x x.qcbHost 4 := rfl
    simp only [readIssue, sqOf_putSq hx, hcharge, hno, Bool.and_false, Bool.false_and, Bool.false_eq_true, if_false]
  simp only [readWant, hx, hrd]
  rw [hheld, sqOf_putSq hx]
  rfl

include hruns hstage

theorem readIssue_passes (hwant : x.rd = .wanted) (hpass : bktPassAll b x.part true (sqCharge r x x.qcbHost 4) = true) :
    readIssue b r = readIssued b r x := by
  simp only [readIssue, hx, hwant, hruns, hpass, hstage, decide_true, Bool.and_self, if_true]
  rfl

/-- A `PRODUCER` read that no bucket holds is issued at once. -/
theorem readWant_issues (hrd : x.rd = .idle) (hpass : bktPassAll b x.part true (sqCharge r x x.qcbHost 4) = true) (byRing : Bool) :
    readWant b r byRing = readIssued b r { x with rung := byRing } := by
  let y : Sq := { x with rd := .wanted, rung := byRing }
  have hissue : readIssue (putSq b r y) r = readIssued b r { x with rung := byRing } := by
    rw [readIssue_passes (sqOf_putSq hx y) ((sqRuns_putSq b r y y).trans hruns) ((putSq_stage b r y).trans hstage) rfl
      ((bktPassAll_putSq b r y _ _ _).trans hpass)]
    simp only [readIssued, putSq_putSq, putSq_clock, y]
    rfl
  simp only [readWant, hx, hrd]
  rw [hissue, sqOf_readIssued hx]
  rfl

end

/-- Nothing is charged for a `PRODUCER` read in device memory (R64). -/
theorem sqCharge_device (n : Nat) (x : Sq) (k : Nat) : sqCharge (.q n) x false k = [] := rfl

end Sys2Proof.Machine
end

section
/-! PROOFS. Doorbells (spec/03_queues.md, R64, R77 to R81, R86, R93, R97). -/

namespace Sys2Proof.Machine

open Sys2Proof

/-! ## What a doorbell asks for (R77 to R79, R97) -/

/-- An aligned 8-byte write of a doorbell through a host port's view is carried out as the command that it gives. -/
theorem dbRun_doorbell {s : State} {w : DbWrite} {off v : Nat} {t : DbTarget} {a : DbAct} (h : Alive s) (hw : DoorbellWrite w off v)
    (htarget : dbTarget off = some t) (halign : off % 8 = 0) (hcommand : dbCommand s.blk w.org t v = a) (hkept : a ≠ .drop)
    (f : DbAct → Block → Block) : dbRun w f s = .next (s.withBlk (f a s.blk)) := by
  obtain ⟨hpath, hwidth, hoff, hdata, hpriv⟩ := hw
  have horigin : noteOrigin s.blk w.org = s.blk := if_neg (by omega)
  have hdecide : dbDecide s.blk w = a := by
    simp only [dbDecide, hoff, htarget, dbValue, hwidth, halign, if_true, hdata, hcommand]
  unfold dbRun
  refine (lift_of_alive h _).trans ?_
  simp only [hpath, horigin, hdecide]

theorem dbTarget_sq {n : Nat} (h : n < 65536) : dbTarget (0x100000 + 8 * n) = some (.sq n) := by
  have hdiv : (0x100000 + 8 * n - 0x100000) / 8 = n := by omega
  simp only [dbTarget, hdiv]
  exact if_pos (by omega)

theorem dbTarget_cq {m : Nat} (h : m < 16384) : dbTarget (0x040000 + 8 * m) = some (.cq m) := by
  have hdiv : (0x040000 + 8 * m - 0x040000) / 8 = m := by omega
  simp only [dbTarget, hdiv]
  rw [if_neg (by omega), if_pos (by omega)]

section
variable {s : State} {w : DbWrite} {n : Nat} {q : Sq} (h : Alive s) (hn : n < 65536) (hq : fmGet? s.blk.q.sqs n = some q)
  (hport : q.ownerPort = w.org.port % 4) (hfn : q.ownerFn = w.org.fn % 256) (hst : q.st ≠ .halted) (hdying : q.dying = false)
include h hn hq hport hfn hst hdying

/-- RING of a queue by its owner (R79). -/
theorem exec_ring (hw : DoorbellWrite w (0x100000 + 8 * n) 0) : exec (.ring w) s = .next (s.withBlk (sqRing s.blk (.q n))) := by
  change execRing w s = _
  exact dbRun_doorbell h hw (dbTarget_sq hn) (by omega) (a := .ring (.q n))
    (by simp [dbCommand, hq, dbOwns, hport, hfn, sqRings, hst, hdying]) (by simp) _

/-- HOLD_INVALIDATE of a queue by its owner (R79). -/
theorem exec_holdInvalidate (hw : DoorbellWrite w (0x100000 + 8 * n) 1) :
    exec (.holdInvalidate w) s = .next (s.withBlk (sqInvalidate s.blk (.q n))) := by
  change execHoldInvalidate w s = _
  exact dbRun_doorbell h hw (dbTarget_sq hn) (by omega) (a := .hold (.q n))
    (by simp [dbCommand, hq, dbOwns, hport, hfn, sqRings, hst, hdying]) (by simp) _

end

/-- CONSUMED of a queue by its owner (R79). -/
theorem exec_consumed {s : State} {w : DbWrite} {m : Nat} {c : Cq} (h : Alive s) (hm : m < 16384) (hc : fmGet? s.blk.q.cqs m = some c)
    (hport : c.ownerPort = w.org.port % 4) (hfn : c.ownerFn = w.org.fn % 256) (hw : DoorbellWrite w (0x040000 + 8 * m) 0) :
    exec (.consumed w) s = .next (s.withBlk (cqRead s.blk (.q m))) := by
  change execConsumed w s = _
  exact dbRun_doorbell h hw (dbTarget_cq hm) (by omega) (a := .consumed (.q m))
    (by simp [dbCommand, hc, dbOwns, hport, hfn]) (by simp) _

section
variable {s : State} {w : DbWrite} {a : Aq} (h : Alive s) (ha : aqOf s.blk (w.org.port % 4) = some a) (hen : a.enabled = true)
  (hpriv : isPrivileged s.blk (w.org.port % 4) w.org = true)
include h ha hen hpriv

theorem exec_adminSqRing (hst : a.sq.st ≠ .halted) (hw : DoorbellWrite w 0x020000 0) :
    exec (.adminSqRing w) s = .next (s.withBlk (sqRing s.blk (.aq (w.org.port % 4)))) := by
  change execAdminSqRing w s = _
  exact dbRun_doorbell h hw (t := .asq) rfl rfl (a := .ring (.aq (w.org.port % 4)))
    (by simp [dbCommand, ha, hen, hpriv, hst]) (by simp) _

theorem exec_adminSqHoldInvalidate (hst : a.sq.st ≠ .halted) (hw : DoorbellWrite w 0x020000 1) :
    exec (.adminSqHoldInvalidate w) s = .next (s.withBlk (sqInvalidate s.blk (.aq (w.org.port % 4)))) := by
  change execAdminSqHoldInvalidate w s = _
  exact dbRun_doorbell h hw (t := .asq) rfl rfl (a := .hold (.aq (w.org.port % 4)))
    (by simp [dbCommand, ha, hen, hpriv, hst]) (by simp) _

theorem exec_adminCqConsumed (hw : DoorbellWrite w 0x020008 0) :
    exec (.adminCqConsumed w) s = .next (s.withBlk (cqRead s.blk (.aq (w.org.port % 4)))) := by
  change execAdminCqConsumed w s = _
  exact dbRun_doorbell h hw (t := .acq) rfl rfl (a := .consumed (.aq (w.org.port % 4)))
    (by simp [dbCommand, ha, hen, hpriv]) (by simp) _

end

/-! ## What the commands do (R80, R86, R93) -/

theorem sqRing_active {b : Block} {r : QRef} {x : Sq} (hx : sqOf b r = some x) (hst : x.st = .active) : sqRing b r = readWant b r true := by
  simp [sqRing, hx, hst]

/-- RING releases a hold (R86). -/
theorem sqRing_of_held {b : Block} {r : QRef} {x : Sq} (hx : sqOf b r = some x) (hst : x.st = .held) :
    (sqOf (sqRing b r) r).map (fun y => y.st) = some .active := by
  simp only [sqRing, hx, hst, if_true]
  exact readWant_st (sqOf_sqSetState hx .active) true

/-- HOLD_INVALIDATE of an Active queue with no entry under check: Held under a new generation, with nothing of what had been read (R86). -/
theorem sqOf_sqInvalidate {b : Block} {r : QRef} {x : Sq} (hx : sqOf b r = some x) (hst : x.st = .active) (hfree : underCheck b r = false) :
    ∃ y, sqOf (sqInvalidate b r) r = some y ∧ y.st = .held ∧ y.gen = x.gen + 1 ∧ y.cache = [] ∧ y.fetches = [] ∧
      y.consumer = x.consumer ∧ y.producer = x.consumer := by
  have hgone : sqOf (giveUpFetches b r x false) r = some x := by cases r <;> exact hx
  have hnot : ¬ x.st = .held := by simp [hst]
  simp only [sqInvalidate, hfree, sqHold, hx, hnot, Bool.false_eq_true, if_false]
  exact ⟨_, sqOf_sqSetState (sqOf_putSq hgone _) .held, rfl, rfl, rfl, rfl, rfl, rfl⟩

theorem cqRead_idle {b : Block} {r : QRef} {c : Cq} (hc : cqOf b r = some c) (hrd : c.rd = .idle) : cqRead b r =
    hostAcc (putCq b r { c with rd := .flying b.tide.clock false, lastRead := b.tide.clock }) c.qcbHost c.hostPort c.ownerFn c.qcbAddr 4
      false := by
  simp only [cqRead, hc, hrd]

/-- Settles O27: each doorbell by the command that it gives and the state of its queue. -/
theorem doorbellsRing : Obligations.DoorbellsRing := by
  unfold Obligations.DoorbellsRing
  refine ⟨?_, ?_⟩
  · intro s w n hs hstage b
    refine ⟨?_, ?_⟩
    · intro q hn hq hport hfn hdying
      have hx : sqOf b (.q n) = some q := hq
      refine ⟨?_, ?_, ?_⟩
      · intro hw hst hrd charge
        have hring := exec_ring hs hn hq hport hfn (by simp [hst]) hdying hw
        rw [sqRing_active hx hst] at hring
        refine ⟨fun hpass => ?_, fun hheld => ?_⟩
        · rw [hring, readWant_issues hx (sqRuns_q hst hdying) hstage hrd hpass]; rfl
        · rw [hring, readWant_held hx hrd hheld]; rfl
      · intro hw hst
        exact gives_withBlk (exec_ring hs hn hq hport hfn (by simp [hst]) hdying hw) (sqRing_of_held hx hst)
      · intro hw hst hfree
        refine gives_withBlk (exec_holdInvalidate hs hn hq hport hfn (by simp [hst]) hdying hw) ?_
        obtain ⟨y, hy, hst', hgen, hcache, hfetches, hconsumer, hproducer⟩ := sqOf_sqInvalidate hx hst hfree
        simp [b, hy, hst', hgen, hcache, hfetches, hconsumer, hproducer]
    · intro c hn hc hport hfn hw hrd
      rw [exec_consumed hs hn hc hport hfn hw, cqRead_idle (r := .q n) hc hrd]
  · intro s w a hs hstage b p ha hen hpriv hdying
    have hx : sqOf b (.aq p) = some a.sq := by rw [sqOf]; exact congrArg (Option.map _) ha
    have hc : cqOf b (.aq p) = some a.cq := by rw [cqOf]; exact congrArg (Option.map _) ha
    refine ⟨?_, ?_, ?_⟩
    · intro hw hst hrd
      have hruns : sqRuns b (.aq p) a.sq = true := by simp [sqRuns, hst, hdying, ha, hen]
      refine gives_withBlk (exec_adminSqRing hs ha hen hpriv (by simp [hst]) hw) ?_
      rw [sqRing_active hx hst, readWant_issues hx hruns hstage hrd rfl]
      exact sqOf_readIssued hx _
    · intro hw hst
      refine gives_withBlk (exec_adminSqHoldInvalidate hs ha hen hpriv (by simp [hst]) hw) ?_
      obtain ⟨y, hy, hst', hgen, hcache, hfetches, -, -⟩ := sqOf_sqInvalidate hx hst rfl
      simp [p, b, hy, hst', hgen, hcache, hfetches]
    · intro hw hrd
      refine gives_withBlk (exec_adminCqConsumed hs ha hen hpriv hw) ?_
      rw [cqRead_idle hc hrd, withBlk_blk, cqOf_noteSteps, cqOf_hostAcc]
      exact cqOf_putCq hc _

end Sys2Proof.Machine
end

section
/-! PROOFS. Reads of `PRODUCER`, polls and fetches (spec/03_queues.md, R64, R70, R80 to R84, R87, R88). -/

namespace Sys2Proof.Machine

open Sys2Proof

/-! ## Polls (R80 to R82) -/

section
variable {b : Block} {n : Nat} {x : Sq} (hx : sqOf b (.q n) = some x) (hpoll : x.pollUs ≠ 0) (hdying : x.dying = false)
  (hst : x.st = .active)
include hx hpoll hdying hst

/-- A poll expiry that arrives while a read waits asks for no other. -/
theorem pollExpiry_wanted (hrd : x.rd = .wanted) : pollExpiry b n = putSq (passTo b x.nextPoll) (.q n)
    { x with nextPoll := (passTo b x.nextPoll).tide.clock + x.pollUs * 1000 } := by
  have hq : fmGet? b.q.sqs n = some x := hx
  simp only [pollExpiry, hq, hpoll, hdying, hst, hrd, decide_false, Bool.or_self, Bool.false_eq_true, if_false, if_true]
  rw [readWant_wanted (sqOf_putSq_q _ _ _) rfl, putSq_putSq]
  simp

/-- A poll that falls due reads a `PRODUCER` in device memory at once. -/
theorem pollExpiry_issues (hstage : b.rcv.stage = .idle) (hrd : x.rd = .idle) (hdev : x.qcbHost = false)
    (hdue : b.tide.clock ≤ x.nextPoll) : pollExpiry b n = putSq (passTo b x.nextPoll) (.q n)
      { x with nextPoll := x.nextPoll + x.pollUs * 1000, rung := false, rd := .flying x.nextPoll false } := by
  have hq : fmGet? b.q.sqs n = some x := hx
  have hclock : (passTo b x.nextPoll).tide.clock = x.nextPoll := max_eq_right hdue
  have hlate : ¬ b.tide.clock > x.nextPoll := by omega
  have hgoes : (decide (x.pollUs = 0) || x.dying) = false := by simp [hpoll, hdying]
  let y : Sq := { x with nextPoll := x.nextPoll + x.pollUs * 1000 }
  have hread : readWant (putSq (passTo b x.nextPoll) (.q n) y) (.q n) false = putSq (passTo b x.nextPoll) (.q n)
      { y with rung := false, rd := .flying x.nextPoll false } := by
    rw [readWant_issues (b := putSq (passTo b x.nextPoll) (.q n) y) (x := y) (sqOf_putSq_q _ _ _) (sqRuns_q hst hdying) hstage hrd
      (by simp [y, hdev, sqCharge_device, bktPassAll])]
    simp [readIssued, y, hdev, sqCharge_device, bktTakeAll, hostAcc, putSq_clock, max_eq_right hdue]
  simp only [pollExpiry, hq, hgoes, Bool.false_eq_true, if_false, if_pos hst, hclock]
  rw [hread, sqOf_putSq_q]
  simp [y, hlate]

end

/-! ## A value of `PRODUCER` (R70, R87) -/

/-- The value `p` of `PRODUCER` has been taken for queue `r`, which was `x`; no further read has been asked for. -/
structure ProducerTaken (b : Block) (r : QRef) (x : Sq) (p : BitVec 32) (b' : Block) : Prop where
  writes : WritesBack b b'
  sq : ∃ y, sqOf b' r = some y ∧ y.producer = p ∧ y.consumer = x.consumer ∧ y.rd = .idle ∧ y.st = x.st ∧ y.dying = x.dying ∧
    y.qcbHost = x.qcbHost

section
variable {b : Block} {r : QRef} {x : Sq} (hx : sqOf b r = some x) {u : Nat} {again : Bool} (hrd : x.rd = .flying u again)
include hrd

/-- A value no further ahead than the ring is long is taken; a RING that came meanwhile reads again (R80). -/
theorem producerNew_takes (hx : sqOf b r = some x) {p : BitVec 32} (hahead : (p - x.consumer).toNat ≤ 2 ^ x.log2) :
    ∃ b', ProducerTaken b r x p b' ∧ producerNew b r x p = if again then readWant b' r true else b' := by
  have hnot : ¬ ahead x p > 2 ^ x.log2 := not_lt.mpr hahead
  simp only [producerNew, hnot, if_false, hrd]
  refine ⟨_, ?_, rfl⟩
  split
  · exact ⟨(writesBack_putSq _ _ _).trans (writesBack_sqWriteback _ _), _, sqOf_sqWriteback (sqOf_putSq hx _),
      rfl, rfl, rfl, rfl, rfl, rfl⟩
  · exact ⟨writesBack_putSq _ _ _, _, sqOf_putSq hx _, rfl, rfl, rfl, rfl, rfl, rfl⟩

include hx

theorem producerReturn_current {t : Tags} (ht : tagsNow b x.gen t = true) (v : BitVec 32) :
    producerReturn b r t v = producerNew b r x v := by
  simp [producerReturn, hx, ht, hrd]

end

/-- A queue that halts tells its CQ so with a queue event (R70, R88). -/
theorem sqHalt_halts {b : Block} {n : Nat} {x : Sq} {c : Cq} (hx : sqOf b (.q n) = some x) (hc : fmGet? b.q.cqs x.cq = some c)
    (event status : Nat) : WritesBack b (sqHalt b (.q n) event status) ∧
      sqOf (sqHalt b (.q n) event status) (.q n) = some { x with st := .halted, lastEvent := stamp b, sinceWb := 0 } ∧
      ∃ e c', fmGet? (sqHalt b (.q n) event status).q.cqs x.cq = some c' ∧ c'.hold = c.hold ++ [e] ∧ e.kind = .event ∧
        e.event = event ∧ e.status = status := by
  have hsq := sqOf_sqSetState hx .halted
  have hq : fmGet? (sqSetState b (.q n) .halted).q.sqs n = some { x with st := .halted, lastEvent := stamp b, sinceWb := 0 } := hsq
  have hcq : fmGet? (sqSetState b (.q n) .halted).q.cqs x.cq = some c := by rw [sqSetState_cqs hx]; exact hc
  simp only [sqHalt, queueEvent, hq]
  obtain ⟨hsqs, -, c', hc', hhold⟩ := cqPush_pushed
    { tag := 0, status := status, kind := .event, sq := n, nonDone := 0, entries := 0, event := event,
      time := stamp (sqSetState b (.q n) .halted), ctx := x.home, cls := 0, frame := 0, sbTag := none, waits := [], first := 0 } hcq
  refine ⟨(writesBack_sqSetState b (.q n) .halted).trans ?_, ?_, _, c', hc', hhold, rfl, rfl, rfl⟩
  · simp only [cqPush, hcq]; exact ⟨_, _, _, _, _, rfl⟩
  · rw [sqOf, hsqs]; exact hsq

/-! ## Fetches (R83, R84, R87) -/

/-- The starter asks for the entries that a request covers, from the first that it has not asked for. -/
theorem fetchIssue_issues {b : Block} {r : QRef} {x : Sq} (hx : sqOf b r = some x) (hready : fetchReady b r x = true)
    (hpass : fetchPass b r x = true) (hturn : ∀ n, r = .q n → fetchTurn b n x = true) :
    ∃ f : Fetch, f.missing.length = fetchSize b x ∧ f.issued = b.tide.clock ∧ sqOf (fetchIssue b r) r = some
      { x with fetchPtr := x.fetchPtr + BitVec.ofNat 32 (fetchSize b x), bwHeld := false, fetches := x.fetches ++ [f] } := by
  let f : Fetch := { missing := (List.range (fetchSize b x)).map fun k => x.fetchPtr + BitVec.ofNat 32 k, drop := [],
                     issued := b.tide.clock }
  refine ⟨f, by simp [f], rfl, ?_⟩
  have hput (host : Bool) (port fn addr len : Nat) (p : Nat) (l : List (Nat × Nat)) (y : Sq) :
      sqOf (putSq (hostAcc (bktTakeAll b p l) host port fn addr len false) r y) r = some y :=
    sqOf_putSq (x := x) (by rw [sqOf_hostAcc, sqOf_bktTakeAll, hx]) y
  simp only [fetchIssue, hx, hready, hpass, Bool.not_true, Bool.false_eq_true, if_false]
  cases r with
  | q n =>
    simp only [hturn n rfl, Bool.not_true, Bool.false_eq_true, if_false]
    exact hput _ _ _ _ _ _ _ _
  | aq p => exact hput _ _ _ _ _ _ _ _

/-- An entry that a request still wants is wanted when it arrives, if none has withdrawn it. -/
theorem fetchTake_wanted {i : BitVec 32} {l : List Fetch} (hwant : ∃ f ∈ l, i ∈ f.missing) (hkept : ∀ f ∈ l, i ∉ f.drop) :
    (fetchTake i l).1 = true := by
  induction l with
  | nil => simp at hwant
  | cons f fs ih =>
    have hdrop : f.drop.contains i = false := by simpa using hkept f (by simp)
    by_cases hf : i ∈ f.missing
    · simp [fetchTake, hf]
    · have hrest : ∃ g ∈ fs, i ∈ g.missing := by simpa [hf] using hwant
      have hf' : f.missing.contains i = false := by simpa using hf
      simp only [fetchTake, hf', hdrop, Bool.or_self, Bool.false_eq_true, if_false]
      exact ih hrest fun g hg => hkept g (by simp [hg])

section
variable {b : Block} {r : QRef} {t : Tags} {i : BitVec 32} (e : BitVec 512)
  (hlate : ∀ l ∈ b.q.late, l.q = r → l.gen = t.fgen → i ∉ l.missing)
include hlate

/-- An entry that no request given up awaits goes to its queue. -/
theorem beatReturn_own {x : Sq} (hx : sqOf b r = some x) : beatReturn b r t i [e] =
    if tagsNow b x.gen t then putSq b r (entryArrive x i e) else staleBeats b x.ownerPort 1 := by
  have hnone : b.q.late.find? (fun l => decide (l.q = r) && decide (l.gen = t.fgen) && l.missing.contains i) = none := by
    rw [List.find?_eq_none]
    intro l hl hfound
    simp only [Bool.and_eq_true, decide_eq_true_eq, List.contains_iff_mem] at hfound
    exact hlate l hl hfound.1.1 hfound.1.2 hfound.2
  have hbeats : beatsOf x.ringHost 1 = 1 := by cases x.ringHost <;> rfl
  simp only [beatReturn, hnone, ite_self, hx]
  cases ht : tagsNow b x.gen t with
  | true => simp
  | false => simp [hbeats]

end

/-! ## A read that times out (R88) -/

/-- A `PRODUCER` read of a queue without home context and without entries times out: the queue halts when the interval has passed. -/
theorem fetchTimeout_halts {b : Block} {n u : Nat} {x : Sq} {c : Cq} (hx : sqOf b (.q n) = some x) (hc : fmGet? b.q.cqs x.cq = some c)
    (hrd : x.rd = .flying u false) (hcache : x.cache = []) (hhome : x.homeGone = true) :
    ∃ b', fetchTimeout b (.producer (.q n)) = act b' ∧ (sqOf b' (.q n)).map (fun y => (y.st, y.rd)) = some (.halted, .idle) ∧
      b'.tide.clock = max b.tide.clock (fetchDue b u) := by
  let late := passTo b (fetchDue b u)
  let d := giveUpFetches late (.q n) { x with fetches := x.fetches.filter fun f => decide (late.tide.clock < fetchDue late f.issued) } false
  let y : Sq := { x with rd := .idle, rung := false, fetches := [], cache := [], gen := x.gen + 1, holdReq := false, probe := [],
                         fetchPtr := x.consumer + BitVec.ofNat 32 0 }
  obtain ⟨hwrites, hsq, -⟩ := sqHalt_halts (b := putSq d (.q n) y) (sqOf_putSq_q _ _ _) (c := c) hc 1 stFetchTimeout
  refine ⟨sqHalt (putSq d (.q n) y) (.q n) 1 stFetchTimeout, ?_, ?_, hwrites.clock⟩
  · simp only [fetchTimeout, hx, hrd, sqTimeout, hcache, hhome, if_true, List.length_nil, cachePrefix, submitRest, late, d, y]
  · rw [hsq]; rfl

/-! ## The statements -/

/-- Settles O28: each arrival by the state in which it finds the read. -/
theorem ringsShareReads : Obligations.RingsShareReads := by
  unfold Obligations.RingsShareReads
  intro s w n q hs hn hq hst hdying b passed
  have hx : sqOf b (.q n) = some q := hq
  refine ⟨?_, ?_, ?_, ?_⟩
  · intro hw hport hfn
    have hring := exec_ring hs.1.1 hn hq hport hfn (by simp [hst]) hdying hw
    rw [sqRing_active hx hst] at hring
    refine ⟨fun hrd => ?_, fun u again hrd => ?_⟩
    · rw [hring, readWant_wanted hx hrd, Bool.or_true]
    · rw [hring, readWant_flying hx hrd, Bool.or_true]
  · intro hpoll hrd
    refine (liftR_running hs fun b => pollExpiry b n).trans ?_
    rw [pollExpiry_wanted hx hpoll hdying hst hrd]
  · intro hrd hpass
    rw [readIssue_passes hx (sqRuns_q hst hdying) hs.2 hrd hpass, sqOf_readIssued hx]
  · intro t v u again ht hrd hahead hdev
    refine gives_withBlk (liftReply_running hs _ fun b => producerReturn b (.q n) t v) ?_
    obtain ⟨b', ⟨hwrites, y, hy, hproducer, -, hidle, hst', hdying', hdev'⟩, hnew⟩ := producerNew_takes hrd hx hahead
    rw [producerReturn_current hx hrd ht, hnew, withBlk_blk, sqOf_noteSteps]
    cases again with
    | false => simp [hy, hproducer, hidle]
    | true =>
      have hstage : b'.rcv.stage = .idle := by rw [hwrites.rcv]; exact hs.2
      have hread : readWant b' (.q n) true = readIssued b' (.q n) { y with rung := true } :=
        readWant_issues hy (sqRuns_q (hst'.trans hst) (hdying'.trans hdying)) hstage hidle
          (by rw [hdev', hdev, sqCharge_device]; rfl) true
      rw [if_pos rfl, hread, sqOf_readIssued hy]
      simp [hproducer, hwrites.clock, b]

/-- Settles O29: the poll, the value of `PRODUCER`, the fetch, the beat and the timeout, each by its rule. -/
theorem queueReads : Obligations.QueueReads := by
  unfold Obligations.QueueReads
  intro s r x hs hx b
  refine ⟨?_, ?_, ?_, ?_, ?_, ?_⟩
  · rintro n rfl hpoll hdying hst hrd hdev hdue
    refine (liftR_running hs fun b => pollExpiry b n).trans ?_
    rw [pollExpiry_issues hx hpoll hdying hst hs.2 hrd hdev hdue]
  · intro t v u ht hrd hahead
    refine gives_withBlk (liftReply_running hs _ fun b => producerReturn b r t v) ?_
    obtain ⟨b', ⟨-, y, hy, hproducer, hconsumer, hidle, hst, -⟩, hnew⟩ := producerNew_takes hrd hx hahead
    rw [producerReturn_current hx hrd ht, hnew]
    simp [hy, hproducer, hconsumer, hidle, hst]
  · rintro t v u n rfl ht hrd hbeyond hcq
    obtain ⟨c, hc⟩ := Option.isSome_iff_exists.mp hcq
    have hhalt : producerNew b (.q n) x v = sqHalt (putSq b (.q n) { x with rd := .idle, rung := false }) (.q n) 2 stBadState :=
      if_pos hbeyond
    refine gives_withBlk (liftReply_running hs _ fun b => producerReturn b (.q n) t v) ?_
    obtain ⟨-, hsq, e, c', hc', hhold, hkind, hevent, hstatus⟩ := sqHalt_halts
      (b := putSq b (.q n) { x with rd := .idle, rung := false }) (sqOf_putSq_q _ _ _) (c := c) hc 2 stBadState
    rw [producerReturn_current hx hrd ht, hhalt]
    refine ⟨?_, e, c, c', hc, hc', hhold, hkind, hevent, hstatus⟩
    rw [withBlk_blk, sqOf_noteSteps, hsq]
    rfl
  · intro hready hpass hturn
    refine gives_withBlk (liftR_running hs fun b => fetchIssue b r) ?_
    obtain ⟨f, hlength, hissued, hsq⟩ := fetchIssue_issues hx hready hpass hturn
    refine ⟨f, hlength, hissued, ?_⟩
    rw [withBlk_blk, sqOf_noteSteps, hsq]
    rfl
  · intro t i e hlate
    have hexec : exec (.fetchBeatReturn r t i [e]) s = .next (s.withBlk (retire (beatReturn b r t i [e]) [.entry r i])) := by
      refine (lift_of_alive hs.1.1 fun b => retire (beatReturn b r t i [e])
        ((List.range 1).map fun k => Access.entry r (i + BitVec.ofNat 32 k))).trans ?_
      simp [b]
    rw [beatReturn_own e hlate hx] at hexec
    refine ⟨fun ht hwant hkept => gives_withBlk hexec ?_, fun ht => ?_⟩
    · rw [if_pos ht, withBlk_blk, sqOf_noteSteps, sqOf_retire, sqOf_putSq hx]
      simp [entryArrive, fetchTake_wanted hwant hkept]
    · rw [hexec, ht]; rfl
  · rintro n u rfl hrd hcache hcq hhome
    obtain ⟨c, hc⟩ := Option.isSome_iff_exists.mp hcq
    obtain ⟨b', hact, hsq, hclock⟩ := fetchTimeout_halts hx hc hrd hcache hhome
    have hexec : exec (.fetchTimeout (.producer (.q n))) s = .next (s.withBlk (finish (fetchTimeout b (.producer (.q n))))) := by
      refine (lift_of_alive hs.1.1 _).trans ?_
      simp only [ready_of_booted hs.1, hs.2, if_true]
      rfl
    rw [hact] at hexec
    exact gives_withBlk hexec ⟨hsq, hclock⟩

end Sys2Proof.Machine
end

section
/-! PROOFS. Completions and interrupts (spec/03_queues.md, R68, R87, R89 to R94; spec/20_integration.md, R450). -/

namespace Sys2Proof.Machine

open Sys2Proof

/-! ## Bytes and numbers (R5) -/

theorem leBytes_length (n v : Nat) : (leBytes n v).length = n := by
  induction n generalizing v with
  | zero => rfl
  | succ n ih => simp [leBytes, ih]

/-- Little-endian bytes spell their number, as far as it fits. -/
theorem leValue_leBytes (n v : Nat) : leValue (leBytes n v) = v % 256 ^ n := by
  induction n generalizing v with
  | zero => simp [leBytes, leValue, Nat.mod_one]
  | succ n ih =>
    simp only [leBytes, leValue, ih, BitVec.toNat_ofNat, Nat.reducePow]
    rw [pow_succ']
    exact Nat.mod_mul.symm

theorem memReadBytes_add (m : Memory) (a j k : Nat) : memReadBytes m a (j + k) = memReadBytes m a j ++ memReadBytes m (a + j) k := by
  induction j generalizing a with
  | zero => simp [memReadBytes]
  | succ j ih => rw [Nat.succ_add, memReadBytes, ih, memReadBytes, List.cons_append, Nat.add_right_comm, Nat.add_assoc]

/-- Bytes outside those written read as before. -/
theorem memReadBytes_memWriteBytes_ne (m : Memory) {a x n : Nat} {l : List Byte} (h : x + n ≤ a ∨ a + l.length ≤ x) :
    memReadBytes (memWriteBytes m a l) x n = memReadBytes m x n := by
  induction n generalizing x with
  | zero => rfl
  | succ n ih =>
    rw [memReadBytes, memReadBytes, ih (by omega), memRead_memWriteBytes_ne m a l (by omega)]

/-- A number written in two parts, the upper one first, reads back whole. -/
theorem memReadLE_of_halves (m : Memory) (a n k v : Nat) (hk : k ≤ n) :
    memReadLE (memWriteBytes (memWriteBytes m (a + k) ((leBytes n v).drop k)) a ((leBytes n v).take k)) a n = v % 256 ^ n := by
  have hlow : ((leBytes n v).take k).length = k := by simp [leBytes_length, hk]
  have hhigh : ((leBytes n v).drop k).length = n - k := by simp [leBytes_length]
  have hbytes : memReadBytes (memWriteBytes (memWriteBytes m (a + k) ((leBytes n v).drop k)) a ((leBytes n v).take k)) a (k + (n - k)) =
      (leBytes n v).take k ++ (leBytes n v).drop k := by
    have hfirst := memReadBytes_memWriteBytes_self (memWriteBytes m (a + k) ((leBytes n v).drop k)) a ((leBytes n v).take k)
    have hsecond := memReadBytes_memWriteBytes_self m (a + k) ((leBytes n v).drop k)
    rw [hlow] at hfirst
    rw [hhigh] at hsecond
    rw [memReadBytes_add, hfirst, memReadBytes_memWriteBytes_ne _ (Or.inr (by omega)), hsecond]
  rw [Nat.add_sub_cancel' hk, List.take_append_drop] at hbytes
  rw [memReadLE, hbytes, leValue_leBytes]

/-- An address that does not wrap has its successors' keys after its own. -/
theorem memKey_add (host : Bool) (p a k : Nat) (h : a + k < 2 ^ 64) : memKey host p (a + k) = memKey host p a + k := by
  have ha : a % 2 ^ 64 = a := Nat.mod_eq_of_lt (by omega)
  have hk : (a + k) % 2 ^ 64 = a + k := Nat.mod_eq_of_lt h
  cases host with
  | true => simp only [memKey, hostKey, ha, hk, if_true]; omega
  | false => simp only [memKey, ha, hk, Bool.false_eq_true, if_false]

/-! ## A completion written (R68, R89, R90) -/

@[simp] theorem hostAcc_mem (b : Block) (host : Bool) (port fn addr len : Nat) (write : Bool) :
    (hostAcc b host port fn addr len write).mem = b.mem := by
  unfold hostAcc; split <;> rfl

@[simp] theorem putCq_mem (b : Block) (r : QRef) (c : Cq) : (putCq b r c).mem = b.mem := by cases r <;> rfl

theorem cqWriteback_mem {b : Block} {r : QRef} {c : Cq} (hc : cqOf b r = some c) :
    (cqWriteback b r).mem = memWriteBytes b.mem (memKey c.qcbHost c.hostPort (c.qcbAddr + 0x20)) (cqQcbBytes c) := by
  simp only [cqWriteback, hc, hostAcc_mem]
  rfl

/-- The key of the entry that a CQ writes next, and that of Scehione's half of its QCB. -/
def ringKey (c : Cq) : Nat := memKey c.ringHost c.hostPort (c.ringAddr + 32 * (c.producer.toNat % 2 ^ c.log2))
def qcbKey (c : Cq) : Nat := memKey c.qcbHost c.hostPort (c.qcbAddr + 0x20)

/-- The entry written stands in the ring of CQ `m`, which was `c`, and `PRODUCER` has advanced. -/
structure EntryWritten (b : Block) (m : Nat) (c : Cq) (e : BitVec 256) (b' : Block) : Prop where
  cq : ∃ c', fmGet? b'.q.cqs m = some c' ∧ c'.hold = c.hold ∧ c'.producer = c.producer + 1 ∧ c'.intEn = c.intEn ∧
    c'.count = c.count ∧ c'.ownerPort = c.ownerPort ∧ c'.ownerFn = c.ownerFn ∧ c'.vector = c.vector
  entry : ringKey c + 32 ≤ qcbKey c ∨ qcbKey c + 32 ≤ ringKey c → c.ringAddr + 32 * (c.producer.toNat % 2 ^ c.log2) + 4 < 2 ^ 64 →
    memReadLE b'.mem (ringKey c) 32 = e.toNat

theorem cqWriteEntry_written (b : Block) (m : Nat) (c : Cq) (e : BitVec 256) : EntryWritten b m c e (cqWriteEntry b (.q m) c e) := by
  refine ⟨?_, fun hapart hwrap => ?_⟩
  · simp only [cqWriteEntry, cqWriteback_q]
    exact ⟨_, fmGet?_fmSet_self _ _ _, rfl, rfl, rfl, rfl, rfl, rfl, rfl⟩
  · have hqcb (c : Cq) : (cqQcbBytes c).length = 32 := leBytes_length _ _
    have hkey := memKey_add c.ringHost c.hostPort _ 4 hwrap
    simp only [cqWriteEntry]
    rw [cqWriteback_mem (cqOf_putCq_q _ _ _), putCq_mem, memReadLE,
      memReadBytes_memWriteBytes_ne _ (by rw [hqcb]; exact hapart)]
    simp only [noteStamp, hostAcc_mem, wr]
    rw [hkey]
    refine (memReadLE_of_halves b.mem (ringKey c) 32 4 e.toNat (by omega)).trans (Nat.mod_eq_of_lt ?_)
    exact lt_of_lt_of_eq e.isLt (by norm_num)

/-! ## Interrupts (R94, R450) -/

theorem raiseInt_cqs (b : Block) (port fn vector : Nat) : (raiseInt b port fn vector).q.cqs = b.q.cqs := by
  unfold raiseInt; dsimp only; split <;> rfl

theorem raiseInt_mem (b : Block) (port fn vector : Nat) : (raiseInt b port fn vector).mem = b.mem := by
  unfold raiseInt; dsimp only; split <;> rfl

/-- An interrupt raised is queued at its port, or was already. -/
theorem mem_raiseInt (b : Block) (port fn vector : Nat) :
    ({ fn := fn, vector := vector } : IntReq) ∈ fmGet (raiseInt b port fn vector).q.ints (port % 4) [] := by
  unfold raiseInt
  dsimp only
  split
  · rename_i hqueued
    exact List.mem_of_mem_take (List.contains_iff_mem.mp hqueued)
  · simp

section
variable {b : Block} {m : Nat} {c : Cq} (hc : fmGet? b.q.cqs m = some c)
include hc

/-- The interrupt of a CQ reports every entry written. -/
theorem cqInterrupt_spec : fmGet? (cqInterrupt b m).q.cqs m = some { c with unreported := 0, oldest := none } ∧
    (cqInterrupt b m).mem = b.mem ∧ (cqInterrupt b m).tide.clock = b.tide.clock ∧
    ({ fn := c.ownerFn, vector := c.vector } : IntReq) ∈ fmGet (cqInterrupt b m).q.ints (c.ownerPort % 4) [] := by
  simp only [cqInterrupt, hc]
  refine ⟨?_, (raiseInt_mem _ _ _ _).trans (putCq_mem _ _ _), (writesBack_raiseInt _ _ _ _).clock, mem_raiseInt _ _ _ _⟩
  rw [raiseInt_cqs]
  exact fmGet?_fmSet_self _ _ _

/-- The report of an entry leaves the ring alone; a CQ whose count is 1 or less raises its interrupt at every entry. -/
theorem cqReport_spec (e : CqEnt) :
    (fmGet? (cqReport b m e).q.cqs m).map (fun x => (x.hold, x.producer)) = some (c.hold, c.producer) ∧
    (cqReport b m e).mem = b.mem ∧ (c.intEn = true → c.count ≤ 1 →
      ({ fn := c.ownerFn, vector := c.vector } : IntReq) ∈ fmGet (cqReport b m e).q.ints (c.ownerPort % 4) []) := by
  let d : Cq := { c with unreported := c.unreported + 1, oldest := some (c.oldest.getD b.tide.clock) }
  have hd : fmGet? (putCq b (.q m) d).q.cqs m = some d := fmGet?_fmSet_self _ _ _
  obtain ⟨hcq, hmem, -, hint⟩ := cqInterrupt_spec hd
  simp only [cqReport, hc]
  split
  · exact ⟨by rw [hcq]; rfl, hmem.trans (putCq_mem _ _ _), fun _ _ => hint⟩
  · rename_i hquiet
    refine ⟨by rw [hd]; rfl, putCq_mem _ _ _, fun hen hcount => absurd ?_ hquiet⟩
    simp only [hen, Bool.true_and, Bool.or_eq_true, decide_eq_true_eq]
    exact Or.inr (by omega)

end

/-- The oldest completion of an open CQ, with its fences in memory, is written and reported; its SQ is gone, and it keeps no tag. -/
theorem completionWrite_eq {b : Block} {m : Nat} {c : Cq} {e : CqEnt} {l : List CqEnt} (hc : fmGet? b.q.cqs m = some c)
    (hhold : c.hold = e :: l) (hwaits : e.waits = []) (hopen : cqOpen c = true) (htag : e.sbTag = none) (hsq : fmGet? b.q.sqs e.sq = none) :
    completionWrite b m = cqReport (cqWriteEntry b (.q m) { c with hold := l } (cqEntBytes e (phaseAt c.producer c.log2) 0)) m e := by
  simp only [completionWrite, hc, hhold, hwaits, hopen, htag, hsq, List.isEmpty_nil, Bool.and_self, if_true, Option.any_none,
    Bool.false_eq_true, if_false]
  rfl

/-! ## `CONSUMER` (R87, R93) -/

theorem audit_spec (b : Block) (e : AuditEv) : (audit b e).q = b.q ∧ (audit b e).aud.seq = b.aud.seq + 1 := by
  obtain ⟨_, _, _, _, _, haudit⟩ := auditN_eq b e 1
  rw [audit, haudit]
  exact ⟨rfl, rfl⟩

/-- A value that a driver can have written is taken. -/
theorem consumerNew_consistent {b : Block} {m : Nat} {c d : Cq} {v : BitVec 32} (hc : cqOf b (.q m) = some d)
    (hdiff : (c.producer - v).toNat ≤ 2 ^ c.log2) :
    (cqOf (consumerNew b (.q m) c v) (.q m)).map (fun x => (x.consumer, x.bad, x.full, x.rd)) =
      some (v, false, decide ((c.producer - v).toNat = 2 ^ c.log2), c.rd) := by
  simp only [consumerNew, hdiff, if_true]
  split
  · rw [cqOf_putCq hc]; rfl
  · rw [cqOf_congr (cqWriteback_q _ _), cqOf_putCq hc]; rfl

/-- A value that no driver can have written makes the CQ full, and is recorded unless one has been. -/
theorem consumerNew_inconsistent {b : Block} {m : Nat} {c d : Cq} {v : BitVec 32} (hc : cqOf b (.q m) = some d)
    (hdiff : 2 ^ c.log2 < (c.producer - v).toNat) :
    (cqOf (consumerNew b (.q m) c v) (.q m)).map (fun x => (x.consumer, x.bad, x.full)) = some (c.consumer, true, true) ∧
    (c.bad = false → (consumerNew b (.q m) c v).aud.seq = b.aud.seq + 1) := by
  have hnot : ¬ (c.producer - v).toNat ≤ 2 ^ c.log2 := by omega
  let y : Cq := { c with bad := true, full := true, fullEvents := if c.full then c.fullEvents else satInc 32 c.fullEvents }
  let b' : Block := if c.full then putCq b (.q m) y else cqWriteback (putCq b (.q m) y) (.q m)
  have hb' : cqOf b' (.q m) = some y ∧ b'.aud = b.aud := by
    simp only [b']
    split
    · exact ⟨cqOf_putCq hc y, rfl⟩
    · exact ⟨(cqOf_congr (cqWriteback_q _ _) _).trans (cqOf_putCq hc y), (writesBack_cqWriteback _ _).aud⟩
  obtain ⟨hcq, haud⟩ := hb'
  simp only [consumerNew, hnot, if_false]
  change (cqOf (if c.bad = true then b' else _) _).map _ = _ ∧ (_ → (if c.bad = true then b' else _).aud.seq = _)
  cases hbad : c.bad with
  | true => exact ⟨by rw [if_pos rfl, hcq]; rfl, by simp⟩
  | false =>
    obtain ⟨hq, hseq⟩ := audit_spec b' { type := auCqInconsistent, new := v.toNat, detail := cqNumber (.q m) }
    simp only [Bool.false_eq_true, if_false]
    exact ⟨by rw [cqOf_congr hq, hcq]; rfl, fun _ => by rw [hseq, haud]⟩

theorem consumerReturn_current {b : Block} {m u : Nat} {c : Cq} {t : Tags} (hc : cqOf b (.q m) = some c) (ht : tagsNow b c.gen t = true)
    (hrd : c.rd = .flying u false) (v : BitVec 32) : consumerReturn b (.q m) t v = consumerNew b (.q m) { c with rd := .idle } v := by
  simp [consumerReturn, hc, ht, hrd]

/-! ## The statement -/

/-- Settles O31: the entry written and its report, the reads of `CONSUMER` and their values, and the interrupts. -/
theorem completions : Obligations.Completions := by
  unfold Obligations.Completions
  intro s m c hs hc b ring qcb
  have hcq : cqOf b (.q m) = some c := hc
  refine ⟨?_, ?_, ?_, ?_, ?_⟩
  · intro e l hhold hwaits hfull hbad htag hsq
    refine gives_withBlk (liftR_running hs fun b => completionWrite b m) ?_
    rw [completionWrite_eq hc hhold hwaits (by simp [cqOpen, hfull, hbad]) htag hsq]
    obtain ⟨⟨c', hc', hhold', hproducer, hen, hcount, hport, hfn, hvector⟩, hentry⟩ := cqWriteEntry_written b m { c with hold := l }
      (cqEntBytes e (phaseAt c.producer c.log2) 0)
    obtain ⟨hcq', hmem, hint⟩ := cqReport_spec hc' e
    refine ⟨?_, fun hapart hwrap => ?_, fun hen' hcount' => ?_⟩
    · rw [withBlk_blk, cqOf_noteSteps, cqOf, hcq', hhold', hproducer]
    · rw [withBlk_blk, noteSteps_mem, hmem]
      exact hentry hapart hwrap
    · rw [hport, hfn, hvector] at hint
      exact hint (hen.trans hen') (hcount.le.trans hcount')
  · intro hfull hrd b'
    refine (liftR_running hs fun b => cqReread b (.q m)).trans ?_
    have hreread : cqReread b (.q m) = cqRead b' (.q m) := by simp [cqReread, hcq, hfull, hrd, b']
    rw [hreread, cqRead_idle (b := b') (r := .q m) (c := c) hcq hrd]
  · intro t v u ht hrd
    have hexec : exec (.cqConsumerReturn (.q m) t v) s =
        .next (s.withBlk (retire (consumerNew b (.q m) { c with rd := .idle } v) [.read (.cqConsumer (.q m))])) := by
      rw [← consumerReturn_current hcq ht hrd v]
      exact lift_of_alive hs.1.1 fun b => retire (consumerReturn b (.q m) t v) [.read (.cqConsumer (.q m))]
    refine ⟨fun hdiff => gives_withBlk hexec ?_, fun hdiff => gives_withBlk hexec ?_⟩
    · rw [withBlk_blk, cqOf_noteSteps, cqOf_retire]
      exact consumerNew_consistent (c := { c with rd := .idle }) hcq hdiff
    · rw [withBlk_blk, cqOf_noteSteps, cqOf_retire]
      exact consumerNew_inconsistent (c := { c with rd := .idle }) hcq hdiff
  · intro u hold hen htime hunrep
    refine gives_withBlk (liftR_running hs fun b => coalesceExpiry b m) ?_
    have hexpiry : coalesceExpiry b m = cqInterrupt (passTo b (u + c.timeUs * 1000)) m := by
      simp [coalesceExpiry, b, hc, hold, hen, htime, hunrep]
    obtain ⟨hcq', -, hclock, hint⟩ := cqInterrupt_spec (b := passTo b (u + c.timeUs * 1000)) hc
    rw [hexpiry]
    refine ⟨?_, hclock, hint⟩
    rw [withBlk_blk, cqOf_noteSteps, cqOf, hcq']
    rfl
  · intro port r l hints
    refine (liftR_running hs fun b => interruptRequest b port).trans ?_
    simp only [interruptRequest, b, hints]

end Sys2Proof.Machine
end

section
/-! PROOFS. Creating and destroying queues (spec/03_queues.md, R62 to R65; spec/04_admin_commands.md, R104, R107). -/

namespace Sys2Proof.Machine

open Sys2Proof

/-! ## What the executor leaves of the queues (R101, R105) -/

/-- The executor's source is no completion queue. -/
@[simp] theorem adminTake_cqs (b : Block) (src : Nat) : (adminTake b src).q.cqs = b.q.cqs := by
  unfold adminTake sqConsume
  split
  · rfl
  · cases hx : sqOf b (.aq src) with
    | none => rfl
    | some q =>
      dsimp only
      split
      · rw [sqWriteback_queues (sqOf_putSq hx _)]; rfl
      · rfl

theorem raiseInt_sqs (b : Block) (port fn vector : Nat) : (raiseInt b port fn vector).q.sqs = b.q.sqs := by
  unfold raiseInt; dsimp only; split <;> rfl

theorem cqWriteEntry_aq_sqs (b : Block) (p : Nat) (c : Cq) (e : BitVec 256) : (cqWriteEntry b (.aq p) c e).q.sqs = b.q.sqs := by
  simp only [cqWriteEntry, cqWriteback_q, putCq, noteStamp, hostAcc_q, wr]

theorem adminWriteOne_sqs (b : Block) (p : Nat) : (adminWriteOne b p).q.sqs = b.q.sqs := by
  unfold adminWriteOne
  split
  · rfl
  · split
    · rfl
    · split
      · rw [raiseInt_sqs, cqWriteEntry_aq_sqs]
        split
        · rfl
        · exact sqWriteback_aq_sqs b p
      · rfl

theorem adminFlush_sqs (b : Block) (p : Nat) : (adminFlush b p).q.sqs = b.q.sqs := by
  unfold adminFlush
  split
  · rfl
  · exact foldl_keeps (fun b => b.q.sqs) (fun b _ => adminWriteOne_sqs b p) _ b

theorem adminPost_sqs (b : Block) (p : Nat) (x : AdminCompl) : (adminPost b p x).q.sqs = b.q.sqs := by
  unfold adminPost
  split
  · rfl
  · exact adminFlush_sqs _ p

theorem mailboxPost_q (b : Block) (x : AdminCompl) (final : Bool) : (mailboxPost b x final).q = b.q := by
  unfold mailboxPost; dsimp only; split <;> rfl

/-- No report of the executor touches a submission queue. -/
theorem adminReport_sqs (b : Block) (src : Nat) (tag : BitVec 16) (opcode fn status detail result : Nat) (final : Bool) :
    (adminReport b src tag opcode fn status detail result final).q.sqs = b.q.sqs := by
  unfold adminReport
  dsimp only
  split
  · rw [mailboxPost_q]
  · exact adminPost_sqs _ _ _

theorem Reports.pend {a b : Block} (h : Reports a b) : b.adm.pend = a.adm.pend := by
  obtain ⟨_, _, _, _, h⟩ := h; rw [h.adm]

/-- A pending command ends alone. -/
theorem mem_pendEnd {b : Block} {p q : Pend} {status detail result : Nat} (h : q ∈ (pendEnd b p status detail result).adm.pend) :
    q ∈ b.adm.pend ∧ q.no ≠ p.no := by
  rw [pendEnd, (reports_adminReport _ _ _ _ _ _ _ _ _).pend] at h
  simpa using h

theorem mem_foldl_pendEnd {l : List Pend} {b : Block} {q : Pend} {status detail result : Nat}
    (h : q ∈ (l.foldl (fun b p => pendEnd b p status detail result) b).adm.pend) : q ∈ b.adm.pend ∧ ∀ p ∈ l, q.no ≠ p.no := by
  induction l generalizing b with
  | nil => exact ⟨h, by simp⟩
  | cons p ps ih =>
    obtain ⟨hmem, hrest⟩ := ih h
    obtain ⟨hmem', hp⟩ := mem_pendEnd hmem
    exact ⟨hmem', by simpa [hp] using hrest⟩

/-! ## Creation (R62 to R65, R107) -/

theorem ringCheck_passes {k kmax ring qcb entry : Nat} {ringHost qcbHost : Bool} {inside : Nat → Nat → Bool} (hlo : 4 ≤ k)
    (hhi : k ≤ kmax) (hring : ring % 4096 = 0) (hqcb : qcb % 64 = 0) (hringIn : ringHost = true ∨ inside ring (entry * 2 ^ k) = true)
    (hqcbIn : qcbHost = true ∨ inside qcb 64 = true) : ringCheck k kmax ring qcb entry ringHost qcbHost inside = none := by
  have hrange : ¬ (k < 4 ∨ k > kmax) := by omega
  have halign : ¬ (ring % 4096 ≠ 0 ∨ qcb % 64 ≠ 0) := by omega
  have hin : ((!ringHost && !inside ring (entry * 2 ^ k)) || (!qcbHost && !inside qcb 64)) = false := by
    rcases hringIn with h | h <;> rcases hqcbIn with h' | h' <;> simp [h, h']
  simp only [ringCheck, hrange, halign, hin, if_false, Bool.false_eq_true]

theorem inOwnersPart_congr {a b : Block} (ho : a.obj = b.obj) (hd : a.dict = b.dict) (port fn g len : Nat) :
    inOwnersPart a port fn g len = inOwnersPart b port fn g len := by
  simp only [inOwnersPart, ho, inPart_congr ho hd]

/-- The block once queue `n` has been created, its `PRODUCER` read and its QCB written. -/
def sqCreated (b : Block) (e : BitVec 512) (o : AdminOrg) (c : Ctx) (producer : BitVec 32) (n : Nat) : Block :=
  let q := sqNew b e o c producer
  sqWriteback (putSq (hostAcc (bktTakeAll b c.part (createCharge e o)) q.qcbHost q.hostPort q.ownerFn q.qcbAddr 4 false) (.q n) q) (.q n)

theorem sqCreate_ok {b : Block} {e : BitVec 512} {o : AdminOrg} {c : Ctx} {cq : Cq} {n : Nat} (hcq : fmGet? b.q.cqs (field e 64 14) = some cq)
    (hc : ctxOf b (e.extractLsb' 96 24) = some c) (hport : cq.ownerPort = o.port) (hfn : cq.ownerFn = o.fn) (hcport : c.ownerPort = o.port)
    (hcfn : c.ownerFn = o.fn)
    (hring : ringCheck (field e 80 5) 16 (field e 128 64) (field e 192 64) 64 (bitAt e 85) (bitAt e 86) (inPart b c.part) = none)
    (hn : lowestFree (fmKeys b.q.sqs) 0 65536 = some n) (producer : BitVec 32) :
    sqCreate b e o producer = .ok (act (sqCreated b e o c producer n)) n := by
  simp only [sqCreate, hcq, hc, hport, hfn, hcport, hcfn, decide_true, Bool.and_self, Bool.not_true, Bool.false_eq_true, if_false, hring, hn]
  rfl

theorem cqCreate_ok {b : Block} {e : BitVec 512} {o : AdminOrg} {n : Nat}
    (hring : ringCheck (field e 64 5) 20 (field e 128 64) (field e 192 64) 32 (bitAt e 69) (bitAt e 70) (inOwnersPart b o.port o.fn) = none)
    (hn : lowestFree (fmKeys b.q.cqs) 0 16384 = some n) :
    let c := cqNew e o
    cqCreate b e o 0 = .ok (act (cqWriteback (putCq (hostAcc b c.qcbHost c.hostPort c.ownerFn c.qcbAddr 4 false) (.q n) c) (.q n))) n := by
  simp only [cqCreate, hring, hn, ne_eq, not_true_eq_false, if_false]

/-- A ready command is taken and carried out (R103). -/
theorem adminStep_ready {s : State} {x : AdminIn} {op : Nat} {e : BitVec 512} {fields : List (Nat × Nat)} {privOnly : Bool}
    {ctx : Option (BitVec 24)} {states : List CtxState} (h : AdminReady s x op e fields privOnly ctx states)
    {also legal : BitVec 512 → Bool} {ctxAt : BitVec 512 → Option (BitVec 24)} (halso : also e = true) (hlegal : legal e = true)
    (hctx : ctxAt e = ctx) (run : Block → BitVec 512 → AdminOrg → AdminRes) :
    adminStep x op fields also legal privOnly ctxAt states run s.blk =
      adminFinish (adminTake s.blk x.src) x.src e (run (adminTake s.blk x.src) e (adminOrg s.blk x.src e)) := by
  simp only [adminStep, h.front, h.opcode, halso, h.clear, hlegal, hctx, Bool.and_self, if_true, decide_true, adminCheck_ready h]

/-- No breakwater holds the creation of a queue whose read passes its bucket (R64). -/
theorem sqCreateHeld_of_passes {b : Block} {x : AdminIn} {e : BitVec 512} {c : Ctx} (hfront : adminFront b x.src = some e)
    (hc : ctxOf b (e.extractLsb' 96 24) = some c) (hpass : bktPassAll b c.part true (createCharge e (adminOrg b x.src e)) = true) :
    sqCreateHeld b x = false := by
  simp only [sqCreateHeld, hfront, hc]
  cases sqCreate b e (adminOrg b x.src e) 0 <;> simp [hpass]

theorem exec_sqCreate_passes {s : State} {x : AdminIn} (hs : Running s) (hpass : sqCreateHeld s.blk x = false) (producer : BitVec 32) :
    exec (.sqCreate x producer) s = .next (s.withBlk (finish (adminStep x 0x01 sqCreateFields allLegal allLegal false
      (fun e => some (e.extractLsb' 96 24)) liveStates (fun b e o => sqCreate b e o producer)
      { s.blk with adm := { s.blk.adm with held := false } }))) := by
  change execSqCreate x producer s = _
  unfold execSqCreate
  rw [liftRA_running hs]
  simp only [hpass, Bool.false_eq_true, if_false]

/-! ## Destruction (R104, R107) -/

/-- Queue `m`, which was `q`, out of service: nothing of it is fetched or admitted any more. -/
def outOfService (b : Block) (m : Nat) (q : Sq) : Block :=
  if q.dying then b
  else putSq (giveUpFetches b (.q m) q true) (.q m)
    { q with dying := true, gen := q.gen + 1, cache := [], fetches := [], rd := .idle, rung := false, holdReq := false, probe := [],
             batches := q.batches.filter (fun z => z.closed) }

/-- The block once SQ_DESTROY has taken effect, its aborts included. -/
def destroyed (b : Block) (m : Nat) (q : Sq) (abort : Bool) : Block :=
  finish (outOfService b m q, if abort then sqAbort (outOfService b m q) m else [])

theorem sqDestroy_eq {b : Block} {e : BitVec 512} {o : AdminOrg} {q : Sq} (hq : fmGet? b.q.sqs (field e 64 16) = some q)
    (hmay : mayDestroy o q.ownerPort q.ownerFn = true) (hagain : q.dying = true → bitAt e 80 = true) :
    sqDestroy b e o = (let d := destroyed b (field e 64 16) q (bitAt e 80)
      if sqSpent d (field e 64 16) then .ok (act (sqGone d (field e 64 16))) 0 else .pend (.sqDestroy (field e 64 16)) (act d)) := by
  have hstate : (q.dying && !bitAt e 80) = false := by
    cases hd : q.dying with
    | false => rfl
    | true => simp [hagain hd]
  simp only [sqDestroy, hq, hmay, hstate, Bool.not_true, Bool.false_eq_true, if_false]
  rfl

theorem exec_sqDestroyComplete {s : State} {n : Nat} {q : Sq} (hs : Running s) (hq : fmGet? s.blk.q.sqs n = some q) (hdying : q.dying = true)
    (hspent : sqSpent s.blk n = true) : exec (.sqDestroyComplete n) s = .next (s.withBlk (sqGone s.blk n)) := by
  change execSqDestroyComplete n s = _
  unfold execSqDestroyComplete
  rw [liftR_running hs]
  simp only [hq, hdying, hspent, Bool.and_self, if_true]

/-- A destroyed queue is gone, and no destruction of it pends any more. -/
theorem sqGone_spec (b : Block) (n : Nat) :
    fmGet? (sqGone b n).q.sqs n = none ∧ ∀ p ∈ (sqGone b n).adm.pend, p.kind ≠ .sqDestroy n := by
  refine ⟨?_, fun p hp hkind => ?_⟩
  · have hsqs := foldl_keeps (fun b : Block => b.q.sqs) (f := fun b (p : Pend) => pendEnd b p stAdminOk dtNone 0)
      (fun b p => adminReport_sqs _ _ _ _ _ _ _ _ _)
    rw [sqGone]
    exact (congrArg (fun m => fmGet? m n) (hsqs _ _)).trans (fmGet?_fmErase_self _ _)
  · obtain ⟨hmem, hended⟩ := mem_foldl_pendEnd hp
    exact hended p (List.mem_filter.mpr ⟨hmem, by simpa using hkind⟩) rfl

theorem cqDestroy_ok {b : Block} {e : BitVec 512} {o : AdminOrg} {q : Cq} (hq : fmGet? b.q.cqs (field e 64 14) = some q)
    (hmay : mayDestroy o q.ownerPort q.ownerFn = true) (hfree : ∀ y ∈ b.q.sqs, y.2.cq ≠ field e 64 14) :
    cqDestroy b e o = .ok (act { b with q := { b.q with cqs := fmErase b.q.cqs (field e 64 14) } }) 0 := by
  have hbound : b.q.sqs.any (fun x => decide (x.2.cq = field e 64 14)) = false := by
    rw [List.any_eq_false]
    exact fun y hy => by simpa using hfree y hy
  simp only [cqDestroy, hq, hmay, hbound, Bool.not_true, Bool.false_eq_true, if_false]

/-! ## The statement -/

/-- Settles O33: each command by the checks that its hypotheses meet; a destroyed queue by what its end leaves. -/
theorem adminQueues : Obligations.AdminQueues := by
  unfold Obligations.AdminQueues
  intro s x e n b o
  refine ⟨?_, ?_, ?_, ?_, sqGone_spec b n, ?_⟩
  · intro c cq producer hc h hcq hport hfn hcport hcfn hlo hhi hring hqcb hringIn hqcbIn hn hpass taken
    let s' : State := { s with blk := { b with adm := { b.adm with held := false } } }
    have h' : AdminReady s' x 0x01 e sqCreateFields false (some (e.extractLsb' 96 24)) liveStates :=
      ⟨h.run, h.front, h.opcode, h.clear, h.shown, h.rights, h.owns⟩
    have hcheck := ringCheck_passes (entry := 64) (inside := inPart taken c.part) hlo hhi hring hqcb
      (by rw [inPart_adminTake]; exact hringIn) (by rw [inPart_adminTake]; exact hqcbIn)
    have hok : sqCreate taken e o producer = .ok (act (sqCreated taken e o c producer n)) n :=
      sqCreate_ok (by rw [adminTake_cqs]; exact hcq) (by rw [ctxOf_adminTake]; exact hc) hport hfn hcport hcfn hcheck
        (by rw [adminTake_sqs]; exact hn) producer
    refine ⟨sqNew taken e o c producer, rfl, rfl, rfl, rfl, rfl, rfl, rfl, rfl, rfl, rfl, rfl, rfl, rfl, rfl, ?_⟩
    have hstep := adminStep_ready h' (also := allLegal) (legal := allLegal) (ctxAt := fun e => some (e.extractLsb' 96 24)) rfl rfl rfl
      (fun b e o => sqCreate b e o producer)
    refine (exec_sqCreate_passes h.run (sqCreateHeld_of_passes h.front hc hpass) producer).trans ?_
    change Host.Outcome.next (s.withBlk (finish (adminStep x 0x01 sqCreateFields allLegal allLegal false _ liveStates _ s'.blk))) = _
    rw [hstep]
    change Host.Outcome.next (s.withBlk (finish (adminFinish taken x.src e (sqCreate taken e o producer)))) = _
    rw [hok]
    rfl
  · intro h hlo hhi hring hqcb hringIn hqcbIn hn
    have hcheck := ringCheck_passes (entry := 32) (inside := inOwnersPart (adminTake b x.src) o.port o.fn) hlo hhi hring hqcb
      (by rw [inOwnersPart_congr (adminTake_obj b x.src) (adminTake_dict b x.src)]; exact hringIn)
      (by rw [inOwnersPart_congr (adminTake_obj b x.src) (adminTake_dict b x.src)]; exact hqcbIn)
    refine ⟨cqNew e o, rfl, rfl, rfl, rfl, rfl, rfl, rfl, rfl, rfl, rfl, rfl, rfl, rfl, rfl, ?_⟩
    exact adminRun_ok h rfl rfl rfl (cqCreate_ok hcheck (by rw [adminTake_cqs]; exact hn))
  · intro q h hq hmay hagain m taken out d
    have hrun : sqDestroy taken e o = if sqSpent d m then .ok (act (sqGone d m)) 0 else .pend (.sqDestroy m) (act d) :=
      sqDestroy_eq (by rw [adminTake_sqs]; exact hq) hmay hagain
    refine ⟨fun hspent => ?_, fun hleft => ?_⟩
    · exact adminRun_ok h rfl rfl rfl (f := fun _ => sqGone d m) (hrun.trans (if_pos hspent))
    · exact adminRun_pend h rfl rfl rfl (hrun.trans (if_neg (by simp [hleft])))
  · intro q hs hq hdying hspent
    exact exec_sqDestroyComplete hs hq hdying hspent
  · intro q h hq hmay hfree
    exact adminRun_ok h rfl rfl rfl (f := fun b => { b with q := { b.q with cqs := fmErase b.q.cqs (field e 64 14) } })
      (cqDestroy_ok (by rw [adminTake_cqs]; exact hq) hmay (by rw [adminTake_sqs]; exact hfree))

end Sys2Proof.Machine
end

section
/-! PROOFS. Calls of the lookup expander (spec/08_lookup_expander.md, R199 to R201, R216): their own reads, the checks of a request block, and
their end. -/

namespace Sys2Proof.Machine

open Sys2Proof

/-! ## A read of a few bytes (R201, R242) -/

/-- A range of at most 64 bytes within one page is charged one unit of 64 bytes. -/
theorem rangesCharge_one {b : Block} {h : BitVec 24} {va len g : Nat} (hpos : 0 < len) (hlen : len ≤ 64)
    (hpage : va % 0x10000 + len ≤ 0x10000) (hg : translateOwn b h va false = some g) :
    rangesCharge b h [(va, len)] = some [(stackBucket b g, 64)] := by
  have hmin : min len (0x10000 - va % 0x10000) = len := by omega
  have hfuel : len / 0x10000 = 0 := by omega
  have hunit : chargeBytes len = 64 := by simp only [chargeBytes, roundUp]; omega
  have hne : len ≠ 0 := by omega
  simp only [rangesCharge, List.foldl_cons, List.foldl_nil, hfuel, rangeCharge, hne, hmin, hg, Nat.sub_self, if_true, if_false, hunit,
    Option.map_some, chargeAdd, List.any_nil]
  simp

/-- A read of at most 64 bytes within one page, which its bucket passes, is issued. -/
theorem xIssue_one {b : Block} {n id va len g : Nat} {r : Run} {x : XCall} (hranges : xRanges x = [(va, len)])
    (hpos : 0 < len) (hlen : len ≤ 64) (hpage : va % 0x10000 + len ≤ 0x10000) (hg : translateOwn b r.ctx va false = some g)
    (hpass : bktPass b r.part (stackBucket b g) 64 true = true) (again : Bool) : xIssue b n r id x again =
      act (putCall (bktTake b r.part (stackBucket b g) 64) id { x with issued := true, since := b.tide.clock }) := by
  simp only [xIssue, hranges, List.isEmpty_cons, Bool.false_eq_true, if_false, rangesCharge_one hpos hlen hpage hg, bktPassAll,
    List.all_cons, hpass, List.all_nil, Bool.and_self, if_true]
  rfl

section
variable {b : Block} {n id g : Nat} {r : Run} {x : XCall} (hpass : bktPass b r.part (stackBucket b g) 64 true = true)
include hpass

/-- The read of a request block (R199). -/
theorem xIssue_block (hphase : x.phase = .block) (halign : x.va % 64 = 0) (hg : translateOwn b r.ctx x.va false = some g) (again : Bool) :
    xIssue b n r id x again =
      act (putCall (bktTake b r.part (stackBucket b g) 64) id { x with issued := true, since := b.tide.clock }) :=
  xIssue_one (va := x.va) (len := 64) (by simp only [xRanges, hphase]) (by omega) (by omega) (by omega) hg hpass again

/-- The last offset, which is the index count (R202), stands where its table ends. -/
theorem xIssue_total (hphase : x.phase = .total) (halign : xOff x.blk % xEs x.blk = 0)
    (hg : translateOwn b r.ctx (xOff x.blk + xEs x.blk * (xF x.blk * xB x.blk)) false = some g) (again : Bool) :
    xIssue b n r id x again =
      act (putCall (bktTake b r.part (stackBucket b g) 64) id { x with issued := true, since := b.tide.clock }) := by
  have hranges : xRanges x = [(xOff x.blk + xEs x.blk * (xF x.blk * xB x.blk), xEs x.blk)] := by simp only [xRanges, hphase]
  have hva : (xOff x.blk + xEs x.blk * (xF x.blk * xB x.blk)) % xEs x.blk = 0 := by rw [Nat.add_mul_mod_self_left, halign]
  have hsize : xEs x.blk = 4 ∨ xEs x.blk = 8 := by unfold xEs; split <;> simp
  generalize xOff x.blk + xEs x.blk * (xF x.blk * xB x.blk) = va at *
  rcases hsize with hsize | hsize <;> rw [hsize] at hranges hva <;>
    exact xIssue_one hranges (by omega) (by omega) (by omega) hg hpass again

end

/-! ## The checks of a request block (R200) -/

/-- A block that passes its checks has its offsets aligned. -/
theorem xOff_aligned {d : BitVec 512} (h : blockCheck d = none) : xOff d % xEs d = 0 := by
  unfold blockCheck at h
  dsimp only at h
  split at h
  · cases h
  · split at h
    · cases h
    · rename_i halign
      simp only [Bool.not_eq_true', Bool.not_eq_false, Bool.and_eq_true, decide_eq_true_eq] at halign
      obtain ⟨⟨⟨⟨⟨⟨⟨-, -⟩, -⟩, hoff⟩, -⟩, -⟩, -⟩, -⟩ := halign
      exact hoff

theorem WritesBack.xp {a b : Block} (h : WritesBack a b) : b.xp = a.xp := by obtain ⟨_, _, _, _, _, rfl⟩ := h; rfl
theorem WritesBack.ctr {a b : Block} (h : WritesBack a b) : b.ctr = a.ctr := by obtain ⟨_, _, _, _, _, rfl⟩ := h; rfl

theorem skipWrite_frame (b : Block) (c : Nat) (r : Run) (reason slot op off sva detail : Nat) :
    (skipWrite b c r reason slot op off sva detail).xp = b.xp ∧ (skipWrite b c r reason slot op off sva detail).ctr = b.ctr := by
  unfold skipWrite
  split
  · exact ⟨rfl, rfl⟩
  · exact ⟨(writesBack_ringPut _ _ _ _ _ _ _).xp, (writesBack_ringPut _ _ _ _ _ _ _).ctr⟩

/-- A skip leaves the expander alone, and every counter but those of skips (R171, R174). -/
theorem skipAt_frame {b : Block} {n : Nat} {r : Run} (hr : runOf b n = some r) (c reason slot op off sva detail : Nat) :
    (skipAt b c n reason slot op off sva detail).xp = b.xp ∧ ∀ key, key ≠ cSkip → key ≠ cSkipSuppressed →
      fmGet (skipAt b c n reason slot op off sva detail).ctr key 0 = fmGet b.ctr key 0 := by
  simp only [skipAt, hr]
  split
  · obtain ⟨hxp, hctr⟩ := skipWrite_frame (cnt (putRun (putCore b c { coreOf b c with skips := (coreOf b c).skips + 1 }) n
      { r with skips := true }) cSkip) c r reason slot op off sva detail
    refine ⟨hxp, fun key hskip _ => ?_⟩
    rw [hctr]
    exact fmGet_fmSet_ne _ _ _ hskip
  · exact ⟨rfl, fun key hskip hsuppressed => (fmGet_fmSet_ne _ _ _ hsuppressed).trans (fmGet_fmSet_ne _ _ _ hskip)⟩

/-- A call that fails a check is skipped: it leaves its core, which counts a skip, and is counted (R200). -/
theorem callSkip_spec {b : Block} {n : Nat} {r : Run} (hr : runOf b n = some r) (c id : Nat) (x : XCall) (reason : Nat) :
    (coreOf (callSkip b c n id x reason) c).calls = (coreOf b c).calls.filter (fun y => decide (y ≠ id)) ∧
    fmGet? (callSkip b c n id x reason).xp.calls id = none ∧
    (coreOf (callSkip b c n id x reason) c).skips = (coreOf b c).skips + 1 ∧
    fmGet (callSkip b c n id x reason).ctr 0x158 0 = satAdd 32 (fmGet b.ctr 0x158 0) 1 := by
  have hr' : runOf (callGone b c id) n = some r := hr
  have hcore : coreOf (callGone b c id) c = { coreOf b c with calls := (coreOf b c).calls.filter (fun y => decide (y ≠ id)) } := by
    simp [callGone]
  obtain ⟨hxp, hctr⟩ := skipAt_frame hr' c reason x.slotNo 0x51 x.off x.streamVa x.slot.toNat
  simp only [callSkip, coreOf_cnt, coreOf_skipAt _ _ _ _ _ _ _ _ hr', hcore, cnt_xp, hxp]
  refine ⟨trivial, fmGet?_fmErase_self _ _, trivial, ?_⟩
  rw [show (0x158 : Nat) = cXpCallSkip from rfl, cnt_value, hctr _ (by decide) (by decide)]
  rfl

/-! ## The commands -/

/-- The run of a call, while its heat goes on, is the one that its number names. -/
theorem runOf_of_callRun {b : Block} {x : XCall} {r : Run} (h : callRun b x = some r) : runOf b x.run = some r := by
  unfold callRun at h
  split at h
  · rename_i q hq
    split at h
    · rw [hq, h]
    · cases h
  · cases h

section
variable {b : Block} {c id : Nat} {x : XCall} {r : Run} {h : HeatRead} (hcall : curCall b c = some (id, x)) (hrun : callRun b x = some r)
  (hnow : heatReadNow b r.tag h = true) (hphase : x.phase = .block) (hissued : x.issued = true) {d : BitVec 512}
include hcall hrun hnow hphase hissued

/-- A block that passes its checks is followed by the read of the index count. -/
theorem xReadReturn_block (hcheck : blockCheck d = none) :
    xReadReturn b c h (.block d) = xIssue b x.run r id { x with blk := d, phase := .total } false := by
  simp only [xReadReturn, hcall, hrun, hissued, hnow, Bool.not_true, Bool.or_self, Bool.false_eq_true, if_false, hphase, hcheck]

theorem xReadReturn_block_fails {why : Nat} (hcheck : blockCheck d = some why) :
    xReadReturn b c h (.block d) = act (callSkip b c x.run id x why) := by
  simp only [xReadReturn, hcall, hrun, hissued, hnow, Bool.not_true, Bool.or_self, Bool.false_eq_true, if_false, hphase, hcheck]

end

/-- Settles O25: the two reads by the range that each asks for, the failed check by the skip, the end by what the call leaves. -/
theorem expanderCalls : Obligations.ExpanderCalls := by
  unfold Obligations.ExpanderCalls
  refine ⟨?_, ?_⟩
  · intro s c id x r g hs b k hcall hrun hpass reads
    refine ⟨?_, ?_, ?_⟩
    · intro hphase halign hg
      have haccept : xAccept b c = xIssue b x.run r id { x with phase := .block } false := by simp only [xAccept, hcall, hrun, hphase]
      refine (liftRA_running hs fun b => xAccept b c).trans ?_
      rw [haccept, xIssue_block (x := { x with phase := .block }) hpass rfl halign hg]
      rfl
    · intro h d hnow hphase hissued hcheck hg
      refine (liftReplyA_running hs _ fun b => xReadReturn b c h (.block d)).trans ?_
      rw [xReadReturn_block hcall hrun hnow hphase hissued hcheck,
        xIssue_total (x := { x with blk := d, phase := .total }) hpass rfl (xOff_aligned hcheck) hg]
      rfl
    · intro h d why hnow hphase hissued hcheck
      refine gives_withBlk (liftReplyA_running hs _ fun b => xReadReturn b c h (.block d)) ?_
      rw [xReadReturn_block_fails hcall hrun hnow hphase hissued hcheck]
      exact callSkip_spec (runOf_of_callRun hrun) c id x why
  · intro s c id ids x hs b k hcalls hx hphase hbags hxq hout
    have hover : callOver b c id x = true := by
      simpa [callOver, hphase, hbags] using ⟨hxq, hout⟩
    have hfirst : xcallEnd b c = callGone b c id := by
      simp only [xcallEnd, show (coreOf b c).calls = id :: ids from hcalls, List.find?_cons, hx, hover]
    refine (liftR_running hs fun b => xcallEnd b c).trans ?_
    rw [hfirst]
    rfl

end Sys2Proof.Machine
end

section
/-! PROOFS. The start of a customer handler (spec/15_microcode.md, R375, R376) is a step of its microsequencer (R324), which the block notes:
this refutes O38. -/

namespace Sys2Proof.Machine

open Sys2Proof

/-! ## Steps of units (R324, R335) -/

theorem fmSet_ne_nil {α : Type} (m : FMap α) (k : Nat) (v : α) : fmSet m k v ≠ [] := by
  intro h
  simpa [h, fmGet?] using fmGet?_fmSet_self m k v

theorem foldl_fmSet_ne_nil {α : Type} (f : Nat → α) {l : List Nat} (h : l ≠ []) (m : FMap α) :
    l.foldl (fun m n => fmSet m n (f n)) m ≠ [] := by
  induction l generalizing m with
  | nil => exact absurd rfl h
  | cons n ns ih =>
    cases ns with
    | nil => exact fmSet_ne_nil m n (f n)
    | cons k ks => exact ih (by simp) _

/-- A command in which some unit has completed a step leaves a last step noted. -/
theorem prog_ne_nil_of_step {a b : Block} {u : Nat} (hu : u ∈ unitIds) (h : unitSame a b u = false) : (noteSteps a b).rcv.prog ≠ [] :=
  foldl_fmSet_ne_nil (unitStepNow b) (List.ne_nil_of_mem (List.mem_filter.mpr ⟨hu, by simp [h]⟩)) b.rcv.prog

/-- The invocation that microsequencer 0 takes is a step of unit 1. -/
theorem unitSame_of_taken {a b : Block} {ms : MicroSeq} (ha : fmGet? a.mic.seqs 0 = none) (hb : fmGet? b.mic.seqs 0 = some ms) :
    unitSame a b 1 = false := by
  simp [unitSame, ha, hb]

/-- Where no step has been noted, the start of a handler on microsequencer 0 changes more than that microsequencer. -/
theorem withBlk_ne_of_start {s : State} (hidle : fmGet? s.blk.mic.seqs 0 = none) (hprog : s.blk.rcv.prog = []) (d : Block) (ms : MicroSeq) :
    (s.withBlk d).blk ≠ { s.blk with mic := { s.blk.mic with seqs := fmSet s.blk.mic.seqs 0 ms } } := by
  intro hblk
  have htaken : fmGet? d.mic.seqs 0 = some ms := by
    have hmic := congrArg (fun b : Block => fmGet? b.mic.seqs 0) hblk
    simpa using hmic
  exact prog_ne_nil_of_step (u := 1) (by simp [unitIds]) (unitSame_of_taken hidle htaken)
    ((congrArg (fun b : Block => b.rcv.prog) hblk).trans hprog)

/-! ## The counterexample -/

/-- A customer submission of opcode 0x80 for context 0. -/
def startEntry : BitVec 512 := 0x80

/-- A submission queue of function 0 of port 0 at whose front it has arrived. -/
def startSq : Sq := { aqSq Block.fresh 0 0 with producer := 1, fetchPtr := 1, cache := [(0, startEntry)] }

/-- The block booted, with that queue and its context, and a handler loaded for the opcode; no unit has completed a step yet. -/
def startBlk : Block :=
  let f := Block.fresh
  { f with
    mic := { f.mic with status := 2, selftest := 1, desc := [(0, 1)] }
    obj := { f.obj with ctxs := [(0, wideCtx)] }
    q := { f.q with sqs := [(0, startSq)] } }

/-- The chip out of reset, with that block. -/
def startState : State :=
  { pending := [], pin := { Pins.inReset with rst := false, long := true }, blk := startBlk }

/-- Its front entry passes the tests, and its handler is loaded. -/
theorem startBlk_starts : frontEntry startBlk 0 = some startEntry ∧ 0x80 ≤ eOpcode startEntry ∧ entryReserved startEntry = false ∧
    imageHolds startBlk (eOpcode startEntry) = false ∧ bitAt (descOf startBlk false (eOpcode startEntry)) 0 = true ∧
    admitTest startBlk startSq startEntry = none := by decide +kernel

theorem startState_running : Running startState := ⟨⟨⟨rfl, rfl⟩, rfl⟩, rfl⟩

/-- Refutes O38: the handler of `startState` starts, but the statement has the block otherwise as it was, and the block has noted the step
that its microsequencer's unit completes with the start (R324, R335; log entry 72): none was noted before. -/
theorem not_handlerStarts : ¬ Obligations.HandlerStarts := by
  unfold Obligations.HandlerStarts
  intro h
  obtain ⟨hfront, hopcode, hreserved, hheld, hloaded, htest⟩ := startBlk_starts
  obtain ⟨hsubmission, -⟩ := h startState startEntry
  obtain ⟨hstarts, -⟩ := hsubmission 0 startSq startState_running hfront rfl hopcode hreserved hheld rfl
  obtain ⟨t, ht, ms, hblk, -⟩ := hstarts hloaded htest
  have hexec : exec (.customerSubmission 0) startState = .next (startState.withBlk (customerSubmission startBlk 0)) :=
    liftR_running startState_running fun b => customerSubmission b 0
  cases hexec.symm.trans ht
  exact withBlk_ne_of_start rfl rfl _ ms hblk

end Sys2Proof.Machine
end

section
/-! PROOFS. NOP, DUMP_BUFFER and reserved opcodes (spec/04_admin_commands.md, R99 to R103, R106, R110), and completions in the registers of the
secure mailbox (R397, R454), whose fields read back as they were packed. -/

namespace Sys2Proof.Machine

open Sys2Proof

/-! ## Packed fields (R5) -/

/-- A bit of packed fields is set where one of the fields sets it. -/
theorem testBit_packFields (fs : List (Nat × Nat × Nat)) (i : Nat) :
    (packFields fs).testBit i = fs.any (fun f => decide (f.1 ≤ i ∧ i < f.1 + f.2.1) && f.2.2.testBit (i - f.1)) := by
  induction fs with
  | nil => simp [packFields]
  | cons f fs ih =>
    obtain ⟨lo, w, v⟩ := f
    have hhere : ((v % 2 ^ w) <<< lo).testBit i = (decide (lo ≤ i ∧ i < lo + w) && v.testBit (i - lo)) := by
      rw [Nat.testBit_shiftLeft, Nat.testBit_mod_two_pow, Bool.decide_and, Bool.and_assoc]
      by_cases hle : lo ≤ i
      · simp only [hle, decide_true, Bool.true_and, Nat.sub_lt_iff_lt_add' hle]
      · simp [hle]
    rw [packFields, Nat.testBit_or, hhere, ih, List.any_cons]

/-- A field that no other one meets reads back, cut to its width. -/
theorem field_packFields {n : Nat} {fs : List (Nat × Nat × Nat)} {lo w v : Nat} (hmem : (lo, w, v) ∈ fs)
    (hapart : ∀ f ∈ fs, f = (lo, w, v) ∨ f.1 + f.2.1 ≤ lo ∨ lo + w ≤ f.1) (hfits : lo + w ≤ n) :
    field (BitVec.ofNat n (packFields fs)) lo w = v % 2 ^ w := by
  refine Nat.eq_of_testBit_eq fun i => ?_
  rw [field, BitVec.testBit_toNat, BitVec.getLsbD_extractLsb', BitVec.getLsbD_ofNat, testBit_packFields, Nat.testBit_mod_two_pow]
  by_cases hi : i < w
  · have hn : lo + i < n := by omega
    have hany : fs.any (fun f => decide (f.1 ≤ lo + i ∧ lo + i < f.1 + f.2.1) && f.2.2.testBit (lo + i - f.1)) = v.testBit i := by
      rw [Bool.eq_iff_iff, List.any_eq_true]
      constructor
      · rintro ⟨f, hf, hset⟩
        rw [Bool.and_eq_true, decide_eq_true_eq] at hset
        obtain ⟨hin, hbit⟩ := hset
        obtain rfl | hout := hapart f hf
        · simpa using hbit
        · omega
      · intro hbit
        exact ⟨_, hmem, by simp [hi, hbit]⟩
    simp only [hi, hn, hany, decide_true, Bool.true_and]
  · simp [hi]

/-- `TAG`, `STATUS` and `DETAIL` of an admin completion (R101, R102). -/
theorem adminBytes_fields (x : AdminCompl) (phase : Bool) (consumer : Nat) :
    field (adminBytes x phase consumer) 0 16 = x.tag.toNat ∧ field (adminBytes x phase consumer) 16 8 = x.status % 256 ∧
    field (adminBytes x phase consumer) 40 8 = x.detail % 256 := by
  refine ⟨?_, ?_, ?_⟩
  · exact (field_packFields (v := x.tag.toNat) (by simp) (by simp) (by decide)).trans (Nat.mod_eq_of_lt x.tag.isLt)
  · exact field_packFields (v := x.status) (by simp) (by simp) (by decide)
  · exact field_packFields (v := x.detail) (by simp) (by simp) (by decide)

/-! ## Registration of a dump buffer (R110) -/

theorem dumpRegister_sets (b : Block) (port : Nat) {addr len : Nat} (halign : addr % 4096 = 0) (hlen : 0x800000 ≤ len) :
    dumpRegister b port addr len = .ok (act { b with adm := { b.adm with dumpBufs := fmSet b.adm.dumpBufs port (addr, len) } }) 0 := by
  have hshort : ¬ (len ≠ 0 ∧ len < 0x800000) := by omega
  rw [dumpRegister, if_neg (not_not.mpr halign), if_neg hshort, if_neg (by omega)]

theorem dumpRegister_removes (b : Block) (port : Nat) {addr : Nat} (halign : addr % 4096 = 0) :
    dumpRegister b port addr 0 = .ok (act { b with adm := { b.adm with dumpBufs := fmErase b.adm.dumpBufs port } }) 0 := by
  simp [dumpRegister, halign]

/-! ## The statement -/

/-- A reserved opcode is taken and refused (R100). -/
theorem exec_reservedAdminOpcode {s : State} {x : AdminIn} {e : BitVec 512} (hs : Running s) (hfront : adminFront s.blk x.src = some e)
    (hadmin : aOpcode e < 0x80) (hnone : aOpcode e ∉ adminOpcodes) : exec (.reservedAdminOpcode x) s = .next (s.withBlk
      (adminReport (adminTake s.blk x.src) x.src (aTag e) (aOpcode e) (aFunction e) 0x22 0x03 0 true)) := by
  change execReservedAdminOpcode x s = _
  unfold execReservedAdminOpcode
  rw [liftRA_running hs]
  have hreserved : (decide (aOpcode e < 0x80) && !adminOpcodes.contains (aOpcode e)) = true := by simp [hadmin, hnone]
  simp only [hfront, hreserved, if_true]
  rfl

/-- Settles O32: the commands by the checks that their hypotheses meet, a mailbox completion by the fields of the register that it is
packed into. -/
theorem adminPlain : Obligations.AdminPlain := by
  unfold Obligations.AdminPlain
  refine ⟨fun s x e => ⟨fun h => adminRun_ok h rfl rfl rfl (f := id) rfl, ?_, exec_reservedAdminOpcode⟩, fun b tag op fn st dt res => ?_⟩
  · intro h p addr len halign
    refine ⟨fun hlen => adminRun_ok h rfl rfl rfl (dumpRegister_sets _ p halign hlen), fun hlen => adminRun_ok h rfl rfl rfl ?_⟩
    rw [show field e 128 32 = 0 from hlen]
    exact dumpRegister_removes _ p halign
  · obtain ⟨htag, hst, hdt⟩ := adminBytes_fields
      { tag := tag, status := st, event := false, opcode := op, detail := dt, code := 0, time := stamp b,
        result := if st = stAdminOk then res else 0, fn := fn } true 0
    exact ⟨rfl, rfl, rfl, rfl, rfl, ⟨htag.symm, fun hlt => hst.trans (Nat.mod_eq_of_lt hlt), fun hlt => hdt.trans (Nat.mod_eq_of_lt hlt)⟩, rfl⟩

end Sys2Proof.Machine
end

section
/-! PROOFS. The boot loader's LOAD (spec/15_microcode.md, R382) of an image whose address lies on another chip, which refutes O37. -/

namespace Sys2Proof.Machine

open Sys2Proof

/-! ## BOOT_CMD LOAD (R382, R462) -/

/-- A LOAD that passes its checks is stored and carried out. -/
theorem exec_bootLoad {s : State} {a : DictAcc} {d : Desc} (h : DictReady s a d) (hi : a.idx = 0xA000) (hk : a.sub = 6)
    (hload : a.value % 256 = 1) (htested : s.blk.mic.selftest = 1) (hidle : s.blk.mic.status ≠ 1) (hunready : s.blk.mic.status ≠ 2) :
    exec (.bootLoad a) s = .next (s.withBlk (finish ((rowBootLoad a).run (dictStore (noted s.blk a) a d)))) := by
  refine (liftA_alive h.alive fun b => if (rowBootLoad a).mine then dictTurn b .write a (fun b => rowWrite b a (rowBootLoad a))
    else act b).trans ?_
  have hmine : (rowBootLoad a).mine = true := by simp [rowBootLoad, hi, hk, hload]
  have hfree : entryCond s.blk 0xA000 6 1 = none := by simp [entryCond, stateIf, ready, htested, hidle, hunready]
  have hcond : (rowBootLoad a).cond (noted s.blk a) = none := (entryCond_noted _ _ _ _ _).trans hfree
  simp only [hmine, if_true, dictTurn_free h.arrives, rowWrite, dictWrite, writeCheck_noted, h.checks, hcond, h.entry]

/-- A command entry keeps no value: the dictionary is as it was, and so is what it says of addresses. -/
theorem isLocal_dictStore_cmd {b : Block} {a : DictAcc} {d : Desc} (hcmd : isCmdEntry a.idx a.sub = true) (i k : Nat) :
    isLocal (dictStore (noted b a) a d) (dget (dictStore (noted b a) a d) i k) = isLocal b (dget b i k) := by
  have hdict : (dictStore (noted b a) a d).dict = b.dict := by simp [storedDict, hcmd]
  rw [isLocal_congr hdict, dget_congr hdict]

/-! ## The counterexample -/

/-- The secure master writes LOAD to `BOOT_CMD`. -/
def loadCmd : DictAcc :=
  { path := .secure, org := { port := 0, fn := 0, priv := 0 }, tag := 0, idx := 0xA000, sub := 6, len := 1, value := 1 }

/-- The entry that it writes. -/
def loadEntry : Desc := { type := 6, access := 3, dflt := 0, lo := 0, hi := 1, align := 1, also := none, blob := 0, cal := false }

/-- The chip out of reset and tested, nothing loaded; `BOOT_IMAGE_ADDR` is the first address of chip 1, and this is chip 0. -/
def farImage : State :=
  { pending := [], pin := { Pins.inReset with rst := false, long := true },
    blk := { Block.fresh with mic := { Block.fresh.mic with selftest := 1 }, dict := [(dkey 0xA000 4, 2 ^ 52)] } }

theorem farImage_ready : DictReady farImage loadCmd loadEntry where
  alive := ⟨rfl, rfl⟩
  tested := by decide
  path := rfl
  idle := rfl
  quiet := by decide
  entry := by decide
  checks := by decide

/-- Refutes O37: LOAD of an image at an address of another chip. The boot loader reads local device memory only (R468), so the read fails:
`LOAD_STATUS` is 5 at once, where the statement has it LOADING for every address. -/
theorem not_microcodeImages : ¬ Obligations.MicrocodeImages := by
  unfold Obligations.MicrocodeImages
  intro h
  obtain ⟨-, -, -, -, hload, -⟩ := h farImage
  obtain ⟨t, ht, hmic, -⟩ := hload loadCmd loadEntry farImage_ready rfl rfl rfl rfl (by decide) (by decide)
  cases (exec_bootLoad farImage_ready rfl rfl rfl rfl (by decide) (by decide)).symm.trans ht
  have hfar : isLocal farImage.blk (dget farImage.blk 0xA000 4) = false := by decide
  have hstatus := congrArg (fun m : Micro => m.status) hmic
  simp [rowBootLoad, loadStatus, emit, isLocal_dictStore_cmd (show isCmdEntry loadCmd.idx loadCmd.sub = true by decide), hfar] at hstatus

end Sys2Proof.Machine
end

section
/-! PROOFS. The end of a customer handler (spec/15_microcode.md, R376 to R378): what the completion of an entry, a report of the executor and the
release of a microsequencer leave unchanged. -/

namespace Sys2Proof.Machine

open Sys2Proof

/-! ## What completions and reports leave unchanged (R92, R101) -/

theorem WritesBack.mic {a b : Block} (h : WritesBack a b) : b.mic = a.mic := by obtain ⟨_, _, _, _, _, rfl⟩ := h; rfl

namespace Reports

variable {a b : Block} (h : Reports a b)
include h

theorem mic : b.mic = a.mic := by obtain ⟨_, _, _, _, h⟩ := h; exact h.mic
theorem fen : b.fen = a.fen := by obtain ⟨_, _, _, _, h⟩ := h; exact h.fen
theorem rcv : b.rcv = a.rcv := by obtain ⟨_, _, _, _, h⟩ := h; exact h.rcv
theorem pendNo : b.adm.pendNo = a.adm.pendNo := by obtain ⟨_, _, _, _, h⟩ := h; rw [h.adm]

end Reports

theorem cqPush_sqs (b : Block) (m : Nat) (x : CqEnt) : (cqPush b m x).q.sqs = b.q.sqs := by
  unfold cqPush; split <;> rfl

theorem writesBack_cqPush (b : Block) (m : Nat) (x : CqEnt) : WritesBack b (cqPush b m x) := by
  unfold cqPush
  split
  · exact .refl b
  · exact ⟨_, _, _, _, _, rfl⟩

theorem writesBack_entryOver (b : Block) (n ord status time frame : Nat) (keep wait : Option Nat) :
    WritesBack b (entryOver b n ord status time frame keep wait) := by
  unfold entryOver
  split
  · exact .refl b
  · exact (writesBack_putSq b _ _).trans (WritesBack.foldl (fun b _ => writesBack_cqPush b _ _) _ _)

theorem writesBack_rejectEntry (b : Block) (n ord : Nat) (e : BitVec 512) (status : Nat) : WritesBack b (rejectEntry b n ord e status) := by
  unfold rejectEntry
  split
  · exact .refl b
  · dsimp only
    refine WritesBack.trans ?_ (writesBack_entryOver _ _ _ _ _ _ _ _)
    split
    · exact .refl b
    · exact writesBack_cqPush _ _ _

/-! ## A hold that waits for an entry (R86) -/

/-- A hold of queue `n` waits for the handler of its front entry to end. -/
def holdWaits (b : Block) (n : Nat) : Bool := (fmGet? b.q.sqs n).any (fun s => s.holdReq)

theorem entryOver_holdWaits (b : Block) (n ord status time frame : Nat) (keep wait : Option Nat) :
    holdWaits (entryOver b n ord status time frame keep wait) n = holdWaits b n := by
  cases hs : fmGet? b.q.sqs n with
  | none => simp only [entryOver, hs]
  | some s =>
    simp only [entryOver, hs, holdWaits]
    rw [foldl_keeps (fun b : Block => b.q.sqs) (fun b x => cqPush_sqs b s.cq (batchEnt n x))]
    simp [putSq]

theorem rejectEntry_holdWaits (b : Block) (n ord : Nat) (e : BitVec 512) (status : Nat) :
    holdWaits (rejectEntry b n ord e status) n = holdWaits b n := by
  unfold rejectEntry
  split
  · rfl
  · dsimp only
    rw [entryOver_holdWaits, holdWaits]
    split
    · rfl
    · rw [cqPush_sqs]; rfl

/-- The queue once its front entry has been taken: the next entry has the next ordinal, and a hold waits as before. -/
theorem entryTake_sq {b : Block} {n : Nat} {s : Sq} (e : BitVec 512) (rej : Bool) (h : fmGet? b.q.sqs n = some s) :
    ∃ s', fmGet? (entryTake b n e rej).2.q.sqs n = some s' ∧ s'.ordinal = s.ordinal + 1 ∧ s'.holdReq = s.holdReq := by
  simp only [entryTake, h, sqConsume, putSq, sqOf, fmGet?_fmSet_self]
  split
  · rw [sqWriteback_q (fmGet?_fmSet_self _ _ _)]
    exact ⟨_, fmGet?_fmSet_self _ _ _, rfl, rfl⟩
  · exact ⟨_, fmGet?_fmSet_self _ _ _, rfl, rfl⟩

/-! ## A microsequencer leaves an invocation (R86, R376) -/

/-- The block with microsequencer `m` free. -/
def seqFree (b : Block) (m : Nat) : Block := { b with mic := { b.mic with seqs := fmErase b.mic.seqs m } }

theorem seqLeave_sub {b : Block} {n : Nat} (h : holdWaits b n = false) (m : Nat) : seqLeave b m (.sub n) = seqFree b m := by
  have h' : (fmGet? b.q.sqs n).any (fun s => s.holdReq) = false := h
  simp only [seqLeave, h', Bool.false_eq_true, if_false]
  rfl

/-- The handler of entry `e` of queue `n`, which was `q`, has ended on microsequencer `m`: the entry has been completed with a status to its CQ,
which was `c`, and not admitted. -/
def SubEnded (b : Block) (m n : Nat) (q : Sq) (c : Cq) (e : BitVec 512) (st : Nat) (d : Block) : Prop :=
  d.mic = (seqFree b m).mic ∧ d.sb = b.sb ∧ Rejected b n q c e st d

section
variable {b : Block} {m n : Nat} {ms : MicroSeq} {q : Sq} {c : Cq} (hwho : ms.who = some (.sub n)) (hq : fmGet? b.q.sqs n = some q)
  (hdying : q.dying = false) (hhold : q.holdReq = false) (hc : fmGet? b.q.cqs q.cq = some c)
include hwho hq hdying hhold hc

theorem handlerEnd_sub {st : Nat} (hst : st ≠ stDone) (detail result : Nat) :
    SubEnded b m n q c ms.entry st (handlerEnd b m ms st detail result) := by
  let took := entryTake b n ms.entry true
  have htaken := entryTake_taken ms.entry true hq
  have hrejected := rejectEntry_rejected ms.entry took.1 htaken hc hst
  have hwrites := htaken.writes.trans (writesBack_rejectEntry took.2 n took.1 ms.entry st)
  have hlives : (fmGet? b.q.sqs n).any (fun s => !s.dying) = true := by simp [hq, hdying]
  have hnone : holdWaits (rejectEntry took.2 n took.1 ms.entry st) n = false := by
    obtain ⟨s', hs', -, hhold'⟩ := entryTake_sq ms.entry true hq
    rw [rejectEntry_holdWaits, holdWaits, hs', Option.any_some, hhold', hhold]
  have hend : handlerEnd b m ms st detail result = seqFree (rejectEntry took.2 n took.1 ms.entry st) m := by
    simp only [handlerEnd, hwho, hlives, if_true, seqLeave_sub hnone, took]
  rw [hend]
  refine ⟨?_, hwrites.sb, hrejected⟩
  simp only [seqFree, hwrites.mic]

/-- A bad status, or an export of the other kind of handler, rejects the entry (R377). -/
theorem badStatus_sub : SubEnded b m n q c ms.entry 0x22 (badStatus b m ms) := by
  simp only [badStatus, hwho]
  exact handlerEnd_sub (b := cnt b cUcodeBadStatus) hwho hq hdying hhold hc (by decide) _ _

end

/-- A handler of an admin command ends with its completion (R101). -/
theorem handlerEnd_admin {ms : MicroSeq} {src : Nat} {tag : BitVec 16} {op port : Nat} (hwho : ms.who = some (.admin src tag op port))
    (b : Block) (m status detail result : Nat) : handlerEnd b m ms status detail result =
      adminReport (seqFree b m) src tag op (aFunction ms.entry) status detail result true := by
  simp only [handlerEnd, hwho]
  rfl

theorem badStatus_admin {ms : MicroSeq} {src : Nat} {tag : BitVec 16} {op port : Nat} (hwho : ms.who = some (.admin src tag op port))
    (b : Block) (m : Nat) : badStatus b m ms =
      adminReport (seqFree (cnt b 0x308) m) src tag op (aFunction ms.entry) 0x3F 0 0 true := by
  simp only [badStatus, hwho, handlerEnd_admin hwho]
  rfl

/-- A status that COMPLETE_ENTRY accepts is none of an end without fault. -/
theorem entryStatus_ne_stDone {st : Nat} (h : entryStatus st = true) : st ≠ stDone := by
  rintro rfl
  exact absurd h (by decide)


end Sys2Proof.Machine
end

section
/-! PROOFS. The exports of customer handlers and their step limit (spec/15_microcode.md, R377, R378; spec/04_admin_commands.md, R105). -/

namespace Sys2Proof.Machine

open Sys2Proof

/-! ## A wait on a cached fence (R119) -/

theorem fenceNow_cached {b : Block} {g cur : Word} (hlocal : isLocal b g.toNat = true) (hmiss : ∀ f ∈ b.fen.misses, f.addr ≠ g)
    (hcur : (fenceEnt b g).map (fun f => f.value) = some cur) : fenceNow b g = some cur := by
  have hquiet : b.fen.misses.any (fun m => decide (m.addr = g)) = false := by
    rw [List.any_eq_false]
    exact fun f hf => by simpa using hmiss f hf
  simp only [fenceNow, hlocal, hquiet, Bool.not_false, Bool.and_self, if_true, hcur]

/-- The block once a pending handler's wait has been registered with a cached fence, which it has used. -/
def handlerRegistered (b : Block) (g v : Word) (no : Nat) : Block :=
  let b := fenceTouch b g
  { b with fen := { b.fen with waits := b.fen.waits ++ [{ addr := g, value := v, who := .handler no }] } }

/-- A wait of a pending handler on a fence of this chip whose value no read delays: not reached, and with room, it is registered. -/
theorem doFence_handler {b : Block} {g v cur : Word} (hcur : fenceNow b g = some cur) (hv : reached cur v = false)
    (hroom : fenceRoom b g = true) (no : Nat) : doFence b g (.wait (.handler no) v) = act (handlerRegistered b g v no) := by
  obtain ⟨hlocal, hmiss, x, hx, hxv⟩ := fenceNow_some hcur
  have hroom' : fenceRoom (fenceTouch b g) g = true := hroom
  simp only [doFence, hlocal, hx, hmiss, applyFence, applyWait, hxv, hv, hroom', if_true, Bool.false_eq_true, if_false]
  rfl

/-! ## ADMIT_AS (R377) -/

/-- Entry `e` of queue `n`, which was `q`, has become a work item under tag `t`, whose wait is still to reach its fence. -/
structure Submitted (b : Block) (n : Nat) (q : Sq) (t : Nat) (d : Block) : Prop where
  mic : d.mic = b.mic
  fen : d.fen = b.fen
  dict : d.dict = b.dict
  rcv : d.rcv = b.rcv
  item : ∃ i, itemOf d t = some i
  sq : ∃ s', fmGet? d.q.sqs n = some s' ∧ s'.ordinal = q.ordinal + 1 ∧ s'.holdReq = q.holdReq

section
variable {b : Block} {n : Nat} {q : Sq} {e : BitVec 512} {kind : ItemKind} {c : Ctx} {g cur : Word} (hidle : b.rcv.stage = .idle)
  (hq : fmGet? b.q.sqs n = some q) (htest : admitTest b q e = none) (hc : ctxOf b (eCtx e) = some c)
  (hroom : b.sb.items.length < sbCapacity) (hquota : quotaFull b c.part = false) (hfirst : eWaitAddr e false ≠ 0)
  (hsecond : eWaitAddr e true = 0) (haddr : translate b (eCtx e) (eWaitAddr e false) false = some g.toNat)
  (hcur : fenceNow b g = some cur) (hv : reached cur (eWaitValue e false) = false) (hpin : fenceRoom b g = true)

include hq htest hc hroom hquota hfirst hsecond haddr hcur hv hpin in
theorem submit_submitted : ∃ d t, submit b n e kind = (d, [.fence g (.wait (.item t false) (eWaitValue e false))]) ∧ Submitted b n q t d := by
  have hwrites := (entryTake_taken e false hq).writes
  obtain ⟨t, sb, ctr, halloc, -, hitem⟩ := sbAlloc_spec (b := (entryTake b n e false).2)
    (newItem n (entryTake b n e false).1 q.gen e c.part kind) (by rw [hwrites.sb]; exact hroom)
  obtain ⟨obj, mem, floor, hsettle⟩ := settleCtx_eq { (entryTake b n e false).2 with sb := sb, ctr := ctr } (eCtx e) false
  refine ⟨_, t, submit_admits hq htest hc hroom hquota hfirst hsecond haddr hcur hv hpin halloc, ?_⟩
  rw [hsettle]
  exact ⟨hwrites.mic, hwrites.fen, hwrites.dict, hwrites.rcv, ⟨_, hitem⟩, entryTake_sq e false hq⟩

/-- Where the wait of a submitted entry is registered, it matters not whether the microsequencer is free already. -/
theorem finish_seqFree {d : Block} {t : Nat} {v : Word} (hd : Submitted b n q t d) (hidle : b.rcv.stage = .idle)
    (hcur : fenceNow b g = some cur) (hv : reached cur v = false) (hpin : fenceRoom b g = true) (m : Nat) :
    finish (seqFree d m, [.fence g (.wait (.item t false) v)]) = seqFree (finish (d, [.fence g (.wait (.item t false) v)])) m ∧
    (finish (d, [.fence g (.wait (.item t false) v)])).mic = b.mic := by
  obtain ⟨i, hi⟩ := hd.item
  let numbered (x : Block) : Block := { x with sb := { x.sb with readySeq := x.sb.readySeq + 1 } }
  have registers (x : Block) (hfen : x.fen = d.fen) (hdict : x.dict = d.dict) (hix : itemOf x t = some i) :
      doTask x (.fence g (.wait (.item t false) v)) = act (waitRegistered x g v t i) :=
    doFence_registers ((fenceNow_congr (hfen.trans hd.fen) (hdict.trans hd.dict) g).trans hcur) hv
      ((fenceRoom_congr (hfen.trans hd.fen) (hdict.trans hd.dict) g).trans hpin) hix
  have hstage : d.rcv.stage = .idle := by rw [hd.rcv, hidle]
  rw [finish_single (b := seqFree d m) hstage (registers (numbered (seqFree d m)) rfl rfl hi),
    finish_single hstage (registers (numbered d) rfl rfl hi)]
  exact ⟨rfl, hd.mic⟩

include hidle hq htest hc hroom hquota hfirst hsecond haddr hcur hv hpin in
/-- ADMIT_AS of an entry that passes the tests: its microsequencer is free, and the entry waits as any other. -/
theorem admitAs_waits {m : Nat} {ms : MicroSeq} (hat : seqAt b m 0x11 = some ms) (hwho : ms.who = some (.sub n)) (he : admitEntry ms = e)
    (hkind : entryKind e = some kind) (hctx : eCtx e = eCtx ms.entry) (hdying : q.dying = false) (hhold : q.holdReq = false) :
    (finish (admitAs b m)).mic = (seqFree b m).mic ∧ Waits b n q e c g kind (finish (admitAs b m)) := by
  obtain ⟨d, t, hsubmit, hd⟩ := submit_submitted (kind := kind) hq htest hc hroom hquota hfirst hsecond haddr hcur hv hpin
  obtain ⟨s', hs', hord, hhold'⟩ := hd.sq
  have hwaits := submit_waits (kind := kind) hidle hq htest hc hroom hquota hfirst hsecond haddr hcur hv hpin
  obtain ⟨hfree, hmic⟩ := finish_seqFree hd hidle hcur hv hpin m
  have htaken : ((fmGet? d.q.sqs n).any fun t => decide (t.ordinal = q.ordinal)) = false := by simp [hs', hord]
  have hleave : seqLeave d m (.sub n) = seqFree d m := seqLeave_sub (by simp [holdWaits, hs', hhold', hhold]) m
  have hadmit : admitAs b m = (seqFree d m, [.fence g (.wait (.item t false) (eWaitValue e false))]) := by
    simp only [admitAs, hat, hwho, he, hq, hkind, hdying, hctx, hsubmit, htaken, hleave, ne_eq, not_true_eq_false, Bool.false_eq_true,
      if_false]
  rw [hsubmit] at hwaits
  rw [hadmit, hfree]
  refine ⟨?_, hwaits⟩
  simp only [seqFree, hmic]

end

/-! ## PEND_ON_FENCE (R105, R377) -/

/-- The block once a handler has left its microsequencer to pend, ADMIN_PENDING reported the first time. -/
def pendReported (b : Block) (m : Nat) (ms : MicroSeq) (src : Nat) (tag : BitVec 16) (op : Nat) : Block :=
  if ms.pend then seqFree b m else adminReport (seqFree b m) src tag op (aFunction ms.entry) stAdminPending dtNone 0 false

theorem reports_pendReported (b : Block) (m : Nat) (ms : MicroSeq) (src : Nat) (tag : BitVec 16) (op : Nat) :
    Reports (seqFree b m) (pendReported b m ms src tag op) := by
  unfold pendReported
  split
  · exact reports_of_writesBack (.refl _)
  · exact reports_adminReport _ _ _ _ _ _ _ _ _

/-- A handler of a customer command that pends: it resumes at the address in register 13 once fence `g` has reached the value in register 15. -/
def handlerPend (ms : MicroSeq) (src : Nat) (tag : BitVec 16) (op port g no : Nat) : Pend :=
  { no := no, src := src, tag := tag, opcode := op, fn := aFunction ms.entry, port := port,
    kind := .customer { ms with pc := field (wreg ms 13) 0 14, pend := true } (BitVec.ofNat 64 g) (wreg ms 15) }

/-- The block once a command pends under the next number. -/
def pendJoined (b : Block) (p : Pend) : Block :=
  { b with adm := { b.adm with pendNo := b.adm.pendNo + 1, pend := b.adm.pend ++ [p] } }

/-- A handler that may pend gives its place up and waits for a fence that has not reached the value. -/
theorem pendOnFence_waits {b : Block} {m : Nat} {ms : MicroSeq} {src : Nat} {tag : BitVec 16} {op port g : Nat} {cur : Word}
    (hidle : b.rcv.stage = .idle) (hat : seqAt b m 0x13 = some ms) (hwho : ms.who = some (.admin src tag op port))
    (hmay : bitAt (descOf b true op) 2 = true) (hregion : inRegion (field (wreg ms 13) 0 14) = true)
    (hfence : svcFence b ms (wreg ms 14) false = some g) (hcur : fenceNow b (BitVec.ofNat 64 g) = some cur)
    (hv : reached cur (wreg ms 15) = false) (hroom : fenceRoom b (BitVec.ofNat 64 g) = true) :
    let d := finish (pendOnFence b m)
    d.mic = (seqFree b m).mic ∧
    d.fen.waits = b.fen.waits ++ [{ addr := BitVec.ofNat 64 g, value := wreg ms 15, who := .handler b.adm.pendNo }] ∧
    d.adm.pend = b.adm.pend ++ [handlerPend ms src tag op port g b.adm.pendNo] := by
  let r := pendReported b m ms src tag op
  have hreports : Reports (seqFree b m) r := reports_pendReported b m ms src tag op
  have hno : r.adm.pendNo = b.adm.pendNo := hreports.pendNo
  have hmay' : (!dsMayPend (descOf b true op) || !inRegion (field (wreg ms 13) 0 14)) = false := by simp [dsMayPend, hmay, hregion]
  have hpends : pendOnFence b m = (pendJoined r (handlerPend ms src tag op port g r.adm.pendNo),
      [.fence (BitVec.ofNat 64 g) (.wait (.handler r.adm.pendNo) (wreg ms 15))]) := by
    simp only [pendOnFence, hat, hwho, hmay', hfence, Bool.false_eq_true, if_false, pendJoined, handlerPend]
    rfl
  let x := pendJoined r (handlerPend ms src tag op port g r.adm.pendNo)
  let numbered : Block := { x with sb := { x.sb with readySeq := x.sb.readySeq + 1 } }
  have htask : doTask numbered (.fence (BitVec.ofNat 64 g) (.wait (.handler r.adm.pendNo) (wreg ms 15))) =
      act (handlerRegistered numbered (BitVec.ofNat 64 g) (wreg ms 15) r.adm.pendNo) :=
    doFence_handler ((fenceNow_congr (a := numbered) hreports.fen hreports.dict _).trans hcur) hv
      ((fenceRoom_congr (a := numbered) hreports.fen hreports.dict _).trans hroom) _
  have hstage : x.rcv.stage = .idle := (congrArg (fun z : Recovery => z.stage) hreports.rcv).trans hidle
  rw [hpends, finish_single hstage htask]
  refine ⟨hreports.mic, ?_, ?_⟩
  · simp [handlerRegistered, fenceTouch, numbered, x, pendJoined, hno, hreports.fen, seqFree]
  · simp [handlerRegistered, fenceTouch, numbered, x, pendJoined, hno, hreports.pend, seqFree]

/-! ## PEND_RESUME (R377) -/

/-- Of the commands that pend, the first handler under its `TAG` whose wait has ended resumes. -/
theorem pendResume_resumes {b : Block} {l₁ l₂ : List Pend} {p : Pend} {ms : MicroSeq} {f v : Word} (hpend : b.adm.pend = l₁ ++ p :: l₂)
    (hkind : p.kind = .customer ms f v)
    (hfirst : ∀ y ∈ l₁, ∀ z f v, y.kind = .customer z f v → y.src = p.src → y.tag = p.tag → handlerWaits b y.no = true)
    (hbusy : b.adm.busy = none) (hseq : fmHas b.mic.seqs 2 = false) (hover : handlerWaits b p.no = false) :
    pendResume b p.src p.tag = { b with adm := { b.adm with pend := l₁ ++ l₂ }, mic := { b.mic with seqs := fmSet b.mic.seqs 2 ms } } := by
  have hnew : p ∉ l₁ := fun hmem => by simpa [hover] using hfirst p hmem ms f v hkind rfl rfl
  have herase : b.adm.pend.erase p = l₁ ++ l₂ := by rw [hpend, List.erase_append_right _ hnew, List.erase_cons_head]
  simp only [pendResume, hbusy, hseq, Option.isSome_none, Bool.or_self, Bool.false_eq_true, if_false]
  rw [(List.findSome?_eq_some_iff (b := (p, ms))).mpr ⟨l₁, p, l₂, hpend, ?_, ?_⟩]
  · simp only [herase, seqPut]
  · simp [hkind, hover]
  · intro y hy
    cases hy' : y.kind with
    | customer z f' v' => simpa using hfirst y hy z f' v' hy'
    | _ => rfl

/-! ## The exports of each kind of handler (R377), and its step limit (R378) -/

section
variable {b : Block} {m : Nat} {ms : MicroSeq}

section
variable {n : Nat} (hwho : ms.who = some (.sub n))
include hwho

theorem completeEntry_sub (hat : seqAt b m 0x10 = some ms) : completeEntry b m =
    if entryStatus (field (wreg ms 13) 0 8) then handlerEnd b m ms (field (wreg ms 13) 0 8) dtNone 0 else badStatus b m ms := by
  simp only [completeEntry, hat, hwho]

theorem adminFinal_sub (hat : seqAt b m 0x12 = some ms) : adminFinal b m = badStatus b m ms := by
  simp only [adminFinal, hat, hwho]

theorem pendOnFence_sub (hat : seqAt b m 0x13 = some ms) : pendOnFence b m = act (badStatus b m ms) := by
  simp only [pendOnFence, hat, hwho]

theorem stepLimit_sub (hms : fmGet? b.mic.seqs m = some ms) (hlimit : ms.limit ≤ ms.steps) :
    stepLimit b m = handlerEnd (cnt b cUcodeStepLimit) m ms stHang dtNone 0 := by
  simp only [stepLimit, hms, hwho, hlimit, Option.isSome_some, decide_true, Bool.and_self, if_true]

end

section
variable {src : Nat} {tag : BitVec 16} {op port : Nat} (hwho : ms.who = some (.admin src tag op port))
include hwho

theorem completeEntry_admin (hat : seqAt b m 0x10 = some ms) : completeEntry b m = badStatus b m ms := by
  simp only [completeEntry, hat, hwho]

theorem admitAs_admin (hat : seqAt b m 0x11 = some ms) : admitAs b m = act (badStatus b m ms) := by
  simp only [admitAs, hat, hwho]

theorem adminFinal_admin (hat : seqAt b m 0x12 = some ms) : adminFinal b m =
    if finalStatus (field (wreg ms 13) 0 8) && decide (field (wreg ms 13) 8 8 ≤ 0x0E)
    then handlerEnd b m ms (field (wreg ms 13) 0 8) (field (wreg ms 13) 8 8) (wreg ms 14).toNat else badStatus b m ms := by
  simp only [adminFinal, hat, hwho]

theorem stepLimit_admin (hms : fmGet? b.mic.seqs m = some ms) (hlimit : ms.limit ≤ ms.steps) :
    stepLimit b m = handlerEnd (cnt b cUcodeStepLimit) m ms stAdminFailed dtLimit 0 := by
  simp only [stepLimit, hms, hwho, hlimit, Option.isSome_some, decide_true, Bool.and_self, if_true]

end

end

/-! ## The statement -/

/-- Settles O40: a handler of a submission by the completion of its entry or by its admission, a handler of an admin command by its report. -/
theorem handlerEnds : Obligations.HandlerEnds := by
  unfold Obligations.HandlerEnds
  intro s m ms hs b gone st
  refine ⟨?_, ?_, ?_⟩
  · intro n q c hwho hq hdying hhold hc ends
    have gives {i : Instr} {d : Block} {st : Nat} (hi : exec i s = .next (s.withBlk d)) (hd : SubEnded b m n q c ms.entry st d) :
        Gives (exec i s) (ends st) := by
      obtain ⟨hmic, hsb, hsq, -, x, l, c', hcq, hpush, htag, hst, hkind, hn, -⟩ := hd
      exact gives_withBlk hi ⟨hmic, hsb, hsq, x, l, c', hcq, hpush, htag, hst, hkind, hn⟩
    have hbad : SubEnded b m n q c ms.entry 0x22 (badStatus b m ms) := badStatus_sub hwho hq hdying hhold hc
    refine ⟨fun hat hst => ?_, fun hat hst => ?_, fun hms hlimit => ?_, fun hat => ?_, fun hat => ?_, ?_⟩
    · refine gives (liftR_running hs fun b => completeEntry b m) ?_
      rw [completeEntry_sub hwho hat, if_pos hst]
      exact handlerEnd_sub hwho hq hdying hhold hc (entryStatus_ne_stDone hst) _ _
    · refine gives (liftR_running hs fun b => completeEntry b m) ?_
      rw [completeEntry_sub hwho hat, if_neg (Bool.eq_false_iff.mp hst)]
      exact hbad
    · refine gives (liftR_running hs fun b => stepLimit b m) ?_
      rw [stepLimit_sub hwho hms hlimit]
      exact handlerEnd_sub (b := cnt b cUcodeStepLimit) hwho hq hdying hhold hc (by decide) _ _
    · refine gives (liftR_running hs fun b => adminFinal b m) ?_
      rw [adminFinal_sub hwho hat]
      exact hbad
    · refine gives (liftRA_running hs fun b => pendOnFence b m) ?_
      rw [pendOnFence_sub hwho hat]
      exact hbad
    · intro k x g cur hat e hkind hctx htest hx hroom hquota hfirst hsecond haddr hlocal hcur hmiss hv hpin
      obtain ⟨hmic, tag, i, hfree, hitem, hn, hentry, -, -, hik, hstage, hw0, hw1, hconsumer, -⟩ :=
        admitAs_waits hs.2 hq htest hx hroom hquota hfirst hsecond haddr (fenceNow_cached hlocal hmiss hcur) hv hpin hat hwho rfl hkind hctx
          hdying hhold
      exact gives_withBlk (liftRA_running hs fun b => admitAs b m)
        ⟨hmic, hconsumer, tag, i, hfree, hitem, hn, hentry, hik, hstage, hw0, hw1⟩
  · intro src tag op port hwho
    have answers {i : Instr} {d d' : Block} (hi : exec i s = .next (s.withBlk d)) (hd : d = d') : exec i s = .next (s.withBlk d') := hd ▸ hi
    have hbad := badStatus_admin hwho b m
    refine ⟨fun hat hst hdt => ?_, fun hat hst => ?_, fun i hi => ?_, fun hms hlimit => ?_, ?_⟩
    · refine answers (liftR_running hs fun b => adminFinal b m) ?_
      rw [adminFinal_admin hwho hat, if_pos (by rw [show finalStatus _ = true from hst, decide_eq_true hdt]; rfl)]
      exact handlerEnd_admin hwho _ _ _ _ _
    · refine answers (liftR_running hs fun b => adminFinal b m) ?_
      rw [adminFinal_admin hwho hat, if_neg (by rw [show finalStatus _ = false from hst]; exact Bool.false_ne_true)]
      exact hbad
    · obtain ⟨hat, rfl⟩ | ⟨hat, rfl⟩ := hi
      · exact answers (liftR_running hs fun b => completeEntry b m) ((completeEntry_admin hwho hat).trans hbad)
      · exact answers (liftRA_running hs fun b => admitAs b m) ((congrArg finish (admitAs_admin hwho hat)).trans hbad)
    · exact answers (liftR_running hs fun b => stepLimit b m) ((stepLimit_admin hwho hms hlimit).trans (handlerEnd_admin hwho _ _ _ _ _))
    · intro g ent hat hmay hregion hfence hlocal hent hmiss hv hroom
      have hcur : fenceNow b (BitVec.ofNat 64 g) = some ent.value := fenceNow_cached hlocal hmiss (by rw [hent]; rfl)
      exact gives_withBlk (liftRA_running hs fun b => pendOnFence b m)
        (pendOnFence_waits hs.2 hat hwho hmay hregion hfence hcur hv hroom)
  · intro l₁ l₂ p f v hpend hkind hfirst hbusy hseq hover
    refine (liftR_running hs fun b => pendResume b p.src p.tag).trans ?_
    rw [pendResume_resumes hpend hkind hfirst hbusy hseq hover]

end Sys2Proof.Machine
end

section
/-! PROOFS. Operations on fences (spec/05_fences_dependencies.md, R111 to R123): a wait and a signal that meet a fence whose value is known, and
what follows a signal. -/

namespace Sys2Proof.Machine

open Sys2Proof

/-! ## Keyed maps -/

/-- An entry that a filter keeps is still the one at its key. -/
theorem fmGet?_filter_of {α : Type} {m : FMap α} {k : Nat} {v : α} {p : Nat × α → Bool} (h : fmGet? m k = some v) (hp : p (k, v) = true) :
    fmGet? (m.filter p) k = some v := by
  induction m with
  | nil => simp [fmGet?] at h
  | cons x t ih =>
    obtain ⟨j, w⟩ := x
    by_cases e : j = k
    · subst e
      obtain rfl : w = v := by simpa [fmGet?] using h
      simp [hp, fmGet?]
    · have ht : fmGet? t k = some v := by simpa [fmGet?, e] using h
      by_cases hj : p (j, w) = true
      · simp [hj, fmGet?, e, ih ht]
      · simpa [hj] using ih ht

/-! ## Effects in order (R14) -/

/-- At least three effects of a step are carried out. -/
theorem taskFuel_eq (b : Block) : ∃ k, taskFuel b = k + 3 := ⟨taskFuel b - 3, by unfold taskFuel; omega⟩

/-- The block in which the effects of a step begin: items that become ready in it share its number. -/
def numbered (b : Block) : Block := { b with sb := { b.sb with readySeq := b.sb.readySeq + 1 } }

theorem finish_tasks {b : Block} {l : List Task} (hidle : b.rcv.stage = .idle) (hl : l ≠ []) :
    finish (b, l) = runTasks (taskFuel b) l (numbered b) := by
  cases l with
  | nil => exact absurd rfl hl
  | cons t ts => simp only [finish, followUps, hidle, List.isEmpty_cons, Bool.false_eq_true, if_false, if_true, numbered]

/-- An effect that brings about one other, and that one none. -/
theorem finish_pair {b d e : Block} {t u : Task} (hidle : b.rcv.stage = .idle) (ht : doTask (numbered b) t = (d, [u]))
    (hu : doTask d u = act e) : finish (b, [t]) = e := by
  obtain ⟨k, hk⟩ := taskFuel_eq b
  rw [finish_tasks hidle (by simp), hk]
  simp only [runTasks, ht, List.nil_append, hu, act]

/-- An effect that brings about a second one, which brings about a third, and that one none. -/
theorem finish_triple {b d e f : Block} {t u v : Task} (hidle : b.rcv.stage = .idle) (ht : doTask (numbered b) t = (d, [u]))
    (hu : doTask d u = (e, [v])) (hv : doTask e v = act f) : finish (b, [t]) = f := by
  obtain ⟨k, hk⟩ := taskFuel_eq b
  rw [finish_tasks hidle (by simp), hk]
  simp only [runTasks, ht, List.nil_append, hu, hv, act]

/-- What follows an acknowledged write-through comes about in a recovery sequence too (R329). -/
theorem finish_after (b : Block) (x : AfterSignal) : finish (b, [.after x]) = doAfter (numbered b) x := by
  obtain ⟨k, hk⟩ := taskFuel_eq b
  have hkeeps : followUps (b, [.after x]) = [.after x] := by unfold followUps; split <;> rfl
  simp only [finish, hkeeps, hk, List.isEmpty_cons, Bool.false_eq_true, if_false, runTasks, doTask, act, numbered, List.append_nil]

/-! ## Who waits (R119, R122) -/

theorem doFence_known {b : Block} {g cur : Word} (h : fenceNow b g = some cur) (op : FOp) :
    doFence b g op = applyFence (fenceTouch b g) g cur op false := by
  obtain ⟨hlocal, hmiss, x, hx, rfl⟩ := fenceNow_some h
  simp only [doFence, hlocal, hx, hmiss, if_true, Bool.false_eq_true, if_false]

/-- A wait added to those on the fences. -/
def waitAdded (b : Block) (g v : Word) (w : Waiter) : Block :=
  { b with fen := { b.fen with waits := b.fen.waits ++ [{ addr := g, value := v, who := w }] } }

theorem applyWait_registers {b : Block} {g v cur : Word} (hv : reached cur v = false) (hroom : fenceRoom b g = true) (w : Waiter)
    (held : Bool) : applyWait b g v cur w held = act (noteRegistered (waitAdded b g v w) w g v) := by
  simp only [applyWait, hv, hroom, Bool.false_eq_true, if_false, if_true, waitAdded]

theorem applyWait_reached {b : Block} {g v cur : Word} (hv : reached cur v = true) (w : Waiter) (held : Bool) :
    applyWait b g v cur w held = (b, [.satisfied w g cur]) := by
  simp only [applyWait, hv, if_true]

/-- A wait on a fence whose value is known and not reached, with room, is registered. -/
theorem doFence_waits {b : Block} {g v cur : Word} (h : fenceNow b g = some cur) (hv : reached cur v = false) (hroom : fenceRoom b g = true)
    (w : Waiter) : doFence b g (.wait w v) = act (noteRegistered (waitAdded (fenceTouch b g) g v w) w g v) := by
  have hroom' : fenceRoom (fenceTouch b g) g = true := hroom
  rw [doFence_known h, applyFence, applyWait_registers hv hroom']

/-- A core that does not wait for a place of the cache has noted its wait already. -/
theorem noteRegistered_core {b : Block} {c : Nat} {credit : Bool} {g v : Word} {cr : Bool} {g' v' : Word}
    (h : (coreOf b c).hold = .localFence g v credit) : noteRegistered b (.core c cr) g' v' = b := by
  simp only [noteRegistered, h]

/-! ## Signals (R115, R123) -/

theorem signalOutcome_advances {v cur : Word} (hne : v ≠ cur) (hv : reached v cur = true) : signalOutcome v cur = 0 := by
  simp [signalOutcome, hne, hv]

theorem signalOutcome_regresses {v cur : Word} (hv : reached v cur = false) : signalOutcome v cur = 2 := by
  have hne : v ≠ cur := by rintro rfl; simp [reached] at hv
  simp [signalOutcome, hne, hv]

theorem afterWrite_none {b : Block} {a : Word} (h : ∀ w ∈ b.fen.writes, w.addr ≠ a) (x : AfterSignal) : afterWrite b a x = (b, [.after x]) := by
  have hnone : b.fen.writes.filter (fun w => decide (w.addr = a)) = [] := List.filter_eq_nil_iff.mpr fun w hw => by simpa using h w hw
  simp only [afterWrite, hnone, List.getLast?_nil]

/-- What follows the last write-through of a fence changes the write-throughs alone, or comes about at once. -/
theorem afterWrite_cases (b : Block) (a : Word) (x : AfterSignal) : afterWrite b a x = (b, [.after x]) ∨
    ∃ l, afterWrite b a x = act { b with fen := { b.fen with writes := l } } := by
  unfold afterWrite
  split
  · exact .inl rfl
  · exact .inr ⟨_, rfl⟩

/-- The write-through of a signal, issued now (R123, R323). -/
def signalWrite (b : Block) (a v : Word) (s : SigBy) : FWrite :=
  { addr := a, value := v, due := b.tide.clock + dget b 0x6000 5 * 1000, deps := s.deps, after := [withOutcome 0 s.after] }

/-- The block once a signal has advanced a cached fence on which nothing waits. -/
def signalled (b : Block) (a v : Word) (s : SigBy) : Block :=
  let b := cnt b cFenceSignal
  fenceSweep { b with fen := { b.fen with
    cache := fmMod b.fen.cache a.toNat (fun e => { e with value := v })
    writes := b.fen.writes ++ [signalWrite b a v s] } }

/-- A signal that advances a fence on which nothing waits (R115). -/
theorem applySignal_advances {b : Block} {a v cur : Word} (hne : v ≠ cur) (hv : reached v cur = true) (hwaits : ∀ w ∈ b.fen.waits, w.addr ≠ a)
    (s : SigBy) : applySignal b a v cur s = act (signalled b a v s) := by
  have hnone : b.fen.waits.filter (fun w => decide (w.addr = a) && reached v w.value) = [] :=
    List.filter_eq_nil_iff.mpr fun w hw => by simp [hwaits w hw]
  have hall : b.fen.waits.filter (fun w => !(decide (w.addr = a) && reached v w.value)) = b.fen.waits :=
    List.filter_eq_self.mpr fun w hw => by simp [hwaits w hw]
  simp only [applySignal, signalOutcome_advances hne hv, cnt_fen, hnone, hall, List.map_nil]
  rfl

/-- A signalled fence that stays mapped has the value, in the cache and on its way to memory, and the signal counts. -/
theorem signalled_spec {b : Block} {a : Word} {e : FenceEnt} (h : fenceEnt b a = some e) (hdrop : e.drop = false) (v : Word) (s : SigBy) :
    (fenceEnt (signalled b a v s) a).map (fun x => x.value) = some v ∧
    (signalled b a v s).fen.writes = b.fen.writes ++ [signalWrite b a v s] ∧
    fmGet (signalled b a v s).ctr 0x080 0 = satAdd 32 (fmGet b.ctr 0x080 0) 1 := by
  have hent : fmGet? (fmMod b.fen.cache a.toNat (fun e => { e with value := v })) a.toNat = some { e with value := v } := by
    rw [fmGet?_fmMod_self, show fmGet? b.fen.cache a.toNat = some e from h]; rfl
  refine ⟨?_, rfl, cnt_value b cFenceSignal⟩
  rw [show fenceEnt (signalled b a v s) a = some { e with value := v } from fmGet?_filter_of hent (by simp [hdrop])]
  rfl

theorem doFence_advances {b : Block} {a v cur : Word} (h : fenceNow b a = some cur) (hne : v ≠ cur) (hv : reached v cur = true)
    (hwaits : ∀ w ∈ b.fen.waits, w.addr ≠ a) (s : SigBy) : doFence b a (.signal v s) = act (signalled (fenceTouch b a) a v s) := by
  rw [doFence_known h, applyFence, applySignal_advances (b := fenceTouch b a) hne hv hwaits]

/-- A use of a fence leaves its value and whether its page is still mapped. -/
theorem fenceEnt_fenceTouch {b : Block} {a : Word} {e : FenceEnt} (h : fenceEnt b a = some e) :
    fenceEnt (fenceTouch b a) a = some { e with used := b.fen.clock } := by
  simp only [fenceEnt, fenceTouch, fmGet?_fmMod_self, show fmGet? b.fen.cache a.toNat = some e from h, Option.map_some]

end Sys2Proof.Machine
end

section
/-! PROOFS. Fence slots (spec/06_long_words.md, R163 to R165): how FWAIT, FREAD, FSIGNAL and CDECL come out on a fence that the cache holds, and
what the row leaves of the block where the slot changes its core, holds it or is skipped. -/

namespace Sys2Proof.Machine

open Sys2Proof

/-! ## How a slot's outcome decides its row (R152) -/

/-- A slot that leaves core `k'`, whether as a change of the core or of the block: the SLW ends, and the core goes on after it. -/
theorem ctrlRow_leavesCore {c n : Nat} {r : Run} {s : State} {op : BitVec 8} {f : SlotFields} (h : SlotReady s c n r) {k' : CoreSt}
    (hf : SlotLeaves (slotBlk s c op f) c n (oneSlw (coreOf s.blk c) op f) (slotWord op f)
      (ctrlSlot (slotBlk s c op f) c n r (oneSlw (coreOf s.blk c) op f) 0 (slotWord op f) false none) (putCore (slotBlk s c op f) c k') none)
    (hloops : k'.loops = []) (hlevels : k'.levels = (coreOf s.blk c).levels) (hslw : k'.slw = some (oneSlw (coreOf s.blk c) op f)) :
    ctrlRow c op f s = .next (s.withBlk
      (putCore s.blk c { k' with off := (coreOf s.blk c).off + 16, slw := none, syncCall := [] })) := by
  obtain ⟨hrun, -⟩ := runOf_of_issuing h.issues
  rw [ctrlRow_leaves c n r s op f h (putCore (slotBlk s c op f) c k') none hf (by simp [slotBlk, hrun]) rfl (by simpa using hslw)]
  rw [slwFlow_seq _ _ _ _ rfl (by show hEnd 1#64 = false; decide) (by simpa using hloops) (by simpa [curStream, hlevels] using h.known)
    (by have := h.more; simp only [coreOf_putCore, curStream, hlevels]; exact this)]
  simp [slotBlk]
  rfl

/-- A slot that holds ends its SLW's turn with what the hold leaves. -/
theorem slwSlot_holds {b : Block} {c n : Nat} {r : Run} {w : Slw} {slot : Word} (next : Block → Slw → Act) {x : Act} (hr : runOf b n = some r)
    (hf : ctrlSlot (putCore b c { coreOf b c with slw := some w }) c n r w 0 slot false w.value = .hold x) :
    slwSlot b c n w 0 slot false next = x := by
  unfold slwSlot
  simp only [hr]
  generalize ctrlSlot (putCore b c { coreOf b c with slw := some w }) c n r w 0 slot false w.value = y at hf ⊢
  subst hf
  rfl

/-- A slot that holds its core: what the hold leaves, with the effects that follow. -/
theorem ctrlRow_holds {c n : Nat} {r : Run} {s : State} {op : BitVec 8} {f : SlotFields} (h : SlotReady s c n r) {x : Act}
    (hf : ctrlSlot (slotBlk s c op f) c n r (oneSlw (coreOf s.blk c) op f) 0 (slotWord op f) false none = .hold x) :
    ctrlRow c op f s = .next (s.withBlk (finish x)) := by
  obtain ⟨hrun, -⟩ := runOf_of_issuing h.issues
  have hin : putCore (putCore s.blk c { slwCount (coreOf s.blk c) with syncCall := [] }) c
      { coreOf (putCore s.blk c { slwCount (coreOf s.blk c) with syncCall := [] }) c with
        slw := some (oneSlw (coreOf s.blk c) op f) } = slotBlk s c op f := by
    simp only [coreOf_putCore, putCore_putCore]; rfl
  have hslot := slwSlot_holds (b := putCore s.blk c { slwCount (coreOf s.blk c) with syncCall := [] })
    (w := oneSlw (coreOf s.blk c) op f) (fun b w => slwStop b c n w) (by simpa using hrun) (by rw [hin]; exact hf)
  rw [ctrlRow_run c n r s op f h]
  exact congrArg (fun y => Host.Outcome.next (s.withBlk (finish y))) hslot

/-- A slot that is skipped: the core as it was but for the count of its skips, and it goes on after the SLW. -/
theorem ctrlRow_skip_core {c n : Nat} {r : Run} {s : State} {op : BitVec 8} {f : SlotFields} (h : SlotReady s c n r) {reason : Nat}
    (hf : ctrlSlot (slotBlk s c op f) c n r (oneSlw (coreOf s.blk c) op f) 0 (slotWord op f) false none = .skip reason) :
    Gives (ctrlRow c op f s) (fun t => coreOf t.blk c =
      { slwCount (coreOf s.blk c) with
        skips := (coreOf s.blk c).skips + 1, slw := none, syncCall := [], off := (coreOf s.blk c).off + 16 }) := by
  obtain ⟨hrun, -⟩ := runOf_of_issuing h.issues
  have hrun' : runOf (slotBlk s c op f) n = some r := by simpa [slotBlk] using hrun
  let b := skipAt (slotBlk s c op f) c n reason 0 (slotOp (slotWord op f)).toNat (coreOf s.blk c).off
    (streamVa (coreOf (slotBlk s c op f) c) (coreOf s.blk c).off) (slotWord op f).toNat
  have hcore : coreOf b c = { inSlot (coreOf s.blk c) op f with skips := (coreOf s.blk c).skips + 1 } :=
    (coreOf_skipAt _ _ _ _ _ _ _ _ hrun').trans (by rw [slotBlk, coreOf_putCore]; rfl)
  have hstream : curStream (coreOf b c) = curStream (coreOf s.blk c) := by rw [hcore]; rfl
  have hmark : runOf b n = some { r with skips := true } := runOf_skipAt _ _ _ _ _ _ _ _ hrun'
  have hregs : b.regs = s.blk.regs := skipAt_regs _ _ _ _ _ _ _ _ hrun'
  have hflow := slwFlow_seq b c n { oneSlw (coreOf s.blk c) op f with stage := .engines, value := none, flow := .seq } rfl
    (show hEnd 1#64 = false by decide) (by rw [hcore]; exact h.noLoop) (by rw [hstream]; exact h.known)
    (by rw [hstream]; exact h.more)
  refine gives_withBlk (ctrlRow_leaves c n r s op f h b none (by rw [hf]; exact ⟨rfl, rfl⟩) (by simp [hmark])
    (by rw [hregs]) (by rw [hcore]; rfl)) ?_
  rw [Option.getD_none, hflow]
  simp only [finish_act, withBlk_blk, coreOf_noteSteps, coreOf_putCore, hcore]
  rfl

/-! ## The slots on a fence that the context reaches (R120, R163 to R165) -/

theorem routed_of_isLocal {b : Block} {g : Nat} (h : isLocal b g = true) : routed b (gchip g) = true := by
  have hchip : gchip g = chipNo b := by simpa [isLocal] using h
  simp [routed, hchip]

/-- A slot whose aligned address is translated and, if it must be, routed, goes on with its fence. -/
theorem fenceSlot_go {b : Block} {c n : Nat} {r : Run} {va : Nat} {write routes : Bool} {g : Word} (halign : va % 8 = 0)
    (hhit : tlbHit b r.ctx va = true) (hto : translate b r.ctx va write = some g.toNat) (hlocal : isLocal b g.toNat = true)
    (go : Word → CtrlRes) : fenceSlot b c n r va write routes go = go g := by
  simp [fenceSlot, halign, hhit, hto, routed_of_isLocal hlocal]

theorem unsample_nil {b : Block} {n : Nat} (h : sampleOf b n = none) : unsample b n = [] := by simp [unsample, h]

/-- A heat without a sample that changes its core, where R349 names the slot. -/
theorem ownRun_core {b : Block} {c n : Nat} {r : Run} (hr : isHeatRun r = true) (hs : sampleOf b n = none) (k : CoreSt) :
    ownRun b c n r (.core k) = .blk (putCore b c k, []) := by
  simp [ownRun, hr, unsample_nil hs]

theorem ownRun_hold {b : Block} {c n : Nat} {r : Run} (hr : isHeatRun r = true) (hs : sampleOf b n = none) {x : Act} (hx : x.1.rel = b.rel) :
    ownRun b c n r (.hold x) = .hold x := by
  have hx' : unsample x.1 n = [] := unsample_nil (by rw [sampleOf, hx]; exact hs)
  simp [ownRun, hr, hx']

section
variable {b : Block} {c n : Nat} {r : Run} {va : Nat} {g cur v : Word} (halign : va % 8 = 0) (hhit : tlbHit b r.ctx va = true)
  (hread : translate b r.ctx va false = some g.toNat) (hlocal : isLocal b g.toNat = true) (hrun : isHeatRun r = true)
  (hsample : sampleOf b n = none)
include halign hhit hread hlocal hrun hsample

theorem fwait_reached (hcur : fenceNow b g = some cur) (hv : reached cur v = true) (credit : Bool) :
    fwait b c n r va v credit = if credit then .blk (putCore b c (coreOf b c), []) else .core (coreOf b c) := by
  simp only [fwait, fenceSlot_go halign hhit hread hlocal, hcur, hv, if_true, ownRun_core hrun hsample]

theorem fwait_holds (hcur : fenceNow b g = some cur) (hv : reached cur v = false) (credit : Bool) :
    fwait b c n r va v credit = .hold (holdAt b c (.localFence g v credit), [.fence g (.wait (.core c credit) v)]) := by
  simp only [fwait, fenceSlot_go halign hhit hread hlocal, hcur, hv, Bool.false_eq_true, if_false,
    ownRun_hold hrun hsample (x := (holdAt b c _, _)) rfl, ite_self]

theorem fread_now (hcur : fenceNow b g = some cur) (d : BitVec 5) :
    fread b c n r va d = .blk (putCore b c (sSet (coreOf b c) d cur), []) := by
  simp only [fread, fenceSlot_go halign hhit hread hlocal, hcur, ownRun_core hrun hsample]

theorem cdecl_again (h : (coreOf b c).credits.contains g = true) : cdecl b c n r va = .blk (putCore b c (coreOf b c), []) := by
  simp only [cdecl, fenceSlot_go halign hhit hread hlocal, h, if_true, ownRun_core hrun hsample]

theorem cdecl_new (h : (coreOf b c).credits.contains g = false) (hroom : (coreOf b c).credits.length < 16) :
    cdecl b c n r va = .blk (putCore b c { coreOf b c with credits := (coreOf b c).credits ++ [g] }, []) := by
  simp only [cdecl, fenceSlot_go halign hhit hread hlocal, h, Nat.not_le.mpr hroom, Bool.false_eq_true, if_false,
    ownRun_core hrun hsample]

omit hrun hsample in
theorem cdecl_full (h : (coreOf b c).credits.contains g = false) (hfull : 16 ≤ (coreOf b c).credits.length) :
    cdecl b c n r va = .skip skCreditLimit := by
  simp only [cdecl, fenceSlot_go halign hhit hread hlocal, h, hfull, Bool.false_eq_true, if_false, if_true]

omit hread in
theorem fsignal_held (hwrite : translate b r.ctx va true = some g.toNat) :
    fsignal b c n r va v = .blk (putCore b c (signalHeld b c [(va, none)] v), []) := by
  simp only [fsignal, fenceSlot_go halign hhit hwrite hlocal, ownRun_core hrun hsample]

end

/-! ## From the slot to its effect (R155, R156) -/

/-- A slot in its opcode's form, no flow opcode, takes effect. -/
theorem ctrlSlot_legal {b : Block} {c n : Nat} {r : Run} {w : Slw} {op : BitVec 8} {f : SlotFields} {fm : Form}
    (hflow : isFlow op = false) (hform : formOf op = some fm) (hlegal : formLegal fm f = true) :
    ctrlSlot b c n r w 0 (slotWord op f) false none = ctrlEffect b c n r w 0 (slotWord op f) none := by
  simp [ctrlSlot, hflow, hform, hlegal]

/-- The form of a slot that names an address and at most two scalar registers and has no immediate. -/
theorem formLegal_address {u v : RegUse} {func : BitVec 8} {f : SlotFields} (hd : regLegal u f.d = true) (ha : f.a.toNat < 16)
    (hb : regLegal v f.b = true) (hfunc : f.func &&& ~~~func = 0) (hi : f.i = false) (himm : f.imm = 0) :
    formLegal ⟨u, .address, v, 0, func, .zero⟩ f = true := by
  have ha4 : f.a.getLsbD 4 = false := Nat.testBit_eq_false_of_lt ha
  have haddr : regLegal .address f.a = true := by rw [regLegal, ha4]; rfl
  simp only [formLegal, formWith, hd, hb, haddr, hfunc, hi, himm]
  simp

section
variable {b : Block} {c n : Nat} {r : Run} {w : Slw} {f : SlotFields}

theorem ctrlEffect_fwait : ctrlEffect b c n r w 0 (slotWord 0x48 f) none =
    fwait b c n r (aGet (coreOf b c) f.a).toNat (sGet (coreOf b c) f.b) (f.func.getLsbD 0) := by simp [ctrlEffect]

theorem ctrlEffect_fsignal : ctrlEffect b c n r w 0 (slotWord 0x49 f) none =
    fsignal b c n r (aGet (coreOf b c) f.a).toNat (sGet (coreOf b c) f.b) := by simp [ctrlEffect]

theorem ctrlEffect_cdecl : ctrlEffect b c n r w 0 (slotWord 0x4A f) none = cdecl b c n r (aGet (coreOf b c) f.a).toNat := by simp [ctrlEffect]

theorem ctrlEffect_fread : ctrlEffect b c n r w 0 (slotWord 0x4B f) none = fread b c n r (aGet (coreOf b c) f.a).toNat f.d := by
  simp [ctrlEffect]

end

/-! ## The rows -/

theorem coreOf_slotBlk (s : State) (c : Nat) (op : BitVec 8) (f : SlotFields) : coreOf (slotBlk s c op f) c = inSlot (coreOf s.blk c) op f :=
  coreOf_putCore _ _ _

/-- A slot that leaves its core as `k` with the SLW under way: the row leaves `k` after the SLW. -/
theorem ctrlRow_afterSlot {c n : Nat} {r : Run} {s : State} {op : BitVec 8} {f : SlotFields} (h : SlotReady s c n r) {k k' : CoreSt}
    (hf : SlotLeaves (slotBlk s c op f) c n (oneSlw (coreOf s.blk c) op f) (slotWord op f)
      (ctrlSlot (slotBlk s c op f) c n r (oneSlw (coreOf s.blk c) op f) 0 (slotWord op f) false none) (putCore (slotBlk s c op f) c k') none)
    (hk : k' = { inSlot (coreOf s.blk c) op f with s := k.s, held := k.held, credits := k.credits })
    (hkeep : { coreOf s.blk c with s := k.s, held := k.held, credits := k.credits } = k) :
    ctrlRow c op f s = .next (afterSlot s c k ((coreOf s.blk c).off + 16)) := by
  subst hk
  rw [ctrlRow_leavesCore h hf h.noLoop rfl rfl, ← hkeep]
  rfl

/-- Register `a` of a core between two SLWs holds the address of fence `g`, which the heat's context reaches and the cache holds with value
`cur`; the heat is not sampled (R120, R163, R349). -/
structure AtFence (s : State) (c n : Nat) (r : Run) (a : BitVec 5) (g cur : Word) : Prop where
  ready : SlotReady s c n r
  address : a.toNat < 16
  heat : isHeatRun r = true
  unsampled : sampleOf s.blk n = none
  aligned : (aGet (coreOf s.blk c) a).toNat % 8 = 0
  hit : tlbHit s.blk r.ctx (aGet (coreOf s.blk c) a).toNat = true
  writes : translate s.blk r.ctx (aGet (coreOf s.blk c) a).toNat true = some g.toNat
  reads : translate s.blk r.ctx (aGet (coreOf s.blk c) a).toNat false = some g.toNat
  home : isLocal s.blk g.toNat = true
  now : fenceNow s.blk g = some cur

@[simp] theorem aGet_slotBlk (s : State) (c : Nat) (op : BitVec 8) (f : SlotFields) (a : BitVec 5) :
    aGet (coreOf (slotBlk s c op f) c) a = aGet (coreOf s.blk c) a := by rw [coreOf_slotBlk]; rfl

@[simp] theorem sGet_slotBlk (s : State) (c : Nat) (op : BitVec 8) (f : SlotFields) (b : BitVec 5) :
    sGet (coreOf (slotBlk s c op f) c) b = sGet (coreOf s.blk c) b := by rw [coreOf_slotBlk]; rfl

section
variable {s : State} {c n : Nat} {r : Run} {a b d : BitVec 5} {g cur : Word} (h : AtFence s c n r a g cur)
include h

omit h in
theorem func_zero : 0#8 &&& ~~~0#8 = 0 := by decide

/-- The form of a fence slot's fields. -/
theorem AtFence.legal {u v : RegUse} {func : BitVec 8} {f : SlotFields} (ha : f.a = a) (hd : regLegal u f.d = true)
    (hb : regLegal v f.b = true) (hfunc : f.func &&& ~~~func = 0) (hi : f.i = false) (himm : f.imm = 0) :
    formLegal ⟨u, .address, v, 0, func, .zero⟩ f = true :=
  formLegal_address hd (ha ▸ h.address) hb hfunc hi himm

theorem exec_fread_now : exec (.fread c ⟨d, a, 0, false, 0, 0⟩) s =
    .next (afterSlot s c (sSet (coreOf s.blk c) d cur) ((coreOf s.blk c).off + 16)) := by
  let f : SlotFields := ⟨d, a, 0, false, 0, 0⟩
  have hslot : ctrlSlot (slotBlk s c 0x4B f) c n r (oneSlw (coreOf s.blk c) 0x4B f) 0 (slotWord 0x4B f) false none =
      .blk (putCore (slotBlk s c 0x4B f) c (sSet (coreOf (slotBlk s c 0x4B f) c) d cur), []) := by
    rw [ctrlSlot_legal (by decide) rfl (h.legal rfl rfl rfl func_zero rfl rfl), ctrlEffect_fread, aGet_slotBlk]
    exact fread_now (b := slotBlk s c 0x4B f) h.aligned h.hit h.reads h.home h.heat h.unsampled h.now d
  rw [coreOf_slotBlk] at hslot
  refine ctrlRow_afterSlot h.ready (by rw [hslot]; exact ⟨rfl, rfl⟩) ?_ ?_ <;> unfold sSet <;> split <;> rfl

theorem exec_fsignal_held : exec (.fsignal c ⟨0, a, b, false, 0, 0⟩) s = .next (afterSlot s c
    (signalHeld s.blk c [((aGet (coreOf s.blk c) a).toNat, none)] (sGet (coreOf s.blk c) b)) ((coreOf s.blk c).off + 16)) := by
  let f : SlotFields := ⟨0, a, b, false, 0, 0⟩
  have hslot : ctrlSlot (slotBlk s c 0x49 f) c n r (oneSlw (coreOf s.blk c) 0x49 f) 0 (slotWord 0x49 f) false none =
      .blk (putCore (slotBlk s c 0x49 f) c
        (signalHeld (slotBlk s c 0x49 f) c [((aGet (coreOf s.blk c) a).toNat, none)] (sGet (coreOf s.blk c) b)), []) := by
    rw [ctrlSlot_legal (by decide) rfl (h.legal rfl rfl rfl func_zero rfl rfl), ctrlEffect_fsignal, aGet_slotBlk, sGet_slotBlk]
    exact fsignal_held (b := slotBlk s c 0x49 f) h.aligned h.hit h.home h.heat h.unsampled h.writes
  rw [signalHeld, coreOf_slotBlk] at hslot
  exact ctrlRow_afterSlot h.ready (by rw [hslot]; exact ⟨rfl, rfl⟩) rfl rfl

/-- FWAIT reaches its effect. -/
theorem ctrlSlot_fwait (credit : Bool) {w : Slw} : let f : SlotFields := ⟨0, a, b, false, if credit then 1 else 0, 0⟩
    ctrlSlot (slotBlk s c 0x48 f) c n r w 0 (slotWord 0x48 f) false none =
      fwait (slotBlk s c 0x48 f) c n r (aGet (coreOf s.blk c) a).toNat (sGet (coreOf s.blk c) b) credit := by
  intro f
  have hfunc : (if credit then 1#8 else 0#8) &&& ~~~1#8 = 0 := by cases credit <;> decide
  have hcredit : f.func.getLsbD 0 = credit := (show ∀ x : Bool, (if x then 1#8 else 0#8).getLsbD 0 = x by decide) credit
  rw [ctrlSlot_legal (by decide) rfl (h.legal rfl rfl rfl hfunc rfl rfl), ctrlEffect_fwait, aGet_slotBlk, sGet_slotBlk, hcredit]

theorem exec_fwait_reached (hv : reached cur (sGet (coreOf s.blk c) b) = true) (credit : Bool) :
    exec (.fwait c ⟨0, a, b, false, if credit then 1 else 0, 0⟩) s =
      .next (afterSlot s c (coreOf s.blk c) ((coreOf s.blk c).off + 16)) := by
  let f : SlotFields := ⟨0, a, b, false, if credit then 1 else 0, 0⟩
  have hslot := (ctrlSlot_fwait h credit (w := oneSlw (coreOf s.blk c) 0x48 f)).trans
    (fwait_reached (b := slotBlk s c 0x48 f) h.aligned h.hit h.reads h.home h.heat h.unsampled h.now hv credit)
  refine ctrlRow_afterSlot (f := f) h.ready (k' := coreOf (slotBlk s c 0x48 f) c) ?_ (coreOf_slotBlk _ _ _ _) rfl
  rw [hslot]
  cases credit <;> exact ⟨rfl, rfl⟩

/-- FWAIT of a value not reached holds the core, and its wait is registered (R136, R163). -/
theorem exec_fwait_holds (hv : reached cur (sGet (coreOf s.blk c) b) = false) (hroom : fenceRoom s.blk g = true) (credit : Bool) :
    Gives (exec (.fwait c ⟨0, a, b, false, if credit then 1 else 0, 0⟩) s) (fun t =>
      (coreOf t.blk c).hold = .localFence g (sGet (coreOf s.blk c) b) credit ∧ (coreOf t.blk c).off = (coreOf s.blk c).off ∧
      t.blk.fen.waits = s.blk.fen.waits ++ [{ addr := g, value := sGet (coreOf s.blk c) b, who := .core c credit }]) := by
  let f : SlotFields := ⟨0, a, b, false, if credit then 1 else 0, 0⟩
  let v := sGet (coreOf s.blk c) b
  let held := holdAt (slotBlk s c 0x48 f) c (.localFence g v credit)
  have hslot := (ctrlSlot_fwait h credit (w := oneSlw (coreOf s.blk c) 0x48 f)).trans
    (fwait_holds (b := slotBlk s c 0x48 f) h.aligned h.hit h.reads h.home h.heat h.unsampled h.now hv credit)
  have hcore : coreOf held c = { inSlot (coreOf s.blk c) 0x48 f with
      hold := .localFence g v credit, holdFrom := s.blk.tide.clock, waitBy := s.blk.tide.clock + dget s.blk 0x6000 2 * 1000 } := by
    simp only [held, holdAt, coreOf_putCore, coreOf_slotBlk]
    rfl
  have hwait : doTask (numbered held) (.fence g (.wait (.core c credit) v)) =
      act (waitAdded (fenceTouch (numbered held) g) g v (.core c credit)) := by
    rw [doTask, doFence_waits (b := numbered held) h.now hv hroom]
    exact congrArg act (noteRegistered_core (congrArg (fun k : CoreSt => k.hold) hcore))
  refine gives_withBlk (ctrlRow_holds h.ready hslot) ?_
  rw [finish_single (show held.rcv.stage = _ from h.ready.run.2) hwait]
  have hcore' : coreOf (s.withBlk (waitAdded (fenceTouch (numbered held) g) g v (.core c credit))).blk c = coreOf held c := rfl
  rw [hcore', hcore]
  exact ⟨rfl, rfl, rfl⟩

/-- CDECL reaches its effect. -/
theorem ctrlSlot_cdecl {w : Slw} : let f : SlotFields := ⟨0, a, 0, false, 0, 0⟩
    ctrlSlot (slotBlk s c 0x4A f) c n r w 0 (slotWord 0x4A f) false none =
      cdecl (slotBlk s c 0x4A f) c n r (aGet (coreOf s.blk c) a).toNat := by
  intro f
  rw [ctrlSlot_legal (by decide) rfl (h.legal rfl rfl rfl func_zero rfl rfl), ctrlEffect_cdecl, aGet_slotBlk]

theorem exec_cdecl_again (hc : (coreOf s.blk c).credits.contains g = true) :
    exec (.cdecl c ⟨0, a, 0, false, 0, 0⟩) s = .next (afterSlot s c (coreOf s.blk c) ((coreOf s.blk c).off + 16)) := by
  let f : SlotFields := ⟨0, a, 0, false, 0, 0⟩
  have hslot := (ctrlSlot_cdecl h (w := oneSlw (coreOf s.blk c) 0x4A f)).trans
    (cdecl_again (b := slotBlk s c 0x4A f) h.aligned h.hit h.reads h.home h.heat h.unsampled (by rw [coreOf_slotBlk]; exact hc))
  exact ctrlRow_afterSlot h.ready (by rw [hslot]; exact ⟨rfl, rfl⟩) (coreOf_slotBlk _ _ _ _) rfl

theorem exec_cdecl_new (hc : (coreOf s.blk c).credits.contains g = false) (hroom : (coreOf s.blk c).credits.length < 16) :
    exec (.cdecl c ⟨0, a, 0, false, 0, 0⟩) s =
      .next (afterSlot s c { coreOf s.blk c with credits := (coreOf s.blk c).credits ++ [g] } ((coreOf s.blk c).off + 16)) := by
  let f : SlotFields := ⟨0, a, 0, false, 0, 0⟩
  have hslot := (ctrlSlot_cdecl h (w := oneSlw (coreOf s.blk c) 0x4A f)).trans
    (cdecl_new (b := slotBlk s c 0x4A f) h.aligned h.hit h.reads h.home h.heat h.unsampled (by rw [coreOf_slotBlk]; exact hc)
      (by rw [coreOf_slotBlk]; exact hroom))
  rw [coreOf_slotBlk] at hslot
  exact ctrlRow_afterSlot h.ready (by rw [hslot]; exact ⟨rfl, rfl⟩) rfl rfl

/-- A seventeenth credit is skipped (R136, R165). -/
theorem exec_cdecl_full (hc : (coreOf s.blk c).credits.contains g = false) (hfull : 16 ≤ (coreOf s.blk c).credits.length) :
    Gives (exec (.cdecl c ⟨0, a, 0, false, 0, 0⟩) s) (fun t => (coreOf t.blk c).off = (coreOf s.blk c).off + 16 ∧
      (coreOf t.blk c).credits = (coreOf s.blk c).credits ∧ (coreOf t.blk c).skips = (coreOf s.blk c).skips + 1) := by
  let f : SlotFields := ⟨0, a, 0, false, 0, 0⟩
  have hslot := (ctrlSlot_cdecl h (w := oneSlw (coreOf s.blk c) 0x4A f)).trans
    (cdecl_full (b := slotBlk s c 0x4A f) h.aligned h.hit h.reads h.home (by rw [coreOf_slotBlk]; exact hc)
      (by rw [coreOf_slotBlk]; exact hfull))
  obtain ⟨t, ht, hcore⟩ := ctrlRow_skip_core h.ready hslot
  exact ⟨t, ht, by rw [hcore], by rw [hcore]; rfl, by rw [hcore]⟩

end

/-! ## The statement -/

/-- Settles O8, slot by slot on a fence whose value is known. -/
theorem slotFences : Obligations.SlotFences := by
  unfold Obligations.SlotFences
  intro s c n r d a b g cur hready haddr hheat hunsampled k va halign hhit hwrites hreads hhome hnow res
  have h : AtFence s c n r a g cur := ⟨hready, haddr, hheat, hunsampled, halign, hhit, hwrites, hreads, hhome, hnow⟩
  exact ⟨fun cr => ⟨fun hv => exec_fwait_reached h hv cr, fun hv hroom => exec_fwait_holds h hv hroom cr⟩, exec_fread_now h,
    exec_fsignal_held h, exec_cdecl_again h, exec_cdecl_new h, exec_cdecl_full h⟩

end Sys2Proof.Machine
end

section
/-! PROOFS. Held signals, and the end of a core's part of a heat (spec/05_fences_dependencies.md, R115, R117, R120; spec/06_long_words.md, R164,
R169). -/

namespace Sys2Proof.Machine

open Sys2Proof

section
variable {b : Block} {c n : Nat} {r : Run} (hrun : (coreOf b c).run = some n) (hr : runOf b n = some r)
include hrun hr

/-- The oldest held signal of a core, for one fence of this chip, leaves the core and reaches the fence. -/
theorem heldApply_one {h : HeldSig} {hs : List HeldSig} {va : Nat} {g : Word} (hheld : (coreOf b c).held = h :: hs)
    (hsending : (coreOf b c).sending = 0) (hfence : h.fences = [(va, none)]) (hto : translate b r.ctx va true = some g.toNat)
    (hbusy : earlierBusy b c n h = false) (hlocal : isLocal b g.toNat = true) :
    heldApply b c = (putCore b c { coreOf b c with held := hs, sending := 1 }, [.fence g (.signal h.value
      { chip := chipNo b, ctx := r.ctx, tag := r.tag, part := heatPart b r, deps := [], after := .heldDone c })]) := by
  have hgs : h.fences.filterMap (heldAddr b r.ctx) = [g.toNat] := by simp [hfence, heldAddr, hto]
  have hlen : h.fences.length = 1 := by rw [hfence]; rfl
  have hroute : routed b (gchip g.toNat) = true := routed_of_isLocal hlocal
  simp only [heldApply, hrun, hheld, hr, hgs, hlen, hbusy, hsending, List.length_cons, List.length_nil, List.all_cons, hroute, List.all_nil]
  simp

/-- A core's part that is over while other parts of its heat go on (R169). -/
theorem corePartEnd_partial (hended : (coreOf b c).ended = true) (hbusy : coreBusy b c n = false) (hheld : (coreOf b c).held = [])
    (hsending : (coreOf b c).sending = 0) (hskips : (coreOf b c).skips ≤ 8) (hmore : ∃ d ∈ r.clusters, d ≠ c ∧ d ∉ r.partsEnded) :
    corePartEnd b c = act (putRun (putCore b c { coreOf b c with run := none, credits := [] }) n
      { r with partsEnded := r.partsEnded ++ [c], credits := (r.credits ++ (coreOf b c).credits).eraseDups }) := by
  obtain ⟨d, hd, hne, hopen⟩ := hmore
  have hall : (r.clusters.all (r.partsEnded ++ [c]).contains) = false :=
    List.all_eq_false.mpr ⟨d, hd, by simp [hne, hopen]⟩
  simp only [corePartEnd, hrun, hr, hended, hbusy, hheld, hsending, Nat.not_lt.mpr hskips, if_false, hall, List.isEmpty_nil,
    Bool.not_false, Bool.and_self, decide_true, if_true, Bool.false_eq_true]
  rfl

end

/-- Settles O20: the held signal meets its fence as any signal of this chip does; the end of a part brings about no end of the run. -/
theorem corePart : Obligations.CorePart := by
  unfold Obligations.CorePart
  refine ⟨?_, ?_⟩
  · intro s c n r h hs va g e hs' k hrun hr hheld hsending hfence hto hbusy hlocal he hdrop hmiss hwaits hne hadvance
    let b := putCore s.blk c { k with held := hs, sending := 1 }
    let by_ : SigBy := { chip := chipNo s.blk, ctx := r.ctx, tag := r.tag, part := heatPart s.blk r, deps := [], after := .heldDone c }
    have hnow : fenceNow (numbered b) g = some e.value :=
      fenceNow_cached (b := s.blk) hlocal hmiss (by rw [show fenceEnt s.blk g = some e from he]; rfl)
    have hsignal : doTask (numbered b) (.fence g (.signal h.value by_)) = act (signalled (fenceTouch (numbered b) g) g h.value by_) :=
      doFence_advances hnow hne (decide_eq_true hadvance) hwaits by_
    obtain ⟨hvalue, hwrites, hctr⟩ := signalled_spec (fenceEnt_fenceTouch (b := numbered b) he) hdrop h.value by_
    have hcore : coreOf (signalled (fenceTouch (numbered b) g) g h.value by_) c = { k with held := hs, sending := 1 } :=
      coreOf_putCore s.blk c _
    refine gives_withBlk (liftRA_running hs' fun b => heldApply b c) ?_
    rw [heldApply_one hrun hr hheld hsending hfence hto hbusy hlocal, finish_single (show b.rcv.stage = _ from hs'.2) hsignal]
    simp only [withBlk_blk, coreOf_noteSteps, hcore]
    exact ⟨trivial, trivial, hvalue, hwrites, hctr, rfl⟩
  · intro s c n r hs k hrun hr hended hbusy hheld hsending hskips hmore
    refine (liftRA_running hs fun b => corePartEnd b c).trans ?_
    rw [corePartEnd_partial hrun hr hended hbusy hheld hsending hskips hmore, finish_act]

end Sys2Proof.Machine
end

section
/-! PROOFS. What the sending of messages, the writing of records, the end of streams and the end of work items leave of the block: runs that
must end go on to end, ended streams stay ended, a Lost context stays Lost (R41, R42, R134, R140, R170, R309 to R316). -/

namespace Sys2Proof.Machine

open Sys2Proof

/-! ## Counters (R398) -/

/-- The counters of the access path, the queues, the fences, the cores, the heats, the frames and the live tables are the same: all those
below `GZ_TX` (R399). -/
def SameCounts (a b : Block) : Prop := ∀ k, k < 0x240 → fmGet b.ctr k 0 = fmGet a.ctr k 0

theorem SameCounts.refl (a : Block) : SameCounts a a := fun _ _ => rfl

theorem SameCounts.trans {a b c : Block} (h : SameCounts a b) (h' : SameCounts b c) : SameCounts a c :=
  fun k hk => (h' k hk).trans (h k hk)

theorem sameCounts_cntAdd (b : Block) {key : Nat} (h : 0x240 ≤ key) (k : Nat) : SameCounts b (cntAdd b key k) :=
  fun _ hj => fmGet_fmSet_ne _ _ _ (by omega)

/-! ## Messages sent (R309 to R316) -/

/-- `b` differs from `a` at most in what the sending of messages changes: the fabric but for what has been received, the counters of
messages and the outputs. -/
def Sends (a b : Block) : Prop := SameCounts a b ∧ b.fab.rx = a.fab.rx ∧ ∃ fab ctr out, b = { a with fab := fab, ctr := ctr, out := out }

namespace Sends

variable {a b c : Block}

theorem refl (a : Block) : Sends a a := ⟨.refl a, rfl, _, _, _, rfl⟩

theorem trans (h : Sends a b) (h' : Sends b c) : Sends a c := by
  obtain ⟨hcounts, hrx, fab, ctr, out, rfl⟩ := h
  obtain ⟨hcounts', hrx', fab', ctr', out', rfl⟩ := h'
  exact ⟨hcounts.trans hcounts', hrx'.trans hrx, _, _, _, rfl⟩

theorem foldl {α : Type} {f : Block → α → Block} (h : ∀ b x, Sends b (f b x)) (l : List α) (b : Block) : Sends b (l.foldl f b) := by
  induction l generalizing b with
  | nil => exact refl b
  | cons x xs ih => exact (h b x).trans (ih (f b x))

end Sends

theorem sends_emit (b : Block) (e : OutEvent) : Sends b (emit b e) := ⟨.refl b, rfl, _, _, _, rfl⟩
theorem sends_putLink (b : Block) (p : Nat) (l : LinkPort) : Sends b (putLink b p l) := ⟨.refl b, rfl, _, _, _, rfl⟩

theorem sends_cntAdd (b : Block) {key : Nat} (h : 0x240 ≤ key) (k : Nat) : Sends b (cntAdd b key k) :=
  ⟨sameCounts_cntAdd b h k, rfl, _, _, _, rfl⟩

theorem sends_cnt (b : Block) {key : Nat} (h : 0x240 ≤ key) : Sends b (cnt b key) := sends_cntAdd b h 1

theorem sends_putOnPort (b : Block) (p : Nat) (m : GzOut) : Sends b (putOnPort b p m) := by
  unfold putOnPort
  dsimp only
  split
  · split
    · exact sends_putLink _ _ _
    · exact (sends_putLink _ _ _).trans (sends_emit _ _)
  · exact (sends_putLink _ _ _).trans (sends_emit _ _)

theorem sends_gzRoute (b : Block) (m : GzOut) : Sends b (gzRoute b m) := by
  unfold gzRoute
  split
  · split
    · exact sends_cnt b (by decide)
    · split
      · exact sends_putOnPort _ _ _
      · exact ⟨.refl b, rfl, _, _, _, rfl⟩
  · exact sends_cnt b (by decide)

theorem sends_gzSend (b : Block) (dst : Nat) (msg : GzMsg) : Sends b (gzSend b dst msg) := by
  have hnumber (seqs : FMap (BitVec 32)) : Sends b { b with fab := { b.fab with txSeq := seqs } } := ⟨.refl b, rfl, _, _, _, rfl⟩
  exact (hnumber _).trans ((sends_cnt _ (by decide)).trans (sends_gzRoute _ _))

theorem sends_gzTree (b : Block) (msg : GzMsg) : Sends b (gzTree b msg) := by
  have hnumber (seq : BitVec 32) : Sends b { b with fab := { b.fab with treeSeq := seq } } := ⟨.refl b, rfl, _, _, _, rfl⟩
  unfold gzTree
  dsimp only
  split
  · exact .refl b
  · exact (hnumber _).trans ((sends_cnt _ (by decide)).trans (Sends.foldl (fun b n => sends_gzRoute b _) _ _))

section
variable {a b : Block} (h : Sends a b)
include h

theorem Sends.fen : b.fen = a.fen := by obtain ⟨-, -, _, _, _, rfl⟩ := h; rfl
theorem Sends.mem : b.mem = a.mem := by obtain ⟨-, -, _, _, _, rfl⟩ := h; rfl
theorem Sends.clock : b.tide.clock = a.tide.clock := by obtain ⟨-, -, _, _, _, rfl⟩ := h; rfl

end

theorem putOnPort_txSeq (b : Block) (p : Nat) (m : GzOut) : (putOnPort b p m).fab.txSeq = b.fab.txSeq := by
  unfold putOnPort
  dsimp only
  split
  · split <;> rfl
  · rfl

theorem gzRoute_txSeq (b : Block) (m : GzOut) : (gzRoute b m).fab.txSeq = b.fab.txSeq := by
  unfold gzRoute
  split
  · split
    · rfl
    · split
      · exact putOnPort_txSeq _ _ _
      · rfl
  · rfl

/-- A message sent takes the next number of its destination (R312). -/
theorem gzSend_txSeq (b : Block) (dst : Nat) (msg : GzMsg) :
    fmGet (gzSend b dst msg).fab.txSeq dst 0 = fmGet b.fab.txSeq dst 0 + 1 := by
  rw [gzSend, gzRoute_txSeq]
  exact fmGet_fmSet_self _ _ _ _

/-! ## Records written (R140, R445) -/

/-- `b` differs from `a` at most in what the writing of trace records changes: the memory, the highest stamp, the counters of records and
their number. -/
def Records (a b : Block) : Prop := SameCounts a b ∧ ∃ mem floor ctr seq,
  b = { a with mem := mem, tide := { a.tide with stampFloor := floor }, ctr := ctr, traceSeq := seq }

theorem Records.refl (a : Block) : Records a a := ⟨.refl a, _, _, _, _, rfl⟩

theorem Records.trans {a b c : Block} (h : Records a b) (h' : Records b c) : Records a c := by
  obtain ⟨hcounts, _, _, _, _, rfl⟩ := h
  obtain ⟨hcounts', _, _, _, _, rfl⟩ := h'
  exact ⟨hcounts.trans hcounts', _, _, _, _, rfl⟩

theorem records_ringPut (b : Block) (base log2 size seq t : Nat) (l : List Byte) : Records b (ringPut b base log2 size seq t l) := by
  unfold ringPut
  split
  · exact .refl b
  · rw [wrOwn_noteStamp]
    exact ⟨.refl b, _, _, _, _, rfl⟩

theorem records_cnt (b : Block) {key : Nat} (h : 0x240 ≤ key) : Records b (cnt b key) :=
  ⟨sameCounts_cntAdd b h 1, _, _, _, _, rfl⟩

theorem records_traceAt (b : Block) (t kind bit : Nat) (cluster : Option Nat) (payload : List (Nat × Nat × Nat)) :
    Records b (traceAt b t kind bit cluster payload) := by
  have hnumber (seq : Nat) : Records b { b with traceSeq := seq } := ⟨.refl b, _, _, _, _, rfl⟩
  unfold traceAt
  dsimp only
  split
  · split
    · exact hnumber _
    · split
      · exact (hnumber _).trans (records_cnt _ (by decide))
      · exact (hnumber _).trans ((records_ringPut _ _ _ _ _ _ _).trans (records_cnt _ (by decide)))
  · exact .refl b

theorem records_depRec (b : Block) (type chip : Nat) (cluster : Option Nat) (ctx addr cur val tag part extra : Nat) :
    Records b (depRec b type chip cluster ctx addr cur val tag part extra) := records_traceAt _ _ _ _ _ _

section
variable {a b : Block} (h : Records a b)
include h

theorem Records.fen : b.fen = a.fen := by obtain ⟨-, _, _, _, _, rfl⟩ := h; rfl
theorem Records.sb : b.sb = a.sb := by obtain ⟨-, _, _, _, _, rfl⟩ := h; rfl
theorem Records.fab : b.fab = a.fab := by obtain ⟨-, _, _, _, _, rfl⟩ := h; rfl
theorem Records.clock : b.tide.clock = a.tide.clock := by obtain ⟨-, _, _, _, _, rfl⟩ := h; rfl
theorem Records.rcv : b.rcv = a.rcv := by obtain ⟨-, _, _, _, _, rfl⟩ := h; rfl
theorem Records.comp : b.comp = a.comp := by obtain ⟨-, _, _, _, _, rfl⟩ := h; rfl
theorem Records.cores : b.cores = a.cores := by obtain ⟨-, _, _, _, _, rfl⟩ := h; rfl
theorem Records.obj : b.obj = a.obj := by obtain ⟨-, _, _, _, _, rfl⟩ := h; rfl
theorem Records.walk : b.walk = a.walk := by obtain ⟨-, _, _, _, _, rfl⟩ := h; rfl
theorem Records.rel : b.rel = a.rel := by obtain ⟨-, _, _, _, _, rfl⟩ := h; rfl

end

/-- A dependency record that is enabled takes its number (R445). -/
theorem depRec_traceSeq {b : Block} (h : (dget b 0x8000 4).testBit 0 = true) (type chip : Nat) (cluster : Option Nat)
    (ctx addr cur val tag part extra : Nat) :
    (depRec b type chip cluster ctx addr cur val tag part extra).traceSeq = (b.traceSeq + 1) % 2 ^ 32 := by
  have hring (d : Block) (base log2 size seq t : Nat) (l : List Byte) : (ringPut d base log2 size seq t l).traceSeq = d.traceSeq := by
    unfold ringPut
    split
    · rfl
    · rw [wrOwn_noteStamp]
  simp only [depRec, trace, traceAt, h, if_true]
  split
  · rfl
  · split
    · rfl
    · rw [cnt_traceSeq, hring]

/-! ## Streams end (R134, R170) -/

/-- The run must end, with this status. -/
def Aborted (b : Block) (n st : Nat) : Prop := (runOf b n).map (fun r => r.abort) = some (some st)

theorem aborted_of_comp {a b : Block} (h : b.comp = a.comp) {n st : Nat} (ha : Aborted a n st) : Aborted b n st := by
  rw [Aborted, runOf, h]; exact ha

/-- A status that no other abort takes the place of (R43, R44). -/
def Stands (st : Nat) : Prop := st ≠ stCtxLost ∧ st ≠ stDestroyed

/-- From `a` to `b`, ended streams stay ended and runs that must end do so with the same status, if it stands; the contexts and the samples, the
walker and the clock are the same, and so are the counters of `SameCounts`. -/
structure Quiet (a b : Block) : Prop where
  obj : b.obj = a.obj
  rel : b.rel = a.rel
  walk : b.walk = a.walk
  clock : b.tide.clock = a.tide.clock
  counts : SameCounts a b
  ended : ∀ c, (coreOf a c).ended = true → (coreOf b c).ended = true
  stands : ∀ n st, Stands st → Aborted a n st → Aborted b n st

namespace Quiet

theorem refl (a : Block) : Quiet a a := ⟨rfl, rfl, rfl, rfl, .refl a, fun _ h => h, fun _ _ _ h => h⟩

theorem trans {a b c : Block} (h : Quiet a b) (h' : Quiet b c) : Quiet a c where
  obj := h'.obj.trans h.obj
  rel := h'.rel.trans h.rel
  walk := h'.walk.trans h.walk
  clock := h'.clock.trans h.clock
  counts := h.counts.trans h'.counts
  ended d hd := h'.ended d (h.ended d hd)
  stands n st hst ha := h'.stands n st hst (h.stands n st hst ha)

theorem foldl {α : Type} {f : Block → α → Block} (h : ∀ b x, Quiet b (f b x)) (l : List α) (b : Block) : Quiet b (l.foldl f b) := by
  induction l generalizing b with
  | nil => exact refl b
  | cons x xs ih => exact (h b x).trans (ih (f b x))

/-- A change that touches neither the cores nor the runs. -/
theorem of_parts {a b : Block} (hobj : b.obj = a.obj) (hrel : b.rel = a.rel) (hwalk : b.walk = a.walk) (hclock : b.tide.clock = a.tide.clock)
    (hcounts : SameCounts a b) (hcores : b.cores = a.cores) (hcomp : b.comp = a.comp) : Quiet a b :=
  ⟨hobj, hrel, hwalk, hclock, hcounts, fun c h => by rw [coreOf, hcores]; exact h, fun _ _ _ h => aborted_of_comp hcomp h⟩

end Quiet

theorem Sends.quiet {a b : Block} (h : Sends a b) : Quiet a b := by
  obtain ⟨hcounts, -, _, _, _, rfl⟩ := h
  exact .of_parts rfl rfl rfl rfl hcounts rfl rfl

theorem Records.quiet {a b : Block} (h : Records a b) : Quiet a b :=
  .of_parts h.obj h.rel h.walk h.clock h.1 h.cores h.comp

/-- A core replaced whose stream has not begun anew. -/
theorem quiet_putCore {b : Block} {c : Nat} {k : CoreSt} (h : (coreOf b c).ended = true → k.ended = true) : Quiet b (putCore b c k) where
  obj := rfl
  rel := rfl
  walk := rfl
  clock := rfl
  counts := .refl b
  ended d hd := by
    by_cases e : d = c
    · subst e; rw [coreOf_putCore]; exact h hd
    · rw [coreOf_putCore_ne b k e]; exact hd
  stands _ _ _ ha := ha

theorem runOf_putRun_ne (b : Block) {n m : Nat} (r : Run) (h : m ≠ n) : runOf (putRun b n r) m = runOf b m :=
  fmGet?_fmSet_ne _ _ h

/-- A run replaced whose abort stands. -/
theorem quiet_putRun {b : Block} {n : Nat} {r r' : Run} (hr : runOf b n = some r)
    (h : ∀ st, Stands st → r.abort = some st → r'.abort = some st) : Quiet b (putRun b n r') where
  obj := rfl
  rel := rfl
  walk := rfl
  clock := rfl
  counts := .refl b
  ended _ hd := hd
  stands m st hst ha := by
    by_cases e : m = n
    · subst e
      have hab : r.abort = some st := by simpa [Aborted, hr] using ha
      simp [Aborted, h st hst hab]
    · rw [Aborted, runOf_putRun_ne b r' e]; exact ha

theorem quiet_fen (b : Block) (f : Fences) : Quiet b { b with fen := f } := .of_parts rfl rfl rfl rfl (.refl b) rfl rfl

theorem quiet_unwatchIdle (b : Block) : Quiet b (unwatchIdle b) := by
  unfold unwatchIdle
  dsimp only
  refine (quiet_fen b _).trans (Sends.foldl (fun b w => ?_) _ _).quiet
  split
  · exact sends_gzSend _ _ _
  · exact .refl b

theorem quiet_cancelWaits (b : Block) (p : Waiter → Bool) : Quiet b (cancelWaits b p) :=
  (quiet_fen b _).trans (quiet_unwatchIdle (fenceSweep (dropWaits b p)))

theorem quiet_dropCalls (b : Block) (c : Nat) : Quiet b (dropCalls b c) :=
  Quiet.trans (b := { putPort b c _ with xp := _ }) (.of_parts rfl rfl rfl rfl (.refl b) rfl rfl) (quiet_putCore fun h => h)

theorem quiet_traceResume (b : Block) (c : Nat) (k : CoreSt) (cause : Nat) : Quiet b (traceResume b c k cause) := by
  unfold traceResume
  split
  · exact (records_traceAt _ _ _ _ _ _).quiet
  · exact .refl b

/-- A stream ends; the rest of the machine is as quiet as before. -/
theorem endStream_spec (b : Block) (c : Nat) : Quiet b (endStream b c) ∧ (coreOf (endStream b c) c).ended = true := by
  let b₁ := dropCalls (putCore b c (holdClosed (coreOf b c) b.tide.clock)) c
  let b₂ := traceResume b₁ c (coreOf b₁ c) 3
  let k : CoreSt := { coreOf b₁ c with
    ended := true, slw := none, held := [], brkStop := none, haltReq := false, stepping := false
    levels := (coreOf b₁ c).levels.drop ((coreOf b₁ c).levels.length - 1), loops := [] }
  let b₃ := putCore (putPort b₂ c { portOf b₂ c with capX := none, copies := [] }) c k
  have h₁ : Quiet b b₁ := (quiet_putCore (k := holdClosed (coreOf b c) b.tide.clock) fun h => h).trans (quiet_dropCalls _ c)
  have h₂ : Quiet b₁ b₂ := quiet_traceResume _ _ _ _
  have h₃ : Quiet b₂ b₃ := Quiet.trans (b := putPort b₂ c _) (.of_parts rfl rfl rfl rfl (.refl _) rfl rfl) (quiet_putCore fun _ => rfl)
  have h₄ : Quiet b₃ (endStream b c) :=
    (quiet_fen b₃ _).trans (quiet_cancelWaits _ _)
  exact ⟨h₁.trans (h₂.trans (h₃.trans h₄)), h₄.ended c (by rw [show coreOf b₃ c = k from coreOf_putCore _ _ _])⟩

theorem quiet_endStream (b : Block) (c : Nat) : Quiet b (endStream b c) := (endStream_spec b c).1

theorem quiet_endAtBoundary (b : Block) (c : Nat) : Quiet b (endAtBoundary b c) := by
  unfold endAtBoundary
  split
  · exact quiet_endStream b c
  · exact .refl b

/-! ## Runs end (R41, R134, R170) -/

/-- A run that has not been told to end must end now, and nothing else loses its quiet. -/
theorem abortRun_live {b : Block} {n : Nat} {r : Run} (hr : runOf b n = some r) (hlive : r.endedAt = none) (hfree : r.abort = none)
    (st : Nat) : Quiet (putRun b n { r with abort := some st }) (abortRun b n st) := by
  simp only [abortRun, hr, hlive, hfree, Option.isSome_none, Bool.false_eq_true, if_false]
  exact Quiet.foldl (fun b c => (quiet_dropCalls b c).trans (quiet_endAtBoundary _ c)) _ _

theorem quiet_abortRun (b : Block) (n st : Nat) : Quiet b (abortRun b n st) := by
  cases hr : runOf b n with
  | none => simp only [abortRun, hr]; exact .refl b
  | some r =>
    cases hlive : r.endedAt with
    | some t => simp only [abortRun, hr, hlive, Option.isSome_some, if_true]; exact .refl b
    | none =>
      cases hab : r.abort with
      | none => exact (quiet_putRun hr fun _ _ h => by simp [hab] at h).trans (abortRun_live hr hlive hab st)
      | some a =>
        simp only [abortRun, hr, hlive, hab, Option.isSome_none, Option.isSome_some, Bool.false_eq_true, if_false, if_true]
        split
        · rename_i hdestroyed
          refine quiet_putRun hr fun st' hst' h => absurd ?_ hst'.2
          simp only [Bool.and_eq_true, decide_eq_true_eq] at hdestroyed
          exact Option.some.inj (h.symm.trans (hab.trans hdestroyed.1))
        · exact .refl b

theorem abortRun_aborted {b : Block} {n : Nat} {r : Run} (hr : runOf b n = some r) (hlive : r.endedAt = none) (hfree : r.abort = none)
    {st : Nat} (hst : Stands st) : Aborted (abortRun b n st) n st :=
  (abortRun_live hr hlive hfree st).stands n st hst (by simp [Aborted])

theorem quiet_cancelL (b : Block) (n : Nat) : Quiet b (cancelL b n) := by
  unfold cancelL
  split
  · exact .refl b
  · refine Quiet.foldl (fun b c => ?_) _ _
    exact Quiet.trans (b := putPort b c _) (.of_parts rfl rfl rfl rfl (.refl b) rfl rfl) (Sends.foldl (fun b x => sends_emit b _) _ _).quiet

/-- The status with which a run that is killed ends (R44, R170). -/
def killStatus (r : Run) (st : Nat) : Nat :=
  match r.abort with
  | none => st
  | some a => if a = stCtxLost || a = stDestroyed then st else a

/-- Every stream of a run that is killed ends, and nothing else loses its quiet. -/
theorem killRun_live {b : Block} {n : Nat} {r : Run} (hr : runOf b n = some r) (hlive : r.endedAt = none) (st : Nat) :
    Quiet (putRun b n { r with abort := some (killStatus r st) }) (killRun b n st) ∧
    ∀ c ∈ r.clusters, c ∉ r.partsEnded → (coreOf (killRun b n st) c).ended = true := by
  let b₁ := putRun b n { r with abort := some (killStatus r st) }
  let cs := r.clusters.filter (fun c => !r.partsEnded.contains c)
  let open_ := cs.filter (fun c => !(coreOf b₁ c).ended)
  let b₂ := open_.foldl endStream b₁
  let b₃ := cs.foldl (fun b c => putCore b c { coreOf b c with sending := 0 }) b₂
  have h₁ : Quiet b₁ b₂ := Quiet.foldl quiet_endStream _ _
  have h₂ : Quiet b₂ b₃ := Quiet.foldl (fun b c => quiet_putCore (k := { coreOf b c with sending := 0 }) fun h => h) _ _
  have h₃ : Quiet b₃ (killRun b n st) := by
    let f : Fences := { b₃.fen with signals := b₃.fen.signals.filter (fun x => match x.after with
      | .heldDone d => !cs.contains d
      | _ => true) }
    have hkill : killRun b n st = cancelL { b₃ with fen := f } n := by
      unfold killRun
      simp only [hr]
      rw [if_neg (by simp [hlive])]
      rfl
    exact hkill ▸ (quiet_fen b₃ f).trans (quiet_cancelL _ n)
  refine ⟨h₁.trans (h₂.trans h₃), fun c hc hpart => (h₂.trans h₃).ended c ?_⟩
  have hcs : c ∈ cs := List.mem_filter.mpr ⟨hc, by simp [hpart]⟩
  cases hopen : (coreOf b₁ c).ended with
  | true => exact h₁.ended c hopen
  | false =>
    have hopen' : c ∈ open_ := List.mem_filter.mpr ⟨hcs, by simp [hopen]⟩
    obtain ⟨l₁, l₂, hl⟩ := List.append_of_mem hopen'
    have hb₂ : b₂ = l₂.foldl endStream (endStream (l₁.foldl endStream b₁) c) :=
      (congrArg (fun l => l.foldl endStream b₁) hl).trans (by rw [List.foldl_append, List.foldl_cons])
    rw [hb₂]
    exact (Quiet.foldl quiet_endStream _ _).ended c (endStream_spec _ c).2

theorem quiet_killRun (b : Block) (n st : Nat) : Quiet b (killRun b n st) := by
  cases hr : runOf b n with
  | none => simp only [killRun, hr]; exact .refl b
  | some r =>
    cases hlive : r.endedAt with
    | some t => simp only [killRun, hr, hlive, Option.isSome_some, if_true]; exact .refl b
    | none =>
      refine Quiet.trans (quiet_putRun hr fun st' hst' h => ?_) (killRun_live hr hlive st).1
      obtain ⟨hlost, hdestroyed⟩ := hst'
      simp [killStatus, h, hlost, hdestroyed]

theorem killRun_aborted {b : Block} {n : Nat} {r : Run} (hr : runOf b n = some r) (hlive : r.endedAt = none) (hfree : r.abort = none)
    {st : Nat} (hst : Stands st) : Aborted (killRun b n st) n st :=
  (killRun_live hr hlive st).1.stands n st hst (by simp [Aborted, killStatus, hfree])

end Sys2Proof.Machine
end

section
/-! PROOFS. Runs and work items that end with the loss of their context or the fault of a peer (R41, R42, R134, R316): the effects that follow
bring about only more of the same. -/

namespace Sys2Proof.Machine

open Sys2Proof

/-! ## Lost contexts (R42) -/

/-- The context that the handle names is Lost, for this cause. -/
def Lost (b : Block) (h : BitVec 24) (cause : Nat) : Prop := (ctxOf b h).map (fun z => (z.state, z.lostCause)) = some (.lost, cause)

theorem ctxOf_some {b : Block} {h : BitVec 24} {c : Ctx} (hc : ctxOf b h = some c) : c.handle = h ∧ fmGet? b.obj.ctxs (field h 0 20) = some c := by
  unfold ctxOf at hc
  split at hc
  · rename_i d hd
    split at hc
    · cases hc; exact ⟨‹_›, hd⟩
    · cases hc
  · cases hc

/-- A record written that was not Lost, or is Lost as before, leaves every Lost context so. -/
theorem lost_of_ctxs {a b : Block} {h : BitVec 24} {c c' : Ctx} (hc : ctxOf a h = some c)
    (hctxs : b.obj.ctxs = fmSet a.obj.ctxs (field c'.handle 0 20) c') (hhandle : c'.handle = c.handle)
    (hkeep : c.state = .lost → c'.state = .lost ∧ c'.lostCause = c.lostCause) {g : BitVec 24} {cause : Nat} (hl : Lost a g cause) :
    Lost b g cause := by
  obtain ⟨rfl, hrec⟩ := ctxOf_some hc
  obtain ⟨z, hz, hzl⟩ := Option.map_eq_some_iff.mp hl
  obtain ⟨hzg, hzrec⟩ := ctxOf_some hz
  obtain ⟨hstate, hcause⟩ := Prod.mk.inj hzl
  by_cases e : field g 0 20 = field c'.handle 0 20
  · obtain rfl : c = z := Option.some.inj (hrec.symm.trans ((congrArg _ (e.trans (congrArg (field · 0 20) hhandle)).symm).trans hzrec))
    obtain ⟨hstate', hcause'⟩ := hkeep hstate
    simp [Lost, ctxOf, hctxs, e, hhandle, hzg, hstate', hcause', hcause]
  · simpa [Lost, ctxOf, hctxs, fmGet?_fmSet_ne _ _ e] using hl

/-! ## Work items end -/

/-- From `a` to `b`, ended streams stay ended, runs that must end do so with the same status, if it stands, and Lost contexts stay Lost; the walker
and the clock are the same, and so are the counters of `SameCounts`. -/
structure Steady (a b : Block) : Prop where
  walk : b.walk = a.walk
  clock : b.tide.clock = a.tide.clock
  counts : SameCounts a b
  ended : ∀ c, (coreOf a c).ended = true → (coreOf b c).ended = true
  stands : ∀ n st, Stands st → Aborted a n st → Aborted b n st
  lost : ∀ h cause, Lost a h cause → Lost b h cause

namespace Steady

theorem refl (a : Block) : Steady a a := ⟨rfl, rfl, .refl a, fun _ h => h, fun _ _ _ h => h, fun _ _ h => h⟩

theorem trans {a b c : Block} (h : Steady a b) (h' : Steady b c) : Steady a c where
  walk := h'.walk.trans h.walk
  clock := h'.clock.trans h.clock
  counts := h.counts.trans h'.counts
  ended d hd := h'.ended d (h.ended d hd)
  stands n st hst ha := h'.stands n st hst (h.stands n st hst ha)
  lost g cause hl := h'.lost g cause (h.lost g cause hl)

end Steady

theorem Quiet.steady {a b : Block} (h : Quiet a b) : Steady a b :=
  ⟨h.walk, h.clock, h.counts, h.ended, h.stands, fun g cause hl => by rw [Lost, ctxOf_congr h.obj]; exact hl⟩

theorem WritesBack.quiet {a b : Block} (h : WritesBack a b) : Quiet a b := by
  obtain ⟨_, _, _, _, _, rfl⟩ := h
  exact .of_parts rfl rfl rfl rfl (.refl a) rfl rfl

theorem quiet_sb (b : Block) (x : Scoreboard) : Quiet b { b with sb := x } := .of_parts rfl rfl rfl rfl (.refl b) rfl rfl

theorem quiet_upd (b : Block) (x : FMap UpdItem) : Quiet b { b with upd := x } := .of_parts rfl rfl rfl rfl (.refl b) rfl rfl
theorem quiet_fab (b : Block) (x : Fabric) : Quiet b { b with fab := x } := .of_parts rfl rfl rfl rfl (.refl b) rfl rfl

theorem steady_putCtx {b : Block} {h : BitVec 24} {c c' : Ctx} (hc : ctxOf b h = some c) (hhandle : c'.handle = c.handle)
    (hkeep : c.state = .lost → c'.state = .lost ∧ c'.lostCause = c.lostCause) : Steady b (putCtx b c') := by
  obtain ⟨_, _, _, hput⟩ := putCtx_eq b c'
  have hq : Quiet b { putCtx b c' with obj := b.obj } := by rw [hput]; exact .of_parts rfl rfl rfl rfl (.refl b) rfl rfl
  exact ⟨hq.walk, hq.clock, hq.counts, hq.ended, hq.stands, fun g cause => lost_of_ctxs hc (putCtx_ctxs b c') hhandle hkeep⟩

theorem steady_account (b : Block) (h : BitVec 24) (status : Nat) (started replayed : Bool) : Steady b (account b h status started replayed) := by
  unfold account
  split
  · exact .refl b
  · rename_i c hc
    exact steady_putCtx hc rfl fun hl => ⟨hl, rfl⟩

theorem steady_settleCtx (b : Block) (h : BitVec 24) (heat : Bool) : Steady b (settleCtx b h heat) := by
  unfold settleCtx
  cases hc : ctxOf b h with
  | none => exact .refl b
  | some c =>
    have hput {c' : Ctx} (hhandle : c'.handle = c.handle) (hkeep : c.state = .lost → c'.state = .lost ∧ c'.lostCause = c.lostCause) :=
      steady_putCtx hc hhandle hkeep
    dsimp only
    split
    · rename_i hstate
      split
      · split
        · refine ⟨rfl, rfl, .refl b, fun _ h => h, fun _ _ _ h => h, fun g cause => ?_⟩
          exact lost_of_ctxs (c' := { c with idleAt := b.tide.clock }) hc (by rw [(ctxOf_some hc).1]) rfl fun hl => by simp [hstate] at hl
        · exact .refl b
      · split
        · exact hput rfl fun hl => by simp [hstate] at hl
        · exact .refl b
    · rename_i hstate
      split
      · exact hput rfl fun hl => by simp [hstate] at hl
      · exact .refl b
    · split
      · exact hput rfl fun hl => ⟨rfl, rfl⟩
      · exact .refl b
    · exact .refl b

theorem quiet_unwait (b : Block) (t : Nat) : Quiet b (unwait b t) := .of_parts rfl rfl rfl rfl (.refl b) rfl rfl

theorem quiet_freeTag (b : Block) (t : Nat) : Quiet b (freeTag b t) := by
  unfold freeTag
  split
  · exact .refl b
  · exact quiet_sb b _

theorem steady_completeItem (b : Block) (t : Nat) : Steady b (completeItem b t) := by
  unfold completeItem
  split
  · exact .refl b
  · rename_i i hi
    have hover : Quiet b (unwait (putItem b t { i with stage := .ended }) t) := (quiet_sb b _).trans (quiet_unwait _ t)
    refine Steady.trans ?_ (steady_settleCtx _ _ _)
    split
    · exact hover.steady
    · exact (hover.trans (quiet_freeTag _ t)).steady

theorem quiet_traceHeatEnd (b : Block) (t : Nat) (i : Item) (status time : Nat) : Quiet b (traceHeatEnd b t i status time) := by
  unfold traceHeatEnd
  split
  · exact (records_traceAt _ _ _ _ _ _).quiet
  · exact .refl b

theorem steady_endItem (b : Block) (t : Nat) (i : Item) (status : Nat) (wait : Bool) : Steady b (endItem b t i status wait) := by
  have hcancel : Quiet b (cancelWaits { b with upd := fmErase b.upd t } (waiterOfItem t)) :=
    (quiet_upd b _).trans (quiet_cancelWaits _ _)
  unfold endItem
  extract_lets time doc tail held b₁ b₂ b₃ b₄ b₅
  have h₂ : Steady b₁ b₂ := by
    simp only [b₂]; split
    · exact .refl _
    · exact steady_account _ _ _ _ _
  have h₃ : Steady b₂ b₃ := by
    simp only [b₃]; split
    · exact .refl _
    · exact (quiet_traceHeatEnd _ _ _ _ _).steady
  have h₄ : Steady b₃ b₄ := (quiet_sb b₃ _).steady
  have h₅ : Steady b₄ b₅ := by
    simp only [b₅]; split
    · split
      · exact .refl _
      · exact (writesBack_cqPush _ _ _).quiet.steady
    · exact .refl _
  exact hcancel.steady.trans (h₂.trans (h₃.trans (h₄.trans (h₅.trans (writesBack_entryOver _ _ _ _ _ _ _ _).quiet.steady))))

/-- The work of an item of a Lost context ends without a signal, so nothing follows (R42, R119). -/
theorem doWork_lost (b : Block) (t : Nat) : Steady b (doWork b t stCtxLost).1 ∧ (doWork b t stCtxLost).2 = [] := by
  unfold doWork
  cases hi : itemOf b t with
  | none => exact ⟨.refl b, rfl⟩
  | some i =>
    have hst : endStatus b i stCtxLost = stCtxLost := rfl
    have hsignal : endSignal b i stCtxLost = none := rfl
    simp only [hst, hsignal, if_true]
    split
    · exact ⟨.refl b, rfl⟩
    · split
      · exact ⟨(steady_endItem b t i _ _).trans (steady_completeItem _ t), rfl⟩
      · exact ⟨(steady_endItem b t i _ _).trans (quiet_fen _ _).steady, rfl⟩

/-! ## Propagation (R316) -/

theorem quiet_fabRec (b : Block) (type port peer result a v count : Nat) : Quiet b (fabRec b type port peer result a v count) := by
  unfold fabRec
  dsimp only
  split
  · exact .refl b
  · exact (quiet_fab b _).trans (records_ringPut _ _ _ _ _ _ _).quiet

/-- An effect that the end of a run or the loss of a context brings about. -/
def Task.ends : Task → Prop
  | .abort _ _ | .kill _ _ | .propagate _ _ => True
  | .work _ st => st = stCtxLost
  | .fence _ _ | .satisfied _ _ _ | .ready _ | .after _ | .lose _ _ | .endRun _ | .settle _ => False

theorem peerAct_ends (b : Block) (chip part : Nat) (num : BitVec 32) :
    Quiet b (peerAct b chip part num).1 ∧ ∀ u ∈ (peerAct b chip part num).2, u.ends := by
  unfold peerAct
  split
  · exact ⟨.refl b, by simp [act]⟩
  · refine ⟨(quiet_fab b _).trans ((sends_cntAdd _ (by decide) _).quiet.trans (quiet_fabRec _ _ _ _ _ _ _ _)), fun u hu => ?_⟩
    · obtain ⟨x, -, rfl⟩ := List.mem_map.mp hu
      trivial

theorem doPropagate_ends (b : Block) (part : Nat) (chips : List Nat) :
    Quiet b (doPropagate b part chips).1 ∧ ∀ u ∈ (doPropagate b part chips).2, u.ends := by
  let msg := GzMsg.peerAbort (chipNo b) part b.fab.abortNum
  let b₁ := gzTree { b with fab := { b.fab with abortNum := b.fab.abortNum + 1 } } msg
  have h₁ : Quiet b b₁ := (quiet_fab b _).trans (sends_gzTree _ _).quiet
  have h₂ := (Sends.foldl (fun b c => sends_gzSend b c msg) (chips.eraseDups.filter (fun c => !memberOf b₁ c)) b₁).quiet
  obtain ⟨hquiet, hends⟩ := peerAct_ends
    ((chips.eraseDups.filter (fun c => !memberOf b₁ c)).foldl (fun b c => gzSend b c msg) b₁) (chipNo b₁) part b.fab.abortNum
  exact ⟨h₁.trans (h₂.trans hquiet), hends⟩

/-! ## The effects in order -/

theorem doTask_ends {t : Task} (h : t.ends) (b : Block) : Steady b (doTask b t).1 ∧ ∀ u ∈ (doTask b t).2, u.ends := by
  cases t with
  | abort n st => exact ⟨(quiet_abortRun b n st).steady, by simp [doTask, act]⟩
  | kill n st => exact ⟨(quiet_killRun b n st).steady, by simp [doTask, act]⟩
  | propagate p cs => exact ⟨(doPropagate_ends b p cs).1.steady, (doPropagate_ends b p cs).2⟩
  | work t st =>
    obtain rfl : st = stCtxLost := h
    exact ⟨(doWork_lost b t).1, by rw [doTask, (doWork_lost b t).2]; simp⟩
  | fence | satisfied | ready | after | lose | endRun | settle => exact absurd h id

theorem runTasks_ends (n : Nat) {ts : List Task} (h : ∀ t ∈ ts, t.ends) (b : Block) : Steady b (runTasks n ts b) := by
  induction n generalizing ts b with
  | zero => cases ts <;> exact .refl b
  | succ n ih =>
    cases ts with
    | nil => exact .refl b
    | cons t ts =>
      obtain ⟨ht, hts⟩ := List.forall_mem_cons.mp h
      obtain ⟨hsteady, hmore⟩ := doTask_ends ht b
      exact hsteady.trans (ih (fun u hu => (List.mem_append.mp hu).elim (hts u) (hmore u)) _)

/-- After a first effect that brings about no other, those of the end of a run leave what it did. -/
theorem finish_ends {b d : Block} {t : Task} {ts : List Task} (hidle : b.rcv.stage = .idle) (ht : doTask (numbered b) t = act d)
    (hts : ∀ u ∈ ts, u.ends) : Steady d (finish (b, t :: ts)) := by
  obtain ⟨k, hk⟩ := taskFuel_eq b
  rw [finish_tasks hidle (by simp), hk]
  simp only [runTasks, ht, act, List.append_nil]
  exact runTasks_ends _ hts d

/-- A context with no sample that is Lost: it stays so, and what else follows ends runs and work items (R42). -/
theorem doLose_lost {b : Block} {h : BitVec 24} {c : Ctx} (hc : ctxOf b h = some c) (hstate : c.state = .resident) (hsamples : b.rel.samples = [])
    (cause : Nat) : Lost (doLose b h cause).1 h cause ∧ (∀ n st, Stands st → Aborted b n st → Aborted (doLose b h cause).1 n st) ∧
      SameCounts b (doLose b h cause).1 ∧ ∀ u ∈ (doLose b h cause).2, u.ends := by
  obtain ⟨rfl, -⟩ := ctxOf_some hc
  let c' : Ctx := { c with state := .lost, lostCause := cause, lostTime := stamp b, slotWait := none }
  have hlose : doLose b c.handle cause = (settleCtx (putCtx b c') c.handle false,
      (ctxRuns (putCtx b c') c.handle).map (fun x => Task.abort x.1 stCtxLost) ++
        ((putCtx b c').sb.items.filter (fun x => x.2.ctx = c.handle &&
          (decide (x.2.stage = .waiting) || decide (x.2.stage = .composer)))).map (fun x => Task.work x.1 stCtxLost) ++
        ctxSamples (putCtx b c') c.handle) := by
    simp only [doLose, hc, hstate]
    rfl
  have hput : Steady b (putCtx b c') := steady_putCtx hc rfl fun hl => by simp [hstate] at hl
  have hsettle := steady_settleCtx (putCtx b c') c.handle false
  have hnone : ctxSamples (putCtx b c') c.handle = [] := by
    obtain ⟨_, _, _, hput⟩ := putCtx_eq b c'
    rw [ctxSamples, hput, hsamples]; rfl
  have hlost : Lost (putCtx b c') c.handle cause := by
    rw [Lost, show ctxOf (putCtx b c') c.handle = some c' from ctxOf_putCtx b c']; rfl
  rw [hlose, hnone, List.append_nil]
  refine ⟨hsettle.lost _ _ hlost, fun n st hst ha => hsettle.stands n st hst (hput.stands n st hst ha), hput.counts.trans hsettle.counts,
    fun u hu => ?_⟩
  obtain hu | hu := List.mem_append.mp hu <;> obtain ⟨x, -, rfl⟩ := List.mem_map.mp hu
  · trivial
  · rfl

end Sys2Proof.Machine
end

section
/-! PROOFS. Messages about fences (spec/05_fences_dependencies.md, R115, R131 to R133; spec/12_fabric.md, R312, R468). -/

namespace Sys2Proof.Machine

open Sys2Proof

/-! ## What follows a signal (R14, R115, R123) -/

@[simp] theorem gzSend_fen (b : Block) (dst : Nat) (msg : GzMsg) : (gzSend b dst msg).fen = b.fen := (sends_gzSend b dst msg).fen

@[simp] theorem completeItem_fen (b : Block) (t : Nat) : (completeItem b t).fen = b.fen := by
  have hsettle (b : Block) (h : BitVec 24) (heat : Bool) : (settleCtx b h heat).fen = b.fen := by
    obtain ⟨_, _, _, hb⟩ := settleCtx_eq b h heat
    rw [hb]
  unfold completeItem
  split
  · rfl
  · rw [hsettle]
    split
    · rfl
    · unfold freeTag; split <;> rfl

@[simp] theorem doAfter_fen (b : Block) (x : AfterSignal) : (doAfter b x).fen = b.fen := by
  cases x with
  | nothing | heldDone => rfl
  | itemDone t => exact completeItem_fen b t
  | applied | reached => exact gzSend_fen _ _ _

theorem doAfter_counts (b : Block) (x : AfterSignal) : SameCounts b (doAfter b x) := by
  cases x with
  | nothing | heldDone => exact .refl b
  | itemDone t => exact (steady_completeItem b t).counts
  | applied | reached => exact (sends_gzSend _ _ _).1

/-- A regressive signal changes what limits its records, counts, and leaves at most a record. -/
theorem regressive_records (b : Block) (a v cur : Word) (s : SigBy) : ∃ supp,
    Records { cnt b cFenceRegress with fen := { b.fen with supp := supp } } (regressive b a v cur s) := by
  unfold regressive
  dsimp only
  split
  · split
    · exact ⟨_, .refl _⟩
    · exact ⟨_, records_depRec _ _ _ _ _ _ _ _ _ _ _⟩
  · exact ⟨_, records_depRec _ _ _ _ _ _ _ _ _ _ _⟩

theorem regressive_count (b : Block) (a v cur : Word) (s : SigBy) :
    fmGet (regressive b a v cur s).ctr 0x084 0 = satAdd 32 (fmGet b.ctr 0x084 0) 1 := by
  obtain ⟨supp, h⟩ := regressive_records b a v cur s
  exact (h.1 0x084 (by decide)).trans (cnt_value b cFenceRegress)

theorem applySignal_regresses {b : Block} {a v cur : Word} (hv : reached v cur = false) (s : SigBy) :
    applySignal b a v cur s = afterWrite (regressive b a v cur s) a (withOutcome 2 s.after) := by
  simp only [applySignal, signalOutcome_regresses hv, andThen_act]

/-! ## A message in its turn (R312) -/

/-- The block once a message has been taken in its turn that brought about nothing else. -/
def taken (s : State) (h : GzHdr) (f : Fabric) (x : RxSpace) : Block :=
  putSpace { s.blk with fab := f } (spaceKey h.src false) { x with gap := none }

/-- The fabric once a message has been taken in its turn, its originator's space being `x`, and what the row of a message then leaves. -/
structure Takes (s : State) (h : GzHdr) (f : Fabric) (x : RxSpace) : Prop where
  idle : (taken s h f x).rcv.stage = .idle
  txSeq : f.txSeq = s.blk.fab.txSeq
  space : fmGet? f.rx (spaceKey h.src false) = some x
  next : (x.gen, x.next, x.held) = (h.gen, h.seq + 1, [])
  row : ∀ {m d l e}, deliverMsg { s.blk with fab := f } (uni h) m = (d, l) → d.fab.rx = f.rx →
    finish (putSpace d (spaceKey h.src false) { x with gap := none }, l) = e → liftA (receive (uni h) m) s = .next (s.withBlk e)

/-- Behind a message in its turn nothing is held. -/
theorem drainSpace_empty {b : Block} {k : Nat} {x : RxSpace} (hx : fmGet? b.fab.rx k = some x) (hheld : x.held = []) (fuel : Nat) :
    drainSpace k (fuel + 1) b = act (putSpace b k { x with gap := none }) := by
  obtain ⟨gen, next, held, gap⟩ := x
  subst hheld
  simp only [drainSpace, hx, List.find?_nil, List.any_nil, Bool.false_eq_true, if_false]

theorem sequence_turn {b : Block} {h : GzHdr} {m : GzMsg} {x : RxSpace} (hidle : b.rcv.stage = .idle)
    (hx : (fmGet? b.fab.rx (spaceKey h.src false)).getD { gen := h.gen, next := 0, held := [], gap := none } = x)
    (hgen : h.gen = x.gen) (hseq : h.seq = x.next) : sequence b (uni h) m =
      andThen (deliverMsg (putSpace b (spaceKey h.src false) { x with next := x.next + 1, gap := none }) (uni h) m)
        (drainSpace (spaceKey h.src false) 65) := by
  subst hx
  have hdeliver (d : Block) (hd : d.rcv.stage = .idle) : deliver d (uni h) m = deliverMsg d (uni h) m := if_pos hd
  exact (if_pos hgen).trans ((if_pos hseq).trans (congrArg (andThen · _) (hdeliver _ hidle)))

theorem receive_uni {b : Block} {h : GzHdr} (m : GzMsg) (hport : h.port < 6) (hadmitted : (linkOf b h.port).admitted = true)
    (hhere : h.dst = chipNo b) (hhops : h.hops < 63) : receive (uni h) m b = sequence (heard b h.port true) (uni h) m := by
  have hopen : (decide ((uni h).port < 6) && (linkOf b (uni h).port).admitted && decide ((uni h).dst = chipNo b)) = true := by
    simp [uni, hport, hadmitted, hhere]
  unfold receive
  rw [if_pos hopen]
  exact if_neg (Nat.not_le.mpr hhops)

/-- A message that arrives in its turn is taken, and what it does is all that happens. -/
theorem takes_of_inTurn {s : State} {h : GzHdr} (ht : InTurn s h false) : ∃ f x, Takes s h f x := by
  obtain ⟨halive, hidle, hport, hadmitted, hhere, hhops, hturn⟩ := ht
  let y : RxSpace := (fmGet? s.blk.fab.rx (spaceKey h.src false)).getD { gen := h.gen, next := 0, held := [], gap := none }
  have hy : h.gen = y.gen ∧ h.seq = y.next ∧ y.held = [] := by
    cases hspace : fmGet? s.blk.fab.rx (spaceKey h.src false) with
    | none =>
      have hseq : h.seq = 0 := by simpa [hspace] using hturn
      simp [y, hspace, hseq]
    | some z =>
      obtain ⟨hgen, hnext, hheld⟩ : z.gen = h.gen ∧ z.next = h.seq ∧ z.held = [] := by simpa [hspace] using hturn
      simp [y, hspace, hgen, hnext, hheld]
  obtain ⟨hgen, hseq, hheld⟩ := hy
  let x : RxSpace := { y with next := y.next + 1, gap := none }
  let f := (putSpace (heard s.blk h.port true) (spaceKey h.src false) x).fab
  have hspace : fmGet? f.rx (spaceKey h.src false) = some x := fmGet?_fmSet_self _ _ _
  refine ⟨f, x, hidle, rfl, hspace, by simp only [x, hgen, hseq, hheld], fun {m d l e} hd hrx he => ?_⟩
  have hreceive : receive (uni h) m s.blk = (putSpace d (spaceKey h.src false) { x with gap := none }, l) := by
    refine (receive_uni m hport hadmitted hhere hhops).trans ((sequence_turn (b := heard s.blk h.port true) (m := m) (x := y) hidle rfl
      hgen hseq).trans ((congrArg (andThen · _) hd).trans ?_))
    have hd' : fmGet? d.fab.rx (spaceKey h.src false) = some x := hrx ▸ hspace
    simp only [andThen, drainSpace_empty hd' hheld, act, List.append_nil]
  rw [liftA_alive halive, hreceive, he]

section
variable {s : State} {h : GzHdr} {f : Fabric} {x : RxSpace} (ht : Takes s h f x)
include ht

/-- The space expects the next number, whatever else the block has come to. -/
theorem Takes.turned {e : Block} (hrx : e.fab.rx = fmSet f.rx (spaceKey h.src false) { x with gap := none }) : Turned (s.withBlk e) h false := by
  have hx : fmGet? e.fab.rx (spaceKey h.src false) = some { x with gap := none } := by rw [hrx]; exact fmGet?_fmSet_self _ _ _
  rw [Turned, show (s.withBlk e).blk.fab = e.fab from rfl, hx]
  exact congrArg some ht.next

/-- An answer to the originator, sent from a block whose fabric is as the message left it, takes the next number and leaves the spaces. -/
theorem Takes.answered {d : Block} (hfab : d.fab = (taken s h f x).fab)
    (msg : GzMsg) : Turned (s.withBlk (gzSend d h.src msg)) h false ∧
      fmGet (gzSend d h.src msg).fab.txSeq h.src 0 = fmGet s.blk.fab.txSeq h.src 0 + 1 := by
  obtain ⟨-, hrx, -⟩ := sends_gzSend d h.src msg
  refine ⟨ht.turned (by rw [hrx, hfab]; rfl), ?_⟩
  rw [gzSend_txSeq, hfab, ← ht.txSeq]
  rfl

end

end Sys2Proof.Machine
end

section
/-! PROOFS. FENCE_SIGNAL, FENCE_WATCH and the answers to them (spec/05_fences_dependencies.md, R115, R131 to R133). -/

namespace Sys2Proof.Machine

open Sys2Proof

/-- A regressive signal, its fence written through already, is answered at once. -/
theorem doFence_regresses {b : Block} {a v cur : Word} (h : fenceNow b a = some cur) (hv : reached v cur = false)
    (hwrites : ∀ w ∈ b.fen.writes, w.addr ≠ a) (s : SigBy) : doFence b a (.signal v s) =
      (regressive (fenceTouch b a) a v cur s, [.after (withOutcome 2 s.after)]) := by
  obtain ⟨supp, hrec⟩ := regressive_records (fenceTouch b a) a v cur s
  have hkept : ∀ w ∈ (regressive (fenceTouch b a) a v cur s).fen.writes, w.addr ≠ a := by rw [hrec.fen]; exact hwrites
  rw [doFence_known h, applyFence, applySignal_regresses hv, afterWrite_none hkept]

/-- A watch whose value has been reached is satisfied at once. -/
theorem doFence_watch_reached {b : Block} {a v cur : Word} (h : fenceNow b a = some cur) (hv : reached cur v = true) (w : Waiter) :
    doFence b a (.wait w v) = (fenceTouch b a, [.satisfied w a cur]) := by
  rw [doFence_known h, applyFence, applyWait_reached hv]

theorem onFenceWatch_new {b : Block} {h : GzHdr} {a v : Word} (hlocal : isLocal b a.toNat = true)
    (hnew : ∀ w ∈ b.fen.waits, ¬(w.addr = a ∧ w.value = v ∧ w.who = .chip h.src)) : onFenceWatch b h a v =
      if ((fenceEnt b a).isNone && !fenceRoom b a) = true then act (gzSend b h.src (.fenceBusy a)) else (b, [.fence a (.wait (.chip h.src) v)]) := by
  have hfirst : b.fen.waits.any (fun w => w.addr = a && w.value = v && decide (w.who = .chip h.src)) = false :=
    List.any_eq_false.mpr fun w hw => by simpa [and_assoc] using hnew w hw
  simp only [onFenceWatch, hlocal, hfirst, Bool.not_true, Bool.false_eq_true, if_false]

/-! ## A fence that the home holds in its cache -/

section
variable {s : State} {h : GzHdr} {a v : Word} {ent : FenceEnt} {f : Fabric} {x : RxSpace} (ht : Takes s h f x)
  (hlocal : isLocal s.blk a.toNat = true) (hent : fenceEnt s.blk a = some ent) (hmiss : ∀ m ∈ s.blk.fen.misses, m.addr ≠ a)
include ht hlocal hent hmiss

omit ht in
theorem fenceNow_taken : fenceNow (numbered (taken s h f x)) a = some ent.value :=
  fenceNow_cached (b := numbered (taken s h f x)) hlocal hmiss (congrArg (Option.map _) hent)

theorem Takes.signal_advances (hdrop : ent.drop = false) (hne : v ≠ ent.value) (hv : reached v ent.value = true) (hwaits : s.blk.fen.waits = [])
    (ctx : BitVec 24) : Gives (exec (.fenceSignal h a v ctx) s) (fun t => Turned t h false ∧
      (fenceEnt t.blk a).map (fun x => x.value) = some v ∧ fmGet t.blk.ctr 0x080 0 = satAdd 32 (fmGet s.blk.ctr 0x080 0) 1 ∧
      t.blk.fen.writes = s.blk.fen.writes ++ [
        { addr := a, value := v, due := s.blk.tide.clock + dget s.blk 0x6000 5 * 1000, deps := [], after := [.applied h.src h.seq 0] }]) := by
  let b := numbered (taken s h f x)
  let sig : SigBy := { chip := h.src, ctx := ctx, tag := 0, part := 0, deps := [], after := .applied h.src h.seq 0 }
  have hfinish : finish (taken s h f x, [.fence a (.signal v sig)]) = signalled (fenceTouch b a) a v sig :=
    finish_single ht.idle (doFence_advances (fenceNow_taken hlocal hent hmiss) hne hv (by simp [numbered, taken, putSpace, hwaits]) sig)
  obtain ⟨hvalue, hwrites, hcount⟩ := signalled_spec (b := fenceTouch b a) (fenceEnt_fenceTouch hent) hdrop v sig
  exact gives_withBlk (ht.row (m := .fenceSignal a v ctx) (if_pos hlocal) rfl hfinish) ⟨ht.turned rfl, hvalue, hcount, hwrites⟩

theorem Takes.signal_regresses (hv : reached v ent.value = false) (hwrites : ∀ w ∈ s.blk.fen.writes, w.addr ≠ a) (ctx : BitVec 24) :
    Gives (exec (.fenceSignal h a v ctx) s) (fun t => Turned t h false ∧ (fenceEnt t.blk a).map (fun x => x.value) = some ent.value ∧
      t.blk.fen.writes = s.blk.fen.writes ∧ fmGet t.blk.ctr 0x084 0 = satAdd 32 (fmGet s.blk.ctr 0x084 0) 1 ∧
      fmGet t.blk.fab.txSeq h.src 0 = fmGet s.blk.fab.txSeq h.src 0 + 1) := by
  let b := numbered (taken s h f x)
  let sig : SigBy := { chip := h.src, ctx := ctx, tag := 0, part := 0, deps := [], after := .applied h.src h.seq 0 }
  let d := regressive (fenceTouch b a) a v ent.value sig
  let e := gzSend d h.src (.fenceApplied h.seq 2)
  have hfinish : finish (taken s h f x, [.fence a (.signal v sig)]) = e :=
    finish_pair ht.idle (doFence_regresses (fenceNow_taken hlocal hent hmiss) hv hwrites sig) rfl
  obtain ⟨supp, hrec⟩ := regressive_records (fenceTouch b a) a v ent.value sig
  have hfen : e.fen = { (fenceTouch b a).fen with supp := supp } := (gzSend_fen _ _ _).trans hrec.fen
  obtain ⟨hturned, hseq⟩ := ht.answered (d := d) hrec.fab (.fenceApplied h.seq 2)
  have hkept : e.fen.writes = s.blk.fen.writes := by rw [hfen]; rfl
  have hvalue : (fenceEnt e a).map (fun x => x.value) = some ent.value := by
    rw [fenceEnt, hfen]
    exact congrArg (Option.map _) (fenceEnt_fenceTouch (b := b) hent)
  refine gives_withBlk (ht.row (m := .fenceSignal a v ctx) (if_pos hlocal) rfl hfinish) ⟨hturned, hvalue, hkept, ?_, hseq⟩
  exact ((sends_gzSend _ _ _).1 0x084 (by decide)).trans (regressive_count _ _ _ _ _)

omit hmiss in
theorem Takes.watch_row (hnew : ∀ w ∈ s.blk.fen.waits, ¬(w.addr = a ∧ w.value = v ∧ w.who = .chip h.src)) {e : Block}
    (he : finish (taken s h f x, [.fence a (.wait (.chip h.src) v)]) = e) : exec (.fenceWatch h a v) s = .next (s.withBlk e) := by
  have hcached : ¬((fenceEnt { s.blk with fab := f } a).isNone && !fenceRoom { s.blk with fab := f } a) = true := by
    rw [show fenceEnt { s.blk with fab := f } a = some ent from hent]; simp
  exact ht.row (m := .fenceWatch a v) ((onFenceWatch_new (b := { s.blk with fab := f }) (h := uni h) hlocal hnew).trans (if_neg hcached)) rfl he

theorem Takes.watch_registers (hnew : ∀ w ∈ s.blk.fen.waits, ¬(w.addr = a ∧ w.value = v ∧ w.who = .chip h.src))
    (hv : reached ent.value v = false) (hroom : fenceRoom s.blk a = true) : Gives (exec (.fenceWatch h a v) s) (fun t => Turned t h false ∧
      t.blk.fen.waits = s.blk.fen.waits ++ [{ addr := a, value := v, who := .chip h.src }]) := by
  have hfinish := finish_single (x := .fence a (.wait (.chip h.src) v)) ht.idle (doFence_waits (fenceNow_taken hlocal hent hmiss) hv hroom _)
  exact gives_withBlk (ht.watch_row hlocal hent hnew hfinish) ⟨ht.turned rfl, rfl⟩

theorem Takes.watch_reached (hnew : ∀ w ∈ s.blk.fen.waits, ¬(w.addr = a ∧ w.value = v ∧ w.who = .chip h.src))
    (hv : reached ent.value v = true) (hwrites : ∀ w ∈ s.blk.fen.writes, w.addr ≠ a) : Gives (exec (.fenceWatch h a v) s) (fun t =>
      Turned t h false ∧ t.blk.fen.waits = s.blk.fen.waits ∧ fmGet t.blk.fab.txSeq h.src 0 = fmGet s.blk.fab.txSeq h.src 0 + 1) := by
  let d := fenceTouch (numbered (taken s h f x)) a
  have hfinish : finish (taken s h f x, [.fence a (.wait (.chip h.src) v)]) = gzSend d h.src (.fenceReached a ent.value) :=
    finish_triple ht.idle (doFence_watch_reached (fenceNow_taken hlocal hent hmiss) hv _)
      (afterWrite_none (b := d) hwrites (.reached h.src a ent.value)) rfl
  obtain ⟨hturned, hseq⟩ := ht.answered (d := d) rfl (.fenceReached a ent.value)
  have hkept : (gzSend d h.src (.fenceReached a ent.value)).fen.waits = s.blk.fen.waits := by rw [gzSend_fen]; rfl
  exact gives_withBlk (ht.watch_row hlocal hent hnew hfinish) ⟨hturned, hkept, hseq⟩

end

/-- A watch of an uncached fence, every place of the cache being pinned, is refused (R133). -/
theorem Takes.watch_busy {s : State} {h : GzHdr} {a v : Word} {f : Fabric} {x : RxSpace} (ht : Takes s h f x)
    (hlocal : isLocal s.blk a.toNat = true) (hent : fenceEnt s.blk a = none) (hroom : fenceRoom s.blk a = false)
    (hnew : ∀ w ∈ s.blk.fen.waits, ¬(w.addr = a ∧ w.value = v ∧ w.who = .chip h.src)) : Gives (exec (.fenceWatch h a v) s) (fun t =>
      Turned t h false ∧ t.blk.fen = s.blk.fen ∧ fmGet t.blk.fab.txSeq h.src 0 = fmGet s.blk.fab.txSeq h.src 0 + 1) := by
  let b : Block := { s.blk with fab := f }
  have hbusy : ((fenceEnt b a).isNone && !fenceRoom b a) = true := by
    rw [show fenceEnt b a = none from hent, show fenceRoom b a = false from hroom]; rfl
  have hrow := ht.row (m := .fenceWatch a v) ((onFenceWatch_new (b := b) (h := uni h) hlocal hnew).trans (if_pos hbusy))
    (sends_gzSend _ _ _).2.1 rfl
  refine gives_withBlk hrow ⟨ht.turned (by rw [← (sends_gzSend b h.src (.fenceBusy a)).2.1]; rfl), gzSend_fen _ _ _, ?_⟩
  rw [← ht.txSeq]
  exact gzSend_txSeq b h.src _

end Sys2Proof.Machine
end

section
/-! PROOFS. FENCE_APPLIED, FENCE_REACHED, FENCE_BUSY and FENCE_UNWATCH, and the watch sent again (spec/05_fences_dependencies.md, R131 to R133;
spec/12_fabric.md, R468). -/

namespace Sys2Proof.Machine

open Sys2Proof

/-! ## Signals that nothing follows (R132) -/

theorem runTasks_nothing (n : Nat) {l : List Task} (h : ∀ t ∈ l, t = .after .nothing) (b : Block) : runTasks n l b = b := by
  induction n generalizing l with
  | zero => cases l <;> rfl
  | succ n ih =>
    cases l with
    | nil => rfl
    | cons t ts =>
      obtain ⟨rfl, hts⟩ := List.forall_mem_cons.mp h
      simpa only [runTasks, doTask, doAfter, act, List.append_nil] using ih hts

theorem finish_nothing {b : Block} (hidle : b.rcv.stage = .idle) {l : List Task} (h : ∀ t ∈ l, t = .after .nothing) :
    ∃ n, finish (b, l) = { b with sb := { b.sb with readySeq := n } } := by
  cases l with
  | nil => exact ⟨_, rfl⟩
  | cons t ts => exact ⟨_, (finish_tasks hidle (by simp)).trans (runTasks_nothing _ h _)⟩

/-! ## A core whose wait is over (R119, R152) -/

/-- The release of a core on a fence's value changes its item at most. -/
theorem noteFreed_eq (b : Block) (c : Nat) (a v : Word) : ∃ sb, noteFreed b c a v = { b with sb := sb } := by
  unfold noteFreed
  dsimp only
  split
  · split <;> exact ⟨_, rfl⟩
  · exact ⟨_, rfl⟩

/-- A core whose run need not end goes on where it waited. -/
theorem holdOver_free {b : Block} {c n : Nat} {r : Run} (hrun : (coreOf b c).run = some n) (hr : runOf b n = some r) (hfree : r.abort = none)
    (v : Word) : holdOver b c (some v) = putCore b c { holdClosed (coreOf b c) b.tide.clock with
      slw := (coreOf b c).slw.map (fun w => { w with value := some v }) } := by
  have hgoes (k : CoreSt) (hk : k.run = some n) : endAtBoundary (putCore b c k) c = putCore b c k := by
    simp [endAtBoundary, mustEnd, hk, hr, hfree]
  exact hgoes _ hrun

/-! ## Watches (R131, R133) -/

/-- The first watch that waits for an answer is to be sent again. -/
theorem busyMark_append {a : Word} {l₁ : List RWatch} (hfirst : ∀ x ∈ l₁, ¬(x.addr = a ∧ x.sent = true ∧ x.retry = none)) {w : RWatch}
    (haddr : w.addr = a) (hsent : w.sent = true) (hretry : w.retry = none) (l₂ : List RWatch) (t : Nat) :
    busyMark a t (l₁ ++ w :: l₂) = l₁ ++ { w with retry := some t } :: l₂ := by
  induction l₁ with
  | nil => simp [busyMark, haddr, hsent, hretry]
  | cons x xs ih =>
    obtain ⟨hx, hxs⟩ := List.forall_mem_cons.mp hfirst
    have hother : ¬(decide (x.addr = a) && x.sent && x.retry.isNone) = true := by simpa [and_assoc] using hx
    rw [List.cons_append, busyMark, if_neg hother, ih hxs, List.cons_append]

section
variable {s : State} {h : GzHdr} {a v : Word} {f : Fabric} {x : RxSpace} (ht : Takes s h f x)
include ht

theorem Takes.applied (seq : BitVec 32) (o : BitVec 2) (hnothing : ∀ x ∈ s.blk.fen.signals, x.after = .nothing) :
    Gives (exec (.fenceApplied h seq o) s) (fun t => Turned t h false ∧
      t.blk.fen = { s.blk.fen with signals := s.blk.fen.signals.filter (fun x => !(x.chip = h.src && x.seq = seq)) }) := by
  let done := s.blk.fen.signals.filter (fun x => x.chip = h.src && x.seq = seq)
  let d : Block := { s.blk with
    fab := f
    fen := { s.blk.fen with signals := s.blk.fen.signals.filter (fun x => !(x.chip = h.src && x.seq = seq)) } }
  have hdone : ∀ t ∈ done.map (fun x => Task.after x.after), t = .after .nothing := fun t ht => by
    obtain ⟨y, hy, rfl⟩ := List.mem_map.mp ht
    rw [hnothing y (List.mem_filter.mp hy).1]
  obtain ⟨n, hfinish⟩ := finish_nothing (b := putSpace d (spaceKey h.src false) { x with gap := none }) ht.idle hdone
  have hmsg : onFenceApplied { s.blk with fab := f } (uni h) seq = (d, done.map (fun x => Task.after x.after)) := rfl
  exact gives_withBlk (ht.row (m := .fenceApplied seq o.toNat) hmsg rfl hfinish) ⟨ht.turned rfl, rfl⟩

theorem Takes.released {need : Word} {c n : Nat} {cr : Bool} {k : Run} (hhome : gchip a.toNat = h.src) (hremote : isLocal s.blk a.toNat = false)
    (hwaits : s.blk.fen.waits.filter (fun w => w.addr = a && reached v w.value) = [{ addr := a, value := need, who := .core c cr }])
    (hrun : (coreOf s.blk c).run = some n) (hk : runOf s.blk n = some k) (hfree : k.abort = none) :
    Gives (exec (.fenceReached h a v) s) (fun t => Turned t h false ∧
      t.blk.fen.waits = s.blk.fen.waits.filter (fun w => !(w.addr = a && reached v w.value)) ∧
      t.blk.fen.watches = s.blk.fen.watches.filter (fun w => !(w.addr = a && reached v w.value)) ∧
      (coreOf t.blk c).hold = .none ∧ (coreOf t.blk c).slw = (coreOf s.blk c).slw.map (fun w => { w with value := some v })) := by
  let d : Block := { s.blk with
    fab := f
    fen := { s.blk.fen with
      waits := s.blk.fen.waits.filter (fun w => !(w.addr = a && reached v w.value))
      watches := s.blk.fen.watches.filter (fun w => !(w.addr = a && reached v w.value)) } }
  let e := putSpace d (spaceKey h.src false) { x with gap := none }
  obtain ⟨sb, hnote⟩ := noteFreed_eq (numbered e) c a v
  let k' : CoreSt := { holdClosed (coreOf s.blk c) s.blk.tide.clock with slw := (coreOf s.blk c).slw.map (fun w => { w with value := some v }) }
  let z := putCore { numbered e with sb := sb } c k'
  have hk' : coreOf z c = k' := coreOf_putCore _ _ _
  have hsatisfied : doTask (numbered e) (.satisfied (.core c cr) a v) = act z := by
    rw [doTask, doSatisfied, hnote]
    exact congrArg act (holdOver_free (b := { numbered e with sb := sb }) hrun hk hfree v)
  have hmsg : onFenceReached { s.blk with fab := f } (uni h) a v = (d, [.satisfied (.core c cr) a v]) := by
    have hours : ¬(decide (gchip a.toNat ≠ (uni h).src) || isLocal { s.blk with fab := f } a.toNat) = true := by
      rw [show isLocal { s.blk with fab := f } a.toNat = false from hremote]; simp [uni, hhome]
    rw [onFenceReached, if_neg hours, hwaits]
    rfl
  exact gives_withBlk (ht.row (m := .fenceReached a v) hmsg rfl (finish_single ht.idle hsatisfied))
    ⟨ht.turned rfl, rfl, rfl, congrArg CoreSt.hold hk', congrArg CoreSt.slw hk'⟩

theorem Takes.busy {l₁ l₂ : List RWatch} {w : RWatch} (hhome : gchip a.toNat = h.src) (hwatches : s.blk.fen.watches = l₁ ++ w :: l₂)
    (hfirst : ∀ x ∈ l₁, ¬(x.addr = a ∧ x.sent = true ∧ x.retry = none)) (haddr : w.addr = a) (hsent : w.sent = true) (hretry : w.retry = none) :
    Gives (exec (.fenceBusy h a) s) (fun t => Turned t h false ∧
      t.blk.fen.watches = l₁ ++ { w with retry := some (s.blk.tide.clock + dget s.blk 0x2030 5 * 1000) } :: l₂ ∧
      fmGet t.blk.ctr 0x094 0 = satAdd 32 (fmGet s.blk.ctr 0x094 0) 1) := by
  have hmarked := busyMark_append hfirst haddr hsent hretry l₂ (s.blk.tide.clock + dget s.blk 0x2030 5 * 1000)
  rw [← hwatches] at hmarked
  exact gives_withBlk (ht.row (m := .fenceBusy a) (if_pos hhome) rfl rfl) ⟨ht.turned rfl, hmarked, cnt_value s.blk cWatchBusy⟩

theorem Takes.unwatch : Gives (exec (.fenceUnwatch h a v) s) (fun t => Turned t h false ∧
    t.blk.fen.waits = s.blk.fen.waits.filter (fun w => !(w.addr = a && w.value = v && decide (w.who = .chip h.src))) ∧
    t.blk.fen.writes = s.blk.fen.writes ∧ t.blk.fen.watches = s.blk.fen.watches) :=
  gives_withBlk (ht.row (m := .fenceUnwatch a v) rfl rfl rfl) ⟨ht.turned rfl, rfl, rfl, rfl⟩

end

theorem remoteWatchRetry_sends {s : State} {a v : Word} {w : RWatch} {u : Nat} (hs : Running s)
    (hw : s.blk.fen.watches.find? (fun x => x.addr = a && x.value = v) = some w) (hretry : w.retry = some u) :
    Gives (exec (.remoteWatchRetry a v) s) (fun t => t.blk.tide.clock = max s.blk.tide.clock u ∧ t.blk.fen.waits = s.blk.fen.waits ∧
      t.blk.fen.watches = s.blk.fen.watches.map (fun x =>
        if x.addr = a && x.value = v then { x with sent := routed s.blk (gchip a.toNat), retry := none } else x) ∧
      (routed s.blk (gchip a.toNat) = true →
        fmGet t.blk.fab.txSeq (gchip a.toNat) 0 = fmGet s.blk.fab.txSeq (gchip a.toNat) 0 + 1)) := by
  let d : Block := { passTo s.blk u with fen := { s.blk.fen with watches := s.blk.fen.watches.map (fun x =>
    if x.addr = a && x.value = v then { x with sent := routed s.blk (gchip a.toNat), retry := none } else x) } }
  have hretried : watchRetry s.blk a v = if routed s.blk (gchip a.toNat) = true then gzSend d (gchip a.toNat) (.fenceWatch a v) else d := by
    simp only [watchRetry, hw, hretry]
    rfl
  have hexec : exec (.remoteWatchRetry a v) s = .next (s.withBlk (watchRetry s.blk a v)) := liftR_running hs (watchRetry · a v)
  refine gives_withBlk (hretried ▸ hexec) ?_
  by_cases hrouted : routed s.blk (gchip a.toNat) = true
  · rw [if_pos hrouted]
    have hsends := sends_gzSend d (gchip a.toNat) (.fenceWatch a v)
    have hfen : (gzSend d (gchip a.toNat) (.fenceWatch a v)).fen = d.fen := hsends.fen
    exact ⟨hsends.clock, (congrArg Fences.waits hfen :), (congrArg Fences.watches hfen :), fun _ => gzSend_txSeq d _ _⟩
  · rw [if_neg hrouted]
    exact ⟨rfl, rfl, rfl, fun h => absurd h hrouted⟩

/-- Settles O42: each message is taken in its turn (`takes_of_inTurn`), and what its row does is said by the lemmas about `Takes`. -/
theorem fenceMessages : Obligations.FenceMessages := by
  unfold Obligations.FenceMessages
  intro s h a v
  refine ⟨fun ent ctx hturn hlocal hent hdrop hmiss => ?_, fun hturn hlocal hent hroom hnew => ?_, fun hturn seq o hnothing => ?_,
    fun need c n cr k hturn hhome hremote hwaits hrun hk hfree => ?_,
    fun l₁ l₂ w hturn hhome hwatches hfirst haddr hsent hretry => ?_, fun hturn => ?_, fun w u hs hw hretry => ?_⟩
  · obtain ⟨f, x, ht⟩ := takes_of_inTurn hturn
    exact ⟨fun hne hv hwaits => ht.signal_advances hlocal hent hmiss hdrop hne hv hwaits ctx,
      fun hv hwrites => ht.signal_regresses hlocal hent hmiss hv hwrites ctx,
      fun hnew => ⟨fun hv hroom => ht.watch_registers hlocal hent hmiss hnew hv hroom,
        fun hv hwrites => ht.watch_reached hlocal hent hmiss hnew hv hwrites⟩⟩
  · obtain ⟨f, x, ht⟩ := takes_of_inTurn hturn
    exact ht.watch_busy hlocal hent hroom hnew
  · obtain ⟨f, x, ht⟩ := takes_of_inTurn hturn
    exact ht.applied seq o hnothing
  · obtain ⟨f, x, ht⟩ := takes_of_inTurn hturn
    exact ht.released hhome hremote hwaits hrun hk hfree
  · obtain ⟨f, x, ht⟩ := takes_of_inTurn hturn
    exact ht.busy hhome hwatches hfirst haddr hsent hretry
  · obtain ⟨f, x, ht⟩ := takes_of_inTurn hturn
    exact ht.unwatch
  · exact remoteWatchRetry_sends hs hw hretry

end Sys2Proof.Machine
end

section
/-! PROOFS. Fence memory (spec/05_fences_dependencies.md, R116, R119, R123; spec/13_recovery.md, R330): a fence that has been read, and a
write-through that has been acknowledged. -/

namespace Sys2Proof.Machine

open Sys2Proof

/-! ## A fence that has been read (R116, R119) -/

/-- The block once a fence has been read into the cache, nothing waiting for its read any more. -/
def fetched (b : Block) (a v : Word) : Block :=
  { b with fen := { b.fen with
    misses := b.fen.misses.filter (fun m => decide (m.addr ≠ a))
    clock := b.fen.clock + 1
    cache := fmSet b.fen.cache a.toNat { value := v, used := b.fen.clock, drop := false } } }

theorem fenceEnt_fetched (b : Block) (a v : Word) : fenceEnt (fetched b a v) a = some { value := v, used := b.fen.clock, drop := false } :=
  fmGet?_fmSet_self _ _ _

/-- The one operation that waited for the read of a fence meets it in the cache. -/
theorem missReturn_single {b : Block} {a : Word} {m : FMiss} (hops : b.fen.misses.filter (fun m => m.addr = a) = [m]) (hdrop : m.drop = false)
    (hent : fenceEnt b a = none) (hroom : b.fen.cache.length < 32768) (v : Word) :
    missReturn b a v = applyFence (fetched b a v) a v m.op m.held := by
  let c : Block := { b with fen := { b.fen with misses := b.fen.misses.filter (fun m => decide (m.addr ≠ a)) } }
  have hinsert : fenceInsert c a v false = fetched b a v := by
    rw [fenceInsert]
    exact (if_pos (by simp [c, fenceCapacity, hroom])).trans (by simp [c, fenceCapacity, hroom, fetched])
  have hserve : serveRead c a v [m] false = applyFence (fetched b a v) a v m.op m.held := by
    simp only [serveRead, show fenceEnt c a = none from hent, Option.isSome_none, Bool.false_eq_true, if_false, hinsert, applyAll,
      List.foldl_cons, List.foldl_nil, andThen_act, fenceEnt_fetched, Option.map_some, Option.getD_some]
  simp only [missReturn, hops, List.isEmpty_cons, Bool.false_eq_true, if_false, List.filter_cons, List.filter_nil, hdrop, Bool.not_false,
    if_true, List.isEmpty_nil]
  exact hserve

/-- What follows a signal that does not advance its fence leaves the cache and the counters of fences. -/
theorem finish_afterWrite (b : Block) (a : Word) (x : AfterSignal) :
    (finish (afterWrite b a x)).fen.cache = b.fen.cache ∧ SameCounts b (finish (afterWrite b a x)) := by
  obtain h | ⟨l, h⟩ := afterWrite_cases b a x
  · rw [h, finish_after, doAfter_fen]
    exact ⟨rfl, doAfter_counts (numbered b) x⟩
  · rw [h]
    exact ⟨rfl, .refl b⟩

section
variable {s : State} {a v : Word} {m : FMiss} (hs : Alive s) (hidle : s.blk.rcv.stage = .idle) (hent : fenceEnt s.blk a = none)
  (hroom : s.blk.fen.cache.length < 32768) (hops : s.blk.fen.misses.filter (fun m => m.addr = a) = [m]) (hdrop : m.drop = false)
include hs hidle hent hroom hops hdrop

theorem fenceMissReadReturn_eq : exec (.fenceMissReadReturn a v) s =
    .next (s.withBlk (finish (applyFence (fetched s.blk a v) a v m.op m.held))) := by
  rw [← missReturn_single hops hdrop hent hroom]
  have hserved : (if s.blk.rcv.stage = .idle then finish (missReturn s.blk a v) else retire s.blk [.fence a]) = finish (missReturn s.blk a v) :=
    if_pos hidle
  rw [← hserved]
  exact lift_of_alive hs (fun b => if b.rcv.stage = .idle then finish (missReturn b a v) else retire b [.fence a])

/-- The wait of a work item is registered. -/
theorem fenceMissReadReturn_wait {tag : Nat} {i : Item} {need : Word} (hop : m.op = .wait (.item tag false) need) (hi : itemOf s.blk tag = some i)
    (hv : reached v need = false) (hpin : fenceRoom (fetched s.blk a v) a = true) : Gives (exec (.fenceMissReadReturn a v) s) (fun t =>
      (fenceEnt t.blk a).map (fun x => x.value) = some v ∧ t.blk.fen.misses = s.blk.fen.misses.filter (fun m => decide (m.addr ≠ a)) ∧
      t.blk.fen.waits = s.blk.fen.waits ++ [{ addr := a, value := need, who := .item tag false }] ∧
      itemOf t.blk tag = some { i with w0 := .registered a need }) := by
  let c := waitAdded (fetched s.blk a v) a need (.item tag false)
  have hnote : noteRegistered c (.item tag false) a need = putItem c tag { i with w0 := .registered a need } := by
    simp only [noteRegistered, show itemOf c tag = some i from hi, Bool.false_eq_true, if_false]
  have hmet : applyFence (fetched s.blk a v) a v m.op m.held = act (putItem c tag { i with w0 := .registered a need }) := by
    rw [hop, applyFence, applyWait_registers hv hpin, hnote]
  have hexec := fenceMissReadReturn_eq (v := v) hs hidle hent hroom hops hdrop
  rw [hmet] at hexec
  exact gives_withBlk hexec ⟨congrArg (Option.map _) (fenceEnt_fetched s.blk a v), rfl, rfl, itemOf_putItem _ _ _⟩

/-- A signal advances it. -/
theorem fenceMissReadReturn_advances {value : Word} {who : SigBy} (hop : m.op = .signal value who) (hwaits : s.blk.fen.waits = [])
    (hne : value ≠ v) (hv : reached value v = true) : Gives (exec (.fenceMissReadReturn a v) s) (fun t =>
      (fenceEnt t.blk a).map (fun x => x.value) = some value ∧ fmGet t.blk.ctr 0x080 0 = satAdd 32 (fmGet s.blk.ctr 0x080 0) 1 ∧
      t.blk.fen.writes = s.blk.fen.writes ++ [
        { addr := a, value := value, due := s.blk.tide.clock + dget s.blk 0x6000 5 * 1000, deps := who.deps,
          after := [withOutcome 0 who.after] }]) := by
  have hmet : applyFence (fetched s.blk a v) a v m.op m.held = act (signalled (fetched s.blk a v) a value who) := by
    rw [hop, applyFence, applySignal_advances hne hv (by simp [fetched, hwaits])]
  have hexec := fenceMissReadReturn_eq (v := v) hs hidle hent hroom hops hdrop
  rw [hmet] at hexec
  obtain ⟨hvalue, hwrites, hcount⟩ := signalled_spec (fenceEnt_fetched s.blk a v) rfl value who
  exact gives_withBlk hexec ⟨hvalue, hcount, hwrites⟩

/-- A signal that does not advance it is counted as regressive. -/
theorem fenceMissReadReturn_regresses {value : Word} {who : SigBy} (hop : m.op = .signal value who) (hv : reached value v = false) :
    Gives (exec (.fenceMissReadReturn a v) s) (fun t => (fenceEnt t.blk a).map (fun x => x.value) = some v ∧
      fmGet t.blk.ctr 0x084 0 = satAdd 32 (fmGet s.blk.ctr 0x084 0) 1) := by
  let d := regressive (fetched s.blk a v) a value v who
  have hmet : applyFence (fetched s.blk a v) a v m.op m.held = afterWrite d a (withOutcome 2 who.after) := by
    rw [hop, applyFence, applySignal_regresses hv]
  obtain ⟨supp, hrec⟩ := regressive_records (fetched s.blk a v) a value v who
  obtain ⟨hcache, hcounts⟩ := finish_afterWrite d a (withOutcome 2 who.after)
  have hcached : (finish (afterWrite d a (withOutcome 2 who.after))).fen.cache = (fetched s.blk a v).fen.cache := by
    rw [hcache, show d.fen = _ from hrec.fen]
  have hexec := fenceMissReadReturn_eq (v := v) hs hidle hent hroom hops hdrop
  rw [hmet] at hexec
  refine gives_withBlk hexec ⟨?_, (hcounts 0x084 (by decide)).trans (regressive_count _ _ _ _ _)⟩
  exact congrArg (Option.map _) ((congrArg (fmGet? · a.toNat) hcached).trans (fenceEnt_fetched s.blk a v))

end

/-! ## A write-through that has been acknowledged (R123, R330) -/

theorem ackSplit_append {a : Word} {pre : List FWrite} (hpre : ∀ y ∈ pre, y.addr ≠ a) {w : FWrite} (haddr : w.addr = a) (hdeps : w.deps = [])
    (post : List FWrite) : ackSplit a (pre ++ w :: post) = some (pre, w, post) := by
  induction pre with
  | nil => simp [ackSplit, haddr, hdeps]
  | cons x xs ih =>
    obtain ⟨hx, hxs⟩ := List.forall_mem_cons.mp hpre
    simp [ackSplit, hx, ih hxs]

/-- What is held back by other write-throughs than this one. -/
def others (k : Word × Word) (l : List (Word × Word)) : List (Word × Word) := l.filter (fun y => decide (y ≠ k))

/-- A write-through that follows the acknowledged one no longer, issued now if that was the last. -/
def freed (b : Block) (k : Word × Word) (x : FWrite) : FWrite :=
  if x.deps.contains k then
    { x with deps := others k x.deps, due := if (others k x.deps).isEmpty then b.tide.clock + dget b 0x6000 5 * 1000 else x.due }
  else x

/-- What acknowledged write-throughs hold back, without this one. -/
def unheld (b : Block) (k : Word × Word) : List AckWait := b.fen.acks.map (fun x => { x with deps := others k x.deps })

/-- The block once a write-through is in memory, those before and after it being `l`. -/
def written (b : Block) (w : FWrite) (l : List FWrite) : Block :=
  { b with
    mem := memWriteBytes b.mem w.addr.toNat (leBytes 8 w.value.toNat)
    fen := { b.fen with
      writes := l.map (freed b (w.addr, w.value))
      acks := (unheld b (w.addr, w.value)).filter (fun x => !x.deps.isEmpty) } }

theorem writeAck_eq {b : Block} {pre post : List FWrite} {w : FWrite} (hwrites : b.fen.writes = pre ++ w :: post)
    (hpre : ∀ y ∈ pre, y.addr ≠ w.addr) (hdeps : w.deps = []) : writeAck b w.addr =
      (((unheld b (w.addr, w.value)).filter (fun x => x.deps.isEmpty)).foldl (fun b x => ackFire b x.next) (written b w (pre ++ post)),
        w.after.map Task.after) := by
  simp only [writeAck, hwrites, ackSplit_append hpre rfl hdeps]
  rfl

theorem others_eq_self {k : Word × Word} {l : List (Word × Word)} (h : k ∉ l) : others k l = l :=
  List.filter_eq_self.mpr fun y hy => by simpa using fun e : y = k => h (e ▸ hy)

/-- A write-through that holds nothing back changes memory and is gone. -/
theorem writeAck_alone {b : Block} {pre post : List FWrite} {w : FWrite} (hwrites : b.fen.writes = pre ++ w :: post)
    (hpre : ∀ y ∈ pre, y.addr ≠ w.addr) (hdeps : w.deps = []) (hnone : ∀ y ∈ pre ++ post, (w.addr, w.value) ∉ y.deps)
    (hacks : ∀ y ∈ b.fen.acks, y.deps ≠ [] ∧ (w.addr, w.value) ∉ y.deps) : writeAck b w.addr =
      ({ b with
        mem := memWriteBytes b.mem w.addr.toNat (leBytes 8 w.value.toNat)
        fen := { b.fen with writes := pre ++ post } }, w.after.map Task.after) := by
  have hsame : (pre ++ post).map (freed b (w.addr, w.value)) = pre ++ post :=
    (List.map_congr_left fun y hy => by simp [freed, hnone y hy]).trans (List.map_id _)
  have hunheld : unheld b (w.addr, w.value) = b.fen.acks :=
    (List.map_congr_left fun y hy => by simp [others_eq_self (hacks y hy).2]).trans (List.map_id _)
  have hfire : b.fen.acks.filter (fun x => x.deps.isEmpty) = [] := List.filter_eq_nil_iff.mpr fun y hy => by simpa using (hacks y hy).1
  have hkeep : b.fen.acks.filter (fun x => !x.deps.isEmpty) = b.fen.acks := List.filter_eq_self.mpr fun y hy => by simpa using (hacks y hy).1
  rw [writeAck_eq hwrites hpre hdeps, written, hunheld, hsame, hfire, hkeep]
  rfl

theorem remoteSend_writes (b : Block) (a v : Word) (s : SigBy) : (remoteSend b a v s).fen.writes = b.fen.writes := by
  rw [remoteSend, gzSend_fen]

theorem ackFire_writes (b : Block) (x : AckThen) : (ackFire b x).fen.writes = b.fen.writes := by
  cases x with
  | done t => exact congrArg Fences.writes (completeItem_fen b t)
  | remote a v s => exact remoteSend_writes b a v s

theorem fenceWriteAck_eq {s : State} (hs : Alive s) (a : Word) : exec (.fenceWriteAck a) s = .next (s.withBlk (finish (writeAck s.blk a))) :=
  liftA_alive hs (writeAck · a)

section
variable {s : State} {w : FWrite} (hs : Alive s) (hdeps : w.deps = [])
include hs hdeps

theorem fenceWriteAck_alone {pre post : List FWrite} (hwrites : s.blk.fen.writes = pre ++ w :: post) (hpre : ∀ y ∈ pre, y.addr ≠ w.addr)
    (hnone : ∀ y ∈ pre ++ post, (w.addr, w.value) ∉ y.deps) (hacks : ∀ y ∈ s.blk.fen.acks, y.deps ≠ [] ∧ (w.addr, w.value) ∉ y.deps) :
    exec (.fenceWriteAck w.addr) s = .next (s.withBlk (finish ({ s.blk with
      mem := memWriteBytes s.blk.mem w.addr.toNat (leBytes 8 w.value.toNat)
      fen := { s.blk.fen with writes := pre ++ post } }, w.after.map Task.after))) := by
  rw [fenceWriteAck_eq hs, writeAck_alone hwrites hpre hdeps hnone hacks]

/-- The write-through of a signal of another chip, once acknowledged, is answered. -/
theorem fenceWriteAck_answers {pre post : List FWrite} (hwrites : s.blk.fen.writes = pre ++ w :: post) (hpre : ∀ y ∈ pre, y.addr ≠ w.addr)
    (hnone : ∀ y ∈ pre ++ post, (w.addr, w.value) ∉ y.deps) (hacks : ∀ y ∈ s.blk.fen.acks, y.deps ≠ [] ∧ (w.addr, w.value) ∉ y.deps)
    {chip : Nat} {seq : BitVec 32} {o : Nat} (hafter : w.after = [.applied chip seq o]) : Gives (exec (.fenceWriteAck w.addr) s) (fun t =>
      t.blk.mem = memWriteBytes s.blk.mem w.addr.toNat (leBytes 8 w.value.toNat) ∧ t.blk.fen = { s.blk.fen with writes := pre ++ post } ∧
      fmGet t.blk.fab.txSeq chip 0 = fmGet s.blk.fab.txSeq chip 0 + 1) := by
  let d : Block := { s.blk with
    mem := memWriteBytes s.blk.mem w.addr.toNat (leBytes 8 w.value.toNat)
    fen := { s.blk.fen with writes := pre ++ post } }
  have hafter' : finish (d, w.after.map Task.after) = gzSend (numbered d) chip (.fenceApplied seq o) := by
    rw [hafter, List.map_singleton, finish_after]
    rfl
  have hexec := fenceWriteAck_alone hs hdeps hwrites hpre hnone hacks
  have hsends := sends_gzSend (numbered d) chip (.fenceApplied seq o)
  exact gives_withBlk (hafter' ▸ hexec) ⟨hsends.mem, hsends.fen, gzSend_txSeq (numbered d) _ _⟩

/-- A write-through that had to follow it is issued. -/
theorem fenceWriteAck_issues {y : FWrite} (hwrites : s.blk.fen.writes = [w, y]) (hafter : w.after = []) (hy : y.deps = [(w.addr, w.value)]) :
    Gives (exec (.fenceWriteAck w.addr) s) (fun t =>
      t.blk.fen.writes = [{ y with deps := [], due := s.blk.tide.clock + dget s.blk 0x6000 5 * 1000 }]) := by
  have hack := writeAck_eq (pre := []) (post := [y]) hwrites (by simp) hdeps
  rw [hafter, List.map_nil] at hack
  refine gives_withBlk ((fenceWriteAck_eq hs _).trans (by rw [hack, finish_nil])) ?_
  refine (foldl_keeps (fun b : Block => b.fen.writes) (fun b (x : AckWait) => ackFire_writes b x.next) _ _).trans ?_
  simp [written, freed, others, hy]

/-- A signal to another chip that had to follow it is sent. -/
theorem fenceWriteAck_sends {x u : Word} {who : SigBy} (hwrites : s.blk.fen.writes = [w]) (hafter : w.after = [])
    (hacks : s.blk.fen.acks = [{ deps := [(w.addr, w.value)], next := .remote x u who }]) : Gives (exec (.fenceWriteAck w.addr) s) (fun t =>
      t.blk.fen.acks = [] ∧ fmGet t.blk.fab.txSeq (gchip x.toNat) 0 = fmGet s.blk.fab.txSeq (gchip x.toNat) 0 + 1 ∧
      t.blk.fen.signals = s.blk.fen.signals ++ [
        { seq := fmGet s.blk.fab.txSeq (gchip x.toNat) 0, chip := gchip x.toNat, after := who.after }]) := by
  let d := written s.blk w []
  have hunheld : unheld s.blk (w.addr, w.value) = [{ deps := [], next := .remote x u who }] := by simp [unheld, hacks, others]
  have hack : writeAck s.blk w.addr = act (remoteSend d x u who) := by
    rw [writeAck_eq (pre := []) (post := []) hwrites (by simp) hdeps, hafter, hunheld]
    rfl
  have hnone : d.fen.acks = [] := by simp [d, written, hunheld]
  let e : Block := { d with fen := { d.fen with signals := s.blk.fen.signals ++ [
    { seq := fmGet s.blk.fab.txSeq (gchip x.toNat) 0, chip := gchip x.toNat, after := who.after }] } }
  have hfen : (gzSend e (gchip x.toNat) (.fenceSignal x u who.ctx)).fen = e.fen := gzSend_fen _ _ _
  have hexec : exec (.fenceWriteAck w.addr) s = .next (s.withBlk (gzSend e (gchip x.toNat) (.fenceSignal x u who.ctx))) := by
    rw [fenceWriteAck_eq hs, hack]
    rfl
  exact gives_withBlk hexec ⟨(congrArg Fences.acks hfen).trans hnone, gzSend_txSeq e _ _, (congrArg Fences.signals hfen :)⟩

end

end Sys2Proof.Machine
end

section
/-! PROOFS. Deadlines of remote waits, stall reports and the wait-cycle walker (spec/05_fences_dependencies.md, R128, R134, R137, R138). -/

namespace Sys2Proof.Machine

open Sys2Proof

/-! ## Deadlines of remote waits (R134) -/

/-- A remote wait that expires ends the streams of its run. -/
theorem finish_remoteExpired {b : Block} {n : Nat} {r : Run} (hidle : b.rcv.stage = .idle) (hr : runOf b n = some r) (hfree : r.abort = none)
    (hlive : r.endedAt = none) (c addr : Nat) (cur val : Word) : Aborted (finish (remoteExpired b c n addr cur val)) n 0x13 ∧
      (∀ d ∈ r.clusters, d ∉ r.partsEnded → (coreOf (finish (remoteExpired b c n addr cur val)) d).ended = true) ∧
      (finish (remoteExpired b c n addr cur val)).tide.clock = b.tide.clock := by
  let e := depRec b 5 (chipNo b) (some c) r.ctx.toNat addr cur.toNat val.toNat r.tag r.part 0
  have hrec : Records b e := records_depRec _ _ _ _ _ _ _ _ _ _ _
  have hr' : runOf (numbered e) n = some r := by rw [runOf, show (numbered e).comp = b.comp from hrec.comp]; exact hr
  have hexpired : remoteExpired b c n addr cur val = (e, [.kill n stRemoteWait, .propagate r.part (remoteDeps e n)]) := by
    simp only [remoteExpired, hr]
    rfl
  have hsteady := finish_ends (b := e) (t := .kill n stRemoteWait) (d := killRun (numbered e) n stRemoteWait)
    (ts := [.propagate r.part (remoteDeps e n)]) (by rw [hrec.rcv]; exact hidle) rfl (by simp [Task.ends])
  have hst : Stands stRemoteWait := ⟨by decide, by decide⟩
  rw [hexpired]
  exact ⟨hsteady.stands n _ hst (killRun_aborted hr' hlive hfree hst),
    fun d hd hpart => hsteady.ended d ((killRun_live hr' hlive _).2 d hd hpart),
    hsteady.clock.trans ((quiet_killRun _ n _).clock.trans hrec.clock)⟩

theorem remoteWaitDeadline_core {s : State} {a w : Word} {c n d : Nat} {cr : Bool} {r : Run} (hs : Running s)
    (hrun : (coreOf s.blk c).run = some n) (hr : runOf s.blk n = some r) (hfree : r.abort = none) (hlive : r.endedAt = none)
    (hc : c ∈ r.clusters) (hpart : c ∉ r.partsEnded) (hhold : (coreOf s.blk c).hold = .remoteFence a w d cr) :
    Gives (exec (.remoteWaitDeadline (.core c)) s) (fun t => (runOf t.blk n).map (fun x => x.abort) = some (some 0x13) ∧
      (coreOf t.blk c).ended = true ∧ t.blk.tide.clock = max s.blk.tide.clock d) := by
  have hdue : remoteDeadline s.blk (.core c) = remoteExpired (passTo s.blk d) c n a.toNat (Config.remoteFence a) w := by
    simp only [remoteDeadline, hhold, hrun]
  have hexec : exec (.remoteWaitDeadline (.core c)) s = .next (s.withBlk (finish (remoteDeadline s.blk (.core c)))) :=
    liftRA_running hs (remoteDeadline · (.core c))
  obtain ⟨habort, hended, hclock⟩ := finish_remoteExpired (b := passTo s.blk d) hs.2 hr hfree hlive c a.toNat (Config.remoteFence a) w
  exact gives_withBlk (hdue ▸ hexec) ⟨habort, hended c hc hpart, hclock⟩

theorem remoteWaitDeadline_baton {s : State} {c n : Nat} {r : Run} {x : Baton} (hs : Running s)
    (hx : (portOf s.blk c).out.find? (fun y => y.id = x.id && isL y.ent.pos) = some x) (hn : x.run = n) (hr : runOf s.blk n = some r)
    (hfree : r.abort = none) (hlive : r.endedAt = none) : Gives (exec (.remoteWaitDeadline (.baton c x.id)) s) (fun t =>
      (runOf t.blk n).map (fun x => x.abort) = some (some 0x13) ∧ t.blk.tide.clock = max s.blk.tide.clock x.deadline) := by
  subst hn
  have hdue : remoteDeadline s.blk (.baton c x.id) = remoteExpired (passTo s.blk x.deadline) c x.run 0 0 0 := by
    simp only [remoteDeadline, hx]
  have hexec : exec (.remoteWaitDeadline (.baton c x.id)) s = .next (s.withBlk (finish (remoteDeadline s.blk (.baton c x.id)))) :=
    liftRA_running hs (remoteDeadline · (.baton c x.id))
  obtain ⟨habort, -, hclock⟩ := finish_remoteExpired (b := passTo s.blk x.deadline) hs.2 hr hfree hlive c 0 0 0
  exact gives_withBlk (hdue ▸ hexec) ⟨habort, hclock⟩

/-! ## Stall reports (R128) -/

theorem scoreboardStall_full {s : State} {u period : Nat} (hs : Running s) (hfull : s.blk.sb.fullSince = some (u, period)) :
    Gives (exec (.scoreboardStall none) s) (fun t => t.blk.tide.clock = max s.blk.tide.clock (u + period) ∧
      t.blk.sb = { s.blk.sb with fullSince := some (t.blk.tide.clock, dget s.blk 0x2030 4 * 1000000) } ∧
      (bitAt (BitVec.ofNat 32 (dget s.blk 0x8000 4)) 0 = true → t.blk.traceSeq = (s.blk.traceSeq + 1) % 2 ^ 32)) := by
  let d : Block := { passTo s.blk (u + period) with
    sb := { s.blk.sb with fullSince := some (max s.blk.tide.clock (u + period), dget s.blk 0x2030 4 * 1000000) } }
  let e := depRec d 2 (chipNo d) none 0xFFFFFF 0 0 0 0x1FFFF 0 0
  have hrec : Records d e := records_depRec _ _ _ _ _ _ _ _ _ _ _
  have hstall : sbStall s.blk none = e := by
    simp only [sbStall, hfull]
    rfl
  have hexec : exec (.scoreboardStall none) s = .next (s.withBlk (sbStall s.blk none)) := liftR_running hs (sbStall · none)
  have hclock : e.tide.clock = max s.blk.tide.clock (u + period) := hrec.clock
  refine gives_withBlk (hstall ▸ hexec) ⟨hclock, ?_, fun hon => ?_⟩
  · exact hrec.sb.trans (by rw [show (s.withBlk e).blk.tide.clock = _ from hclock])
  · rw [bitAt, BitVec.getLsbD_ofNat] at hon
    exact depRec_traceSeq (b := d) (((Bool.and_eq_true _ _).mp hon).2) _ _ _ _ _ _ _ _ _ _

theorem scoreboardStall_quota {s : State} {u period p : Nat} (hs : Running s) (hfull : s.blk.sb.full = false)
    (hquota : fmGet? s.blk.sb.quota p = some (u, period)) : Gives (exec (.scoreboardStall (some p)) s) (fun t =>
      t.blk.tide.clock = max s.blk.tide.clock (u + period) ∧
      t.blk.sb = { s.blk.sb with quota := fmSet s.blk.sb.quota p (t.blk.tide.clock, dget s.blk 0x2030 4 * 1000000) }) := by
  let d : Block := { passTo s.blk (u + period) with
    sb := { s.blk.sb with quota := fmSet s.blk.sb.quota p (max s.blk.tide.clock (u + period), dget s.blk 0x2030 4 * 1000000) } }
  let e := depRec d 2 (chipNo d) none 0xFFFFFF 0 0 0 0 p 0
  have hrec : Records d e := records_depRec _ _ _ _ _ _ _ _ _ _ _
  have hstall : sbStall s.blk (some p) = e := by
    simp only [sbStall, hquota, hfull, Bool.false_eq_true, if_false]
    rfl
  have hexec : exec (.scoreboardStall (some p)) s = .next (s.withBlk (sbStall s.blk (some p))) := liftR_running hs (sbStall · (some p))
  have hclock : e.tide.clock = max s.blk.tide.clock (u + period) := hrec.clock
  exact gives_withBlk (hstall ▸ hexec) ⟨hclock, hrec.sb.trans (by rw [show (s.withBlk e).blk.tide.clock = _ from hclock])⟩

/-! ## The wait-cycle walker (R136 to R138) -/

/-- A pass that is due takes the cycles as they stand. -/
theorem walkerStart_due {b : Block} (hpass : b.walk.pass = none) {now : Nat} (hnow : (if timeRuns b then b.tide.time else b.tide.clock) = now)
    (hdue : now ≤ b.walk.due) (hsoon : b.walk.due ≤ now + 100000000) : walkerStart b =
      { passTo b (b.tide.clock + (b.walk.due - now)) with
        walk := { b.walk with
          due := (b.walk.due / (dget b 0x2030 2 * 1000) + 1) * (dget b 0x2030 2 * 1000)
          pass := some ((creditCycles b).map (creditSet b)) } } := by
  subst hnow
  simp only [walkerStart, hdue, hsoon, and_self, if_true, passTo_walk, hpass, Option.isSome_none, Bool.false_eq_true, if_false]
  rfl

/-- The block once a pass has ended, before what it found is acted on. -/
def passed (b : Block) (found : List CreditSet) : Block := { b with walk := { b.walk with pass := none, prev := found } }

/-- The cycles that the pass before had found too, with unchanged credits. -/
def confirmed (b : Block) (found : List CreditSet) : List CreditSet :=
  found.filter (fun x => b.walk.prev.any (fun y => decide (x.runs = y.runs) && decide (x.values = y.values)))

theorem walkerEnd_eq {b : Block} {found : List CreditSet} (hpass : b.walk.pass = some found) : walkerEnd b =
    andThen (actEach (passed b found) (confirmed b found) breakCycle) (fun d => actEach d (orphans b) endOrphan) := by
  simp only [walkerEnd, hpass]
  rfl

theorem actEach_singleton {α : Type} (b : Block) (x : α) (f : Block → α → Act) : actEach b [x] f = f b x := andThen_act b (f · x)

theorem andThen_done (x : Act) : andThen x act = x := by simp [andThen, act]

/-- An abort and the loss of a context with no sample that was resident: both come about, and the counters of the dependency engine are as
they were. -/
theorem finish_abort_lose {b : Block} {n st : Nat} {r : Run} {h : BitVec 24} {k : Ctx} (hidle : b.rcv.stage = .idle)
    (hr : runOf b n = some r) (hfree : r.abort = none) (hlive : r.endedAt = none) (hst : Stands st) (hk : ctxOf b h = some k)
    (hstate : k.state = .resident) (hsamples : b.rel.samples = []) : Aborted (finish (b, [.abort n st, .lose h st])) n st ∧
      Lost (finish (b, [.abort n st, .lose h st])) h st ∧ SameCounts b (finish (b, [.abort n st, .lose h st])) := by
  let d := abortRun (numbered b) n st
  have hquiet : Quiet (numbered b) d := quiet_abortRun _ n st
  have hk' : ctxOf d h = some k := (ctxOf_congr hquiet.obj h).trans hk
  obtain ⟨hlost, hstands, hcounts, hends⟩ := doLose_lost hk' hstate ((congrArg _ hquiet.rel).trans hsamples) st
  obtain ⟨fuel, hfuel⟩ := taskFuel_eq b
  have hrun : finish (b, [.abort n st, .lose h st]) = runTasks (fuel + 1) (doLose d h st).2 (doLose d h st).1 := by
    rw [finish_tasks hidle (by simp), hfuel]
    simp only [runTasks, doTask, act, List.append_nil, List.nil_append]
    rfl
  have hsteady := runTasks_ends (fuel + 1) hends (doLose d h st).1
  rw [hrun]
  exact ⟨hsteady.stands n st hst (hstands n st hst (abortRun_aborted (b := numbered b) hr hlive hfree hst)), hsteady.lost h st hlost,
    hquiet.counts.trans (hcounts.trans hsteady.counts)⟩

section
variable {s : State} (hs : Running s)
include hs

theorem walkerPassEnd_eq {a : Act} (h : walkerEnd s.blk = a) : exec .walkerPassEnd s = .next (s.withBlk (finish a)) :=
  h ▸ liftRA_running hs walkerEnd

theorem walkerPassEnd_none {found : List CreditSet} (hpass : s.blk.walk.pass = some found) (horphans : orphans s.blk = [])
    (hnew : ∀ x ∈ found, ∀ y ∈ s.blk.walk.prev, ¬(x.runs = y.runs ∧ x.values = y.values)) :
    exec .walkerPassEnd s = .next (s.withBlk (passed s.blk found)) := by
  have hsure : confirmed s.blk found = [] := List.filter_eq_nil_iff.mpr fun x hx => by simpa using hnew x hx
  have hend : walkerEnd s.blk = act (passed s.blk found) := by
    rw [walkerEnd_eq hpass, horphans, hsure]
    rfl
  exact walkerPassEnd_eq hs hend

theorem walkerPassEnd_breaks {cyc old : CreditSet} {n c : Nat} {r : Run} {x y : Word} {k : Ctx} (hpass : s.blk.walk.pass = some [cyc])
    (hold : old ∈ s.blk.walk.prev) (hruns : cyc.runs = old.runs) (hvalues : cyc.values = old.values) (horphans : orphans s.blk = [])
    (hyoung : cyc.young = n) (hcore : cyc.core = c) (hsince : (coreOf s.blk c).holdFrom = cyc.since) (hr : runOf s.blk n = some r)
    (hfree : r.abort = none) (hlive : r.endedAt = none)
    (hwait : (creditWaits s.blk).find? (fun w => w.1 = c && w.2.1 = n) = some (c, n, x, y)) (hk : ctxOf s.blk r.ctx = some k)
    (hstate : k.state = .resident) (hsamples : s.blk.rel.samples = []) : Gives (exec .walkerPassEnd s) (fun t =>
      (runOf t.blk n).map (fun z => z.abort) = some (some 0x14) ∧ (ctxOf t.blk r.ctx).map (fun z => (z.state, z.lostCause)) = some (.lost, 0x14) ∧
      fmGet t.blk.ctr 0x098 0 = satAdd 32 (fmGet s.blk.ctr 0x098 0) 1) := by
  subst hyoung hcore
  let b := passed s.blk [cyc]
  let d := depRec b 3 (chipNo b) (some cyc.core) r.ctx.toNat x.toNat (creditValue b x).toNat y.toNat r.tag r.part cyc.runs.length
  have hrec : Records b d := records_depRec _ _ _ _ _ _ _ _ _ _ _
  have hsure : confirmed s.blk [cyc] = [cyc] :=
    List.filter_eq_self.mpr fun z hz => by
      rw [List.mem_singleton.mp hz]
      exact List.any_eq_true.mpr ⟨old, hold, by simp [hruns, hvalues]⟩
  have hbreak : breakCycle b cyc = (cnt d cCreditCycle, [.abort cyc.young stCreditCycle, .lose r.ctx stCreditCycle]) := by
    have hsame : decide ((coreOf b cyc.core).holdFrom ≠ cyc.since) = false := decide_eq_false (not_not.mpr hsince)
    simp only [breakCycle, show runOf b cyc.young = some r from hr,
      show (creditWaits b).find? (fun w => w.1 = cyc.core && w.2.1 = cyc.young) = some (cyc.core, cyc.young, x, y) from hwait, hfree, hlive,
      hsame, Option.isSome_none, Bool.or_false, Bool.false_eq_true, if_false]
    rfl
  have hend : walkerEnd s.blk = (cnt d cCreditCycle, [.abort cyc.young stCreditCycle, .lose r.ctx stCreditCycle]) := by
    rw [walkerEnd_eq hpass, horphans, hsure, actEach_singleton, show breakCycle (passed s.blk [cyc]) cyc = _ from hbreak]
    exact andThen_done _
  have hr' : runOf (cnt d cCreditCycle) cyc.young = some r := by rw [runOf_cnt, runOf, hrec.comp]; exact hr
  have hk' : ctxOf (cnt d cCreditCycle) r.ctx = some k := (ctxOf_congr (show (cnt d cCreditCycle).obj = s.blk.obj from hrec.obj) r.ctx).trans hk
  obtain ⟨habort, hlost, hcounts⟩ := finish_abort_lose (st := stCreditCycle) (b := cnt d cCreditCycle) (by rw [cnt_rcv, hrec.rcv]; exact hs.2) hr'
    hfree hlive ⟨by decide, by decide⟩ hk' hstate (by rw [cnt_rel, hrec.rel]; exact hsamples)
  refine gives_withBlk (walkerPassEnd_eq hs hend) ⟨habort, hlost, (hcounts 0x098 (by decide)).trans ((cnt_value d cCreditCycle).trans ?_)⟩
  rw [show fmGet d.ctr cCreditCycle 0 = fmGet s.blk.ctr 0x098 0 from hrec.1 0x098 (by decide)]

theorem walkerPassEnd_orphan {c n : Nat} {r : Run} {x y : Word} (hpass : s.blk.walk.pass = some []) (horphans : orphans s.blk = [(c, n, x, y)])
    (hr : runOf s.blk n = some r) (hfree : r.abort = none) (hlive : r.endedAt = none) : Gives (exec .walkerPassEnd s) (fun t =>
      (runOf t.blk n).map (fun z => z.abort) = some (some 0x16) ∧ t.blk.walk.pass = none) := by
  let b := passed s.blk []
  let d := depRec b 4 (chipNo b) (some c) r.ctx.toNat x.toNat (creditValue b x).toNat y.toNat r.tag r.part 0
  have hrec : Records b d := records_depRec _ _ _ _ _ _ _ _ _ _ _
  have horphan : endOrphan b (c, n, x, y) = (d, [.abort n stPeerFault]) := by
    simp only [endOrphan, show runOf b n = some r from hr, hfree, Option.isSome_none, Bool.false_eq_true, if_false]
    rfl
  have hend : walkerEnd s.blk = (d, [.abort n stPeerFault]) := by
    rw [walkerEnd_eq hpass, horphans]
    exact (andThen_act b _).trans ((actEach_singleton b _ _).trans horphan)
  have hr' : runOf (numbered d) n = some r := by rw [runOf, show (numbered d).comp = b.comp from hrec.comp]; exact hr
  have hfinish : finish (d, [.abort n stPeerFault]) = abortRun (numbered d) n stPeerFault :=
    finish_single (x := .abort n stPeerFault) (by rw [hrec.rcv]; exact hs.2) rfl
  have hwalk : (abortRun (numbered d) n stPeerFault).walk = b.walk := (quiet_abortRun _ _ _).walk.trans hrec.walk
  exact gives_withBlk (hfinish ▸ walkerPassEnd_eq hs hend)
    ⟨abortRun_aborted hr' hlive hfree ⟨by decide, by decide⟩, (congrArg Walker.pass hwalk :)⟩

end

/-- Settles O41: a fence that is read meets its one operation in the cache (`fenceMissReadReturn_eq`), an acknowledged write-through changes what
`writeAck_eq` says, and the effects that end runs and contexts leave runs that must end, ended streams and Lost contexts so (`Steady`). -/
theorem fenceEvents : Obligations.FenceEvents := by
  unfold Obligations.FenceEvents
  intro s a v
  refine ⟨fun hd hs hidle hent hroom => ?_, fun pre post w hs hwrites hpre haddr hdeps hnone hacks => ?_,
    fun y w hs hwrites haddr hdeps hafter hy => ?_, fun w x u who hs hwrites haddr hdeps hafter hacks => ?_,
    fun c n r w d cr hs hrun hr hfree hlive hc hpart hhold => remoteWaitDeadline_core hs hrun hr hfree hlive hc hpart hhold,
    fun c n r x hs hx hn hr hfree hlive => remoteWaitDeadline_baton hs hx hn hr hfree hlive,
    fun u period hs hfull => scoreboardStall_full hs hfull,
    fun u period p hs hfull hquota => scoreboardStall_quota hs hfull hquota,
    fun hs hpass hdue hsoon => ?_,
    fun found hs hpass horphans hnew => walkerPassEnd_none hs hpass horphans hnew,
    fun cyc old n c r x y k hs hpass hold hruns hvalues horphans hyoung hcore hsince hr hfree hlive hwait hk hstate _ hsamples =>
      walkerPassEnd_breaks hs hpass hold hruns hvalues horphans hyoung hcore hsince hr hfree hlive hwait hk hstate hsamples,
    fun c n r x y hs hpass horphans hr hfree hlive => walkerPassEnd_orphan hs hpass horphans hr hfree hlive⟩
  · exact ⟨fun tag i need hops hi hv hpin => fenceMissReadReturn_wait hs hidle hent hroom hops rfl rfl hi hv hpin,
      fun value who hops hwaits hne hv => fenceMissReadReturn_advances hs hidle hent hroom hops rfl rfl hwaits hne hv,
      fun value who hops hv => fenceMissReadReturn_regresses hs hidle hent hroom hops rfl rfl hv⟩
  · subst haddr
    refine ⟨fun hafter => ?_, fun chip seq o hafter => fenceWriteAck_answers hs hdeps hwrites hpre hnone hacks hafter⟩
    have hexec := fenceWriteAck_alone hs hdeps hwrites hpre hnone hacks
    rwa [hafter] at hexec
  · subst haddr
    exact fenceWriteAck_issues hs hdeps hwrites hafter hy
  · subst haddr
    exact fenceWriteAck_sends hs hdeps hwrites hafter hacks
  · exact (liftR_running hs walkerStart).trans (by rw [walkerStart_due hpass rfl hdue hsoon])

end Sys2Proof.Machine
end

section
/-! PROOFS. A control slot alone in its SLW (spec/06_long_words.md, R150 to R156, R160, R162, R172): the core that a slot leaves, the flow that it
names and its skip, each brought to the state after the SLW once for every slot. -/

namespace Sys2Proof.Machine

open Sys2Proof

/-! ## The core while the SLW runs, and after it -/

/-- Core `k` while the one-slot SLW that core `k₀` began is under way. -/
def underWay (k₀ : CoreSt) (op : BitVec 8) (f : SlotFields) (k : CoreSt) : CoreSt :=
  { k with slwCnt := satInc 32 k₀.slwCnt, syncCall := [], slw := some (oneSlw k₀ op f) }

/-- Core `k` once that SLW has ended: it goes on at `off`. -/
def slotDone (k₀ k : CoreSt) (off : Nat) : CoreSt := { k with slwCnt := satInc 32 k₀.slwCnt, off := off, slw := none, syncCall := [] }

theorem afterSlot_eq (s : State) (c : Nat) (k : CoreSt) (off : Nat) :
    afterSlot s c k off = s.withBlk (putCore s.blk c (slotDone (coreOf s.blk c) k off)) := rfl

@[simp] theorem coreOf_slotBlk_underWay (s : State) (c : Nat) (op : BitVec 8) (f : SlotFields) :
    coreOf (slotBlk s c op f) c = underWay (coreOf s.blk c) op f (coreOf s.blk c) := coreOf_slotBlk s c op f

theorem SlotReady.doneNoLoop {s : State} {c n : Nat} {r : Run} (h : SlotReady s c n r) :
    (slotDone (coreOf s.blk c) (coreOf s.blk c) (coreOf s.blk c).off).loops = [] := h.noLoop

section
variable (k₀ k : CoreSt) (op : BitVec 8) (f g : SlotFields) (i : BitVec 5) (v : Word) (a n off : Nat)

@[simp] theorem sGet_underWay : sGet (underWay k₀ op f k) i = sGet k i := rfl
@[simp] theorem aGet_underWay : aGet (underWay k₀ op f k) i = aGet k i := rfl
@[simp] theorem slotX_underWay : slotX (underWay k₀ op f k) g = slotX k g := rfl
@[simp] theorem localAddr_underWay : localAddr (underWay k₀ op f k) g = localAddr k g := rfl
@[simp] theorem localLoad_underWay : localLoad (underWay k₀ op f k) a n = localLoad k a n := rfl
@[simp] theorem localStore_underWay : localStore (underWay k₀ op f k) a n v = underWay k₀ op f (localStore k a n v) := rfl
@[simp] theorem sSet_underWay : sSet (underWay k₀ op f k) i v = underWay k₀ op f (sSet k i v) := by unfold sSet; split <;> rfl
@[simp] theorem aSet_underWay : aSet (underWay k₀ op f k) i v = underWay k₀ op f (aSet k i v) := by unfold aSet; split <;> rfl
@[simp] theorem sSet_slotDone : sSet (slotDone k₀ k off) i v = slotDone k₀ (sSet k i v) off := by unfold sSet; split <;> rfl
@[simp] theorem curStream_sSet : curStream (sSet k i v) = curStream k := by unfold sSet; split <;> rfl

end

/-- Two cores stand in the same loops and streams. -/
structure SameFlow (k k' : CoreSt) : Prop where
  loops : k'.loops = k.loops
  levels : k'.levels = k.levels

theorem sameFlow_sSet (k : CoreSt) (i : BitVec 5) (v : Word) : SameFlow k (sSet k i v) := by unfold sSet; split <;> exact ⟨rfl, rfl⟩
theorem sameFlow_aSet (k : CoreSt) (i : BitVec 5) (v : Word) : SameFlow k (aSet k i v) := by unfold aSet; split <;> exact ⟨rfl, rfl⟩
theorem sameFlow_localStore (k : CoreSt) (a n : Nat) (v : Word) : SameFlow k (localStore k a n v) := ⟨rfl, rfl⟩

/-! ## The form of a slot (R155) -/

theorem regLegal_address {x : BitVec 5} (h : x.toNat < 16) : regLegal .address x = true := by
  have h4 : x.getLsbD 4 = false := Nat.testBit_eq_false_of_lt h
  rw [regLegal, h4]; rfl

theorem imm_all (imm : BitVec 32) : imm &&& ~~~immAll = 0 := by simp [immAll]

/-- An immediate that fits its field has no bit beyond it. -/
theorem imm_below {imm m : BitVec 32} {k : Nat} (h : imm.toNat < 2 ^ k) (hm : m.toNat = 2 ^ k - 1) : imm &&& ~~~m = 0 := by
  have hin : imm &&& m = imm := BitVec.eq_of_toNat_eq (by rw [BitVec.toNat_and, hm, Nat.and_two_pow_sub_one_of_lt_two_pow h])
  rw [← hin, BitVec.and_assoc, BitVec.and_not_self]
  exact BitVec.and_zero

/-- The form of an opcode that does not use `I`. -/
theorem formLegal_plain {u v w : RegUse} {m imm : BitVec 32} {func : BitVec 8} {d a b : BitVec 5} (hd : regLegal u d = true)
    (ha : regLegal v a = true) (hb : regLegal w b = true) (himm : imm &&& ~~~m = 0) :
    formLegal ⟨u, v, w, m, func, .zero⟩ ⟨d, a, b, false, 0, imm⟩ = true := by
  simp [formLegal, formWith, hd, ha, hb, himm]

/-- The form of an opcode whose `I` selects the second operand. -/
theorem formLegal_operand {u v : RegUse} {f : SlotFields} (hd : regLegal u f.d = true) (ha : regLegal v f.a = true) (hfunc : f.func = 0)
    (hx : if f.i = true then f.b = 0 else f.imm = 0) : formLegal ⟨u, v, .scalar, immAll, 0, .operand⟩ f = true := by
  cases hi : f.i with
  | true =>
    rw [hi, if_pos rfl] at hx
    simp [formLegal, formWith, hi, hd, ha, hfunc, hx, imm_all]
    rfl
  | false =>
    rw [hi, if_neg Bool.false_ne_true] at hx
    simp [formLegal, formWith, hi, hd, ha, hfunc, show regLegal .scalar f.b = true from rfl, hx]

/-- A slot in its opcode's form takes effect where nothing else changes the flow (R154). -/
theorem ctrlSlot_effect {b : Block} {c n : Nat} {r : Run} {w : Slw} {op : BitVec 8} {f : SlotFields} {fm : Form} (hend : hEnd w.hdr = false)
    (hform : formOf op = some fm) (hlegal : formLegal fm f = true) :
    ctrlSlot b c n r w 0 (slotWord op f) false none = ctrlEffect b c n r w 0 (slotWord op f) none := by
  simp [ctrlSlot, hend, hform, hlegal]

@[simp] theorem oneSlw_off (k : CoreSt) (op : BitVec 8) (f : SlotFields) : (oneSlw k op f).off = k.off := rfl
@[simp] theorem oneSlw_len (k : CoreSt) (op : BitVec 8) (f : SlotFields) : (oneSlw k op f).len = 16 := rfl

theorem hEnd_oneSlw (k : CoreSt) (op : BitVec 8) (f : SlotFields) : hEnd (oneSlw k op f).hdr = false :=
  show hEnd 1#64 = false by decide

/-! ## Where a core goes on (R160, R162) -/

/-- Within its stream, and not at the end of the innermost loop's body, a core goes on where it is sent. -/
theorem settleAt_stays {k : CoreSt} {nxt : Nat} (hbody : ∀ l ∈ k.loops.head?, l.last ≠ nxt) (hin : nxt < (curStream k).len) :
    settleAt settleFuel k nxt = { k with off := nxt } := by
  have hend : settleAt.settleEnd 15 k nxt = { k with off := nxt } := by simp [settleAt.settleEnd, Nat.not_le.mpr hin]
  cases hl : k.loops with
  | nil => simp only [settleFuel, settleAt, hl, hend]
  | cons l ls =>
    have hlast : l.last ≠ nxt := hbody l (by simp [hl])
    simp only [settleFuel, settleAt, hl, hlast, hend, decide_false, Bool.and_false, Bool.false_eq_true, if_false]

theorem popLevelLoops_nil {k : CoreSt} (h : k.loops = []) : popLevelLoops k = [] := by simp [popLevelLoops, h]

section
variable {k : CoreSt} {nxt : Nat} (hloops : k.loops = [])
include hloops

theorem flowTo_stop : flowTo k .stop nxt = { k with ended := true, levels := k.levels.drop (k.levels.length - 1) } := by
  simp only [flowTo, endAll, ← hloops]

theorem flowTo_goto {t : Nat} (hin : t < (curStream k).len) : flowTo k (.goto t) nxt = { k with off := t } := by
  have hkeep (p : LoopRec → Bool) : k.loops.filter p = k.loops := by rw [hloops, List.filter_nil]
  simp only [flowTo, hkeep]
  exact settleAt_stays (by simp [hloops]) hin

/-- LOOP on a count of 0 passes its body by (R160). -/
theorem flowTo_loop_skips {first last count reg : Nat} (hin : last < (curStream k).len) :
    flowTo k (.loop true first last count reg) nxt = { k with off := last } := by
  simp only [flowTo, if_true]
  exact settleAt_stays (by simp [hloops]) hin

/-- LOOP opens its body with iteration 0 (R160). -/
theorem flowTo_loop_opens {first last count : Nat} (reg : BitVec 5) (hbody : last ≠ first) (hin : first < (curStream k).len) :
    flowTo k (.loop false first last count reg.toNat) nxt =
      { sSet { k with loops := [{ first := first, last := last, count := count, reg := reg.toNat, iter := 0, level := k.levels.length }] } reg 0
        with off := first } := by
  simp only [flowTo, hloops, Bool.false_eq_true, if_false, loopIter, BitVec.ofNat_toNat, BitVec.setWidth_eq]
  refine settleAt_stays ?_ (by rw [curStream_sSet]; exact hin)
  rw [(sameFlow_sSet _ _ _).loops]
  simpa using hbody

/-- ARM replaces the stream of the level (R162). -/
theorem flowTo_arm {l : Level} {ls : List Level} (hlevels : k.levels = l :: ls) {va len : Nat} (hlen : 0 < len) :
    flowTo k (.arm va len) nxt = { k with levels := { l with stream := namedStream va len } :: ls, off := 0 } := by
  simp only [flowTo, popLevelLoops_nil hloops, hlevels]
  rw [settleAt_stays (by simp) hlen]
  simp only [← hloops]

/-- CALL opens a stream and returns to the place after its SLW (R162). -/
theorem flowTo_call {ls : List Level} (hlevels : k.levels = ls) {va len : Nat} (hlen : 0 < len) :
    flowTo k (.call va len) nxt = { k with levels := { stream := namedStream va len, ret := nxt } :: ls, off := 0 } := by
  subst hlevels
  exact settleAt_stays (by simp [hloops]) hlen

/-- RET closes the level's stream (R162). -/
theorem flowTo_ret {l m : Level} {ls : List Level} (hlevels : k.levels = l :: m :: ls) (hin : l.ret < m.stream.len) :
    flowTo k .ret nxt = { k with levels := m :: ls, off := l.ret } := by
  simp only [flowTo, popLevelLoops_nil hloops, hlevels]
  rw [settleAt_stays (by simp) hin]
  simp only [← hloops]

end

/-- Step 5 of an SLW that neither ends the stream nor runs within a loop (R152). -/
theorem slwFlow_noLoop {b : Block} {c n : Nat} {w : Slw} (hend : hEnd w.hdr = false) (hloops : (coreOf b c).loops = []) :
    slwFlow b c n w = act (putCore b c (flowTo { coreOf b c with slw := none, syncCall := w.sync } w.flow (w.off + w.len))) := by
  simp only [slwFlow, crossLoops_none b c n _ _ _ hloops, coreOf_putCore, putCore_putCore, hend, Bool.false_eq_true, if_false]

/-- Step 5 of an SLW of one slot that names flow `g`. -/
theorem slwFlow_oneSlw {s : State} {c n : Nat} {r : Run} (h : SlotReady s c n r) (op : BitVec 8) (f : SlotFields) (g : Flow) {k : CoreSt}
    (hk : { k with slw := none, syncCall := [] } = slotDone (coreOf s.blk c) (coreOf s.blk c) (coreOf s.blk c).off) :
    slwFlow (putCore s.blk c k) c n { oneSlw (coreOf s.blk c) op f with stage := .engines, value := none, flow := g } =
      act (putCore s.blk c (flowTo (slotDone (coreOf s.blk c) (coreOf s.blk c) (coreOf s.blk c).off) g ((coreOf s.blk c).off + 16))) := by
  have hloops : k.loops = [] := (congrArg (fun k : CoreSt => k.loops) hk).trans h.noLoop
  have hflow := slwFlow_noLoop (b := putCore s.blk c k) (c := c) (n := n)
    (w := { oneSlw (coreOf s.blk c) op f with stage := .engines, value := none, flow := g }) (hEnd_oneSlw (coreOf s.blk c) op f) (by simpa using hloops)
  simp only [coreOf_putCore, putCore_putCore] at hflow
  exact hflow.trans (congrArg (fun k => act (putCore s.blk c (flowTo k g ((coreOf s.blk c).off + 16)))) hk)

/-! ## The rows -/

section
variable {s : State} {c n : Nat} {r : Run} {op : BitVec 8} {f : SlotFields} {fm : Form} (h : SlotReady s c n r)
  (hform : formOf op = some fm) (hlegal : formLegal fm f = true)
include h hform hlegal

/-- A slot whose effect is core `k`, in the loops and streams where it was: the row leaves `k` after the SLW. -/
theorem ctrlRow_changes {k : CoreSt} (heff : ctrlEffect (slotBlk s c op f) c n r (oneSlw (coreOf s.blk c) op f) 0 (slotWord op f) none =
    .core (underWay (coreOf s.blk c) op f k)) (hk : SameFlow (coreOf s.blk c) k) :
    ctrlRow c op f s = .next (afterSlot s c k ((coreOf s.blk c).off + 16)) :=
  ctrlRow_core c n r s op f h (underWay (coreOf s.blk c) op f k)
    ((ctrlSlot_effect (hEnd_oneSlw _ _ _) hform hlegal).trans heff) (hk.loops.trans h.noLoop) hk.levels rfl

/-- A slot whose effect is a change of flow: the core goes on where the change brings it. -/
theorem ctrlRow_turns {g : Flow} {k : CoreSt} {off : Nat}
    (heff : ctrlEffect (slotBlk s c op f) c n r (oneSlw (coreOf s.blk c) op f) 0 (slotWord op f) none = .flow g)
    (hto : flowTo (slotDone (coreOf s.blk c) (coreOf s.blk c) (coreOf s.blk c).off) g ((coreOf s.blk c).off + 16) =
      slotDone (coreOf s.blk c) k off) : ctrlRow c op f s = .next (afterSlot s c k off) := by
  obtain ⟨hrun, -⟩ := runOf_of_issuing h.issues
  have hslot := (ctrlSlot_effect (b := slotBlk s c op f) (c := c) (n := n) (r := r) (hEnd_oneSlw (coreOf s.blk c) op f) hform hlegal).trans heff
  rw [ctrlRow_leaves c n r s op f h (slotBlk s c op f) (some g) (by rw [hslot]; exact ⟨rfl, rfl⟩) (by simp [slotBlk, hrun]) rfl
    (by simp [underWay]), afterSlot_eq, ← hto]
  exact congrArg (fun a => Host.Outcome.next (s.withBlk (finish a))) (slwFlow_oneSlw h op f g rfl)

end

/-- A slot that leaves block `b'`, in which the SLW under way is `w'`: what follows takes both. -/
theorem slwSlot_leavesSlw {b b' : Block} {c n : Nat} {r : Run} {w w' : Slw} {slot : Word} (next : Block → Slw → Act) (hr : runOf b n = some r)
    (hf : ctrlSlot (putCore b c { coreOf b c with slw := some w }) c n r w 0 slot false w.value = .blk (act b'))
    (hw : (coreOf b' c).slw = some w') : slwSlot b c n w 0 slot false next = next b' { w' with value := none } := by
  unfold slwSlot
  simp only [hr]
  generalize ctrlSlot (putCore b c { coreOf b c with slw := some w }) c n r w 0 slot false w.value = x at hf ⊢
  subst hf
  simp only [andThen_act, hw, Option.getD_some, Option.getD_none]

/-- A slot that names in its block the flow of its SLW, as ARM and CALL do: the core goes on where that flow brings it. -/
theorem ctrlRow_names {s : State} {c n : Nat} {r : Run} {op : BitVec 8} {f : SlotFields} {fm : Form} (h : SlotReady s c n r)
    (hform : formOf op = some fm) (hlegal : formLegal fm f = true) {g : Flow} {k : CoreSt} {off : Nat}
    (heff : ctrlEffect (slotBlk s c op f) c n r (oneSlw (coreOf s.blk c) op f) 0 (slotWord op f) none = .blk (act (putCore (slotBlk s c op f) c
      { coreOf (slotBlk s c op f) c with slw := some { oneSlw (coreOf s.blk c) op f with flow := g } })))
    (hto : flowTo (slotDone (coreOf s.blk c) (coreOf s.blk c) (coreOf s.blk c).off) g ((coreOf s.blk c).off + 16) =
      slotDone (coreOf s.blk c) k off) : ctrlRow c op f s = .next (afterSlot s c k off) := by
  obtain ⟨hrun, -⟩ := runOf_of_issuing h.issues
  let b := putCore s.blk c { slwCount (coreOf s.blk c) with syncCall := [] }
  let w := oneSlw (coreOf s.blk c) op f
  let w' : Slw := { w with flow := g }
  let d := putCore (slotBlk s c op f) c { coreOf (slotBlk s c op f) c with slw := some w' }
  have hin : putCore b c { coreOf b c with slw := some w } = slotBlk s c op f := by
    simp only [b, coreOf_putCore, putCore_putCore]; rfl
  have hslot : slwSlot b c n w 0 (slotWord op f) false (fun b w => slwStop b c n w) = slwStop d c n { w' with value := none } :=
    slwSlot_leavesSlw _ (by simpa [b] using hrun) (by rw [hin]; exact (ctrlSlot_effect (hEnd_oneSlw _ _ _) hform hlegal).trans heff)
      (by simp [d])
  have hstop : slwStop d c n { w' with value := none } = slwFlow d c n { w with flow := g, value := none, stage := .engines } :=
    slwStop_one d c n r _ (by simpa [d, slotBlk] using hrun) h.noBreak rfl rfl rfl
  have hd : d = putCore s.blk c { underWay (coreOf s.blk c) op f (coreOf s.blk c) with slw := some w' } := by
    simp only [d, coreOf_slotBlk_underWay]
    rw [slotBlk, putCore_putCore]
  have hflow := (congrArg (fun b => slwFlow b c n { w with flow := g, value := none, stage := .engines }) hd).trans (slwFlow_oneSlw h op f g rfl)
  rw [ctrlRow_run c n r s op f h, afterSlot_eq, ← hto]
  exact congrArg (fun a => Host.Outcome.next (s.withBlk (finish a))) (hslot.trans (hstop.trans hflow))

end Sys2Proof.Machine
end

section
/-! PROOFS. Arithmetic, moves, local memory and branches (spec/06_long_words.md, R155, R156, R158, R159): what each slot makes of its core. -/

namespace Sys2Proof.Machine

open Sys2Proof

/-! ## The effect of each opcode (R156) -/

section
variable {b : Block} {c n : Nat} {r : Run} {w : Slw} {f : SlotFields}

theorem ctrlEffect_alu {op : BitVec 8} (hlo : 0x10 ≤ op.toNat) (hhi : op.toNat ≤ 0x1D) : ctrlEffect b c n r w 0 (slotWord op f) none =
    .core (sSet (coreOf b c) f.d (aluOp op (sGet (coreOf b c) f.a) (slotX (coreOf b c) f))) := by
  simp [ctrlEffect, hhi, show op.toNat ≠ 0 by omega, show op.toNat ≠ 1 by omega, show op.toNat ≠ 2 by omega, show op.toNat ≠ 3 by omega]

theorem ctrlEffect_li : ctrlEffect b c n r w 0 (slotWord 0x1E f) none = .core (sSet (coreOf b c) f.d (sext32 f.imm)) := by simp [ctrlEffect]

theorem ctrlEffect_lih : ctrlEffect b c n r w 0 (slotWord 0x1F f) none =
    .core (sSet (coreOf b c) f.d (f.imm ++ (sGet (coreOf b c) f.d).extractLsb' 0 32)) := by simp [ctrlEffect]

theorem ctrlEffect_aadd : ctrlEffect b c n r w 0 (slotWord 0x20 f) none =
    .core (aSet (coreOf b c) f.d (aGet (coreOf b c) f.a + slotX (coreOf b c) f)) := by simp [ctrlEffect]

theorem ctrlEffect_amov : ctrlEffect b c n r w 0 (slotWord 0x21 f) none = .core (aSet (coreOf b c) f.d (sGet (coreOf b c) f.a)) := by
  simp [ctrlEffect]

theorem ctrlEffect_smov : ctrlEffect b c n r w 0 (slotWord 0x22 f) none = .core (sSet (coreOf b c) f.d (aGet (coreOf b c) f.a)) := by
  simp [ctrlEffect]

theorem ctrlEffect_ali : ctrlEffect b c n r w 0 (slotWord 0x23 f) none = .core (aSet (coreOf b c) f.d (sext32 f.imm)) := by simp [ctrlEffect]

theorem ctrlEffect_alih : ctrlEffect b c n r w 0 (slotWord 0x24 f) none =
    .core (aSet (coreOf b c) f.d (f.imm ++ (aGet (coreOf b c) f.d).extractLsb' 0 32)) := by simp [ctrlEffect]

theorem ctrlEffect_ld64 : ctrlEffect b c n r w 0 (slotWord 0x28 f) none =
    localAccess (coreOf b c) f 8 (fun a => sSet (coreOf b c) f.d (localLoad (coreOf b c) a 8)) := by simp [ctrlEffect]

theorem ctrlEffect_ld32 : ctrlEffect b c n r w 0 (slotWord 0x29 f) none =
    localAccess (coreOf b c) f 4 (fun a => sSet (coreOf b c) f.d (localLoad (coreOf b c) a 4)) := by simp [ctrlEffect]

theorem ctrlEffect_st64 : ctrlEffect b c n r w 0 (slotWord 0x2A f) none =
    localAccess (coreOf b c) f 8 (fun a => localStore (coreOf b c) a 8 (sGet (coreOf b c) f.b)) := by simp [ctrlEffect]

theorem ctrlEffect_st32 : ctrlEffect b c n r w 0 (slotWord 0x2B f) none =
    localAccess (coreOf b c) f 4 (fun a => localStore (coreOf b c) a 4 (sGet (coreOf b c) f.b)) := by simp [ctrlEffect]

theorem ctrlEffect_lda : ctrlEffect b c n r w 0 (slotWord 0x2C f) none =
    localAccess (coreOf b c) f 8 (fun a => aSet (coreOf b c) f.d (localLoad (coreOf b c) a 8)) := by simp [ctrlEffect]

theorem ctrlEffect_sta : ctrlEffect b c n r w 0 (slotWord 0x2D f) none =
    localAccess (coreOf b c) f 8 (fun a => localStore (coreOf b c) a 8 (aGet (coreOf b c) f.b)) := by simp [ctrlEffect]

/-- An aligned access within the data window is made (R158). -/
theorem localAccess_inside {k : CoreSt} {m : Nat} (halign : localAddr k f % m = 0) (hin : localAddr k f + m ≤ 196608) (go : Nat → CoreSt) :
    localAccess k f m go = .core (go (localAddr k f)) := by
  simp [localAccess, halign, Nat.not_lt.mpr (show localAddr k f + m ≤ dataWindow from hin)]

/-- A branch to a place within the stream (R159). -/
theorem ctrlEffect_branch {op : BitVec 8} (hlo : 0x30 ≤ op.toNat) (hhi : op.toNat ≤ 0x36) (hpos : 0 ≤ branchTarget w.off f.imm)
    (hin : branchTarget w.off f.imm < (curStream (coreOf b c)).len) : ctrlEffect b c n r w 0 (slotWord op f) none =
      if branchTaken op (sGet (coreOf b c) f.a) (sGet (coreOf b c) f.b) then .flow (.goto (branchTarget w.off f.imm).toNat)
      else .core (coreOf b c) := by
  have hne (m : Nat) (hm : m < 0x30) : op.toNat ≠ m := by omega
  have hgt (m : Nat) (hm : m < 0x30) : ¬ op.toNat ≤ m := by omega
  simp [ctrlEffect, hhi, hne, hgt, Int.not_lt.mpr hpos, Int.not_lt.mpr hin.le]

end

/-! ## Arithmetic -/

theorem formOf_alu {op : BitVec 8} (hlo : 0x10 ≤ op.toNat) (hhi : op.toNat ≤ 0x1D) :
    formOf op = some ⟨.scalar, .scalar, .scalar, immAll, 0, .operand⟩ := by
  simp [formOf, hhi, show ¬ op.toNat ≤ 1 by omega, show op.toNat ≠ 2 by omega, show op.toNat ≠ 3 by omega, show ¬ op.toNat < 16 by omega]

/-- Every slot with a scalar result: `sD` takes the result of the table for `sA` and the second operand. -/
theorem ctrlRow_alu {s : State} {c n : Nat} {r : Run} {op : BitVec 8} {f : SlotFields} (h : SlotReady s c n r) (hfunc : f.func = 0)
    (hx : if f.i = true then f.b = 0 else f.imm = 0) (hlo : 0x10 ≤ op.toNat) (hhi : op.toNat ≤ 0x1D) :
    ctrlRow c op f s = .next (afterSlot s c
      (sSet (coreOf s.blk c) f.d (aluOp op (sGet (coreOf s.blk c) f.a) (slotX (coreOf s.blk c) f))) ((coreOf s.blk c).off + 16)) :=
  ctrlRow_changes h (formOf_alu hlo hhi) (formLegal_operand rfl rfl hfunc hx) (by simp [ctrlEffect_alu hlo hhi]) (sameFlow_sSet _ _ _)

theorem aluOp_minu (p x : Word) : aluOp 0x19 p x = if p.toNat < x.toNat then p else x := by simp [aluOp, BitVec.ult]
theorem aluOp_maxu (p x : Word) : aluOp 0x1A p x = if p.toNat < x.toNat then x else p := by simp [aluOp, BitVec.ult]
theorem aluOp_sltu (p x : Word) : aluOp 0x1B p x = if p.toNat < x.toNat then 1 else 0 := by simp [aluOp, flagWord, BitVec.ult]
theorem aluOp_slt (p x : Word) : aluOp 0x1C p x = if p.toInt < x.toInt then 1 else 0 := by simp [aluOp, flagWord, BitVec.slt]
theorem aluOp_seq (p x : Word) : aluOp 0x1D p x = if p = x then 1 else 0 := by simp [aluOp, flagWord]

/-- Settles O1: one row for the fourteen opcodes, and the table's result for each. -/
theorem slotAlu : Obligations.SlotAlu := by
  unfold Obligations.SlotAlu
  intro s c n r f h hfunc hx k p x m res
  have row (op : BitVec 8) (hlo : 0x10 ≤ op.toNat) (hhi : op.toNat ≤ 0x1D) : ctrlRow c op f s = res (aluOp op p x) :=
    ctrlRow_alu h hfunc hx hlo hhi
  exact ⟨row 0x10 (by decide) (by decide), row 0x11 (by decide) (by decide), row 0x12 (by decide) (by decide),
    row 0x13 (by decide) (by decide), row 0x14 (by decide) (by decide), row 0x15 (by decide) (by decide),
    row 0x16 (by decide) (by decide), row 0x17 (by decide) (by decide), row 0x18 (by decide) (by decide),
    aluOp_minu p x ▸ row 0x19 (by decide) (by decide), aluOp_maxu p x ▸ row 0x1A (by decide) (by decide),
    aluOp_sltu p x ▸ row 0x1B (by decide) (by decide), aluOp_slt p x ▸ row 0x1C (by decide) (by decide),
    aluOp_seq p x ▸ row 0x1D (by decide) (by decide)⟩

/-! ## Moves and immediates -/

/-- Settles O2: each slot in its form, with its effect on one register. -/
theorem slotMoves : Obligations.SlotMoves := by
  unfold Obligations.SlotMoves
  intro s c n r d a imm h k res
  refine ⟨?_, ?_, fun hd => ⟨?_, ?_, ?_⟩, fun ha => ?_, fun hd ha => ⟨?_, fun b => ?_⟩⟩
  · exact ctrlRow_changes h rfl (formLegal_plain rfl rfl rfl (imm_all imm)) (ctrlEffect_li.trans (by simp [k, sext32])) (sameFlow_sSet _ _ _)
  · exact ctrlRow_changes h rfl (formLegal_plain rfl rfl rfl (imm_all imm)) (ctrlEffect_lih.trans (by simp [k])) (sameFlow_sSet _ _ _)
  · exact ctrlRow_changes h rfl (formLegal_plain (regLegal_address hd) rfl rfl (imm_all imm)) (ctrlEffect_ali.trans (by simp [k, sext32]))
      (sameFlow_aSet _ _ _)
  · exact ctrlRow_changes h rfl (formLegal_plain (regLegal_address hd) rfl rfl (imm_all imm)) (ctrlEffect_alih.trans (by simp [k]))
      (sameFlow_aSet _ _ _)
  · exact ctrlRow_changes h rfl (formLegal_plain (regLegal_address hd) rfl rfl rfl) (ctrlEffect_amov.trans (by simp [k])) (sameFlow_aSet _ _ _)
  · exact ctrlRow_changes h rfl (formLegal_plain rfl (regLegal_address ha) rfl rfl) (ctrlEffect_smov.trans (by simp [k])) (sameFlow_sSet _ _ _)
  · exact ctrlRow_changes h rfl (formLegal_operand (regLegal_address hd) (regLegal_address ha) rfl (by simp))
      (ctrlEffect_aadd.trans (by simp [k, slotX, sext32])) (sameFlow_aSet _ _ _)
  · exact ctrlRow_changes h rfl (formLegal_operand (regLegal_address hd) (regLegal_address ha) rfl (by simp))
      (ctrlEffect_aadd.trans (by simp [k, slotX])) (sameFlow_aSet _ _ _)

/-! ## Local memory -/

/-- Settles O3: the access is inside the window, so that each slot loads its register or stores its bytes. -/
theorem slotLocal : Obligations.SlotLocal := by
  unfold Obligations.SlotLocal
  intro s c n r x a imm h ha k ea res
  have inside (k' : CoreSt) (d b : BitVec 5) (m : Nat) (hk : aGet k' a = aGet k a) (halign : ea % m = 0) (hin : ea + m ≤ 196608)
      (go : Nat → CoreSt) : localAccess k' ⟨d, a, b, false, 0, imm⟩ m go = .core (go ea) := by
    have hea : localAddr k' ⟨d, a, b, false, 0, imm⟩ = ea := by rw [localAddr, hk]; rfl
    rw [localAccess_inside (by rw [hea]; exact halign) (by rw [hea]; exact hin), hea]
  have haddr := regLegal_address ha
  refine ⟨fun halign hin => ⟨?_, ?_, fun hx => ⟨?_, ?_⟩⟩, fun halign hin => ⟨?_, ?_⟩⟩
  · exact ctrlRow_changes h rfl (formLegal_plain rfl haddr rfl (imm_all imm))
      (ctrlEffect_ld64.trans ((inside _ _ _ _ (by simp [k]) halign hin _).trans (by simp [k]; rfl))) (sameFlow_sSet _ _ _)
  · exact ctrlRow_changes h rfl (formLegal_plain rfl haddr rfl (imm_all imm))
      (ctrlEffect_st64.trans ((inside _ _ _ _ (by simp [k]) halign hin _).trans (by simp [k]; rfl))) (sameFlow_localStore _ _ _ _)
  · exact ctrlRow_changes h rfl (formLegal_plain (regLegal_address hx) haddr rfl (imm_all imm))
      (ctrlEffect_lda.trans ((inside _ _ _ _ (by simp [k]) halign hin _).trans (by simp [k]; rfl))) (sameFlow_aSet _ _ _)
  · exact ctrlRow_changes h rfl (formLegal_plain rfl haddr (regLegal_address hx) (imm_all imm))
      (ctrlEffect_sta.trans ((inside _ _ _ _ (by simp [k]) halign hin _).trans (by simp [k]; rfl))) (sameFlow_localStore _ _ _ _)
  · exact ctrlRow_changes h rfl (formLegal_plain rfl haddr rfl (imm_all imm))
      (ctrlEffect_ld32.trans ((inside _ _ _ _ (by simp [k]) halign hin _).trans (by simp [k]; rfl))) (sameFlow_sSet _ _ _)
  · exact ctrlRow_changes h rfl (formLegal_plain rfl haddr rfl (imm_all imm))
      (ctrlEffect_st32.trans ((inside _ _ _ _ (by simp [k]) halign hin _).trans (by simp [k]; rfl))) (sameFlow_localStore _ _ _ _)

/-! ## Branches -/

/-- A branch to a place within the stream goes there, or on after its SLW. -/
theorem ctrlRow_branch {s : State} {c n : Nat} {r : Run} {op : BitVec 8} {f : SlotFields} {fm : Form} {t : Int} (h : SlotReady s c n r)
    (hform : formOf op = some fm) (hlegal : formLegal fm f = true) (hlo : 0x30 ≤ op.toNat) (hhi : op.toNat ≤ 0x36)
    (ht : branchTarget (coreOf s.blk c).off f.imm = t) (hpos : 0 ≤ t) (hin : t < (curStream (coreOf s.blk c)).len) {taken : Bool}
    (htaken : branchTaken op (sGet (coreOf s.blk c) f.a) (sGet (coreOf s.blk c) f.b) = taken) :
    ctrlRow c op f s = .next (afterSlot s c (coreOf s.blk c) (if taken then t.toNat else (coreOf s.blk c).off + 16)) := by
  have htarget : branchTarget (oneSlw (coreOf s.blk c) op f).off f.imm = t := ht
  have heff := ctrlEffect_branch (b := slotBlk s c op f) (c := c) (n := n) (r := r) hlo hhi (by rw [htarget]; exact hpos)
    (by rw [htarget, coreOf_slotBlk]; exact hin)
  rw [htarget, sGet_slotBlk, sGet_slotBlk, htaken] at heff
  cases taken with
  | false => exact ctrlRow_changes h hform hlegal (heff.trans (by rw [if_neg Bool.false_ne_true, coreOf_slotBlk_underWay])) ⟨rfl, rfl⟩
  | true =>
    have hnat : t.toNat < (curStream (coreOf s.blk c)).len := by omega
    exact ctrlRow_turns h hform hlegal (heff.trans (if_pos rfl)) (flowTo_goto h.doneNoLoop hnat)

/-- Settles O4: one row for the seven branches, and the condition of each. -/
theorem slotBranch : Obligations.SlotBranch := by
  unfold Obligations.SlotBranch
  intro s c n r a b imm h k t p x goes hpos hin
  have row (op : BitVec 8) (hform : formOf op = some ⟨.unused, .scalar, .scalar, immAll, 0, .zero⟩) (hlo : 0x30 ≤ op.toNat)
      (hhi : op.toNat ≤ 0x36) {taken : Bool} (htaken : branchTaken op p x = taken) : ctrlRow c op ⟨0, a, b, false, 0, imm⟩ s = goes taken :=
    ctrlRow_branch h hform (formLegal_plain rfl rfl rfl (imm_all imm)) hlo hhi rfl hpos hin htaken
  refine ⟨?_, ?_, ?_, ?_, ?_, ?_, ?_⟩
  · exact ctrlRow_branch h rfl (formLegal_plain rfl rfl rfl (imm_all imm)) (by decide) (by decide) rfl hpos hin rfl
  · exact row 0x31 rfl (by decide) (by decide) rfl
  · exact row 0x32 rfl (by decide) (by decide) (Bool.eq_iff_iff.mpr (by simp [branchTaken]))
  · exact row 0x33 rfl (by decide) (by decide) rfl
  · exact row 0x34 rfl (by decide) (by decide) (Bool.eq_iff_iff.mpr (by simp [branchTaken, BitVec.ult]))
  · exact row 0x35 rfl (by decide) (by decide) rfl
  · exact row 0x36 rfl (by decide) (by decide) (Bool.eq_iff_iff.mpr (by simp [branchTaken, BitVec.slt]))

end Sys2Proof.Machine
end

section
/-! PROOFS. Loops, streams and reads of the heat (spec/06_long_words.md, R156, R157, R160, R162, R167): where HALT, LOOP, ARM, CALL and RET make
the core go on, and what INFO and FDEPTH write. -/

namespace Sys2Proof.Machine

open Sys2Proof

/-! ## Loops and streams (R160, R162) -/

section
variable {b : Block} {c n : Nat} {r : Run} {w : Slw} {f : SlotFields}

theorem ctrlEffect_halt : ctrlEffect b c n r w 0 (slotWord 0x01 f) none = .flow .stop := by simp [ctrlEffect]

/-- LOOP with a count in `sA` and a body, while no loop is open. -/
theorem ctrlEffect_loop (hi : f.i = false) (hbody : 0 < f.imm.toNat) (hfits : f.imm.toNat < 65536) (hloops : (coreOf b c).loops = []) :
    ctrlEffect b c n r w 0 (slotWord 0x38 f) none = .flow (.loop (decide ((sGet (coreOf b c) f.a).toNat % 2 ^ 32 = 0)) (w.off + w.len)
      (w.off + w.len + 8 * f.imm.toNat) ((sGet (coreOf b c) f.a).toNat % 2 ^ 32) f.d.toNat) := by
  have himm : field f.imm 0 16 = f.imm.toNat := by simp [field, Nat.mod_eq_of_lt hfits]
  have hcount : field (sGet (coreOf b c) f.a) 0 32 = (sGet (coreOf b c) f.a).toNat % 2 ^ 32 := by simp [field]
  have heff : ctrlEffect b c n r w 0 (slotWord 0x38 f) none = loopSlot (coreOf b c) w f := by simp [ctrlEffect]
  rw [heff]
  simp only [loopSlot, hi, himm, hcount, hloops, Bool.false_eq_true, if_false, List.length_nil]
  rw [if_neg (by omega), if_neg (by omega)]

/-- ARM or CALL of a stream that is aligned, not empty and shorter than 2^32 bytes, with a level free, that discards no cached line. -/
theorem armSlot_names {isCall : Bool} {va len : Nat} (hw : (coreOf b c).slw = some w) (hva : (aGet (coreOf b c) f.a).toNat = va)
    (hlen : (sGet (coreOf b c) f.b).toNat = len) (hfunc : f.func = 0) (hva8 : va % 8 = 0) (hlen8 : len % 8 = 0) (hpos : 0 < len)
    (hshort : len < 4294967296) (hlevel : isCall = true → (coreOf b c).levels.length < 9) : armSlot b c r (coreOf b c) f isCall =
      .blk (act (putCore b c { coreOf b c with slw := some { w with flow := if isCall then .call va len else .arm va len } })) := by
  have hdeep : (isCall && decide ((coreOf b c).levels.length ≥ 9)) = false := by
    cases isCall with
    | false => rfl
    | true => simpa using hlevel rfl
  simp only [armSlot, hva, hlen, hfunc, hdeep, hva8, hlen8]
  simp [Nat.pos_iff_ne_zero.mp hpos, hshort, hw]

theorem ctrlEffect_arm : ctrlEffect b c n r w 0 (slotWord 0x40 f) none = armSlot b c r (coreOf b c) f false := by simp [ctrlEffect]

theorem ctrlEffect_call : ctrlEffect b c n r w 0 (slotWord 0x41 f) none = armSlot b c r (coreOf b c) f true := by simp [ctrlEffect]

theorem ctrlEffect_ret (h : 1 < (coreOf b c).levels.length) : ctrlEffect b c n r w 0 (slotWord 0x42 f) none = .flow .ret := by
  simp [ctrlEffect, Nat.not_le.mpr h]

end

/-- The form of LOOP with a count in `sA` (R160). -/
theorem formLegal_loop {d a : BitVec 5} {imm : BitVec 32} (h : imm.toNat < 65536) :
    formLegal ⟨.scalar, .scalar, .unused, immAll, 0, .count⟩ ⟨d, a, 0, false, 0, imm⟩ = true := by
  have himm : imm &&& ~~~0xFFFF = 0 := imm_below (k := 16) h rfl
  simp only [formLegal, formWith, himm]
  simp [regLegal]

/-- Settles O5: each slot in its form, with the change of flow that it makes. -/
theorem slotFlow : Obligations.SlotFlow := by
  unfold Obligations.SlotFlow
  intro s c n r h k res
  refine ⟨?_, ?_, ?_, ?_⟩
  · exact ctrlRow_turns h rfl (formLegal_plain rfl rfl rfl rfl) ctrlEffect_halt (flowTo_stop h.doneNoLoop)
  · intro d a imm hfits hbody count
    let f : SlotFields := ⟨d, a, 0, false, 0, imm⟩
    have heff := ctrlEffect_loop (b := slotBlk s c 0x38 f) (c := c) (n := n) (r := r) (w := oneSlw k 0x38 f) (f := f) rfl hbody hfits
      (by rw [coreOf_slotBlk]; exact h.noLoop)
    rw [sGet_slotBlk, oneSlw_off, oneSlw_len] at heff
    refine ⟨fun hcount => ?_, fun hcount hin => ?_⟩
    · rw [decide_eq_false (Nat.pos_iff_ne_zero.mp hcount)] at heff
      have hend : k.off + 16 + 8 * imm.toNat ≠ k.off + 16 := by omega
      refine ctrlRow_turns h rfl (formLegal_loop hfits) heff ((flowTo_loop_opens h.doneNoLoop d hend h.more).trans ?_)
      unfold sSet
      split <;> rfl
    · rw [decide_eq_true hcount] at heff
      exact ctrlRow_turns h rfl (formLegal_loop hfits) heff (flowTo_loop_skips h.doneNoLoop hin)
  · intro a b l ls ha hlevels va len hva8 hlen8 hpos hshort st
    have hlegal {func : BitVec 8} : formLegal ⟨.unused, .address, .scalar, 0, func, .zero⟩ ⟨0, a, b, false, 0, 0⟩ = true :=
      formLegal_plain rfl (regLegal_address ha) rfl rfl
    refine ⟨?_, fun hroom => ?_⟩
    · exact ctrlRow_names h rfl hlegal (ctrlEffect_arm.trans (armSlot_names (by simp; rfl) (by simp; rfl) (by simp; rfl) rfl hva8 hlen8 hpos
        hshort (by simp))) (flowTo_arm h.doneNoLoop hlevels hpos)
    · have hdepth : k.levels.length < 9 := by rw [hlevels, List.length_cons]; omega
      exact ctrlRow_names h rfl hlegal (ctrlEffect_call.trans (armSlot_names (by simp; rfl) (by simp; rfl) (by simp; rfl) rfl hva8 hlen8 hpos
        hshort (fun _ => by rw [coreOf_slotBlk]; exact hdepth))) (flowTo_call h.doneNoLoop hlevels hpos)
  · intro l m ls hlevels htable hin
    have hdepth : 1 < k.levels.length := by rw [hlevels, List.length_cons, List.length_cons]; omega
    exact ctrlRow_turns h rfl (formLegal_plain rfl rfl rfl rfl) (ctrlEffect_ret (by rw [coreOf_slotBlk]; exact hdepth))
      (flowTo_ret h.doneNoLoop hlevels hin)

/-! ## Reads (R156, R157, R167, R438) -/

section
variable {b : Block} {c n : Nat} {r : Run} {w : Slw} {f : SlotFields}

theorem ctrlEffect_nop : ctrlEffect b c n r w 0 (slotWord 0x00 f) none = .core (coreOf b c) := by simp [ctrlEffect]

theorem ctrlEffect_brk : ctrlEffect b c n r w 0 (slotWord 0x02 f) none = .core (coreOf b c) := by simp [ctrlEffect]

theorem ctrlEffect_info {v : Word} (h : infoValue b c r f.imm.toNat = some v) :
    ctrlEffect b c n r w 0 (slotWord 0x03 f) none = .core (sSet (coreOf b c) f.d v) := by simp [ctrlEffect, h]

theorem ctrlEffect_fdepth (h : f.imm.toNat < 14) :
    ctrlEffect b c n r w 0 (slotWord 0x50 f) none = .core (sSet (coreOf b c) f.d (fdepthValue b c f.imm.toNat)) := by
  simp [ctrlEffect, Nat.not_le.mpr h]

end

section
variable {s : State} {c n : Nat} {r : Run} (h : SlotReady s c n r)
include h

theorem exec_nop_goesOn : exec (.nop c ⟨0, 0, 0, false, 0, 0⟩) s = .next (afterSlot s c (coreOf s.blk c) ((coreOf s.blk c).off + 16)) :=
  ctrlRow_changes h rfl (formLegal_plain rfl rfl rfl rfl) (ctrlEffect_nop.trans (by simp)) ⟨rfl, rfl⟩

/-- BRK on a core for which breakpoints are disabled does what NOP does (R168). -/
theorem exec_brk_goesOn {imm : BitVec 32} (himm : imm.toNat < 256) :
    exec (.brk c ⟨0, 0, 0, false, 0, imm⟩) s = .next (afterSlot s c (coreOf s.blk c) ((coreOf s.blk c).off + 16)) :=
  ctrlRow_changes h rfl (formLegal_plain rfl rfl rfl (imm_below (k := 8) himm rfl)) (ctrlEffect_brk.trans (by simp)) ⟨rfl, rfl⟩

theorem exec_info_writes {d : BitVec 5} {imm : BitVec 32} {v : Word} (himm : imm.toNat < 256)
    (hv : infoValue (slotBlk s c 0x03 ⟨d, 0, 0, false, 0, imm⟩) c r imm.toNat = some v) :
    exec (.info c ⟨d, 0, 0, false, 0, imm⟩) s = .next (afterSlot s c (sSet (coreOf s.blk c) d v) ((coreOf s.blk c).off + 16)) :=
  ctrlRow_changes h rfl (formLegal_plain rfl rfl rfl (imm_below (k := 8) himm rfl)) ((ctrlEffect_info hv).trans (by simp)) (sameFlow_sSet _ _ _)

end

/-- Settles O6: NOP and BRK leave the core, INFO and FDEPTH write the values of R157 and R167. -/
theorem slotReads : Obligations.SlotReads := by
  unfold Obligations.SlotReads
  intro s c n r d h k res
  refine ⟨exec_nop_goesOn h, fun imm himm => exec_brk_goesOn h himm, exec_info_writes h (by decide) rfl, exec_info_writes h (by decide) rfl,
    exec_info_writes h (by decide) rfl, fun imm himm => ?_⟩
  exact ctrlRow_changes h rfl (formLegal_plain rfl rfl rfl (imm_below (k := 4) (by omega) rfl))
    ((ctrlEffect_fdepth himm).trans (by simp; rfl)) (sameFlow_sSet _ _ _)

end Sys2Proof.Machine
end

section
/-! PROOFS. What a skip counts, marks and records (spec/06_long_words.md, R171 to R174), and the control slot with a reserved opcode. -/

namespace Sys2Proof.Machine

open Sys2Proof

/-! ## The record of a skip (R174) -/

/-- The low byte of a number written little-endian stands first. -/
theorem memRead_memWriteBytes_leBytes (m : Memory) (a n v : Nat) : memRead (memWriteBytes m a (leBytes (n + 1) v)) a = BitVec.ofNat 8 v := by
  rw [leBytes, memWriteBytes, memRead_memWriteBytes_ne _ _ _ (Or.inl (Nat.lt_succ_self a)), memRead_memWrite_self]

theorem WritesBack.ports {a b : Block} (h : WritesBack a b) : b.ports = a.ports := by obtain ⟨_, _, _, _, _, rfl⟩ := h; rfl

section
variable (b : Block) (c : Nat) (r : Run) (reason slot op off sva detail : Nat)

/-- The place of the next skip record in its ring. -/
def skipPlace : Nat := dget b 0x8020 1 + b.skipSeq % 2 ^ dget b 0x8020 2 * 48

/-- A skip record changes its number, and what a write-back changes. -/
theorem skipWrite_writesBack : ∃ seq, WritesBack { b with skipSeq := seq } (skipWrite b c r reason slot op off sva detail) := by
  unfold skipWrite
  split
  · exact ⟨b.skipSeq, .refl b⟩
  · exact ⟨_, writesBack_ringPut _ _ _ _ _ _ _⟩

/-- A skip record takes its number, and in memory of this chip begins with the reason. -/
theorem skipWrite_records (hring : dget b 0x8020 1 ≠ 0) :
    (skipWrite b c r reason slot op off sva detail).skipSeq = (b.skipSeq + 1) % 2 ^ 32 ∧ (isLocal b (skipPlace b) = true →
      memRead (skipWrite b c r reason slot op off sva detail).mem (skipPlace b) = BitVec.ofNat 8 reason) := by
  have hlocal (seq : Nat) : isLocal { b with skipSeq := seq } (skipPlace b) = isLocal b (skipPlace b) := rfl
  simp only [skipWrite, hring, if_false, ringPut, ← skipPlace.eq_def]
  refine ⟨?_, fun hhere => ?_⟩
  · rw [noteStamp, wrOwn]; split <;> rfl
  · rw [wrOwn, hlocal, if_pos hhere]
    refine (memRead_memWriteBytes_leBytes _ _ _ _).trans (BitVec.eq_of_toNat_eq ?_)
    have hfield := field_packFields (n := 8) (lo := 0) (w := 8) (v := reason)
      (fs := [(0, 8, reason), (8, 5, slot), (16, 6, c), (24, 8, op), (32, 24, r.ctx.toNat), (56, 5, heatPart b r), (64, 32, off),
        (96, 32, b.skipSeq), (128, 64, stamp b), (192, 64, detail), (256, 17, r.tag), (288, 32, frameLo b), (320, 48, sva)])
      (by simp) (by simp) (by decide)
    rw [BitVec.toNat_ofNat, BitVec.toNat_ofNat, ← hfield]
    simp [field]

end

/-! ## What a skip changes (R171, R173) -/

section
variable {b : Block} {c n : Nat} {r : Run} (reason slot op off sva detail : Nat) (hr : runOf b n = some r)
include hr

theorem skipAt_counts : fmGet (skipAt b c n reason slot op off sva detail).ctr cSkip 0 = satAdd 32 (fmGet b.ctr cSkip 0) 1 := by
  simp only [skipAt, hr]
  split
  · rw [(skipWrite_frame _ _ _ _ _ _ _ _ _).2]
    exact cnt_value b cSkip
  · exact (fmGet_fmSet_ne _ _ _ (by decide)).trans (cnt_value b cSkip)

/-- A skip leaves the ports and the fences alone. -/
theorem skipAt_ports_fen : (skipAt b c n reason slot op off sva detail).ports = b.ports ∧ (skipAt b c n reason slot op off sva detail).fen = b.fen := by
  simp only [skipAt, hr]
  split
  · obtain ⟨_, h⟩ := skipWrite_writesBack (cnt (putRun (putCore b c { coreOf b c with skips := (coreOf b c).skips + 1 }) n
      { r with skips := true }) cSkip) c r reason slot op off sva detail
    exact ⟨h.ports, h.fen⟩
  · exact ⟨rfl, rfl⟩

/-- From the ninth on, the skips of a core's part are not recorded (R174). -/
theorem skipAt_suppressed (h : 8 ≤ (coreOf b c).skips) : (skipAt b c n reason slot op off sva detail).mem = b.mem ∧
    (skipAt b c n reason slot op off sva detail).skipSeq = b.skipSeq := by
  simp only [skipAt, hr, Nat.not_lt.mpr h, if_false]
  exact ⟨rfl, rfl⟩

/-- The first eight skips are recorded, while there is a ring (R174). -/
theorem skipAt_recorded (h : (coreOf b c).skips < 8) (hring : dget b 0x8020 1 ≠ 0) :
    (skipAt b c n reason slot op off sva detail).skipSeq = (b.skipSeq + 1) % 2 ^ 32 ∧ (isLocal b (skipPlace b) = true →
      memRead (skipAt b c n reason slot op off sva detail).mem (skipPlace b) = BitVec.ofNat 8 reason) := by
  simp only [skipAt, hr, h, if_true]
  exact skipWrite_records (cnt (putRun (putCore b c _) n _) cSkip) c r reason slot op off sva detail hring

end

/-! ## A control slot that is skipped (R172) -/

/-- The block once the control slot of core `c` has been skipped, its SLW still under way. -/
def slotSkipped (s : State) (c n : Nat) (op : BitVec 8) (f : SlotFields) (reason : Nat) : Block :=
  skipAt (slotBlk s c op f) c n reason 0 op.toNat (coreOf s.blk c).off (streamVa (coreOf s.blk c) (coreOf s.blk c).off) (slotWord op f).toNat

/-- The row of such a slot: the skip, and the core goes on after the SLW. -/
theorem ctrlRow_skip_block {c n : Nat} {r : Run} {s : State} {op : BitVec 8} {f : SlotFields} (h : SlotReady s c n r) {reason : Nat}
    (hf : ctrlSlot (slotBlk s c op f) c n r (oneSlw (coreOf s.blk c) op f) 0 (slotWord op f) false none = .skip reason) :
    ctrlRow c op f s = .next (s.withBlk (putCore (slotSkipped s c n op f reason) c
      (slotDone (coreOf s.blk c) { coreOf s.blk c with skips := (coreOf s.blk c).skips + 1 } ((coreOf s.blk c).off + 16)))) := by
  obtain ⟨hrun, -⟩ := runOf_of_issuing h.issues
  have hrun' : runOf (slotBlk s c op f) n = some r := hrun
  have hcore : coreOf (slotSkipped s c n op f reason) c =
      underWay (coreOf s.blk c) op f { coreOf s.blk c with skips := (coreOf s.blk c).skips + 1 } :=
    (coreOf_skipAt _ _ _ _ _ _ _ _ hrun').trans (by rw [coreOf_slotBlk]; rfl)
  have hmark : runOf (slotSkipped s c n op f reason) n = some { r with skips := true } := runOf_skipAt _ _ _ _ _ _ _ _ hrun'
  have hflow : slwFlow (slotSkipped s c n op f reason) c n { oneSlw (coreOf s.blk c) op f with stage := .engines, value := none } =
      act (putCore (slotSkipped s c n op f reason) c
        (slotDone (coreOf s.blk c) { coreOf s.blk c with skips := (coreOf s.blk c).skips + 1 } ((coreOf s.blk c).off + 16))) := by
    refine (slwFlow_seq _ c n _ rfl ?_ ?_ ?_ ?_).trans ?_
    · exact hEnd_oneSlw (coreOf s.blk c) op f
    · rw [hcore]; exact h.noLoop
    · rw [hcore]; exact h.known
    · rw [hcore]; exact h.more
    · rw [hcore]; rfl
  rw [ctrlRow_leaves c n r s op f h (slotSkipped s c n op f reason) none
    (by rw [hf, SlotLeaves, slotOp_slotWord, coreOf_slotBlk]; exact ⟨rfl, rfl⟩) (by simp [hmark])
    (by rw [show (slotSkipped s c n op f reason).regs = s.blk.regs from skipAt_regs _ _ _ _ _ _ _ _ hrun']) (by rw [hcore]; rfl)]
  exact congrArg (fun a => Host.Outcome.next (s.withBlk (finish a))) hflow

theorem ctrlSlot_reserved {b : Block} {c n : Nat} {r : Run} {w : Slw} {op : BitVec 8} {f : SlotFields} (hend : hEnd w.hdr = false)
    (hform : formOf op = none) : ctrlSlot b c n r w 0 (slotWord op f) false none = .skip skReservedOpcode := by
  simp [ctrlSlot, hend, hform]

theorem exec_reservedOpcode {op : BitVec 8} (h : formOf op = none) (c : Nat) (f : SlotFields) (s : State) :
    exec (.reservedOpcode c op f) s = ctrlRow c op f s := if_pos (by rw [h]; rfl)

/-- Settles O7: the row of a skipped slot, and what the skip counts and marks. -/
theorem slotReserved : Obligations.SlotReserved := by
  unfold Obligations.SlotReserved
  intro s c n r op f h hform k
  obtain ⟨hrun, -⟩ := runOf_of_issuing h.issues
  have hrun' : runOf (slotBlk s c op f) n = some r := hrun
  refine gives_withBlk ((exec_reservedOpcode hform c f s).trans
    (ctrlRow_skip_block h (ctrlSlot_reserved (hEnd_oneSlw _ _ _) hform))) ?_
  simp only [withBlk_blk, coreOf_noteSteps, coreOf_putCore, runOf_noteSteps, runOf_putCore]
  refine ⟨rfl, rfl, rfl, rfl, rfl, ?_, skipAt_counts _ _ _ _ _ _ hrun', fun hmany => ?_⟩
  · rw [slotSkipped, runOf_skipAt _ _ _ _ _ _ _ _ hrun']; rfl
  · exact skipAt_suppressed _ _ _ _ _ _ hrun' (by rw [coreOf_slotBlk]; exact hmany)

end Sys2Proof.Machine
end

section
/-! PROOFS. The issue of SLWs (spec/06_long_words.md, R148 to R153, R166; spec/19_debug.md, R436): the start of an SLW from the program window,
the line that the window lacks, the SLW of a header alone, the SLW that is skipped whole, and the ends of holds. -/

namespace Sys2Proof.Machine

open Sys2Proof

/-! ## A core that may issue (R152, R170) -/

theorem hold_of_issuing {b : Block} {c n : Nat} {r : Run} (h : issuing b c = some (n, r)) : (coreOf b c).hold = .none := by
  obtain ⟨hr, hrun⟩ := runOf_of_issuing h
  simp only [issuing, hrun, hr, Option.ite_none_right_eq_some, Bool.and_eq_true, decide_eq_true_eq] at h
  obtain ⟨⟨⟨⟨-, hhold⟩, -⟩, -⟩, -⟩ := h
  exact hhold

section
variable {b : Block} {c n : Nat} {r : Run} (hi : issuing b c = some (n, r)) (hslw : (coreOf b c).slw = none) (hheld : boundaryHeld b r = false)
include hi hslw hheld

theorem slwIssue_starts : slwIssue b c = slwStart b c n r := by
  simp [slwIssue, hold_of_issuing hi, hi, hslw, hheld]

theorem ctrlIssue_starts (htable : (curStream (coreOf b c)).table = none) (slot : Word) :
    ctrlIssue b c slot = slwDrain (putCore b c (slwCount (coreOf b c))) c n (slwOf (coreOf b c).off 1 [slot]) := by
  simp [ctrlIssue, hi, hslw, hheld, htable]

end

/-- A control-slot row on a core that may issue. -/
theorem ctrlRow_starts {s : State} {c n : Nat} {r : Run} (hs : Running s) (hc : c < 64) (hi : issuing s.blk c = some (n, r))
    (hslw : (coreOf s.blk c).slw = none) (hheld : boundaryHeld s.blk r = false) (htable : (curStream (coreOf s.blk c)).table = none)
    (op : BitVec 8) (f : SlotFields) : ctrlRow c op f s = .next (s.withBlk (finish
      (slwDrain (putCore s.blk c (slwCount (coreOf s.blk c))) c n (slwOf (coreOf s.blk c).off 1 [slotWord op f])))) := by
  refine (liftRA_running hs _).trans ?_
  rw [decide_eq_true hc, if_pos rfl, ctrlIssue_starts hi hslw hheld htable]

theorem exec_slwIssue {s : State} (hs : Running s) (c : Nat) : exec (.slwIssue c) s = .next (s.withBlk (finish (slwIssue s.blk c))) :=
  liftRA_running hs fun b => slwIssue b c

/-! ## The start of an SLW (R148 to R151) -/

theorem slwLen_ge (hdr : Word) : 8 ≤ slwLen hdr := by rw [slwLen]; omega

section
variable {b : Block} {c n : Nat} {r : Run} {fr : Frag} {hdr : Word} {ws : List Word} (htable : (curStream (coreOf b c)).table = none)
  (hfrag : fragAt (curStream (coreOf b c)) (coreOf b c).off = some fr)
include htable hfrag

/-- The header and the slots of an SLW stand in the program window. -/
theorem slwStart_cached (hhdr : cachedWord (coreOf b c) r.ctx fr.host (fr.va + ((coreOf b c).off - fr.start)) = some hdr)
    (hfits : slwLen hdr ≤ fr.start + fr.len - (coreOf b c).off) (hclear : hReserved hdr = false)
    (hws : cachedWords (coreOf b c) r.ctx fr.host (fr.va + ((coreOf b c).off - fr.start) + 8) (slwLen hdr / 8 - 1) = .ok ws) :
    slwStart b c n r = slwDrain (putCore b c (slwCount (coreOf b c))) c n (slwOf (coreOf b c).off hdr ws) := by
  have hrest := (slwLen_ge hdr).trans hfits
  simp only [slwStart, htable, hfrag, hhdr, hclear, hws, Nat.not_lt.mpr hrest, Nat.not_lt.mpr hfits, if_false, Bool.false_eq_true]

/-- A reserved header bit skips the SLW (R151). -/
theorem slwStart_reserved (hhdr : cachedWord (coreOf b c) r.ctx fr.host (fr.va + ((coreOf b c).off - fr.start)) = some hdr)
    (hfits : slwLen hdr ≤ fr.start + fr.len - (coreOf b c).off) (hset : hReserved hdr = true) :
    slwStart b c n r = slwSkip b c n (coreOf b c).off ((coreOf b c).off + slwLen hdr) skReservedHeader hdr := by
  have hrest := (slwLen_ge hdr).trans hfits
  simp only [slwStart, htable, hfrag, hhdr, hset, Nat.not_lt.mpr hrest, Nat.not_lt.mpr hfits, if_false, if_true]

/-- The header's line is not in the window (R148). -/
theorem slwStart_misses {va : Nat} (hva : fr.va + ((coreOf b c).off - fr.start) = va) (hnone : cachedWord (coreOf b c) r.ctx fr.host va = none)
    (hrest : 8 ≤ fr.start + fr.len - (coreOf b c).off) : slwStart b c n r =
      fetchHold b c n r fr.host (va / 64 * 64) 64 (fun i => .line (va / 64 * 64) fr.host i) := by
  simp only [slwStart, htable, hfrag, hva, hnone, Nat.not_lt.mpr hrest, if_false]
  rfl

end

/-- Nothing keeps an SLW from its step 2 (R152, R166). -/
theorem slwDrain_goes {b : Block} {c n : Nat} {w : Slw} (hsync : syncBusy (coreOf b c) = false) (hdrain : hDrain w.hdr = false) :
    slwDrain b c n w = slwC0 (putCore b c { coreOf b c with syncCall := [] }) c n w := by
  simp only [slwDrain, hsync, hdrain, Bool.false_and, Bool.false_eq_true, if_false]

/-! ## An SLW of its header alone (R150) -/

/-- No slot to push: the header repeats at no position. -/
theorem hRepeat_of_hCount {h : Word} (hcount : hCount h = 0) {p : Nat} (hp : p < 14) : hRepeat h p = false := by
  have hnone : (List.range 14).filter (hRepeat h) = [] := List.length_eq_zero_iff.mp (Nat.add_eq_zero_iff.mp hcount).2
  simpa using List.filter_eq_nil_iff.mp hnone p (List.mem_range.mpr hp)

section
variable {b : Block} {c n : Nat} {r : Run} {w : Slw} (hr : runOf b n = some r) (heng : w.eng = []) (hcount : hCount w.hdr = 0)
include hr heng hcount

/-- Positions with no slot change nothing. -/
theorem engRun_bare {l : List Nat} (hl : ∀ p ∈ l, p < 14) : engRun c n w l (act b) = slwFlow b c n w := by
  induction l with
  | nil => exact andThen_act b _
  | cons p ps ih =>
    have hone : engOne b c n w p = .next (act b) := by
      simp [engOne, hr, heng, hRepeat_of_hCount hcount (hl p List.mem_cons_self)]
    have hact : ((act b).1, (act b).2 ++ (act b).2) = act b := rfl
    rw [engRun, show (act b).1 = b from rfl, hone]
    exact (congrArg (engRun c n w ps) hact).trans (ih fun q hq => hl q (List.mem_cons_of_mem p hq))

/-- An SLW without slots comes to its step 5 while breakpoints are disabled. -/
theorem slwC0_bare (hbrk : b.regs.brkEnable.getLsbD c = false) (hc0 : w.c0 = none) (hc1 : w.c1 = none) :
    slwC0 b c n w = slwFlow b c n { w with stage := .engines, engAt := 0, value := none } := by
  have hstop : slwC0 b c n w = slwEngines b c n { w with stage := .c1, engAt := 0 } := by
    simp only [slwC0, hc0, slwStop, hr, stopCause, hbrk, Bool.not_false, Bool.true_or, if_true, slwC1, hc1]
  rw [hstop, slwEngines, if_neg (by simp [hcount])]
  exact engRun_bare (w := { w with stage := .engines, engAt := 0, value := none }) hr heng hcount posFrom_lt

end

/-! ## A line that the program window lacks (R148, R242) -/

/-- The 64 bytes of a line lie in one page. -/
theorem pageParts_line (va : Nat) : pageParts (va / 64 * 64) 64 = [(va / 64 * 64, 64)] := by
  have hone : (va / 64 * 64 + 64 - 1) / 0x10000 + 1 - va / 64 * 64 / 0x10000 = 1 := by omega
  have hlo : va / 64 * 64 / 0x10000 * 0x10000 ≤ va / 64 * 64 := by omega
  have hhi : va / 64 * 64 + 64 ≤ va / 64 * 64 / 0x10000 * 0x10000 + 0x10000 := by omega
  rw [pageParts, hone]
  simp only [List.range_one, List.map_cons, List.map_nil, Nat.add_zero, max_eq_left hlo, min_eq_left hhi, Nat.add_sub_cancel_left]

/-- A line of a cached page whose bucket passes is read, and the core holds for it. -/
theorem fetchHold_line {b : Block} {c n : Nat} {r : Run} {va g : Nat} {mk : Bool → Hold} (hhit : tlbHit b r.ctx (va / 64 * 64) = true)
    (hto : translateOwn b r.ctx (va / 64 * 64) false = some g) (hpass : bktPass b r.part (stackBucket b g) 64 true = true) :
    fetchHold b c n r false (va / 64 * 64) 64 mk = act (holdAt (bktTake b r.part (stackBucket b g) 64) c (mk true)) := by
  have hcharge : runCharge b r false (va / 64 * 64) 64 = some [(stackBucket b g, 64)] := by
    simp [runCharge, pageParts_line, hto, chargeAdd, chargeBytes, roundUp]
  have hhits : (pageParts (va / 64 * 64) 64).find? (fun x => !tlbHit b r.ctx x.1) = none := by simp [pageParts_line, hhit]
  simp only [fetchHold, Bool.false_eq_true, if_false, hhits, hcharge, bktPassAll, List.all_cons, List.all_nil, hpass, Bool.and_true, if_true,
    bktTakeAll, List.foldl_cons, List.foldl_nil]

/-- A charge lowers its bucket by the bytes charged (R244). -/
theorem bktLevel_bktTake (b : Block) (p k m : Nat) : bktLevel (bktTake b p k m) p k = bktLevel b p k - (m : Int) * 1000 := by
  have hfull : bktLevel b p k ≤ (bktBurst b p k : Int) * 1000 := by
    unfold bktLevel; dsimp only; split
    · exact le_refl _
    · exact min_le_left _ _
  have hnow : bktLevel (bktTake b p k m) p k = min ((bktBurst b p k : Int) * 1000)
      (bktLevel b p k - (m : Int) * 1000 + (bktRate b p k : Int) * ((b.tide.clock : Int) - b.tide.clock)) := by
    rw [bktLevel, bktTake, fmGet?_fmSet_self]
    rfl
  rw [hnow, sub_self, mul_zero, add_zero]
  omega

end Sys2Proof.Machine
end

section
/-! PROOFS. SLW_ISSUE, the ends of holds, reserved header bits and BRK (spec/06_long_words.md, R148 to R153, R166, R168; spec/19_debug.md, R436,
R438). -/

namespace Sys2Proof.Machine

open Sys2Proof

/-! ## SLW_ISSUE (R148, R150, R152) -/

/-- Step 5 of an SLW with `END` outside of any loop: the stream ends at every level (R150, R162). -/
theorem slwFlow_ends {b : Block} {c n : Nat} {w : Slw} (hend : hEnd w.hdr = true) (hloops : (coreOf b c).loops = []) :
    slwFlow b c n w = act (putCore b c (endAll { coreOf b c with slw := none, syncCall := w.sync })) := by
  simp only [slwFlow, crossLoops_none b c n _ _ _ hloops, coreOf_putCore, putCore_putCore, hend, if_true]

/-- An SLW of its header alone that has `END` and no `DRAIN`: the stream ends at every level. -/
theorem slwDrain_end {b : Block} {c n : Nat} {r : Run} (hr : runOf b n = some r) (hbrk : b.regs.brkEnable.getLsbD c = false)
    (hsync : syncBusy (coreOf b c) = false) (hloops : (coreOf b c).loops = []) (off : Nat) :
    slwDrain b c n (slwOf off (1#64 <<< 49) []) = act (putCore b c (endAll { coreOf b c with slw := none, syncCall := [] })) := by
  let w := slwOf off (1#64 <<< 49) []
  let d := putCore b c { coreOf b c with syncCall := [] }
  have hstart : slwDrain b c n w = slwC0 d c n w := slwDrain_goes hsync (show hDrain (1#64 <<< 49) = false by decide)
  have hbare : slwC0 d c n w = slwFlow d c n { w with stage := .engines, engAt := 0, value := none } :=
    slwC0_bare (b := d) (w := w) hr rfl (show hCount (1#64 <<< 49) = 0 by decide) hbrk rfl rfl
  have hends := slwFlow_ends (b := d) (c := c) (n := n) (w := { w with stage := .engines, engAt := 0, value := none })
    (show hEnd (1#64 <<< 49) = true by decide) (by rw [coreOf_putCore]; exact hloops)
  rw [hstart, hbare, hends]
  simp only [d, coreOf_putCore, putCore_putCore]
  rfl

section
variable {s : State} {c n : Nat} {r : Run} {fr : Frag} {va : Nat} (h : SlotReady s c n r)
  (hfrag : fragAt (curStream (coreOf s.blk c)) (coreOf s.blk c).off = some fr) (hfits : (coreOf s.blk c).off + 16 ≤ fr.start + fr.len)
  (hva : fr.va + ((coreOf s.blk c).off - fr.start) = va)
include h hfrag hfits hva

/-- An SLW of one control slot in the program window runs as that slot's row does. -/
theorem slwIssue_oneSlot {op : BitVec 8} {f : SlotFields} (hhdr : cachedWord (coreOf s.blk c) r.ctx fr.host va = some 1)
    (hslot : cachedWord (coreOf s.blk c) r.ctx fr.host (va + 8) = some (slotWord op f)) : exec (.slwIssue c) s = ctrlRow c op f s := by
  subst hva
  have hlen : slwLen 1 = 16 := by decide
  have hws : cachedWords (coreOf s.blk c) r.ctx fr.host (fr.va + ((coreOf s.blk c).off - fr.start) + 8) (slwLen 1 / 8 - 1) =
      .ok [slotWord op f] := by
    rw [hlen]; simp only [cachedWords, hslot]
  rw [exec_slwIssue h.run, slwIssue_starts h.issues h.fresh h.noHold,
    slwStart_cached h.known hfrag hhdr (by omega) (by decide) hws,
    ctrlRow_starts h.run h.core h.issues h.fresh h.noHold h.known]

theorem slwIssue_end (hhdr : cachedWord (coreOf s.blk c) r.ctx fr.host va = some (1#64 <<< 49)) : exec (.slwIssue c) s =
    .next (afterSlot s c { coreOf s.blk c with ended := true, levels := (coreOf s.blk c).levels.drop ((coreOf s.blk c).levels.length - 1) }
      (coreOf s.blk c).off) := by
  subst hva
  obtain ⟨hrun, -⟩ := runOf_of_issuing h.issues
  have hlen : slwLen (1#64 <<< 49) = 8 := by decide
  have hws : cachedWords (coreOf s.blk c) r.ctx fr.host (fr.va + ((coreOf s.blk c).off - fr.start) + 8) (slwLen (1#64 <<< 49) / 8 - 1) = .ok [] := by
    rw [hlen]; rfl
  have hend := slwDrain_end (b := putCore s.blk c (slwCount (coreOf s.blk c))) (n := n) hrun h.noBreak (by rw [coreOf_putCore]; exact h.noSync)
    (by rw [coreOf_putCore]; exact h.noLoop) (coreOf s.blk c).off
  rw [exec_slwIssue h.run, slwIssue_starts h.issues h.fresh h.noHold, slwStart_cached h.known hfrag hhdr (by omega) (by decide) hws, hend]
  simp only [coreOf_putCore, putCore_putCore, finish_act, afterSlot_eq]
  refine congrArg (fun k => Host.Outcome.next (s.withBlk (putCore s.blk c k))) ?_
  simp only [endAll, slwCount, slotDone, h.noLoop]

/-- A line that the window lacks is read, and charged, and the core holds for it. -/
theorem slwIssue_line {g : Nat} (hnone : cachedWord (coreOf s.blk c) r.ctx fr.host va = none) (hdev : fr.host = false)
    (hhit : tlbHit s.blk r.ctx (va / 64 * 64) = true) (hto : translateOwn s.blk r.ctx (va / 64 * 64) false = some g)
    (hpass : bktPass s.blk r.part (stackBucket s.blk g) 64 true = true) : exec (.slwIssue c) s =
      .next (s.withBlk (holdAt (bktTake s.blk r.part (stackBucket s.blk g) 64) c (.line (va / 64 * 64) false true))) := by
  rw [exec_slwIssue h.run, slwIssue_starts h.issues h.fresh h.noHold, slwStart_misses h.known hfrag hva hnone (by omega), hdev,
    fetchHold_line hhit hto hpass, finish_act]

end

/-- Settles O18, by what the program window holds. -/
theorem coreIssue : Obligations.CoreIssue := by
  unfold Obligations.CoreIssue
  intro s c n r fr h k hfrag hfits va
  refine ⟨fun op f => slwIssue_oneSlot h hfrag hfits rfl, slwIssue_end h hfrag hfits rfl, fun g hnone hdev hhit hto hpass => ?_⟩
  refine gives_withBlk (slwIssue_line h hfrag hfits rfl hnone hdev hhit hto hpass) ?_
  simp only [withBlk_blk, coreOf_noteSteps, holdAt, coreOf_putCore]
  exact ⟨rfl, rfl, h.fresh, bktLevel_bktTake s.blk r.part (stackBucket s.blk g) 64⟩

/-! ## The ends of holds (R56, R152, R153, R166, R436) -/

section
variable {b : Block} {c n : Nat}

theorem goOn_eq (b : Block) (c : Nat) : goOn b c = slwIssue (putCore b c (holdClosed (coreOf b c) b.tide.clock)) c := rfl

theorem drainRelease_goes (hrun : (coreOf b c).run = some n) (hhold : (coreOf b c).hold = .drain) (hbusy : coreBusy b c n = false) :
    drainRelease b c = goOn b c := by simp [drainRelease, hrun, hhold, hbusy]

theorem pushQueueRoom_goes {w : Slw} (hslw : (coreOf b c).slw = some w) (hhold : (coreOf b c).hold = .pushQueue)
    (hroom : (coreOf b c).pushQ.length + hCount w.hdr ≤ 32) : pushQueueRoom b c = goOn b c := by
  simp [pushQueueRoom, hslw, hhold, hroom]

theorem syncRelease_goes (hhold : (coreOf b c).hold = .sync) (hdone : syncBusy (coreOf b c) = false) : syncRelease b c = goOn b c := by
  simp [syncRelease, hhold, hdone]

/-- The line for which the core holds has come. -/
theorem programLineReturn_goes {r : Run} {h : HeatRead} {va : Nat} {host : Bool} {ws : List Word} (hrun : (coreOf b c).run = some n)
    (hr : runOf b n = some r) (hended : (coreOf b c).ended = false) (hnow : heatReadNow b r.tag h = true)
    (hhold : (coreOf b c).hold = .line va host true) (hlen : ws.length = 8) : programLineReturn b c h va ws =
      goOn (putCore b c (lineAdd (coreOf b c) { ctx := r.ctx, va := va, host := host, words := ws })) c := by
  simp [programLineReturn, hrun, hr, hended, hnow, hhold, hlen]

/-- A walk that one core waits for goes on with that core. -/
theorem walkCores_single {va : Nat} {write : Bool} (hc : c < 64) (hhold : (coreOf b c).hold = .walk va write)
    (honly : ∀ d, d < 64 → d ≠ c → (coreOf b d).hold ≠ .walk va write) : walkCores b va write = [c] := by
  have hsame : ∀ d ∈ List.range 64, decide ((coreOf b d).hold = .walk va write) = (d == c) := by
    intro d hd
    by_cases h : d = c
    · simp [h, hhold]
    · simp [h, honly d (List.mem_range.mp hd) h]
  rw [walkCores, List.filter_congr hsame, List.filter_beq, List.count_eq_one_of_mem List.nodup_range (List.mem_range.mpr hc)]
  rfl

/-- The page is cached and translates. -/
theorem walkReturn_goes {r : Run} {va g : Nat} {write : Bool} (hrun : (coreOf b c).run = some n) (hr : runOf b n = some r)
    (hhold : (coreOf b c).hold = .walk va write) (hto : translate b r.ctx va write = some g) (hhit : tlbHit b r.ctx va = true) :
    walkReturn b r.ctx va write c = goOn b c := by
  simp [walkReturn, hrun, hr, hhold, hto, hhit, goOn]

end

/-- Settles O19: each hold in turn ends as `goOn` says. -/
theorem coreReleases : Obligations.CoreReleases := by
  unfold Obligations.CoreReleases
  intro s c n hs k goesOn
  refine ⟨exec_slwIssue hs c, fun hrun hhold hbusy => ?_, fun w hslw hhold hroom => ?_, fun hhold hdone => ?_,
    fun r h va host ws hrun hr hended hnow hhold hlen => ?_, fun r va write g hc hrun hr hhold hto hhit honly => ?_⟩
  · exact (liftRA_running hs fun b => drainRelease b c).trans (by rw [drainRelease_goes hrun hhold hbusy]; rfl)
  · exact (liftRA_running hs fun b => pushQueueRoom b c).trans (by rw [pushQueueRoom_goes hslw hhold hroom]; rfl)
  · exact (liftRA_running hs fun b => syncRelease b c).trans (by rw [syncRelease_goes hhold hdone]; rfl)
  · refine (liftReplyA_running hs _ fun b => programLineReturn b c h va.toNat ws).trans ?_
    rw [programLineReturn_goes hrun hr hended hnow hhold hlen, goOn_eq, coreOf_putCore, putCore_putCore]
    rfl
  · refine (liftReplyA_running hs _ fun b => actEach b (walkCores b va.toNat write) fun b c => walkReturn b r.ctx va.toNat write c).trans ?_
    rw [walkCores_single hc hhold honly, actEach_singleton, walkReturn_goes hrun hr hhold hto hhit]
    rfl

/-! ## Reserved header bits (R151) -/

/-- An SLW that is skipped whole, outside of any loop: one skip, and the core goes on after it. -/
theorem slwSkip_noLoop {b : Block} {c n : Nat} {r : Run} {nxt : Nat} (hr : runOf b n = some r) (hloops : (coreOf b c).loops = [])
    (hin : nxt < (curStream (coreOf b c)).len) (off reason : Nat) (hdr : Word) : slwSkip b c n off nxt reason hdr =
      act (putCore (skipAt (putCore b c (slwCount (coreOf b c))) c n reason 0x1F 0 off (streamVa (coreOf b c) off) hdr.toNat) c
        { slwCount (coreOf b c) with skips := (coreOf b c).skips + 1, off := nxt }) := by
  have hcore : coreOf (skipAt (putCore b c (slwCount (coreOf b c))) c n reason 0x1F 0 off (streamVa (coreOf b c) off) hdr.toNat) c =
      { slwCount (coreOf b c) with skips := (coreOf b c).skips + 1 } :=
    (coreOf_skipAt _ _ _ _ _ _ _ _ (by simpa using hr)).trans (by rw [coreOf_putCore]; rfl)
  have hva : streamVa (coreOf (putCore b c (slwCount (coreOf b c))) c) off = streamVa (coreOf b c) off := by rw [coreOf_putCore]; rfl
  have hsettle := settleAt_stays (k := { slwCount (coreOf b c) with skips := (coreOf b c).skips + 1 }) (by simp [slwCount, hloops]) hin
  rw [slwSkip, hva, crossLoops_none _ _ _ _ _ _ (by rw [hcore]; exact hloops), coreOf_putCore, putCore_putCore, hcore, hsettle]

theorem hReserved_iff {h : Word} : hReserved h = true ↔ field h 30 2 ≠ 0 ∨ field h 44 4 ≠ 0 ∨ field h 50 14 ≠ 0 := by
  simp only [hReserved, Bool.or_eq_true, decide_eq_true_eq, or_assoc]

/-- Settles O21: the whole SLW is one skip. -/
theorem reservedHeaderSkips : Obligations.ReservedHeaderSkips := by
  unfold Obligations.ReservedHeaderSkips
  intro s c n r fr hdr hs hi hheld b k ring hslw htable hfrag hhdr hfits hset hloops hin
  obtain ⟨hrun, -⟩ := runOf_of_issuing hi
  have hrun' : runOf (putCore b c (slwCount k)) n = some r := hrun
  obtain ⟨hports, hfen⟩ := skipAt_ports_fen (c := c) skReservedHeader 0x1F 0 k.off (streamVa k k.off) hdr.toNat hrun'
  refine gives_withBlk (exec_slwIssue hs c) ?_
  rw [slwIssue_starts hi hslw hheld, slwStart_reserved htable hfrag hhdr hfits (hReserved_iff.mpr hset), slwSkip_noLoop hrun hloops hin]
  simp only [finish_act, withBlk_blk, coreOf_noteSteps, coreOf_putCore]
  refine ⟨rfl, ?_, hports, hfen, rfl, skipAt_counts _ _ _ _ _ _ hrun', fun hfew hring => ?_⟩
  · exact congrArg (fun x => (k.held, k.calls, k.credits, k.levels, x)) hslw
  · exact skipAt_recorded skReservedHeader _ _ _ _ _ hrun' (by rw [coreOf_putCore]; exact hfew) hring

/-! ## BRK (R168, R438) -/

theorem Records.ports {a b : Block} (h : Records a b) : b.ports = a.ports := by obtain ⟨-, _, _, _, _, rfl⟩ := h; rfl

theorem coreOf_of_records {a b : Block} (h : Records a b) (c : Nat) : coreOf b c = coreOf a c := by rw [coreOf, h.cores, coreOf]

/-- A trace record counts in the counters of trace records alone (R445). -/
theorem traceAt_counts (b : Block) (t kind bit : Nat) (cluster : Option Nat) (payload : List (Nat × Nat × Nat)) {key : Nat}
    (hrecord : key ≠ cTraceRecord) (hdrop : key ≠ cTraceDrop) :
    fmGet (traceAt b t kind bit cluster payload).ctr key 0 = fmGet b.ctr key 0 := by
  unfold traceAt
  dsimp only
  split
  · split
    · rfl
    · split
      · exact fmGet_fmSet_ne _ _ _ hdrop
      · refine (fmGet_fmSet_ne _ _ _ hrecord).trans ?_
        rw [(writesBack_ringPut _ _ _ _ _ _ _).ctr]
  · rfl

/-- A core that stops keeps its SLW, and the stop is counted. -/
theorem coreStop_brk (b : Block) (c : Nat) (r : Run) (w : Slw) (code : Nat) :
    coreOf (coreStop b c r w .brk code) c = { coreOf b c with
      slw := some w, brkStop := some { cause := .brk, code := code, since := b.tide.clock }, stepping := false } ∧
    (coreStop b c r w .brk code).ports = b.ports ∧
    fmGet (coreStop b c r w .brk code).ctr cBrkStop 0 = satAdd 32 (fmGet b.ctr cBrkStop 0) 1 := by
  have hrec := records_traceAt (cnt (putCore b c { coreOf b c with
    slw := some w, brkStop := some { cause := .brk, code := code, since := b.tide.clock }, stepping := false }) cBrkStop)
  exact ⟨(coreOf_of_records (hrec _ _ _ _ _) c).trans (coreOf_putCore b c _), (hrec _ _ _ _ _).ports,
    (traceAt_counts _ _ _ _ _ _ (by decide) (by decide)).trans (cnt_value _ _)⟩

theorem brkCode_brk {f : SlotFields} (hlegal : formLegal ⟨.unused, .unused, .unused, 0xFF, 0, .zero⟩ f = true) :
    brkCode (some (slotWord 0x02 f)) = some f.imm.toNat := by
  have hform : formOf 0x02 = some ⟨.unused, .unused, .unused, 0xFF, 0, .zero⟩ := rfl
  simp only [brkCode, slotOp_slotWord, slotFields_slotWord, hform, hlegal, if_true]

/-- BRK in C0 of a primary run stops a core with breakpoints enabled at the boundary before step 3. -/
theorem slwStop_brk {b : Block} {c n : Nat} {r : Run} {w : Slw} {code : Nat} (hr : runOf b n = some r) (hkind : r.kind = .primary)
    (hbrk : b.regs.brkEnable.getLsbD c = true) (hcode : brkCode w.c0 = some code) :
    slwStop b c n w = act (coreStop b c r { w with stage := .c1 } .brk code) := by
  simp [slwStop, hr, stopCause, hbrk, hkind, hcode]

/-- A control-slot row on a core that may issue and awaits no call runs its slot in C0. -/
theorem ctrlRow_begins {s : State} {c n : Nat} {r : Run} (hs : Running s) (hc : c < 64) (hi : issuing s.blk c = some (n, r))
    (hslw : (coreOf s.blk c).slw = none) (hheld : boundaryHeld s.blk r = false) (htable : (curStream (coreOf s.blk c)).table = none)
    (hsync : syncBusy (coreOf s.blk c) = false) (op : BitVec 8) (f : SlotFields) : ctrlRow c op f s = .next (s.withBlk (finish
      (slwSlot (putCore s.blk c { slwCount (coreOf s.blk c) with syncCall := [] }) c n (oneSlw (coreOf s.blk c) op f) 0 (slotWord op f) false
        (fun b w => slwStop b c n w)))) := by
  have hstart := slwDrain_goes (b := putCore s.blk c (slwCount (coreOf s.blk c))) (c := c) (n := n)
    (w := slwOf (coreOf s.blk c).off 1 [slotWord op f]) (by rw [coreOf_putCore]; exact hsync) (show hDrain 1#64 = false by decide)
  rw [ctrlRow_starts hs hc hi hslw hheld htable, hstart]
  simp only [coreOf_putCore, putCore_putCore]
  rfl

/-- Settles O22: BRK has no effect of its own, and the boundary after it stops the core. -/
theorem brkStops : Obligations.BrkStops := by
  unfold Obligations.BrkStops
  refine ⟨fun s c n r imm h himm => ⟨exec_brk_goesOn h himm, exec_nop_goesOn h⟩, ?_⟩
  intro s c n r imm hs hc hi hkind hheld himm hbrk k hslw htable hsync
  let f : SlotFields := ⟨0, 0, 0, false, 0, imm⟩
  obtain ⟨hrun, -⟩ := runOf_of_issuing hi
  have hlegal : formLegal ⟨.unused, .unused, .unused, 0xFF, 0, .zero⟩ f = true := formLegal_plain rfl rfl rfl (imm_below (k := 8) himm rfl)
  have hin : putCore (putCore s.blk c { slwCount k with syncCall := [] }) c
      { coreOf (putCore s.blk c { slwCount k with syncCall := [] }) c with slw := some (oneSlw k 0x02 f) } = slotBlk s c 0x02 f := by
    simp only [coreOf_putCore, putCore_putCore]; rfl
  have heff : ctrlSlot (slotBlk s c 0x02 f) c n r (oneSlw k 0x02 f) 0 (slotWord 0x02 f) false none = .core (coreOf (slotBlk s c 0x02 f) c) :=
    (ctrlSlot_effect (hEnd_oneSlw _ _ _) rfl hlegal).trans ctrlEffect_brk
  have hkeep : slotBlk s c 0x02 f = putCore (slotBlk s c 0x02 f) c (coreOf (slotBlk s c 0x02 f) c) := by
    rw [coreOf_slotBlk, slotBlk, putCore_putCore]
  have hslot := slwSlot_leaves (putCore s.blk c { slwCount k with syncCall := [] }) c n r (oneSlw k 0x02 f) (slotWord 0x02 f)
    (fun b w => slwStop b c n w) (slotBlk s c 0x02 f) none (by simpa using hrun)
    (by rw [hin]; exact heff ▸ ⟨hkeep, rfl⟩) (by rw [coreOf_slotBlk]; rfl)
  have hstop := slwStop_brk (b := slotBlk s c 0x02 f) (c := c) (w := { oneSlw k 0x02 f with value := none, flow := .seq }) hrun hkind hbrk
    (brkCode_brk hlegal)
  obtain ⟨hcore, hports, hcount⟩ := coreStop_brk (slotBlk s c 0x02 f) c r { oneSlw k 0x02 f with value := none, flow := .seq, stage := .c1 }
    imm.toNat
  rw [coreOf_slotBlk] at hcore
  have hrow : exec (.brk c f) s = .next (s.withBlk
      (coreStop (slotBlk s c 0x02 f) c r { oneSlw k 0x02 f with value := none, flow := .seq, stage := .c1 } .brk imm.toNat)) :=
    (ctrlRow_begins hs hc hi hslw hheld htable hsync 0x02 f).trans
      (congrArg (fun a => Host.Outcome.next (s.withBlk (finish a))) (hslot.trans hstop))
  refine gives_withBlk hrow ?_
  simp only [withBlk_blk, coreOf_noteSteps, hcore]
  exact ⟨rfl, rfl, rfl, rfl, rfl, hports, rfl, trivial, hcount⟩

end Sys2Proof.Machine
end

section
/-! PROOFS. Reports of engines (spec/07_engine_slots.md, R189 to R192; spec/13_recovery.md, R331): what the end of a baton leaves in its port, its
run, the power orders and the counters. -/

namespace Sys2Proof.Machine

open Sys2Proof

/-! ## The free entries that a report gives (R189) -/

theorem takeFree_within {b : Block} {c pos : Nat} {report : BitVec 32} (h : field report 19 7 ≤ 64) :
    takeFree b c pos report = putPort b c { portOf b c with free := fmSet (portOf b c).free pos (field report 19 7) } := by
  simp [takeFree, Nat.not_lt.mpr h]

theorem portOf_takeFree {b : Block} {c pos : Nat} {report : BitVec 32} (h : field report 19 7 ≤ 64) :
    portOf (takeFree b c pos report) c = { portOf b c with free := fmSet (portOf b c).free pos (field report 19 7) } := by
  rw [takeFree_within h, portOf_putPort]

theorem putPort_takeFree {b : Block} {c pos : Nat} {report : BitVec 32} (h : field report 19 7 ≤ 64) (p : CPort) :
    putPort (takeFree b c pos report) c p = putPort b c p := by
  rw [takeFree_within h, putPort, putPort, putPort, fmSet_fmSet]

theorem takeFree_above {b : Block} {c pos : Nat} {report : BitVec 32} (h : ¬ field report 19 7 ≤ 64) :
    takeFree b c pos report = putPort (cnt b cBatonProtocol) c { portOf b c with free := fmSet (portOf b c).free pos 0 } := by
  simp [takeFree, Nat.not_le.mp h]

/-! ## The power orders that follow the end of a baton (R430) -/

theorem orderPower_eq (b : Block) (c st : Nat) : orderPower b c st =
    { b with pwr := (orderPower b c st).pwr, ctr := (orderPower b c st).ctr, out := (orderPower b c st).out } := by
  unfold orderPower
  dsimp only
  split
  · rfl
  · split <;> rfl

/-- An order counts no more than a wake. -/
theorem orderPower_count (b : Block) (c st : Nat) {key : Nat} (h : key ≠ cWake) :
    fmGet (orderPower b c st).ctr key 0 = fmGet b.ctr key 0 := by
  unfold orderPower
  dsimp only
  split
  · rfl
  · split
    · exact fmGet_fmSet_ne b.ctr _ _ h
    · rfl

/-- The block once a port whose batons have changed is noted as unused, and its cluster ordered off where it belongs to no partition. -/
def portLeft (b : Block) (c : Nat) : Block := offIfLoose (noteUnused b c) c

theorem noteUnused_eq (b : Block) (c : Nat) : noteUnused b c = { b with pwr := (noteUnused b c).pwr } := by
  unfold noteUnused; split <;> rfl

theorem portLeft_eq (b : Block) (c : Nat) : portLeft b c =
    { b with pwr := (portLeft b c).pwr, ctr := (portLeft b c).ctr, out := (portLeft b c).out } := by
  unfold portLeft offIfLoose
  split
  · rw [orderPower_eq, noteUnused_eq]
  · rw [noteUnused_eq]

section
variable (b : Block) (c : Nat)

@[simp] theorem portOf_portLeft (d : Nat) : portOf (portLeft b c) d = portOf b d := by rw [portLeft_eq]; rfl
@[simp] theorem runOf_portLeft (n : Nat) : runOf (portLeft b c) n = runOf b n := by rw [portLeft_eq]; rfl
@[simp] theorem portLeft_mem : (portLeft b c).mem = b.mem := by rw [portLeft_eq]

theorem portLeft_count {key : Nat} (h : key ≠ cWake) : fmGet (portLeft b c).ctr key 0 = fmGet b.ctr key 0 := by
  have hnote : (noteUnused b c).ctr = b.ctr := by rw [noteUnused_eq]
  unfold portLeft offIfLoose
  split
  · rw [orderPower_count _ _ _ h, hnote]
  · rw [hnote]

end

/-! ## The end of a baton of a heat (R190, R192) -/

/-- The port once baton `x` has ended and its engine has reported `free` entries. -/
def portEnds (p : CPort) (x : Baton) (free : Nat) : CPort :=
  { p with free := fmSet p.free x.ent.pos free, credit := fmSet p.credit x.ent.pos (min 64 (creditOf p x.ent.pos + 1)),
           out := p.out.filter (fun y => decide (y.id ≠ x.id)) }

/-- The run once one of its batons has ended with status `st`: the result is in its digest, and an index out of range marks it. -/
def runTakes (r : Run) (c : Nat) (x : Baton) (st : Nat) (wcrc : BitVec 32) : Run :=
  { digestResult r c x.ent.pos x.call.isSome x.ent.num (if st = 1 then 1 else 0) wcrc with skips := r.skips || decide (st = 1) }

/-- The block once a baton has ended with status `st`; an index out of range is counted. -/
def batonGone (b : Block) (c : Nat) (x : Baton) (r : Run) (free st : Nat) (wcrc : BitVec 32) : Block :=
  let b := putRun (portLeft (putPort b c (portEnds (portOf b c) x free)) c) x.run (runTakes r c x st wcrc)
  if st = 1 then cnt b cIndexRange else b

section
variable {b : Block} {c : Nat} {x : Baton} {r : Run} {report : BitVec 32}

/-- A status that names no engine fault has no effect beyond the run and the count. -/
theorem batonResult_noFault {st : Nat} (hst : st ≤ 1) (hcopy : x.copy = false) (hr : runOf b x.run = some r) (wcrc : BitVec 32) :
    batonResult b c x st wcrc =
      act (if st = 1 then cnt (putRun b x.run (runTakes r c x st wcrc)) cIndexRange else putRun b x.run (runTakes r c x st wcrc)) := by
  have hfault : ¬ st ≥ 2 := by omega
  simp only [batonResult, hr, hcopy, hfault, decide_false, Bool.false_and, Bool.false_eq_true, if_false, runTakes]

/-- The report of a heat's baton that met no engine fault ends it, and nothing follows that a recovery sequence would leave out (R331). -/
theorem batonEnd_noFault (hc : c < 64) (hkind : report.getLsbD 18 = false)
    (hfind : (portOf b c).out.find? (fun y => decide (y.id = field report 0 16)) = some x) (hst : field report 16 2 ≤ 1)
    (hfree : field report 19 7 ≤ 64) (hcall : x.call = none) (hcopy : x.copy = false) (hlt : x.run < 2 ^ 32)
    (hr : runOf b x.run = some r) (wcrc : BitVec 32) :
    batonEnd b c report wcrc = act (batonGone b c x r (field report 19 7) (field report 16 2) wcrc) := by
  let d := portLeft (putPort b c (portEnds (portOf b c) x (field report 19 7))) c
  have hcore : ¬ c ≥ 64 := by omega
  have hst3 : ¬ field report 16 2 = 3 := by omega
  have hslots : slotsReady d c x = d := by simp [slotsReady, hcall]
  have hrun : runOf d x.run = some r := (runOf_portLeft _ _ _).trans hr
  have hresult : batonResult (slotsReady d c x) c x (field report 16 2) wcrc =
      act (batonGone b c x r (field report 19 7) (field report 16 2) wcrc) := by
    rw [hslots, batonResult_noFault hst hcopy hrun]; rfl
  simp only [batonEnd, hkind, hcore, decide_false, Bool.or_self, Bool.false_eq_true, if_false, hfind, hst3, portOf_takeFree hfree,
    putPort_takeFree hfree, applyOf_heat hlt]
  split
  · exact congrArg (fun a : Act => act a.1) hresult
  · exact hresult

end

section
variable (b : Block) (c : Nat) (x : Baton) (r : Run) (free st : Nat) (wcrc : BitVec 32)

@[simp] theorem portOf_batonGone : portOf (batonGone b c x r free st wcrc) c = portEnds (portOf b c) x free := by
  have hleft := portOf_portLeft (putPort b c (portEnds (portOf b c) x free)) c c
  rw [portOf_putPort] at hleft
  unfold batonGone
  dsimp only
  split <;> exact hleft

@[simp] theorem runOf_batonGone : runOf (batonGone b c x r free st wcrc) x.run = some (runTakes r c x st wcrc) := by
  unfold batonGone
  dsimp only
  split
  · rw [runOf_cnt, runOf_putRun]
  · rw [runOf_putRun]

@[simp] theorem batonGone_mem : (batonGone b c x r free st wcrc).mem = b.mem := by
  unfold batonGone
  dsimp only
  split <;> simp

theorem batonGone_indexRange (h : st = 1) : fmGet (batonGone b c x r free st wcrc).ctr cIndexRange 0 =
    satAdd 32 (fmGet b.ctr cIndexRange 0) 1 := by
  simp only [batonGone, h, if_true, cnt_value, putRun_ctr]
  rw [portLeft_count _ _ (by decide : cIndexRange ≠ cWake), putPort_ctr]

end

/-- Settles O24: the end of a baton as one block, whose port, run and counters are read off; the report's count and free entries. -/
theorem batonEnds : Obligations.BatonEnds := by
  unfold Obligations.BatonEnds
  refine ⟨?_, ?_⟩
  · intro s c x r report wcrc hs hc b p hkind hfind hst hfree hcall hcopy hlt hr
    refine gives_withBlk (liftA_alive hs fun b => batonEnd b c report wcrc) ?_
    rw [batonEnd_noFault hc hkind hfind hst hfree hcall hcopy hlt hr wcrc, finish_act]
    simp only [withBlk_blk, portOf_noteSteps, runOf_noteSteps, portOf_batonGone, runOf_batonGone]
    exact ⟨rfl, fmGet_fmSet_self _ _ _ _, fmGet_fmSet_self _ _ _ _, rfl, batonGone_indexRange _ _ _ _ _ _ _, batonGone_mem _ _ _ _ _ _ _⟩
  · intro s c pos report hs hc hpos hkind p f b
    have hport : portOf b c = p := by
      dsimp only [b]
      split
      · exact portOf_cnt _ _ _
      · rfl
    refine (lift_of_alive hs _).trans (congrArg (fun d => Host.Outcome.next (s.withBlk d)) ?_)
    simp only [hkind, hc, hpos, decide_true, Bool.and_self, if_true]
    by_cases hfree : f ≤ 64
    · rw [if_pos hfree, ← hport]; exact takeFree_within hfree
    · rw [if_neg hfree, ← hport]; exact takeFree_above hfree

end Sys2Proof.Machine
end

section
/-! PROOFS. Chip reset and the signals beside it (spec/20_integration.md, R456 to R462; spec/12_fabric.md, R319). -/

namespace Sys2Proof.Machine

open Sys2Proof

/-- The state out of reset: the fuse vector is sampled, and no release is held (R457, R458, R462). -/
def outOfReset (s : State) (f : BitVec 896) : State :=
  { s with
    pin := { s.pin with rst := false, release := none, low := false, long := true },
    blk := if f = 0 then { s.blk with fuse := f } else tableChanged { s.blk with fuse := f } }

/-! ## A held release (R458) -/

theorem tryRelease_honoured {s : State} {f : BitVec 896} (hrel : s.pin.release = some f) (hlong : s.pin.long = true)
    (hlow : s.pin.low = false) : tryRelease s = outOfReset s f := by
  simp only [tryRelease, hrel, hlong, hlow, Bool.not_false, Bool.and_self, if_true]
  rfl

/-- Before 1 µs of assertion has passed, or below the reset level of the supply, a release stays held. -/
theorem tryRelease_held {s : State} (h : s.pin.long = false ∨ s.pin.low = true) : tryRelease s = s := by
  have hwait : (s.pin.long && !s.pin.low) = false := by rcases h with h | h <;> simp [h]
  unfold tryRelease
  split
  · rw [hwait]; rfl
  · rfl

theorem tryRelease_none {s : State} (h : s.pin.release = none) : tryRelease s = s := by
  simp [tryRelease, h]

section
variable {s : State} (hrst : s.pin.rst = true)
include hrst

theorem exec_chipResetRelease (hrel : s.pin.release = none) (f : BitVec 896) (mv : Nat) : exec (.chipResetRelease f mv) s =
    .next (tryRelease { s with pin := { s.pin with release := some f, low := decide (mv < resetMv s.blk) } }) := by
  show execChipResetRelease f mv s = _
  simp [execChipResetRelease, hrst, hrel]

theorem exec_supplyAboveResetLevel {f : BitVec 896} {mv : Nat} (hrel : s.pin.release = some f) (hlow : s.pin.low = true)
    (hmv : resetMv s.blk < mv) : exec (.supplyAboveResetLevel mv) s = .next (tryRelease { s with pin := { s.pin with low := false } }) := by
  show execSupplyAboveResetLevel mv s = _
  simp [execSupplyAboveResetLevel, hrst, hrel, hlow, hmv]

theorem exec_resetAssertionMinimum (hlong : s.pin.long = false) :
    exec .resetAssertionMinimum s = .next (tryRelease { s with pin := { s.pin with long := true } }) := by
  show execResetAssertionMinimum s = _
  simp [execResetAssertionMinimum, hrst, hlong]

end

/-! ## The end of the self-test, and the bypass outputs (R462, R319) -/

theorem exec_selftestEnd {s : State} (hs : Alive s) (h : s.blk.mic.selftest = 0) (pass : Bool) : exec (.selftestEnd pass) s =
    .next (s.withBlk { s.blk with mic := { s.blk.mic with selftest := if pass then 1 else 2 } }) :=
  (lift_of_alive hs _).trans (by rw [if_pos h])

theorem exec_bypassDrive {s : State} (hs : Alive s) {axis : Nat} (haxis : axis < 3) (h : mayDrive s.blk axis = true) :
    exec (.bypassDrive axis) s = .next { s with pin := s.pin.drive axis } := by
  show execBypassDrive axis s = _
  simp [execBypassDrive, alive_eq_true hs, haxis, h]

/-- Settles O54: each event that a held release waits for comes to one attempt at it, which is honoured once the last of them is in. -/
theorem resetSignals : Obligations.ResetSignals := by
  unfold Obligations.ResetSignals
  intro s b out kept
  refine ⟨rfl, fun f mv hrst hrel => ?_, fun f mv hrst hrel hlow hmv hlong => ?_, fun hrst hlong => ⟨fun hrel => ?_, fun f hrel hlow => ?_⟩,
    fun pass hs h => exec_selftestEnd hs h pass, fun axis hs haxis h => exec_bypassDrive hs haxis h⟩
  · have hexec := exec_chipResetRelease hrst hrel f mv
    refine ⟨fun hlong hmv => hexec.trans (congrArg _ ?_), fun hlong hmv => hexec.trans (congrArg _ ?_), fun hlong => hexec.trans (congrArg _ ?_)⟩
    · exact tryRelease_honoured rfl hlong (decide_eq_false (Nat.not_lt.mpr hmv))
    · rw [decide_eq_true hmv]; exact tryRelease_held (.inr rfl)
    · exact tryRelease_held (.inl hlong)
  · exact (exec_supplyAboveResetLevel hrst hrel hlow hmv).trans (congrArg _ (tryRelease_honoured hrel hlong rfl))
  · exact (exec_resetAssertionMinimum hrst hlong).trans (congrArg _ (tryRelease_none hrel))
  · exact (exec_resetAssertionMinimum hrst hlong).trans (congrArg _ (tryRelease_honoured hrel rfl hlow))

end Sys2Proof.Machine
end

section
/-! PROOFS. Bags of the lookup expander (spec/08_lookup_expander.md, R206 to R208, R212, R213): what an admission leaves of the window, its
counters and the call, and the POOL baton of a bag that is ready. -/

namespace Sys2Proof.Machine

open Sys2Proof

/-! ## Writes to the scratchpad and the digest (R215, R346): all that they change -/

/-- `b` differs from `a` at most in the cluster ports and the runs: all that a write, a baton or a contribution to the digest changes. -/
def Stages (a b : Block) : Prop := ∃ ports comp, b = { a with ports := ports, comp := comp }

namespace Stages

variable {a b c : Block}

theorem refl (a : Block) : Stages a a := ⟨_, _, rfl⟩

theorem trans (h : Stages a b) (h' : Stages b c) : Stages a c := by
  obtain ⟨_, _, rfl⟩ := h
  obtain ⟨_, _, rfl⟩ := h'
  exact ⟨_, _, rfl⟩

section
variable (h : Stages a b)
include h

theorem xp : b.xp = a.xp := by obtain ⟨_, _, rfl⟩ := h; rfl
theorem ctr : b.ctr = a.ctr := by obtain ⟨_, _, rfl⟩ := h; rfl
theorem isLocal (g : Nat) : isLocal b g = isLocal a g := by obtain ⟨_, _, rfl⟩ := h; rfl
theorem tlbPage (ctx : BitVec 24) (va : Nat) : tlbPage b ctx va = tlbPage a ctx va := by obtain ⟨_, _, rfl⟩ := h; rfl
theorem gatherPos (c t : Nat) : gatherPos b c t = gatherPos a c t := by obtain ⟨_, _, rfl⟩ := h; rfl

end

end Stages

theorem stages_xqPush (b : Block) (c : Nat) (e : XEnt) : Stages b (xqPush b c e) := ⟨_, _, rfl⟩

theorem stages_digestWrite (b : Block) (n c addr : Nat) (bytes : List Byte) : Stages b (digestWrite b n c addr bytes) := by
  unfold digestWrite
  split
  · exact .refl b
  · exact ⟨_, _, rfl⟩

/-- A slot of the expander changes the digest of its run alone. -/
theorem digestXp_eq (b : Block) (n c pos : Nat) (slot : BitVec 256) :
    (digestXp b n c pos slot).2 = { b with comp := (digestXp b n c pos slot).2.comp } := by
  unfold digestXp
  split <;> rfl

theorem stages_digestXp (b : Block) (n c pos : Nat) (slot : BitVec 256) : Stages b (digestXp b n c pos slot).2 :=
  ⟨_, _, digestXp_eq b n c pos slot⟩

theorem stages_xWrites (c id n : Nat) (bag : Option Nat) (fuel : Nat) (b : Block) (a : Nat) (bs : List Byte) :
    Stages b (xWrites b c id n bag fuel a bs) := by
  induction fuel generalizing b a bs with
  | zero => exact .refl b
  | succ fuel ih =>
    unfold xWrites
    split
    · exact .refl b
    · exact ((stages_xqPush b c _).trans (stages_digestWrite _ n c a _)).trans (ih _ _ _)

/-- A bag of which every index is placed has its remap entries written, and without weights nothing else (R214). -/
theorem stages_placeBag {x : XCall} {l : List (Option Nat)} (hplaced : l.filter Option.isNone = []) (hwsum : xWsum x.blk = false)
    (b : Block) (c id n : Nat) (wts : List (BitVec 32)) : Stages b (placeBag b c id n x l wts) := by
  simp only [placeBag, hplaced, hwsum, List.length_nil, if_true, Bool.false_eq_true, if_false]
  exact stages_xWrites c id n _ _ b _ _

/-! ## The GATHER of a group (R212) -/

/-- An operand inside one page of the translation cache. -/
theorem pagesNow_cached {b : Block} {h : BitVec 24} {va ext : Nat} {t : TlbEnt} (hpage : tlbPage b h va = some t)
    (hext : va + ext ≤ t.vbase + t.size) : pagesNow b h va ext = .one (t.gbase + (va - t.vbase)) := by
  have hin : ext ≤ t.vbase + t.size - va := by omega
  simp only [pagesNow, pageOf, hpage, hin, if_true]

/-- A group in one cached page of local memory has its GATHER queued where a G position is present. -/
theorem gatherPush_cached {b : Block} {c pos : Nat} {r : Run} {d : BitVec 256} {g : GatherRun} {t : TlbEnt}
    (hpage : tlbPage b r.ctx (tRowVa d g.row) = some t) (hext : tRowVa d g.row + gatherExt d g ≤ t.vbase + t.size)
    (hlocal : isLocal b (t.gbase + (tRowVa d g.row - t.vbase)) = true) (hpos : gatherPos b c (tStack d g.row) = some pos)
    (n id : Nat) (k : BitVec 512) : ∃ b', gatherPush b c n r id k d g = act b' ∧ Stages b b' := by
  simp only [gatherPush, pagesNow_cached hpage hext, gatherPush.go, memRouted, routed_of_isLocal hlocal, hpos, Bool.not_true,
    Bool.false_eq_true, if_false]
  exact ⟨_, rfl, (stages_digestXp b n c pos _).trans (stages_xqPush _ c _)⟩

/-! ## The last bag of a call (R202, R206) -/

/-- A call that has admitted all its bags and queued its last group of keys. -/
def allAdmitted (x : XCall) : XCall := { x with phase := .issued, issued := false, last := none }

/-- With no bag left in its last feature, a call has admitted all, and its last group of keys is queued. -/
theorem xBags_last {x : XCall} (hoffs : x.offs = []) (hlast : x.f + 1 = xF x.blk) (b : Block) (c n : Nat) (r : Run) (id : Nat) :
    xBags b c n r id x = andThen (gatherLast b c n r id x) (fun b => act (putCall b id (allAdmitted x))) := by
  have hdone : ¬ x.f + 1 < xF x.blk := by omega
  have heasy : easyBags b c id n x.offs x = (b, x) := by rw [hoffs, easyBags, ← hoffs]
  rw [xBags, heasy]
  simp only [allAdmitted, hdone, hoffs, List.isEmpty_nil, Bool.not_true, Bool.false_eq_true, if_false]

/-- The call once its last bag, of one index, has been admitted with key `key` in slot 0. -/
def admittedLast (x : XCall) (key : Nat × Nat) : XCall :=
  { x with
    offs := [], prev := x.prev + 1, b := x.b + 1, bagIdx := [], bagWt := [],
    last := some { table := fTable x.entry, row := key.2, count := 1, slot := 0 },
    bags := x.bags ++ [{ bag := x.f * xB x.blk + x.b, first := x.prev, len := 1, dir := curDir x, col := fCol x.entry, sample := x.b,
                         slots := [0] }] }

/-- Call `x` has come to its last bag, whose one index names row `key.2`: the row lies in the cached page `t` of local memory, and position
`pos` gathers it. -/
structure AtLastBag (b : Block) (c : Nat) (r : Run) (x : XCall) (i : Int) (key : Nat × Nat) (t : TlbEnt) (pos : Nat) : Prop where
  noGroup : x.last = none
  index : x.bagIdx = [i]
  offset : x.offs = [x.prev + 1]
  lastFeature : x.f + 1 = xF x.blk
  pooled : xPooled x.blk = true
  noWeights : xWsum x.blk = false
  keyed : keyOf (fTable x.entry) (curDir x) i = some key
  page : tlbPage b r.ctx (tRowVa (curDir x) key.2) = some t
  inPage : tRowVa (curDir x) key.2 + extent 1 (tPitch (curDir x)) (tRowBytes (curDir x)) ≤ t.vbase + t.size
  inLocal : isLocal b (t.gbase + (tRowVa (curDir x) key.2 - t.vbase)) = true
  gathers : gatherPos b c (tStack (curDir x) key.2) = some pos

section
variable {b : Block} {c pos : Nat} {r : Run} {x : XCall} {w : XWindow} {i : Int} {key : Nat × Nat} {t : TlbEnt}
  (h : AtLastBag b c r x i key t pos)
include h

/-- One index that is the last of its call is admitted into an empty window: its key takes slot 0, its row is gathered, and its bag waits for
its POOL baton. -/
theorem admitBag_last (hkeys : w.keys = []) (n id : Nat) : ∃ b',
    admitBag b c n r id x w [key] [key] = act (putCall b' id (allAdmitted (admittedLast x key))) ∧
    Stages (cnt (putWin b c { w with keys := [key] }) cXpKey) b' := by
  have hstaged := stages_placeBag (l := [some 0]) rfl h.noWeights (cnt (putWin b c { w with keys := [key] }) cXpKey) c id n x.bagWt
  obtain ⟨b', hgather, hgathered⟩ := gatherPush_cached (g := { table := fTable x.entry, row := key.2, count := 1, slot := 0 })
    ((hstaged.tlbPage _ _).trans h.page) h.inPage ((hstaged.isLocal _).trans h.inLocal) ((hstaged.gatherPos _ _).trans h.gathers) n id
    x.blk
  refine ⟨b', ?_, hstaged.trans hgathered⟩
  have hslot : slotOf [key] key = some 0 := by simp [slotOf]
  have hkeep : [key].contains key = true := by simp
  have hcount : x.prev + 1 - x.prev = 1 := by omega
  have hadmit : admitBag b c n r id x w [key] [key] =
      xBags (placeBag (cnt (putWin b c { w with keys := [key] }) cXpKey) c id n x [some 0] x.bagWt) c n r id (admittedLast x key) := by
    simp only [admitBag, h.index, h.keyed, hkeys, h.offset, h.pooled, h.noGroup, hkeep, hslot, hcount, List.map_cons, List.map_nil,
      List.headD_cons, List.nil_append, if_true]
    rfl
  rw [hadmit, xBags_last (x := admittedLast x key) rfl h.lastFeature]
  show andThen (gatherPush _ c n r id x.blk (curDir x) _) _ = _
  rw [hgather, andThen_act]

/-- Such an index, once it has been read, is admitted (R208, R211). -/
theorem doBag_last {n : Nat} (husable : curUsable x = true) (hwin : winOf b c n = some w) (hkeys : w.keys = []) (hcap : 1 ≤ w.cap)
    (id : Nat) : ∃ b',
    doBag b c n r id x = act (putCall b' id (allAdmitted (admittedLast x key))) ∧
    Stages (cnt (putWin b c { w with keys := [key] }) cXpKey) b' := by
  have hall : distinctKeys [key] = [key] := by simp [distinctKeys]
  have hdo : doBag b c n r id x = admitBag b c n r id x w [key] [key] := by
    simp [doBag, husable, h.index, h.keyed, hwin, hkeys, hall, hcap]
  rw [hdo]
  exact admitBag_last h hkeys n id

end

/-! ## The turnover of a window (R207, R208) -/

theorem winOf_putWin (b : Block) (c : Nat) (w : XWindow) : winOf (putWin b c w) c w.run = some w := by
  simp [winOf, putWin]

/-- A window that no baton, gather or pool of its run needs any more is emptied for the bag that waits. -/
theorem windowTurnover_bag {b : Block} {c id : Nat} {x : XCall} {r : Run} {w : XWindow} {i : Int} (hcall : curCall b c = some (id, x))
    (hrun : callRun b x = some r) (hwin : winOf b c x.run = some w) (hphase : x.phase = .turnover) (hidle : rowbufIdle b c x.run w = true)
    (hidx : x.bagIdx = [i]) : windowTurnover b c =
      doBag (cnt (putWin b c (freshWin x.run r.clusters.length x.blk)) cXpTurnover) c x.run r id { x with phase := .bag } := by
  simp only [windowTurnover, hcall, hrun, hwin, hphase, hidle, hidx, decide_true, Bool.and_self, if_true, List.isEmpty_cons,
    Bool.false_eq_true, if_false]

/-! ## The POOL slot of a bag (R183, R213) -/

theorem getLsbD_lowMask (w n i : Nat) : (BitVec.ofNat w (2 ^ n - 1)).getLsbD i = decide (i < w ∧ i < n) := by
  rw [BitVec.getLsbD_ofNat, Nat.testBit_two_pow_sub_one, Bool.decide_and]

theorem setDesc_gDesc (s : BitVec 256) (k : Nat) : setDesc s k (gDesc s k) = s := by
  refine BitVec.eq_of_getLsbD_eq fun j hj => ?_
  have hmask (i : Nat) : (0xFFFFFFFFFFFFFFFF#256).getLsbD i = decide (i < 256 ∧ i < 64) := getLsbD_lowMask 256 64 i
  simp only [setDesc, gDesc, BitVec.getLsbD_or, BitVec.getLsbD_and, BitVec.getLsbD_not, BitVec.getLsbD_shiftLeft, hmask,
    BitVec.truncate_eq_setWidth, BitVec.getLsbD_setWidth, BitVec.getLsbD_extractLsb', hj]
  by_cases hle : 32 + 64 * k ≤ j
  · have hoff : j - (32 + 64 * k) < 256 := by omega
    by_cases hlt : j - (32 + 64 * k) < 64
    · simp [hlt, hoff, Nat.not_lt.mpr hle, Nat.add_sub_cancel' hle]
    · simp [hlt]
  · simp [Nat.lt_of_not_le hle]

/-- A descriptor with its own address in place of its address is itself. -/
theorem desc_readdressed (d : Word) : (d &&& ~~~(0xFFFFFF#64)) ||| BitVec.ofNat 64 (dAddr d) = d := by
  refine BitVec.eq_of_getLsbD_eq fun j hj => ?_
  have hmask : (0xFFFFFF#64).getLsbD j = decide (j < 64 ∧ j < 24) := getLsbD_lowMask 64 24 j
  simp only [dAddr, field, BitVec.ofNat_toNat, BitVec.getLsbD_or, BitVec.getLsbD_and, BitVec.getLsbD_not, hmask,
    BitVec.getLsbD_setWidth, BitVec.getLsbD_extractLsb', hj]
  by_cases hlt : j < 24 <;> simp [hlt]

/-- The descriptor is final: it is not patched, and it names no memory (R183, R184). -/
def FinalDesc (d : Word) : Prop := dPatch d = false ∧ dMem d = false

/-- A slot of final descriptors goes to the engine as it is. -/
theorem batonSlot_of_final {s : BitVec 256} (h0 : FinalDesc (gDesc s 0)) (h1 : FinalDesc (gDesc s 1)) (h2 : FinalDesc (gDesc s 2))
    (p : Patch) : batonSlot s p = s := by
  have hkeep {k : Nat} (h : FinalDesc (gDesc s k)) :
      setDesc s k ((gDesc s k &&& ~~~(0xFFFFFF#64)) ||| BitVec.ofNat 64 (patched p k (gDesc s k))) = s := by
    rw [patched, h.1, if_neg Bool.false_ne_true, desc_readdressed, setDesc_gDesc]
  simp only [batonSlot, List.foldl_cons, List.foldl_nil, h0.2, h1.2, h2.2, hkeep h0, hkeep h1, hkeep h2, Bool.false_eq_true, if_false,
    ite_self]

/-- The flags of a scratchpad descriptor are 0. -/
theorem descWord_flag (addr size stride type : Nat) {i : Nat} (h : 60 ≤ i) : (descWord addr size stride type).getLsbD i = false := by
  rw [descWord, BitVec.getLsbD_ofNat, testBit_packFields]
  simp [show ¬ i < 24 by omega, show ¬ i < 40 by omega, show ¬ i < 56 by omega, show ¬ i < 60 by omega]

theorem finalDesc_descWord (addr size stride type : Nat) : FinalDesc (descWord addr size stride type) :=
  ⟨descWord_flag _ _ _ _ (by decide), descWord_flag _ _ _ _ (by decide)⟩

/-- `INDIRECT` is no patch either (R178). -/
theorem finalDesc_indirect {d : Word} (h : FinalDesc d) : FinalDesc (d ||| (1#64 <<< 61)) := by
  obtain ⟨hpatch, hmem⟩ := h
  exact ⟨by rw [dPatch, BitVec.getLsbD_or, ← dPatch, hpatch]; rfl, by rw [dMem, BitVec.getLsbD_or, ← dMem, hmem]; rfl⟩

/-- The descriptors of a slot made from its fields. -/
theorem gDesc_slotBits (op sel rep : Nat) (d0 d1 d2 : Word) : gDesc (slotBits op sel d0 d1 d2 rep) 0 = d0 ∧
    gDesc (slotBits op sel d0 d1 d2 rep) 1 = d1 ∧ gDesc (slotBits op sel d0 d1 d2 rep) 2 = d2 := by
  have hdesc {s : BitVec 256} {lo : Nat} {d : Word} (h : field s lo 64 = d.toNat % 2 ^ 64) : s.extractLsb' lo 64 = d :=
    BitVec.eq_of_toNat_eq (h.trans (Nat.mod_eq_of_lt d.isLt))
  refine ⟨hdesc ?_, hdesc ?_, hdesc ?_⟩ <;> exact field_packFields (by simp) (by simp) (by decide)

theorem batonSlot_poolSlot (x : XCall) (g : BagRec) (p : Patch) : batonSlot (poolSlot x g) p = poolSlot x g := by
  obtain ⟨h0, h1, h2⟩ := gDesc_slotBits 0x42 (xMode x.blk) g.len
    (descWord (xRowbuf x.blk) (tDim g.dir) (xPitch x.blk) (tType g.dir) ||| (1#64 <<< 61))
    (if xWsum x.blk then descWord (xRemap x.blk + 4 * x.n + 4 * g.first) g.len 0 0 else 0)
    (descWord (xOut x.blk + g.sample * xOutStride x.blk + g.col) (tDim g.dir) 0 (xOutType x.blk))
  refine batonSlot_of_final (h0 ▸ finalDesc_indirect (finalDesc_descWord _ _ _ _)) (h1 ▸ ?_) (h2 ▸ finalDesc_descWord _ _ _ _) p
  split
  · exact finalDesc_descWord _ _ _ _
  · exact ⟨rfl, rfl⟩

/-! ## The POOL baton of a bag (R213) -/

@[simp] theorem portOf_xqPush (b : Block) (c : Nat) (e : XEnt) : portOf (xqPush b c e) c = { portOf b c with xq := (portOf b c).xq ++ [e] } :=
  portOf_putPort b c _

@[simp] theorem portOf_digestXp (b : Block) (n c pos : Nat) (slot : BitVec 256) (d : Nat) :
    portOf (digestXp b n c pos slot).2 d = portOf b d := by
  rw [digestXp_eq]; rfl

/-- Where the next V position in rotation is present, the oldest bag of a call leaves it, and its POOL baton is queued there. -/
theorem poolPush_spec {b : Block} {c pos : Nat} {x : XCall}
    (hpos : (presentIn b c 6 4)[x.vRot % (presentIn b c 6 4).length]? = some pos) (id : Nat) (w : XWindow) (g : BagRec) :
    fmGet? (poolPush b c id x w g).xp.calls id = some { x with bags := x.bags.drop 1, vRot := x.vRot + 1 } ∧
    ∃ e, (portOf (poolPush b c id x w g) c).xq = (portOf b c).xq ++ [{ call := id, run := x.run, work := .pool e g.bag }] ∧
      e.pos = pos ∧ e.slot = poolSlot x g := by
  have hsome : (presentIn b c 6 4).isEmpty = false := by
    cases hvs : presentIn b c 6 4 with
    | nil => simp [hvs] at hpos
    | cons v vs => rfl
  have hat : (presentIn b c 6 4).getD (x.vRot % (presentIn b c 6 4).length) 6 = pos := by
    rw [List.getD_eq_getElem?_getD, hpos, Option.getD_some]
  simp only [poolPush, hsome, hat, Bool.false_eq_true, if_false, (stages_xqPush _ c _).xp, (stages_digestXp _ _ _ _ _).xp, portOf_xqPush,
    portOf_digestXp]
  exact ⟨fmGet?_fmSet_self _ _ _, _, rfl, rfl, batonSlot_poolSlot x g _⟩

/-- The first call of a core pools its oldest bag once that is ready. -/
theorem poolIssue_first {b : Block} {c id : Nat} {ids : List Nat} {x : XCall} {r : Run} {w : XWindow} {g : BagRec} {gs : List BagRec}
    (hcalls : (coreOf b c).calls = id :: ids) (hx : fmGet? b.xp.calls id = some x) (hrun : callRun b x = some r)
    (hwin : winOf b c x.run = some w) (hbags : x.bags = g :: gs) (hready : bagReady b c id w g = true) :
    poolIssue b c = poolPush b c id x w g := by
  simp only [poolIssue, hcalls, List.find?_cons, hx, hrun, hwin, hbags, hready, Option.isSome_some, Bool.and_self]

/-- Settles O26: the turnover by the admission of its one bag, the POOL baton by what is queued for the oldest bag. -/
theorem expanderBags : Obligations.ExpanderBags := by
  unfold Obligations.ExpanderBags
  intro s c id x r w hs b hrun _ hwin _
  refine ⟨?_, ?_⟩
  · intro i row pos o t hcall hphase hidle hlast husable hidx hoffs ho hf hpooled hwsum hcap hkey va hpage hext _ hlocal hpos
    have hat : AtLastBag (cnt (putWin b c (freshWin x.run r.clusters.length x.blk)) cXpTurnover) c r { x with phase := .bag } i
        (fTable x.entry, row) t pos :=
      ⟨hlast, hidx, ho ▸ hoffs, hf, hpooled, hwsum, hkey, hpage, hext, hlocal, hpos⟩
    obtain ⟨b', hdo, hstaged⟩ := doBag_last (n := x.run) hat husable (winOf_putWin b c _) rfl hcap id
    refine gives_withBlk (liftRA_running hs fun b => windowTurnover b c) ?_
    rw [windowTurnover_bag hcall hrun hwin hphase hidle hidx, hdo, finish_act]
    have hwindow : fmGet? b'.xp.windows c = some { freshWin x.run r.clusters.length x.blk with keys := [(fTable x.entry, row)] } := by
      rw [hstaged.xp]; exact fmGet?_fmSet_self _ _ _
    have hturnover : fmGet b'.ctr 0x148 0 = satAdd 32 (fmGet b.ctr 0x148 0) 1 := by
      rw [hstaged.ctr]; exact (fmGet_fmSet_ne _ _ _ (by decide)).trans (cnt_value _ cXpTurnover)
    have hkeyCount : fmGet b'.ctr 0x144 0 = satAdd 32 (fmGet b.ctr 0x144 0) 1 := by
      rw [hstaged.ctr]
      exact (cnt_value _ cXpKey).trans (congrArg (satAdd 32 · 1) (fmGet_fmSet_ne _ _ _ (by decide)))
    refine ⟨congrArg (Option.map _) hwindow, ?_, hturnover, hkeyCount⟩
    refine (congrArg (Option.map _) (fmGet?_fmSet_self _ _ _)).trans ?_
    simp [allAdmitted, admittedLast]
  · intro ids y bs pos hcalls hx hbags hready hpos
    obtain ⟨hcall, e, hxq, hepos, heslot⟩ := poolPush_spec hpos id w y
    refine gives_withBlk (liftR_running hs fun b => poolIssue b c) ?_
    rw [poolIssue_first hcalls hx hrun hwin hbags hready]
    refine ⟨?_, _, hxq, rfl, rfl, e, rfl, hepos, heslot⟩
    refine (congrArg (Option.map _) hcall).trans ?_
    rw [hbags]; rfl

end Sys2Proof.Machine
end

section
/-! PROOFS. The descriptor of a BE heat that arrives (spec/09_heats_scheduling.md, R227, R228) is a step of the dependency engine, whose
scoreboard holds the heat (R324, R335), and the block notes it: this refutes O43. -/

namespace Sys2Proof.Machine

open Sys2Proof

/-! ## A descriptor that has been read (R227, R228) -/

/-- A work item whose descriptor read has ended is a step of the dependency engine, unit 5. -/
theorem unitSame_of_descRead {a b : Block} {tag u : Nat} {g : Bool} {i z : Item} (ha : itemOf a tag = some i) (hi : i.descRd = .flying u g)
    (hb : itemOf b tag = some z) (hz : z.descRd = .idle) : unitSame a b 5 = false := by
  have hsb : a.sb ≠ b.sb := by
    intro h
    have hitem : itemOf a tag = itemOf b tag := congrArg (fun x : Scoreboard => fmGet? x.items tag) h
    cases Option.some.inj (ha.symm.trans (hitem.trans hb))
    cases hi.symm.trans hz
  simp [unitSame, hsb]

/-- Where no step has been noted, the end of a descriptor read changes more than the work item. -/
theorem withBlk_ne_of_descRead {s : State} {tag u : Nat} {g : Bool} {i z : Item} (hitem : itemOf s.blk tag = some i)
    (hread : i.descRd = .flying u g) (hz : z.descRd = .idle) (hprog : s.blk.rcv.prog = []) (d : Block) :
    (s.withBlk d).blk ≠ putItem s.blk tag z := by
  intro hblk
  have hput : itemOf d tag = some z :=
    (congrArg (fun b : Block => itemOf b tag) hblk).trans (itemOf_putItem s.blk tag z)
  exact prog_ne_nil_of_step (u := 5) (by simp [unitIds]) (unitSame_of_descRead hitem hread hput hz)
    ((congrArg (fun b : Block => b.rcv.prog) hblk).trans hprog)

/-! ## The counterexample -/

/-- A BE HEAT entry of context 0: tag 7, 64 bytes of program at 0x101000. -/
def readEntry : BitVec 512 := 0x10100000000008ffff00000100000000070101

/-- Its work item in the composer, its descriptor being read. -/
def readItem : Item := { newItem 0 0 0 readEntry 0 .heat with stage := .composer, descRd := .flying 1 false }

/-- The reply to that read. -/
def readReply : HeatRead := { sq := 0, ord := 0, g := { t := { rgen := 0, fgen := 0 }, port := 0, beats := 1 } }

/-- The chip out of reset, booted, with that work item of its one context; no unit has completed a step yet. -/
def readState : State :=
  let f := Block.fresh
  { pending := [], pin := { Pins.inReset with rst := false, long := true },
    blk := { f with
      mic := { f.mic with status := 2, selftest := 1 }
      obj := { f.obj with ctxs := [(0, wideCtx)] }
      sb := { f.sb with items := [(0, readItem)] } } }

theorem readState_running : Running readState := ⟨⟨⟨rfl, rfl⟩, rfl⟩, rfl⟩

/-- The heat is a BE heat with a program, all of whose waits are over, and the reply is the one that it awaits. -/
theorem readState_awaits : eLc readEntry = false ∧ hasProgram readEntry = true ∧ readItem.w0 = .done ∧ readItem.w1 = .done ∧
    heatReadNow readState.blk 0 readReply = true := by decide +kernel

/-- Refutes O43: the descriptor that the heat of `readState` awaits arrives, but the statement has the block otherwise as it was, and the
block has noted the step that the dependency engine completes with it (R324, R335; log entry 72): none was noted before. -/
theorem not_heatStarts : ¬ Obligations.HeatStarts := by
  unfold Obligations.HeatStarts
  intro h
  obtain ⟨-, -, -, -, hnow⟩ := readState_awaits
  obtain ⟨-, -, -, harrives, -⟩ := h readState readState_running
  obtain ⟨t, ht, z, hblk, -, hidle, -⟩ := harrives 0 1 false readItem readReply 0 rfl rfl rfl hnow
  have hexec : exec (.beDescriptorReadReturn 0 readReply 0) readState =
      .next (readState.withBlk (beDescReturn readState.blk 0 readReply 0)) :=
    liftReply_running readState_running _ fun b => beDescReturn b 0 readReply 0
  cases hexec.symm.trans ht
  exact withBlk_ne_of_descRead rfl rfl hidle rfl _ hblk

end Sys2Proof.Machine
end

section
/-! PROOFS. An edge of the reference on an empty queue (spec/10_tide_determinism.md, R3, R250, R271; log entry 6). -/

namespace Sys2Proof.Machine

open Sys2Proof

/-! ## Reference time brought to an instant (R3, R250) -/

/-- Reference time that runs reaches the instant, unless it has passed it already. -/
theorem passRef_time {b : Block} (h : timeRuns b = true) (t : Nat) : (passRef b t).tide.time = max b.tide.time t % 2 ^ 64 := by
  have hreach : b.tide.time + (b.tide.clock + (t - b.tide.time) - b.tide.clock) = max b.tide.time t := by omega
  simp only [passRef, passTo, clockAt, h, if_true, hreach]

/-- Only the count of intervals and reference time change. -/
theorem passRef_eq (b : Block) (t : Nat) : ∃ clock time, passRef b t = { b with tide := { b.tide with clock := clock, time := time } } := by
  unfold passRef
  split
  · exact ⟨_, _, rfl⟩
  · exact ⟨_, _, rfl⟩

/-! ## One edge (R250, R271) -/

/-- With no correction to spread, an edge adds 10 ns. -/
theorem edgeStep_steady {b : Block} (h : b.tide.slew = 0) : edgeStep b = 10 := by
  simp [edgeStep, h]

/-- An edge of the reference of a locked unit with no correction due. -/
theorem edgeBlock_locked {b : Block} (href : b.tide.refOn = true) (hlocked : b.tide.locked = true) (hslew : b.tide.slew = 0) :
    (edgeBlock b).tide.time = (b.tide.time + 10) % 2 ^ 64 ∧ (edgeBlock b).tide.edges = satInc 32 b.tide.edges := by
  simp [edgeBlock, edgeStep_steady hslew, passTo, timeRuns, href, hlocked]

theorem refEdge_frame (s : State) : (refEdge s).pending = s.pending ∧ (refEdge s).pin = s.pin := by
  unfold refEdge
  split
  · exact ⟨rfl, rfl⟩
  · exact ⟨rfl, rfl⟩

theorem refEdge_alive {s : State} (h : Alive s) : (refEdge s).blk = edgeBlock s.blk := by
  rw [refEdge, if_pos (alive_eq_true h)]

/-- Settles O14: the edge is the step of the empty queue, and what it adds is 10 ns. -/
theorem emptyQueueEdge : Obligations.EmptyQueueEdge := by
  unfold Obligations.EmptyQueueEdge
  intro s hempty
  obtain ⟨hpending, hpin⟩ := refEdge_frame s
  have hstep : step s = .next (refEdge s) := by rw [step, hempty]
  refine ⟨refEdge s, hstep, hpending.trans hempty, hpin, fun halive href hlocked hslew => ?_⟩
  rw [refEdge_alive halive]
  exact edgeBlock_locked href hlocked hslew

end Sys2Proof.Machine
end

section
/-! PROOFS. Writes of the entries of the tide unit (spec/10_tide_determinism.md, R252, R254; spec/17_dictionary.md, R407): an accepted write is
audited, so the highest timestamp written moves with it (R276, R418), which refutes O45 and O47. -/

namespace Sys2Proof.Machine

open Sys2Proof

/-! ## A row's own write (R407, R408) -/

/-- The row's own write, ready and with its condition met, is stored and carried out. -/
theorem dictRow_stores {s : State} {a : DictAcc} {d : Desc} {row : DictRow} (h : DictReady s a d) (hmine : row.mine = true)
    (hcond : row.cond (noted s.blk a) = none) :
    dictRow .write a row s = .next (s.withBlk (finish (row.run (dictStore (noted s.blk a) a d)))) := by
  refine (liftA_alive h.alive fun b => if row.mine then dictTurn b .write a (fun b => rowWrite b a row) else act b).trans ?_
  simp only [hmine, if_true, dictTurn_free h.arrives, rowWrite, dictWrite, writeCheck_noted, h.checks, hcond, h.entry]

/-- A write of `TIME_SET_NS` by the time master (R252). -/
theorem exec_timeSetNs_stores {s : State} {a : DictAcc} {d : Desc} (h : DictReady s a d) (hi : a.idx = 0x4000) (hk : a.sub = 3)
    (hmaster : timeMaster s.blk = true) : exec (.timeSetNs a) s = .next (s.withBlk { dictStore (noted s.blk a) a d with
      tide := { (dictStore (noted s.blk a) a d).tide with timeSet := some (a.value % 2 ^ 64) } }) := by
  have hnoted : timeMaster (noted s.blk a) = true := by obtain ⟨_, hn⟩ := noted_eq s.blk a; rw [hn]; exact hmaster
  exact dictRow_stores (row := rowTimeSetNs a) h (by simp [rowTimeSetNs, hi, hk]) (by simp [rowTimeSetNs, hnoted, stateIf])

/-- A write of `FRAME_ORIGIN_NS` where the plan gives the right to it and no partition has a sheet (R254). -/
theorem exec_frameOriginNs_stores {s : State} {a : DictAcc} {d : Desc} (h : DictReady s a d) (hi : a.idx = 0x4010) (hk : a.sub = 1)
    (hfree : (frameRights s.blk && noSheets s.blk) = true) :
    exec (.frameOriginNs a) s = .next (s.withBlk { dictStore (noted s.blk a) a d with
      tide := { (dictStore (noted s.blk a) a d).tide with newOrigin := some (a.value % 2 ^ 64) } }) := by
  have hnoted : (frameRights (noted s.blk a) && noSheets (noted s.blk a)) = true := by
    obtain ⟨_, hn⟩ := noted_eq s.blk a; rw [hn]; exact hfree
  exact dictRow_stores (row := rowFrameOriginNs a) h (by simp [rowFrameOriginNs, hi, hk]) (by simp only [rowFrameOriginNs, hnoted, stateIf, if_true])

/-! ## The highest timestamp written (R276) -/

/-- An audit record carries the time, and the highest timestamp is no lower. -/
theorem stamp_le_auditN (b : Block) (e : AuditEv) (count : Nat) : stamp b ≤ (auditN b e count).tide.stampFloor := by
  have hput {c : Block} (base log2 size seq t kind n : Nat) (l : List Byte) (h : stamp b ≤ c.tide.stampFloor) :
      stamp b ≤ (notify (ringPut c base log2 size seq t l) kind n).tide.stampFloor := by
    unfold ringPut
    split
    · exact h
    · rw [wrOwn_noteStamp]; exact h.trans (Nat.le_max_left _ _)
  exact hput _ _ _ _ _ _ _ _ (Nat.le_max_right _ _)

/-- An accepted write is recorded with the time at which it was accepted (R418). -/
theorem stamp_le_recorded {b : Block} {a : DictAcc} (d : Desc) (h : a.idx ≠ 0x9000) : stamp b ≤ (recorded b a d).tide.stampFloor := by
  obtain ⟨_, _, _, _, hfollows⟩ := tableFollows_changes b (valueStored b a d) a d
  have hstamp : stamp (tableFollows b (valueStored b a d) a d) = stamp b := by rw [hfollows, valueStored_eq]; rfl
  unfold recorded
  rw [if_neg (fun hno => h hno.1), audit, ← hstamp]
  exact stamp_le_auditN _ _ _

/-- Where no record has been written since the present time began, an accepted write moves the highest timestamp. -/
theorem stampFloor_lt_dictStore {b : Block} {a : DictAcc} (d : Desc) (h : a.idx ≠ 0x9000) (hlate : b.tide.stampFloor < b.tide.time) :
    b.tide.stampFloor < (dictStore (noted b a) a d).tide.stampFloor := by
  have hwin (c : Block) (data status : Nat) : (winDone c a data status).tide = c.tide := by unfold winDone; split <;> rfl
  have hstamp : stamp (noted b a) = stamp b := by obtain ⟨_, hn⟩ := noted_eq b a; rw [hn]; rfl
  rw [dictStore_eq, hwin]
  exact (hlate.trans_le (Nat.le_max_left _ _)).trans_le (hstamp ▸ stamp_le_recorded (b := noted b a) d h)

/-- A state whose tide unit keeps the highest timestamp is not the one that an accepted write gives, whatever else the row changes. -/
theorem withBlk_ne_of_stampFloor {s : State} {c e : Block} (h : s.blk.tide.stampFloor < c.tide.stampFloor)
    (he : e.tide.stampFloor = s.blk.tide.stampFloor) :
    (Host.Outcome.next (s.withBlk c) : Host.Outcome State Fault Refusal) ≠ .next (s.withBlk e) := by
  intro hnext
  injection hnext with hstate
  have hfloor : c.tide.stampFloor = e.tide.stampFloor := congrArg (fun t : State => t.blk.tide.stampFloor) hstate
  omega

section
variable {s : State} {a : DictAcc} {d : Desc} (h : DictReady s a d) (hlate : s.blk.tide.stampFloor < s.blk.tide.time)
include h hlate

/-- A write of `TIME_SET_NS` at a time later than every record changes more of the tide unit than the time to be set. -/
theorem exec_timeSetNs_ne (hi : a.idx = 0x4000) (hk : a.sub = 3) (hmaster : timeMaster s.blk = true) : exec (.timeSetNs a) s ≠
    .next (s.withBlk { dictStore (noted s.blk a) a d with tide := { s.blk.tide with timeSet := some (a.value % 2 ^ 64) } }) := by
  rw [exec_timeSetNs_stores h hi hk hmaster]
  exact withBlk_ne_of_stampFloor (stampFloor_lt_dictStore d (by omega) hlate) rfl

/-- A write of `FRAME_ORIGIN_NS` at a time later than every record changes more of the tide unit than the origin to come. -/
theorem exec_frameOriginNs_ne (hi : a.idx = 0x4010) (hk : a.sub = 1) (hfree : (frameRights s.blk && noSheets s.blk) = true) :
    exec (.frameOriginNs a) s ≠
      .next (s.withBlk { dictStore (noted s.blk a) a d with tide := { s.blk.tide with newOrigin := some (a.value % 2 ^ 64) } }) := by
  rw [exec_frameOriginNs_stores h hi hk hfree]
  exact withBlk_ne_of_stampFloor (stampFloor_lt_dictStore d (by omega) hlate) rfl

end

/-! ## The counterexample -/

/-- The secure master writes the value 7 to an 8-byte entry. -/
def tideWrite (idx sub : Nat) : DictAcc :=
  { path := .secure, org := { port := 0, fn := 0, priv := 0 }, tag := 0, idx := idx, sub := sub, len := 8, value := 7 }

/-- The entry that it writes. -/
def tideEntry (idx sub : Nat) : Desc := (dictDesc idx sub).getD (dEnt 0 0 0 0 0)

/-- The chip out of reset and booted, its time master itself and locked, one edge into reference time: no record has been written since
time 0. -/
def tideLate : State :=
  let f := Block.fresh
  { pending := [], pin := { Pins.inReset with rst := false, long := true },
    blk := { f with
      mic := { f.mic with status := 2, selftest := 1 }
      tide := { f.tide with refOn := true, locked := true, fsyncOk := true, time := 10, clock := 10 } } }

theorem tideLate_stamp : tideLate.blk.tide.stampFloor < tideLate.blk.tide.time := by decide

theorem tideLate_timeSet : DictReady tideLate (tideWrite 0x4000 3) (tideEntry 0x4000 3) where
  alive := ⟨rfl, rfl⟩
  tested := by decide
  path := rfl
  idle := rfl
  quiet := by decide
  entry := by decide
  checks := by decide

theorem tideLate_origin : DictReady tideLate (tideWrite 0x4010 1) (tideEntry 0x4010 1) where
  alive := ⟨rfl, rfl⟩
  tested := by decide
  path := rfl
  idle := rfl
  quiet := by decide
  entry := by decide
  checks := by decide

/-- Refutes O45: the time master's write of `TIME_SET_NS` at time 10, the first record since time 0. The statement has the tide unit otherwise
as it was, and the audit record of the write has raised the highest timestamp written to 10 (R276, R418). -/
theorem not_tideTime : ¬ Obligations.TideTime := by
  unfold Obligations.TideTime
  intro h
  obtain ⟨-, -, -, -, -, -, -, -, -, htimeSet⟩ := h tideLate ⟨rfl, rfl⟩
  have hwrite := (htimeSet (tideWrite 0x4000 3) (tideEntry 0x4000 3) tideLate_timeSet rfl rfl).1 rfl
  exact exec_timeSetNs_ne tideLate_timeSet tideLate_stamp rfl rfl rfl hwrite

/-- Refutes O47: a write of `FRAME_ORIGIN_NS` at time 10, the first record since time 0. The statement has the tide unit otherwise as it was, and
the audit record of the write has raised the highest timestamp written to 10 (R276, R418). -/
theorem not_tideSheets : ¬ Obligations.TideSheets := by
  unfold Obligations.TideSheets
  intro h
  obtain ⟨-, -, hframes⟩ := h tideLate 0
  obtain ⟨-, -, horigin⟩ := hframes (tideWrite 0x4010 1) (tideEntry 0x4010 1) tideLate_origin rfl
  have hfree : (frameRights tideLate.blk && noSheets tideLate.blk) = true := by decide
  have hwrite := horigin rfl
  rw [if_pos hfree] at hwrite
  exact exec_frameOriginNs_ne tideLate_origin tideLate_stamp rfl rfl hfree hwrite

end Sys2Proof.Machine
end

section
/-! PROOFS. What tide records, messages and the suspension of sources leave of the block, a member that leaves its domain, and a frame that is
declared late (spec/10_tide_determinism.md, R267 to R272, R277; spec/11_table_updates.md, R287). -/

namespace Sys2Proof.Machine

open Sys2Proof

/-! ## Records, messages and suspended sources (R277, R287, R314) -/

/-- `b` differs from `a` at most in what tide records, messages and the suspension of sources change: the fabric but for what has been received,
the counters of messages, the outputs, the memory, the live tables, the number of the next record and the highest timestamp. -/
def Tells (a b : Block) : Prop := SameCounts a b ∧ b.fab.rx = a.fab.rx ∧ ∃ fab ctr out mem live floor seq,
  b = { a with fab := fab, ctr := ctr, out := out, mem := mem, live := live, tide := { a.tide with stampFloor := floor, seq := seq } }

namespace Tells

variable {a b c : Block}

theorem refl (a : Block) : Tells a a := ⟨.refl a, rfl, _, _, _, _, _, _, _, rfl⟩

theorem trans (h : Tells a b) (h' : Tells b c) : Tells a c := by
  obtain ⟨hcounts, hrx, _, _, _, _, _, _, _, rfl⟩ := h
  obtain ⟨hcounts', hrx', _, _, _, _, _, _, _, rfl⟩ := h'
  exact ⟨hcounts.trans hcounts', hrx'.trans hrx, _, _, _, _, _, _, _, rfl⟩

theorem foldl {α : Type} {f : Block → α → Block} (h : ∀ b x, Tells b (f b x)) (l : List α) (b : Block) : Tells b (l.foldl f b) := by
  induction l generalizing b with
  | nil => exact refl b
  | cons x xs ih => exact (h b x).trans (ih (f b x))

section
variable (h : Tells a b)
include h

theorem tide : ∃ floor seq, b.tide = { a.tide with stampFloor := floor, seq := seq } := by
  obtain ⟨-, -, _, _, _, _, _, _, _, rfl⟩ := h; exact ⟨_, _, rfl⟩
theorem comp : b.comp = a.comp := by obtain ⟨-, -, _, _, _, _, _, _, _, rfl⟩ := h; rfl
theorem chipNo : chipNo b = chipNo a := by obtain ⟨-, -, _, _, _, _, _, _, _, rfl⟩ := h; rfl

/-- A change of the tide unit's state that has nothing to do with its records may as well come first. -/
theorem withTide (f : Tide → Tide)
    (hf : ∀ t floor seq, f { t with stampFloor := floor, seq := seq } = { f t with stampFloor := floor, seq := seq }) :
    Tells { a with tide := f a.tide } { b with tide := f b.tide } := by
  obtain ⟨hcounts, hrx, _, _, _, _, _, _, _, rfl⟩ := h
  exact ⟨hcounts, hrx, _, _, _, _, _, _, _, by rw [hf]⟩

end

end Tells

theorem Sends.tells {a b : Block} (h : Sends a b) : Tells a b := by
  obtain ⟨hcounts, hrx, _, _, _, rfl⟩ := h
  exact ⟨hcounts, hrx, _, _, _, _, _, _, _, rfl⟩

theorem tells_tideRec (b : Block) (e : TideEv) : Tells b (tideRec b e) := by
  unfold tideRec
  dsimp only
  split
  · exact .refl b
  · unfold ringPut
    split
    · exact ⟨.refl b, rfl, _, _, _, _, _, _, _, rfl⟩
    · rw [wrOwn_noteStamp]
      exact ⟨.refl b, rfl, _, _, _, _, _, _, _, rfl⟩

theorem tells_putLive (b : Block) (id : Nat) (l : Live) : Tells b (putLive b id l) := by
  unfold putLive wrOwn
  split <;> exact ⟨.refl b, rfl, _, _, _, _, _, _, _, rfl⟩

theorem tells_suspendSource (b : Block) (id : Nat) (l : Live) : Tells b (suspendSource b id l) := by
  unfold suspendSource
  split
  · exact (tells_putLive b id _).trans (sends_gzTree _ _).tells
  · exact .refl b

/-- The sources of a chip that is about to leave its domain say so (R287). -/
theorem tells_suspendSources (b : Block) : Tells b (b.live.foldl (fun b x => suspendSource b x.1 x.2) b) :=
  .foldl (f := fun b (x : Nat × Live) => suspendSource b x.1 x.2) (fun b x => tells_suspendSource b x.1 x.2) _ b

/-! ## A member leaves its domain (R270, R272) -/

/-- The tide unit of a chip out of its domain: it has not asked to join again. -/
def Tide.left (t : Tide) : Tide := { t with member := false, stable := 0, joinAt := none, joinSent := false }

theorem leaveDomain_member {b : Block} (h : b.tide.member = true) (cause : Nat) :
    Tells { b with tide := b.tide.left } (leaveDomain b cause) := by
  rw [leaveDomain, if_pos h]
  exact (((tells_suspendSources b).trans (sends_gzTree _ _).tells).withTide Tide.left fun _ _ _ => rfl).trans (tells_tideRec _ _)

/-! ## A frame declared late (R267, R269) -/

/-- Once a chip has declared a frame late, it holds a declaration of its own for the frame. -/
theorem declareLate_spec (b : Block) (frame cause : Nat) : ∃ decls seen,
    Tells { b with tide := { b.tide with decls := decls, seen := seen } } (declareLate b frame cause) ∧
      ∃ d ∈ decls, d.frame = frame ∧ d.chip = chipNo b := by
  unfold declareLate
  dsimp only
  split
  · rename_i hdeclared
    obtain ⟨d, hd, hfor⟩ := List.any_eq_true.mp hdeclared
    exact ⟨b.tide.decls, b.tide.seen, .refl b, d, hd, by simpa using hfor⟩
  · split
    · exact ⟨_, _, (sends_gzTree _ _).tells, { frame := frame, chip := chipNo b, cause := cause }, by simp, rfl, rfl⟩
    · exact ⟨_, b.tide.seen, .refl _, { frame := frame, chip := chipNo b, cause := cause }, by simp, rfl, rfl⟩

/-- An overrun is counted, and its frame declared late. -/
theorem overran_spec (b : Block) (part ref frame d tag : Nat) :
    (overran b part ref frame d tag).comp = b.comp ∧ (overran b part ref frame d tag).tide.clock = b.tide.clock ∧
    fmGet (overran b part ref frame d tag).ctr 0x1C4 0 = satAdd 32 (fmGet b.ctr 0x1C4 0) 1 ∧
    ∃ x ∈ (overran b part ref frame d tag).tide.decls, x.frame = frame ∧ x.chip = chipNo b := by
  unfold overran
  extract_lets f
  generalize hrec : tideRec (cnt b cOverrun) _ = c
  have hc : Tells (cnt b cOverrun) c := hrec ▸ tells_tideRec _ _
  obtain ⟨decls, seen, htells, x, hx, hframe, hchip⟩ := declareLate_spec c frame tcOverrun
  obtain ⟨_, _, htide⟩ := htells.tide
  obtain ⟨_, _, hctide⟩ := hc.tide
  refine ⟨htells.comp.trans hc.comp, ?_, ?_, x, ?_, hframe, hchip.trans hc.chipNo⟩
  · rw [htide, hctide]; rfl
  · exact (htells.1 0x1C4 (by decide)).trans ((hc.1 0x1C4 (by decide)).trans (cnt_value b cOverrun))
  · rw [htide]; exact hx

/-! ## DEADLINE (R267) -/

theorem deadline_of_run {b : Block} {tag m : Nat} {r : Run} (hwaits : ∀ w ∈ b.comp.lateWait, w.tag = tag → w.overrun = true)
    (hrun : b.comp.runs.find? (fun x => decide (x.2.tag = tag) && x.2.deadline.isSome && x.2.endedAt.isNone && !x.2.overrun) = some (m, r)) :
    deadline b tag =
      overran (putRun (passTo b r.due) m { r with late := true, overrun := true }) r.part r.res r.occ (r.deadline.getD 0) tag := by
  have hnone : b.comp.lateWait.find? (fun w => decide (w.tag = tag) && !w.overrun) = none :=
    List.find?_eq_none.mpr fun w hw hlate => by
      obtain ⟨htag, hin⟩ : w.tag = tag ∧ w.overrun = false := by simpa using hlate
      simp [hwaits w hw htag] at hin
  simp only [deadline, hnone, hrun]

theorem deadline_of_wait {b : Block} {tag : Nat} {w : LateOcc} (hwait : b.comp.lateWait = [w]) (htag : w.tag = tag) (hin : w.overrun = false) :
    deadline b tag = overran { passTo b w.due with comp := { b.comp with lateWait := [{ w with overrun := true }] } }
      w.part w.res.ref w.frame (w.begun + w.res.budget) tag := by
  have hfind : b.comp.lateWait.find? (fun w => decide (w.tag = tag) && !w.overrun) = some w := by simp [hwait, htag, hin]
  simp only [deadline, hfind]
  simp only [passTo_comp, hwait, List.map_cons, List.map_nil, if_true]

end Sys2Proof.Machine
end

section
/-! PROOFS. The beginning of a frame (spec/10_tide_determinism.md, R253, R254, R261, R269, R275, R286). -/

namespace Sys2Proof.Machine

open Sys2Proof

/-! ## The numbering of frames (R253) -/

/-- What says where frames begin, and which one this is. -/
def Tide.numbering (t : Tide) : Nat × Bool × Nat × Nat × Nat × Nat × Option (Nat × Nat) :=
  (t.frame, t.inFrames, t.time, t.baseFrame, t.baseTime, t.length, t.pendLen)

/-- From `a` to `b` frames are numbered as before, and no frame is declared late. -/
def SameFrames (a b : Block) : Prop := b.tide.numbering = a.tide.numbering ∧ b.tide.decls ⊆ a.tide.decls

namespace SameFrames

variable {a b c : Block}

theorem refl (a : Block) : SameFrames a a := ⟨rfl, List.Subset.refl _⟩

theorem trans (h : SameFrames a b) (h' : SameFrames b c) : SameFrames a c := ⟨h'.1.trans h.1, List.Subset.trans h'.2 h.2⟩

theorem foldl {α : Type} {f : Block → α → Block} (h : ∀ b x, SameFrames b (f b x)) (l : List α) (b : Block) :
    SameFrames b (l.foldl f b) := by
  induction l generalizing b with
  | nil => exact refl b
  | cons x xs ih => exact (h b x).trans (ih (f b x))

theorem of_tide (hnumbering : b.tide.numbering = a.tide.numbering) (hdecls : b.tide.decls = a.tide.decls) : SameFrames a b :=
  ⟨hnumbering, hdecls ▸ List.Subset.refl _⟩

end SameFrames

theorem Tells.sameFrames {a b : Block} (h : Tells a b) : SameFrames a b := by
  obtain ⟨_, _, htide⟩ := h.tide
  exact .of_tide (by rw [htide]; rfl) (by rw [htide])

@[simp] theorem frameDiff_self (n : Nat) : frameDiff n n = 0 := by
  have hzero : (n + 2 ^ 48 - n % 2 ^ 48) % 2 ^ 48 = 0 := by omega
  simp only [frameDiff, hzero, Nat.two_pow_pos, if_true, Nat.cast_zero]

@[simp] theorem frameReached_self (n : Nat) : frameReached n n = true := by
  have hzero : (n + 2 ^ 48 - n % 2 ^ 48) % 2 ^ 48 = 0 := by omega
  simp only [frameReached, hzero, Nat.two_pow_pos, decide_true]

theorem frameStart_unchanging {b : Block} (h : b.tide.pendLen = none) (n : Nat) :
    frameStart b n = ((b.tide.baseTime : Int) + frameDiff n b.tide.baseFrame * b.tide.length).toNat := by
  simp only [frameStart, h]

theorem frameStart_changing {b : Block} {len F n : Nat} (h : b.tide.pendLen = some (len, F)) (hr : frameReached n F = true) :
    frameStart b n =
      ((b.tide.baseTime : Int) + frameDiff F b.tide.baseFrame * b.tide.length + frameDiff n F * len).toNat := by
  simp only [frameStart, h, hr, if_true]

/-! ## Settlement (R269) -/

theorem settleFrame_sameFrames (b : Block) (m : Nat) :
    SameFrames { b with tide := { b.tide with decls := b.tide.decls.filter (fun d => d.frame ≠ m) } } (settleFrame b m) := by
  unfold settleFrame
  dsimp only
  split
  · exact .of_tide rfl rfl
  · refine SameFrames.trans ?_ (tells_tideRec _ _).sameFrames
    exact .of_tide rfl rfl

/-- Frames settled one after another leave no declaration of theirs. -/
theorem settleFrames_spec (l : List Nat) (b : Block) : SameFrames b (l.foldl settleFrame b) ∧
    ∀ d ∈ (l.foldl settleFrame b).tide.decls, d.frame ∉ l := by
  induction l generalizing b with
  | nil => exact ⟨.refl b, fun _ _ => List.not_mem_nil⟩
  | cons m l ih =>
    have hone := settleFrame_sameFrames b m
    obtain ⟨hsame, hsettled⟩ := ih (settleFrame b m)
    have hfirst : SameFrames b (settleFrame b m) := ⟨hone.1, fun d hd => List.mem_of_mem_filter (hone.2 hd)⟩
    refine ⟨hfirst.trans hsame, fun d hd hmem => ?_⟩
    rcases List.mem_cons.mp hmem with hm | hl
    · have hne : d.frame ≠ m := by simpa using (List.mem_filter.mp (hone.2 (hsame.2 hd))).2
      exact hne hm
    · exact hsettled d hd hl

theorem settleAll_spec (b : Block) (p : Nat → Bool) : SameFrames b (settleAll b p) ∧
    ∀ d ∈ (settleAll b p).tide.decls, p d.frame = false := by
  obtain ⟨hsame, hsettled⟩ := settleFrames_spec (((b.tide.decls.map (fun d => d.frame)).eraseDups).filter p) b
  refine ⟨hsame, fun d hd => Bool.eq_false_iff.mpr fun hp => hsettled d hd ?_⟩
  have hdeclared : d.frame ∈ b.tide.decls.map (fun d => d.frame) := List.mem_map_of_mem (hsame.2 hd)
  exact List.mem_filter.mpr ⟨List.mem_eraseDups.mpr hdeclared, hp⟩

/-! ## Sheets, membership and seals at a frame (R261, R262, R275, R286) -/

theorem sameFrames_putSheet (b : Block) (p : Nat) (x : SheetSlot) : SameFrames b (putSheet b p x) := .of_tide rfl rfl

theorem sameFrames_sheetEvent (b : Block) (p : Nat) (s : Sheet) (st : Nat) : SameFrames b (sheetEvent b p s st) :=
  (tells_tideRec b _).sameFrames

theorem sameFrames_sheetSuspend (b : Block) (p : Nat) : SameFrames b (sheetSuspend b p) := by
  unfold sheetSuspend
  dsimp only
  split
  · exact .refl b
  · split
    · exact (sameFrames_putSheet b p _).trans (sameFrames_sheetEvent _ _ _ _)
    · split
      · exact (sameFrames_putSheet b p _).trans (sameFrames_sheetEvent _ _ _ _)
      · exact .refl b

theorem sameFrames_sheetFrame (b : Block) (n p : Nat) : SameFrames b (sheetFrame b n p) := by
  unfold sheetFrame
  extract_lets x c y
  have hremoved : SameFrames b c := by
    simp only [c]
    split
    · split
      · exact sameFrames_putSheet b p _
      · exact .refl b
    · exact .refl b
  split
  · split
    · exact hremoved.trans ((sameFrames_putSheet c p _).trans ((sameFrames_sheetEvent _ _ _ _).trans (sameFrames_sheetSuspend _ p)))
    · exact hremoved
  · exact hremoved

theorem sameFrames_sheetEach {f : Block → Nat → Block} (h : ∀ b p, SameFrames b (f b p)) (b : Block) : SameFrames b (sheetEach b f) :=
  .foldl h _ b

theorem sameFrames_joinFrame (b : Block) (n : Nat) : SameFrames b (joinFrame b n) := by
  unfold joinFrame
  extract_lets asked own clear
  split
  · exact .refl b
  · split
    · refine SameFrames.trans ?_ (tells_tideRec _ _).sameFrames
      exact .of_tide rfl rfl
    · exact .of_tide rfl rfl

theorem tells_sealFor (b : Block) (id : Nat) (l : Live) (w : Window) (A : Nat) : Tells b (sealFor b id l w A) := by
  unfold sealFor
  extract_lets cap x recs epoch units e resumed sealed c d send
  have hd : Tells c d := by
    simp only [d]
    split
    · exact (sends_gzTree _ _).tells
    · exact .refl c
  have hsend (b : Block) (r : StagedRec) : Tells b (send r.add [r] b) := by
    simp only [send]
    split
    · exact .refl b
    · exact (sends_gzTree _ _).tells
  exact (tells_putLive b id _).trans (hd.trans ((Tells.foldl hsend _ d).trans (sends_gzTree _ _).tells))

theorem tells_sealAll (b : Block) (n : Nat) : Tells b (sealAll b n) := by
  refine Tells.foldl (fun b id => ?_) _ b
  split
  · exact .refl b
  · dsimp only
    split
    · split
      · exact tells_sealFor _ _ _ _ _
      · exact .refl b
    · exact .refl b

/-! ## The length in force (R253, R254) -/

theorem sameFrames_lengthNote (b : Block) (old F : Nat) : SameFrames b (lengthNote b old F) := by
  unfold lengthNote
  split
  · exact .refl b
  · exact (tells_tideRec b _).sameFrames.trans (sameFrames_sheetEach sameFrames_sheetSuspend _)

theorem lengthDue_unchanging {b : Block} (h : b.tide.pendLen = none) : lengthDue b = b := by
  simp only [lengthDue, h]

theorem lengthDue_takes {b : Block} {len F : Nat} (h : b.tide.pendLen = some (len, F)) (hr : frameReached b.tide.frame F = true) :
    lengthDue b = takeLength b len F := by
  simp only [lengthDue, h, hr, if_true]

/-- The length of a change that is due is in force from its own frame on. -/
theorem takeLength_numbering (b : Block) (len F : Nat) : (takeLength b len F).tide.numbering =
    (b.tide.frame, b.tide.inFrames, b.tide.time, F, frameStart b F, len, none) :=
  (sameFrames_lengthNote _ _ _).1

/-- Whether a change of the length is due or not, the frame, the time and the declarations are the same. -/
theorem lengthDue_frame (b : Block) : (lengthDue b).tide.frame = b.tide.frame ∧ (lengthDue b).tide.inFrames = b.tide.inFrames ∧
    (lengthDue b).tide.time = b.tide.time := by
  unfold lengthDue
  split
  · rename_i len F _
    split
    · have hnumbering := takeLength_numbering b len F
      simp only [Tide.numbering, Prod.mk.injEq] at hnumbering
      exact ⟨hnumbering.1, hnumbering.2.1, hnumbering.2.2.1⟩
    · exact ⟨rfl, rfl, rfl⟩
  · exact ⟨rfl, rfl, rfl⟩

/-! ## FRAME_BEGIN (R253) -/

/-- The block in frame `n`, its holds and caps noted, before anything else of the frame. -/
def frameNoted (b : Block) (n : Nat) : Block :=
  { b with
    tide := { b.tide with
      frame := n
      inFrames := true
      holdFrames := if b.pwr.hold then noteFrame b b.tide.holdFrames n else b.tide.holdFrames
      capFrames := if capState b = 2 then noteFrame b b.tide.capFrames n else b.tide.capFrames }
    pwr := if b.pwr.hold then { b.pwr with holdCount := b.pwr.holdCount + 1 } else b.pwr }

theorem onFrame_eq (b : Block) (n : Nat) : onFrame b n =
    sealAll (joinFrame (sheetEach (settleDue (rebase (lengthDue (frameNoted b n)) n)) (fun b p => sheetFrame b n p)) n) n := rfl

/-- In frame `n` frames are counted from it, under the length in force, and the frames due are settled. -/
theorem onFrame_spec (b : Block) (n : Nat) : SameFrames (rebase (lengthDue (frameNoted b n)) n) (onFrame b n) ∧
    ∀ d ∈ (onFrame b n).tide.decls, frameReached n ((d.frame + 2) % 2 ^ 48) = false := by
  let c := rebase (lengthDue (frameNoted b n)) n
  have hframe : c.tide.frame = n := (lengthDue_frame (frameNoted b n)).1
  obtain ⟨hsettles, hsettled⟩ := settleAll_spec c (fun m => frameReached c.tide.frame ((m + 2) % 2 ^ 48))
  have hafter : SameFrames (settleDue c) (onFrame b n) := by
    rw [onFrame_eq]
    exact (sameFrames_sheetEach (fun b p => sameFrames_sheetFrame b n p) _).trans
      ((sameFrames_joinFrame _ n).trans (tells_sealAll _ n).sameFrames)
  refine ⟨hsettles.trans hafter, fun d hd => ?_⟩
  have hdone := hsettled d (hafter.2 hd)
  rw [hframe] at hdone
  exact hdone

/-- The frame, the time and the base of the numbering in frame `n`. -/
theorem onFrame_frame (b : Block) (n : Nat) : (onFrame b n).tide.frame = n ∧ (onFrame b n).tide.inFrames = true ∧
    (onFrame b n).tide.time = b.tide.time ∧ (onFrame b n).tide.baseFrame = n := by
  obtain ⟨⟨hnumbering, -⟩, -⟩ := onFrame_spec b n
  obtain ⟨hframe, hin, htime⟩ := lengthDue_frame (frameNoted b n)
  simp only [Tide.numbering, Prod.mk.injEq] at hnumbering
  obtain ⟨hframe', hin', htime', hbase, -⟩ := hnumbering
  exact ⟨hframe'.trans hframe, hin'.trans hin, htime'.trans htime, hbase⟩

/-- The length in force in frame `n`, the pending change and the instant at which the frame began. -/
theorem onFrame_length (b : Block) (n : Nat) : (onFrame b n).tide.length = (lengthDue (frameNoted b n)).tide.length ∧
    (onFrame b n).tide.pendLen = (lengthDue (frameNoted b n)).tide.pendLen ∧
    (onFrame b n).tide.baseTime = frameStart (lengthDue (frameNoted b n)) n := by
  obtain ⟨⟨hnumbering, -⟩, -⟩ := onFrame_spec b n
  simp only [Tide.numbering, Prod.mk.injEq] at hnumbering
  obtain ⟨-, -, -, -, htime, hlength, hpend⟩ := hnumbering
  exact ⟨hlength, hpend, htime⟩

/-- With no change pending, frame `n` begins where it was due to, and the length stays. -/
theorem onFrame_unchanging {b : Block} (h : b.tide.pendLen = none) (n : Nat) :
    (onFrame b n).tide.length = b.tide.length ∧ (onFrame b n).tide.baseTime = frameStart b n := by
  have hdue : lengthDue (frameNoted b n) = frameNoted b n := lengthDue_unchanging h
  obtain ⟨hlength, -, htime⟩ := onFrame_length b n
  rw [hdue] at hlength htime
  exact ⟨hlength, htime⟩

/-- A change that is due by frame `n` is in force in it, and the frame begins where the change had it begin. -/
theorem onFrame_changing {b : Block} {len F n : Nat} (h : b.tide.pendLen = some (len, F)) (hr : frameReached n F = true) :
    (onFrame b n).tide.length = len ∧ (onFrame b n).tide.pendLen = none ∧
    (0 ≤ (b.tide.baseTime : Int) + frameDiff F b.tide.baseFrame * b.tide.length → (onFrame b n).tide.baseTime = frameStart b n) := by
  have hdue : lengthDue (frameNoted b n) = takeLength (frameNoted b n) len F := lengthDue_takes h hr
  have hnumbering := takeLength_numbering (frameNoted b n) len F
  obtain ⟨hlength, hpend, htime⟩ := onFrame_length b n
  rw [hdue] at hlength hpend htime
  simp only [Tide.numbering, Prod.mk.injEq] at hnumbering
  obtain ⟨-, -, -, hbase, hbaseTime, hlen, hnone⟩ := hnumbering
  refine ⟨hlength.trans hlen, hpend.trans hnone, fun hpos => ?_⟩
  have hF : (frameStart (frameNoted b n) F : Int) = (b.tide.baseTime : Int) + frameDiff F b.tide.baseFrame * b.tide.length := by
    rw [frameStart_changing (b := frameNoted b n) h (frameReached_self F), frameDiff_self, zero_mul, add_zero]
    exact Int.toNat_of_nonneg hpos
  rw [htime, frameStart_unchanging hnone, hbase, hbaseTime, hlen, hF, frameStart_changing h hr]

/-- Two frames after a frame, its declarations are settled. -/
theorem onFrame_settled {b : Block} {n : Nat} (hn : n < 2 ^ 48) :
    ∀ d ∈ (onFrame b n).tide.decls, d.frame ≠ (n + 2 ^ 48 - 2) % 2 ^ 48 := by
  intro d hd hframe
  have hdue : (d.frame + 2) % 2 ^ 48 = n := by omega
  have hno := (onFrame_spec b n).2 d hd
  rw [hdue, frameReached_self] at hno
  exact Bool.noConfusion hno

theorem frameBegin_next {b : Block} (hruns : timeRuns b = true) (hin : b.tide.inFrames = true) :
    frameBegin b = onFrame (passRef b (frameStart b ((b.tide.frame + 1) % 2 ^ 48))) ((b.tide.frame + 1) % 2 ^ 48) := by
  simp [frameBegin, hruns, hin]

theorem frameBegin_first {b : Block} (hruns : timeRuns b = true) (hin : b.tide.inFrames = false) :
    frameBegin b = onFrame (passRef b b.tide.origin) 0 := by
  simp [frameBegin, hruns, hin]

end Sys2Proof.Machine
end

section
/-! PROOFS. Messages of the tide unit in their turn, on the tree too, and the statement on frames and membership
(spec/10_tide_determinism.md, R253, R254, R267 to R275; spec/12_fabric.md, R312, R314). -/

namespace Sys2Proof.Machine

open Sys2Proof

/-! ## A message in its turn, on the tree too (R312, R314) -/

/-- `b` differs from `a` at most in what the arrival of a message changes before it is delivered: the fabric but for the plan and the numbers of
messages sent, the counters of messages and the outputs. -/
structure Hears (a b : Block) : Prop where
  counts : SameCounts a b
  plan : b.fab.plan = a.fab.plan
  txSeq : b.fab.txSeq = a.fab.txSeq
  rest : ∃ fab ctr out, b = { a with fab := fab, ctr := ctr, out := out }

namespace Hears

variable {a b c : Block}

theorem refl (a : Block) : Hears a a := ⟨.refl a, rfl, rfl, _, _, _, rfl⟩

theorem trans (h : Hears a b) (h' : Hears b c) : Hears a c := by
  obtain ⟨hcounts, hplan, hseq, fab, ctr, out, rfl⟩ := h
  obtain ⟨hcounts', hplan', hseq', fab', ctr', out', rfl⟩ := h'
  exact ⟨hcounts.trans hcounts', hplan'.trans hplan, hseq'.trans hseq, _, _, _, rfl⟩

theorem foldl {α : Type} {f : Block → α → Block} (h : ∀ b x, Hears b (f b x)) (l : List α) (b : Block) : Hears b (l.foldl f b) := by
  induction l generalizing b with
  | nil => exact refl b
  | cons x xs ih => exact (h b x).trans (ih (f b x))

section
variable (h : Hears a b)
include h

theorem tide : b.tide = a.tide := by obtain ⟨-, -, -, _, _, _, rfl⟩ := h; rfl
theorem live : b.live = a.live := by obtain ⟨-, -, -, _, _, _, rfl⟩ := h; rfl
theorem stage : b.rcv.stage = a.rcv.stage := by obtain ⟨-, -, -, _, _, _, rfl⟩ := h; rfl
theorem dget (i k : Nat) : dget b i k = dget a i k := by obtain ⟨-, -, -, _, _, _, rfl⟩ := h; rfl
theorem chipNo : chipNo b = chipNo a := h.dget _ _
theorem timeMaster : timeMaster b = timeMaster a := by rw [Machine.timeMaster, h.plan, h.chipNo]; rfl
theorem rackOf (c : Nat) : rackOf b c = rackOf a c := by rw [Machine.rackOf, planChip, h.plan]; rfl

end

end Hears

theorem putOnPort_plan (b : Block) (p : Nat) (m : GzOut) : (putOnPort b p m).fab.plan = b.fab.plan := by
  unfold putOnPort
  dsimp only
  split
  · split <;> rfl
  · rfl

theorem hears_gzRoute (b : Block) (m : GzOut) : Hears b (gzRoute b m) := by
  obtain ⟨hcounts, -, hrest⟩ := sends_gzRoute b m
  refine ⟨hcounts, ?_, gzRoute_txSeq b m, hrest⟩
  unfold gzRoute
  split
  · split
    · rfl
    · split
      · exact putOnPort_plan _ _ _
      · rfl
  · rfl

/-- A tree message goes on to the tree neighbours of the chip (R314). -/
theorem treeForward_spec (b : Block) (h : GzHdr) (m : GzMsg) : Hears b (treeForward b h m) ∧ (treeForward b h m).fab.rx = b.fab.rx := by
  unfold treeForward
  split
  · exact ⟨.refl b, rfl⟩
  · refine ⟨Hears.foldl (fun b _ => hears_gzRoute b _) _ b, ?_⟩
    obtain ⟨-, hrx, -⟩ := Sends.foldl (fun b n => sends_gzRoute b
      { src := h.src, gen := h.gen, dst := n, tree := true, hops := h.hops, detoured := h.detoured, seq := h.seq, msg := m }) _ b
    exact hrx

theorem deliver_idle {b : Block} (hidle : b.rcv.stage = .idle) (h : GzHdr) (m : GzMsg) :
    ∃ c, Hears b c ∧ c.fab.rx = b.fab.rx ∧ deliver b h m = deliverMsg c h m := by
  obtain ⟨hforward, hrx⟩ := treeForward_spec b h m
  unfold deliver
  by_cases htree : h.tree = true
  · exact ⟨_, hforward, hrx, by simp only [htree, if_true, hforward.stage, hidle]⟩
  · exact ⟨b, .refl b, rfl, by simp only [htree, if_false, hidle, if_true, Bool.false_eq_true]⟩

/-- A message that arrives in its turn, on the tree or not, is delivered; where nothing follows from it, its originator's space then expects
the next one, and the tide unit, the counters and the numbers of messages sent are as its row leaves them. -/
theorem inTurn_delivers {s : State} {h : GzHdr} {tree : Bool} (ht : InTurn s h tree) (m : GzMsg) : ∃ b, Hears s.blk b ∧
    ∀ {d}, deliverMsg b { h with tree := tree } m = act d → d.fab.rx = b.fab.rx →
      Gives (liftA (receive { h with tree := tree } m) s) (fun t =>
        Turned t h tree ∧ t.blk.tide = d.tide ∧ t.blk.ctr = d.ctr ∧ t.blk.fab.txSeq = d.fab.txSeq) := by
  obtain ⟨halive, hidle, hport, hadmitted, hhere, hhops, hturn⟩ := ht
  let k := spaceKey h.src tree
  obtain ⟨y, hspace, hgen, hnext, hheld⟩ : ∃ y, (fmGet? s.blk.fab.rx k).getD { gen := h.gen, next := 0, held := [], gap := none } = y ∧
      h.gen = y.gen ∧ h.seq = y.next ∧ y.held = [] := by
    cases hrx : fmGet? s.blk.fab.rx k with
    | none =>
      have hseq : h.seq = 0 := by simpa [k, hrx] using hturn
      exact ⟨_, rfl, rfl, hseq, rfl⟩
    | some z =>
      obtain ⟨hgen, hnext, hheld⟩ : z.gen = h.gen ∧ z.next = h.seq ∧ z.held = [] := by simpa [k, hrx] using hturn
      exact ⟨z, rfl, hgen.symm, hnext.symm, hheld⟩
  let x : RxSpace := { y with next := y.next + 1, gap := none }
  let b₀ := putSpace (heard s.blk h.port true) k x
  have hheard : Hears s.blk b₀ := ⟨.refl _, rfl, rfl, _, _, _, rfl⟩
  obtain ⟨b, hb, hrx, hdeliver⟩ := deliver_idle (b := b₀) hidle { h with tree := tree } m
  have hb₀ : fmGet? b₀.fab.rx k = some x := fmGet?_fmSet_self _ _ _
  refine ⟨b, hheard.trans hb, fun {d} hd hdrx => gives_withBlk (s := s) (b := putSpace d k { x with gap := none }) ?_ ⟨?_, rfl, rfl, rfl⟩⟩
  · have hopen : (decide (h.port < 6) && (linkOf s.blk h.port).admitted && decide (h.dst = chipNo s.blk)) = true := by
      simp [hport, hadmitted, hhere]
    have hsequence : sequence (heard s.blk h.port true) { h with tree := tree } m =
        andThen (deliver b₀ { h with tree := tree } m) (drainSpace k 65) := by
      have hspace' : (fmGet? (heard s.blk h.port true).fab.rx k).getD { gen := h.gen, next := 0, held := [], gap := none } = y := hspace
      unfold sequence
      dsimp only
      rw [hspace', if_pos hgen, if_pos hnext]
    have hdx : fmGet? d.fab.rx k = some x := by rw [hdrx, hrx, hb₀]
    have hreceive : receive { h with tree := tree } m s.blk = act (putSpace d k { x with gap := none }) := by
      unfold receive
      dsimp only
      rw [if_pos hopen, if_neg (Nat.not_le.mpr hhops), hsequence, hdeliver, hd, andThen_act, drainSpace_empty hdx hheld]
    rw [liftA_alive halive, hreceive, finish_act]
  · have hturned : fmGet? (putSpace d k { x with gap := none }).fab.rx k = some { x with gap := none } := fmGet?_fmSet_self _ _ _
    rw [Turned, show (s.withBlk (putSpace d k { x with gap := none })).blk.fab = (putSpace d k { x with gap := none }).fab from rfl, hturned]
    simp only [x, Option.map_some, ← hgen, ← hnext, hheld]

/-! ## What the messages do (R254, R269, R270, R272, R275) -/

section
variable {b : Block} {frame chip : Nat} (hmember : b.tide.member = true) (hfirst : (frame, chip) ∉ b.tide.seen)
include hmember hfirst

/-- A declaration of a frame that has not settled is held. -/
theorem onLateFrame_held (hopen : frameReached b.tide.frame ((frame + 2) % 2 ^ 48) = false) (cause : Nat) : onLateFrame b frame chip cause =
    { b with tide := { b.tide with
      seen := b.tide.seen ++ [(frame, chip)], decls := b.tide.decls ++ [{ frame := frame, chip := chip, cause := cause }] } } := by
  have hno : ¬(!b.tide.member || b.tide.seen.contains (frame, chip)) = true := by simp [hmember, hfirst]
  rw [onLateFrame, if_neg hno]
  exact if_neg (Bool.eq_false_iff.mp hopen)

/-- A declaration after settlement is counted and recorded, and takes the chip out of its domain. -/
theorem onLateFrame_after (hsettled : frameReached b.tide.frame ((frame + 2) % 2 ^ 48) = true) (cause : Nat) :
    Tells { cnt b cLateAfterSettle with tide := { b.tide.left with seen := b.tide.seen ++ [(frame, chip)] } }
      (onLateFrame b frame chip cause) := by
  let e : TideEv := { type := tyLateAfter, chip := some chip, frame := frame }
  let c := tideRec { cnt b cLateAfterSettle with tide := { b.tide with seen := b.tide.seen ++ [(frame, chip)] } } e
  have hleaves : onLateFrame b frame chip cause = leaveDomain c tcLateAfter := by
    have hno : ¬(!b.tide.member || b.tide.seen.contains (frame, chip)) = true := by simp [hmember, hfirst]
    rw [onLateFrame, if_neg hno]
    exact if_pos hsettled
  have hrec : Tells _ c := tells_tideRec _ e
  have hstill : c.tide.member = true := by
    obtain ⟨_, _, htide⟩ := hrec.tide
    rw [htide]; exact hmember
  rw [hleaves]
  exact (hrec.withTide Tide.left fun _ _ _ => rfl).trans (leaveDomain_member hstill tcLateAfter)

end

/-- What the time master makes of a length that is asked for: the floor rises, and a length that it demands is due four frames ahead. -/
theorem scheduleLength_eq (b : Block) (len : Nat) : scheduleLength b len = { b with tide := { b.tide with
    maxFloor := max b.tide.maxFloor len
    pendLen := if (b.tide.pendLen.map Prod.fst).getD b.tide.length < max (dget b 0x4010 2) (max b.tide.maxFloor len) then
      some (max (dget b 0x4010 2) (max b.tide.maxFloor len), (b.tide.frame + 4) % 2 ^ 48) else b.tide.pendLen } } := by
  have hdget : dget { b with tide := { b.tide with maxFloor := max b.tide.maxFloor len } } 0x4010 2 = dget b 0x4010 2 := rfl
  unfold scheduleLength
  dsimp only
  rw [hdget]
  split
  · rfl
  · rfl

theorem onTideLeave_chip (b : Block) (chip cause : Nat) : onTideLeave b chip false cause = b := by
  simp [onTideLeave]

/-- A message that names the chip's rack takes the chip out of its domain. -/
theorem onTideLeave_rack {b : Block} {chip : Nat} (hmember : b.tide.member = true) (hrack : rackOf b chip = rackOf b (chipNo b)) (cause : Nat) :
    Tells { b with tide := { b.tide.left with rackOut := true } } (onTideLeave b chip true cause) := by
  have hnamed : (true && decide (rackOf b chip = rackOf b (chipNo b)) && b.tide.member) = true := by simp [hmember, hrack]
  rw [onTideLeave, if_pos hnamed]
  exact ((tells_suspendSources b).withTide (fun t => { t.left with rackOut := true }) fun _ _ _ => rfl).trans (tells_tideRec _ _)

theorem onTideJoinAccept_tide {b : Block} (hout : b.tide.member = false) (frame : Nat) : onTideJoinAccept b frame =
    { b with tide := if b.live.any (fun x => x.2.missed) then { b.tide with rackOut := false, joinSent := false }
      else { b.tide with rackOut := false, joinAt := some frame } } := by
  unfold onTideJoinAccept
  rw [if_neg (by simp [hout])]
  split <;> rfl

/-! ## The commands -/

section
variable {s : State} {h : GzHdr}

theorem lateFrame_held {frame chip : Nat} (ht : InTurn s h true) (hmember : s.blk.tide.member = true) (hfirst : (frame, chip) ∉ s.blk.tide.seen)
    (hopen : frameReached s.blk.tide.frame ((frame + 2) % 2 ^ 48) = false) (cause flags : Nat) :
    Gives (exec (.lateFrame h frame chip cause flags) s) (fun t => Turned t h true ∧
      t.blk.tide.decls = s.blk.tide.decls ++ [{ frame := frame, chip := chip, cause := cause }] ∧ t.blk.tide.member = true) := by
  obtain ⟨b, hb, hrow⟩ := inTurn_delivers ht (.lateFrame frame chip cause flags)
  rw [← hb.tide] at hmember hfirst hopen ⊢
  obtain ⟨t, hexec, hturned, htide, -⟩ := hrow (congrArg act (onLateFrame_held hmember hfirst hopen cause)) rfl
  exact ⟨t, hexec, hturned, by rw [htide], by rw [htide]; exact hmember⟩

theorem lateFrame_after {frame chip : Nat} (ht : InTurn s h true) (hmember : s.blk.tide.member = true) (hfirst : (frame, chip) ∉ s.blk.tide.seen)
    (hsettled : frameReached s.blk.tide.frame ((frame + 2) % 2 ^ 48) = true) (cause flags : Nat) :
    Gives (exec (.lateFrame h frame chip cause flags) s) (fun t => Turned t h true ∧ t.blk.tide.decls = s.blk.tide.decls ∧
      t.blk.tide.member = false ∧ fmGet t.blk.ctr 0x1D4 0 = satAdd 32 (fmGet s.blk.ctr 0x1D4 0) 1) := by
  obtain ⟨b, hb, hrow⟩ := inTurn_delivers ht (.lateFrame frame chip cause flags)
  have hbefore : fmGet b.ctr 0x1D4 0 = fmGet s.blk.ctr 0x1D4 0 := hb.counts 0x1D4 (by decide)
  rw [← hb.tide] at hmember hfirst hsettled ⊢
  have htells := onLateFrame_after hmember hfirst hsettled cause
  have hcount := (htells.1 0x1D4 (by decide)).trans (cnt_value b cLateAfterSettle)
  obtain ⟨_, _, hleft⟩ := htells.tide
  obtain ⟨t, hexec, hturned, htide, hctr, -⟩ := hrow (d := onLateFrame b frame chip cause) rfl htells.2.1
  rw [hleft] at htide
  exact ⟨t, hexec, hturned, by rw [htide]; rfl, by rw [htide]; rfl, by rw [hctr, ← hbefore]; exact hcount⟩

theorem frameLengthRequest_schedules (ht : InTurn s h false) (hmaster : timeMaster s.blk = true) (len : Nat) :
    Gives (exec (.frameLengthRequest h len) s) (fun t => Turned t h false ∧ t.blk.tide.maxFloor = max s.blk.tide.maxFloor len ∧
      t.blk.tide.length = s.blk.tide.length ∧ t.blk.tide.pendLen =
        (if (s.blk.tide.pendLen.map Prod.fst).getD s.blk.tide.length < max (dget s.blk 0x4010 2) (max s.blk.tide.maxFloor len) then
          some (max (dget s.blk 0x4010 2) (max s.blk.tide.maxFloor len), (s.blk.tide.frame + 4) % 2 ^ 48) else s.blk.tide.pendLen)) := by
  obtain ⟨b, hb, hrow⟩ := inTurn_delivers ht (.lengthRequest len)
  have hschedules : onLengthRequest b len = _ := (if_pos (hb.timeMaster.trans hmaster)).trans (scheduleLength_eq b len)
  obtain ⟨t, hexec, hturned, htide, -⟩ := hrow (congrArg act hschedules) rfl
  rw [← hb.tide, ← hb.dget]
  exact ⟨t, hexec, hturned, by rw [htide], by rw [htide], by rw [htide]⟩

theorem tideLeave_rack {chip : Nat} (ht : InTurn s h true) (hmember : s.blk.tide.member = true)
    (hrack : rackOf s.blk chip = rackOf s.blk (chipNo s.blk)) (cause : Nat) : Gives (exec (.tideLeave h chip true cause) s) (fun t =>
      Turned t h true ∧ t.blk.tide.member = false ∧ t.blk.tide.rackOut = true) := by
  obtain ⟨b, hb, hrow⟩ := inTurn_delivers ht (.tideLeave chip true cause)
  have hrack' : rackOf b chip = rackOf b (chipNo b) := by rw [hb.rackOf, hb.rackOf, hb.chipNo, hrack]
  have htells := onTideLeave_rack (by rw [hb.tide]; exact hmember) hrack' cause
  obtain ⟨_, _, hleft⟩ := htells.tide
  obtain ⟨t, hexec, hturned, htide, -⟩ := hrow (d := onTideLeave b chip true cause) rfl htells.2.1
  rw [hleft] at htide
  exact ⟨t, hexec, hturned, by rw [htide]; rfl, by rw [htide]⟩

theorem tideLeave_chip (ht : InTurn s h true) (chip cause : Nat) : Gives (exec (.tideLeave h chip false cause) s) (fun t =>
    Turned t h true ∧ t.blk.tide = s.blk.tide) := by
  obtain ⟨b, hb, hrow⟩ := inTurn_delivers ht (.tideLeave chip false cause)
  obtain ⟨t, hexec, hturned, htide, -⟩ := hrow (congrArg act (onTideLeave_chip b chip cause)) rfl
  exact ⟨t, hexec, hturned, htide.trans hb.tide⟩

theorem tideJoin_answered (ht : InTurn s h false) (hmaster : timeMaster s.blk = true) (chip : Nat) :
    Gives (exec (.tideJoin h chip) s) (fun t => Turned t h false ∧ t.blk.tide = s.blk.tide ∧
      fmGet t.blk.fab.txSeq chip 0 = fmGet s.blk.fab.txSeq chip 0 + 1) := by
  obtain ⟨b, hb, hrow⟩ := inTurn_delivers ht (.tideJoin chip)
  have hanswers : onTideJoin b chip = gzSend b chip (.tideJoinAccept ((b.tide.frame + 4) % 2 ^ 48)) :=
    if_pos (hb.timeMaster.trans hmaster)
  have hnumber := gzSend_txSeq b chip (.tideJoinAccept ((b.tide.frame + 4) % 2 ^ 48))
  obtain ⟨-, hrx, _, _, _, hsent⟩ := sends_gzSend b chip (.tideJoinAccept ((b.tide.frame + 4) % 2 ^ 48))
  have hsame := congrArg Block.tide hsent
  obtain ⟨t, hexec, hturned, htide, -, hseq⟩ := hrow (congrArg act hanswers) hrx
  exact ⟨t, hexec, hturned, htide.trans (hsame.trans hb.tide), by rw [hseq, ← hb.txSeq]; exact hnumber⟩

theorem tideJoinAccept_takes (ht : InTurn s h false) (hout : s.blk.tide.member = false) (frame : Nat) :
    Gives (exec (.tideJoinAccept h frame) s) (fun t => Turned t h false ∧
      t.blk.tide = (if s.blk.live.any (fun x => x.2.missed) then { s.blk.tide with rackOut := false, joinSent := false }
        else { s.blk.tide with rackOut := false, joinAt := some frame })) := by
  obtain ⟨b, hb, hrow⟩ := inTurn_delivers ht (.tideJoinAccept frame)
  rw [← hb.tide] at hout ⊢
  rw [← hb.live]
  obtain ⟨t, hexec, hturned, htide, -⟩ := hrow (congrArg act (onTideJoinAccept_tide hout frame)) rfl
  exact ⟨t, hexec, hturned, htide⟩

end

section
variable {s : State} (h : Alive s)
include h

/-- The tide unit, the composer and the counters after a change that nothing follows. -/
theorem lift_gives (f : Block → Block) : Gives (lift f s) (fun t =>
    t.blk.tide = (f s.blk).tide ∧ t.blk.comp = (f s.blk).comp ∧ t.blk.ctr = (f s.blk).ctr) :=
  gives_withBlk (lift_of_alive h f) ⟨rfl, rfl, rfl⟩

/-- The next frame begins (R253, R254, R269). -/
theorem frameBegin_begins (hruns : timeRuns s.blk = true) (hin : s.blk.tide.inFrames = true) {n : Nat}
    (hn : (s.blk.tide.frame + 1) % 2 ^ 48 = n) : Gives (exec .frameBegin s) (fun t =>
      t.blk.tide.frame = n ∧ t.blk.tide.inFrames = true ∧ t.blk.tide.time = max s.blk.tide.time (frameStart s.blk n) % 2 ^ 64 ∧
      t.blk.tide.baseFrame = n ∧ (∀ d ∈ t.blk.tide.decls, d.frame ≠ (n + 2 ^ 48 - 2) % 2 ^ 48) ∧
      (s.blk.tide.pendLen = none → t.blk.tide.length = s.blk.tide.length ∧ t.blk.tide.baseTime = frameStart s.blk n) ∧
      (∀ len F, s.blk.tide.pendLen = some (len, F) → frameReached n F = true → t.blk.tide.length = len ∧ t.blk.tide.pendLen = none ∧
        (0 ≤ (s.blk.tide.baseTime : Int) + frameDiff F s.blk.tide.baseFrame * s.blk.tide.length →
          t.blk.tide.baseTime = frameStart s.blk n))) := by
  have hlt : n < 2 ^ 48 := by rw [← hn]; exact Nat.mod_lt _ (Nat.two_pow_pos 48)
  obtain ⟨t, hexec, htide, -⟩ := lift_gives h frameBegin
  rw [frameBegin_next hruns hin, hn] at htide
  have htime := passRef_time hruns (frameStart s.blk n)
  obtain ⟨_, _, hpass⟩ := passRef_eq s.blk (frameStart s.blk n)
  generalize passRef s.blk (frameStart s.blk n) = b at htide htime hpass
  have hstart : frameStart b n = frameStart s.blk n := by rw [hpass]; rfl
  obtain ⟨hframe, hinFrames, hsame, hbase⟩ := onFrame_frame b n
  have hsettled := onFrame_settled (b := b) hlt
  have hunchanging (hnone : b.tide.pendLen = none) := onFrame_unchanging hnone n
  have hchanging {len F : Nat} (hsome : b.tide.pendLen = some (len, F)) := onFrame_changing (n := n) hsome
  rw [hstart] at hunchanging hchanging
  rw [← htide] at hframe hinFrames hsame hbase hsettled hunchanging hchanging
  subst hpass
  exact ⟨t, hexec, hframe, hinFrames, hsame.trans htime, hbase, hsettled, hunchanging, fun len F hsome => hchanging hsome⟩

/-- Frame 0 begins at the origin (R253). -/
theorem frameBegin_origin (hruns : timeRuns s.blk = true) (hin : s.blk.tide.inFrames = false) : Gives (exec .frameBegin s) (fun t =>
    t.blk.tide.frame = 0 ∧ t.blk.tide.inFrames = true ∧ t.blk.tide.time = max s.blk.tide.time s.blk.tide.origin % 2 ^ 64) := by
  obtain ⟨t, hexec, htide, -⟩ := lift_gives h frameBegin
  rw [frameBegin_first hruns hin] at htide
  obtain ⟨hframe, hinFrames, hsame, -⟩ := onFrame_frame (passRef s.blk s.blk.tide.origin) 0
  rw [← htide] at hframe hinFrames hsame
  exact ⟨t, hexec, hframe, hinFrames, hsame.trans (passRef_time hruns _)⟩

/-- The heat of a run overruns its deadline (R267). -/
theorem deadline_overruns {tag m : Nat} {r : Run} (hwaits : ∀ w ∈ s.blk.comp.lateWait, w.tag = tag → w.overrun = true)
    (hrun : s.blk.comp.runs.find? (fun x => decide (x.2.tag = tag) && x.2.deadline.isSome && x.2.endedAt.isNone && !x.2.overrun) =
      some (m, r)) : Gives (exec (.deadline tag) s) (fun t => runOf t.blk m = some { r with late := true, overrun := true } ∧
        t.blk.tide.clock = max s.blk.tide.clock r.due ∧ fmGet t.blk.ctr 0x1C4 0 = satAdd 32 (fmGet s.blk.ctr 0x1C4 0) 1 ∧
        ∃ d ∈ t.blk.tide.decls, d.frame = r.occ ∧ d.chip = chipNo s.blk) := by
  obtain ⟨t, hexec, htide, hcomp, hctr⟩ := lift_gives h fun b => deadline b tag
  rw [deadline_of_run hwaits hrun] at htide hcomp hctr
  obtain ⟨hsame, hclock, hcount, hdeclared⟩ := overran_spec
    (putRun (passTo s.blk r.due) m { r with late := true, overrun := true }) r.part r.res r.occ (r.deadline.getD 0) tag
  rw [← htide] at hclock hdeclared
  rw [← hctr] at hcount
  have hruns : runOf t.blk m = runOf (putRun (passTo s.blk r.due) m { r with late := true, overrun := true }) m := by
    rw [runOf, hcomp, hsame]; rfl
  exact ⟨t, hexec, hruns.trans (runOf_putRun _ _ _), hclock, hcount, hdeclared⟩

/-- A heat that still waits for the clusters of its occurrence overruns its deadline (R267). -/
theorem deadline_overruns_waiting {tag : Nat} {w : LateOcc} (hwait : s.blk.comp.lateWait = [w]) (htag : w.tag = tag) (hin : w.overrun = false) :
    Gives (exec (.deadline tag) s) (fun t => t.blk.comp = { s.blk.comp with lateWait := [{ w with overrun := true }] } ∧
      t.blk.tide.clock = max s.blk.tide.clock w.due ∧ ∃ d ∈ t.blk.tide.decls, d.frame = w.frame ∧ d.chip = chipNo s.blk) := by
  obtain ⟨t, hexec, htide, hcomp, -⟩ := lift_gives h fun b => deadline b tag
  rw [deadline_of_wait hwait htag hin] at htide hcomp
  obtain ⟨hsame, hclock, -, hdeclared⟩ := overran_spec
    { passTo s.blk w.due with comp := { s.blk.comp with lateWait := [{ w with overrun := true }] } }
    w.part w.res.ref w.frame (w.begun + w.res.budget) tag
  rw [← htide] at hclock hdeclared
  exact ⟨t, hexec, hcomp.trans hsame, hclock, hdeclared⟩

end

/-- Settles O46: a frame begins by `onFrame_spec`, a deadline is missed by `overran_spec`, and each message does what its row does once its turn
has come. -/
theorem tideFrames : Obligations.TideFrames := by
  unfold Obligations.TideFrames
  intro s halive
  refine ⟨fun hruns hin => frameBegin_begins halive hruns hin rfl, fun hruns hin => frameBegin_origin halive hruns hin, fun tag =>
    ⟨fun m r hwaits hrun => deadline_overruns halive hwaits hrun, fun w hwait htag hin => deadline_overruns_waiting halive hwait htag hin⟩,
    fun h frame chip cause flags ht hmember hfirst => ⟨fun hopen => lateFrame_held ht hmember hfirst hopen cause flags,
      fun hsettled => lateFrame_after ht hmember hfirst hsettled cause flags⟩,
    fun h len ht hmaster => frameLengthRequest_schedules ht hmaster len,
    fun h chip cause ht => ⟨fun hmember hrack => tideLeave_rack ht hmember hrack cause, tideLeave_chip ht chip cause⟩,
    fun h chip ht hmaster => tideJoin_answered ht hmaster chip,
    fun h frame ht hout => tideJoinAccept_takes ht hout frame⟩

end Sys2Proof.Machine
end

section
/-! PROOFS. RESYNC (spec/11_table_updates.md, R294) of a table whose directory entry is reached through a page table that the audit ring overlaps
(R418), which refutes O49. -/

namespace Sys2Proof.Machine

open Sys2Proof

/-! ## CTL_CMD RESYNC (R294, R407) -/

section
variable {s : State} {a : DictAcc} {d : Desc} (h : DictReady s a d) (hi : a.idx = 0x3041) (hk : a.sub = 3) (hresync : a.value % 256 = 3)
include h hi hk hresync

/-- A RESYNC is carried out on the block in which its write has been stored and audited. -/
theorem exec_resync_stores (reg dir : BitVec 256) :
    exec (.resync a reg dir) s = .next (s.withBlk (finish ((rowResync a reg dir).run (dictStore (noted s.blk a) a d)))) := by
  refine (liftA_alive h.alive fun b => if (rowResync a reg dir).mine then
    dictTurn b (.resync reg dir) a (fun b => rowWrite b a (rowResync a reg dir)) else act b).trans ?_
  have hmine : (rowResync a reg dir).mine = true := by simp [rowResync, ctlCmd, hi, hk, hresync]
  have hcond : (rowResync a reg dir).cond (noted s.blk a) = none := rfl
  simp only [hmine, if_true, dictTurn_free h.arrives, rowWrite, dictWrite, writeCheck_noted, h.checks, hcond, h.entry]

/-- A RESYNC that a check refuses in that block answers the check's `CTL_RESULT`. -/
theorem exec_resync_refused {reg dir : BitVec 256} {r : Nat} (hcheck : resyncCheck (dictStore (noted s.blk a) a d)
    (dget (dictStore (noted s.blk a) a d) 0x3041 1) reg dir = some r) :
    Gives (exec (.resync a reg dir) s) (fun t => dget t.blk 0x3041 4 = r) := by
  refine gives_withBlk (exec_resync_stores h hi hk hresync reg dir) ?_
  have hrun : (rowResync a reg dir).run (dictStore (noted s.blk a) a d) = act (ctlResult (dictStore (noted s.blk a) a d) r) := by
    simp only [rowResync, hcheck]
  rw [hrun, finish_act]
  simp [ctlResult, dput, dget]

end

/-! ## The counterexample -/

/-- The secure master writes RESYNC to `CTL_CMD`. -/
def resyncCmd : DictAcc :=
  { path := .secure, org := { port := 0, fn := 0, priv := 0 }, tag := 0, idx := 0x3041, sub := 3, len := 1, value := 3 }

/-- The entry that it writes. -/
def ctlEntry : Desc := (dictDesc 0x3041 3).getD (dEnt 0 0 0 0 0)

/-- A valid registry entry of table 0: source chip 0, partition 0, cluster 0, context 0, and its directory entry at virtual address 0. -/
def lowReg : BitVec 256 := BitVec.ofNat 256 (packFields [(12, 1, 1)])

/-- Its directory entry: valid and live, 100 rows of 16 elements, at a pitch of 64 bytes. -/
def lowDir : BitVec 256 := BitVec.ofNat 256 (packFields [(64, 16, 16), (80, 16, 64), (96, 32, 100), (176, 1, 1), (177, 1, 1)])

/-- The chip out of reset and booted, with every engine, and cluster 0 in partition 0. The level-1 table of context 0 begins at 0x1000000, where
the audit ring begins too, and its level-2 table at 0x20000; the one page that they map is at virtual address 0. -/
def auditedTable : State :=
  let f := Block.fresh
  { pending := [], pin := { Pins.inReset with rst := false, long := true },
    blk := { f with
      mic := { f.mic with status := 2, selftest := 1 }
      fuse := BitVec.allOnes 896
      obj := { f.obj with
        ctxs := [(0, { wideCtx with ptRoot := 0x1000000 })]
        parts := [(0, { clusters := 1, ranges := [(0, 16)], slots := 1, portMask := 1, remoteMap := false })] }
      dict := [(dkey 0x9000 6, 0x1000000)]
      mem := [(0x20000, 1), (0x1000000, 1), (0x1000002, 2)] } }

theorem auditedTable_ready : DictReady auditedTable resyncCmd ctlEntry where
  alive := ⟨rfl, rfl⟩
  tested := by decide
  path := rfl
  idle := rfl
  quiet := by decide
  entry := by decide
  checks := by decide

/-- Every check of R294 passes as the write finds the block. -/
theorem auditedTable_passes : resyncCheck auditedTable.blk (dget auditedTable.blk 0x3041 1) lowReg lowDir = none := by decide +kernel

/-- Once the write has been audited, the directory entry no longer translates: the record lies over the level-1 table. -/
theorem auditedTable_faults : resyncCheck (dictStore (noted auditedTable.blk resyncCmd) resyncCmd ctlEntry)
    (dget (dictStore (noted auditedTable.blk resyncCmd) resyncCmd ctlEntry) 0x3041 1) lowReg lowDir = some 2 := by decide +kernel

/-- Refutes O49: a RESYNC of `auditedTable`. The statement checks the block as the write finds it, where every check of R294 passes; the model
checks it once the write has been audited (R407, R418), and the audit record has overwritten the page table through which the directory entry
is reached, so that `CTL_RESULT` is REFUSED_DIRECTORY. -/
theorem not_tableControl : ¬ Obligations.TableControl := by
  unfold Obligations.TableControl
  intro h
  obtain ⟨hctl, -⟩ := h auditedTable resyncCmd ctlEntry auditedTable_ready
  obtain ⟨-, -, hresync⟩ := hctl rfl rfl
  obtain ⟨-, haccepted⟩ := hresync rfl lowReg lowDir
  obtain ⟨t, ht, hok, -⟩ := haccepted auditedTable_passes
  obtain ⟨u, hu, hrefused⟩ := exec_resync_refused auditedTable_ready rfl rfl rfl auditedTable_faults
  cases ht.symm.trans hu
  exact absurd (hok.symm.trans hrefused) (by decide)

end Sys2Proof.Machine
end

section
/-! PROOFS. A window that a replica misses (spec/11_table_updates.md, R287, R293) where the registry lists its table twice, which refutes O48. -/

namespace Sys2Proof.Machine

open Sys2Proof

theorem exec_windowBegin {s : State} (h : Running s) (id : Nat) :
    exec (.windowBegin id) s = .next (s.withBlk (finish (windowBegin s.blk id))) :=
  liftRA_running h fun b => windowBegin b id

/-! ## The counterexample -/

/-- Table 0 of a source chip, in service since a seal for frame 0, with no seal kept. -/
def dueTable (source : Nat) : Live where
  source := source
  part := 0
  cluster := 0
  ctx := 0
  dirVa := 0
  spad := 0
  dir := 0
  inService := true
  applying := false
  held := false
  missed := false
  epoch := 0
  frame := 0
  lastSeal := 0
  lastFrame := none
  served := none
  first := some 0
  queue := []
  recs := []
  seals := []
  suspend := none
  gaps := []
  apply := none

/-- Its window, in every frame. -/
def dueWindow : Window := { live := 0, perLog2 := 0, phase := 0, offset := 200, length := 1000 }

/-- The sheet of that window alone. -/
def dueSheet : Sheet := { id := 1, planVer := 0, frameLen := 1000, advGen := 0, total := 0, crc := 0, res := [], wins := [dueWindow] }

/-- Chip 0 out of reset and booted, a member in frame 0, that sheet active and no staging ring given. Its registry lists table 0 as a replica of
chip 1, and behind that once more, as its own. -/
def listedTwice : State :=
  let f := Block.fresh
  { pending := [], pin := { Pins.inReset with rst := false, long := true },
    blk := { f with
      mic := { f.mic with status := 2, selftest := 1 }
      tide := { f.tide with
        refOn := true, locked := true, inFrames := true, member := true, sheets := [(0, { SheetSlot.fresh with active := some dueSheet })] }
      live := [(0, dueTable 1), (0, dueTable 0)] } }

theorem listedTwice_running : Running listedTwice := ⟨⟨⟨rfl, rfl⟩, rfl⟩, rfl⟩

/-- The window of frame 0 is missed, but the chip leaves its domain and so suspends the second entry (R287), which it writes over the first. -/
theorem listedTwice_stays : (liveOf (finish (windowBegin listedTwice.blk 0)) 0).map (fun x => x.inService) = some true := by decide +kernel

/-- Refutes O48: the window that `listedTwice` misses for want of a staging ring. The statement has the table out of service for every registry;
where the registry lists its ID twice, the suspension of the second entry puts it back in service. The statement does not ask that IDs be listed
once. -/
theorem not_tableUpdates : ¬ Obligations.TableUpdates := by
  unfold Obligations.TableUpdates
  intro h
  obtain ⟨-, -, hwindow, -⟩ := h listedTwice 0 (dueTable 1) rfl
  obtain ⟨-, hmissed⟩ := hwindow dueWindow listedTwice_running rfl rfl (by decide) (by decide) (by decide)
  obtain ⟨t, ht, hleft, -⟩ := hmissed (.inr (by decide))
  cases (exec_windowBegin listedTwice_running 0).symm.trans ht
  have hout := congrArg (Option.map Prod.fst) hleft
  rw [Option.map_map] at hout
  exact absurd (listedTwice_stays.symm.trans hout) (by decide)

end Sys2Proof.Machine
end

section
/-! PROOFS. What a step can do to the level signals and the waiting commands: O10 to O13, O15 and O16. -/

namespace Sys2Proof.Machine

open Sys2Proof

/-! ## All that a command can do -/

/-- The commands that are not a change of the block alone: those of the reset signal, the supply below its reset level, the two ends of a
recovery sequence and a bypass output. -/
def drivesPins : Instr → Bool
  | .chipResetAssert | .chipResetRelease _ _ | .supplyAboveResetLevel _ | .resetAssertionMinimum => true
  | .supplyReset _ | .propagateComplete | .resetReqTimer | .bypassDrive _ => true
  | _ => false

/-- What has no meaning of its own leaves the state as it is, which is also a change of the block: none (R324). -/
theorem next_lifts (s : State) : ∃ b, Host.Outcome.next (ρ := Refusal) (φ := Fault) s = .next (if alive s then s.withBlk b else s) :=
  ⟨s.blk, by simp [State.withBlk, noteSteps_self]⟩

/-- Every other command is a change of the block, taken while the block is out of reset and its units run. -/
theorem exec_lifts {c : Instr} (h : drivesPins c = false) (s : State) : ∃ b, exec c s = .next (if alive s then s.withBlk b else s) := by
  cases c
  case chipResetAssert | chipResetRelease | supplyAboveResetLevel | resetAssertionMinimum | supplyReset | propagateComplete | resetReqTimer
      | bypassDrive => cases h
  case reservedOpcode c op f =>
    simp only [exec, execReservedOpcode]
    split
    · exact ⟨_, rfl⟩
    · exact next_lifts s
  all_goals exact ⟨_, rfl⟩

theorem alive_false {s : State} (h : s.pin.rst = true ∨ s.pin.stopped = true) : alive s = false := by
  rcases h with h | h <;> simp [alive, h]

theorem alive_rst {s : State} (h : alive s = true) : s.pin.rst = false := by
  simp only [alive, Bool.and_eq_true, Bool.not_eq_true'] at h
  exact h.1

@[simp] theorem withBlk_pin (s : State) (b : Block) : (s.withBlk b).pin = s.pin := rfl
@[simp] theorem withBlk_pending (s : State) (b : Block) : (s.withBlk b).pending = s.pending := rfl

/-- A command that is a change of the block alone keeps the level signals and the queue, and in reset the block as well. -/
theorem lifted_frame {s t : State} (h : ∃ b, t = if alive s then s.withBlk b else s) :
    t.pending = s.pending ∧ t.pin = s.pin ∧ (alive s = false → t = s) := by
  obtain ⟨b, rfl⟩ := h
  cases halive : alive s
  · simp
  · simp

theorem exec_frame {c : Instr} (h : drivesPins c = false) (s : State) :
    ∃ t, exec c s = .next t ∧ t.pending = s.pending ∧ t.pin = s.pin ∧ (alive s = false → t = s) := by
  obtain ⟨b, hb⟩ := exec_lifts h s
  exact ⟨_, hb, lifted_frame ⟨b, rfl⟩⟩

/-! ## A release of the reset (R457, R458) -/

@[simp] theorem tryRelease_pending (s : State) : (tryRelease s).pending = s.pending := by
  unfold tryRelease
  split
  · split
    · rfl
    · rfl
  · rfl

/-- What a held release does: nothing while the assertion is short or the supply low; otherwise the reset is over. -/
theorem tryRelease_cases (s : State) : tryRelease s = s ∨
    (s.pin.long = true ∧ s.pin.low = false ∧ (tryRelease s).pin = { s.pin with rst := false, release := none }) := by
  unfold tryRelease
  split
  · split
    · rename_i hgo
      simp only [Bool.and_eq_true, Bool.not_eq_true'] at hgo
      exact .inr ⟨hgo.1, hgo.2, rfl⟩
    · exact .inl rfl
  · exact .inl rfl

/-! ## The invariant of the level signals -/

/-- Out of reset the invariant speaks of the level signals alone. -/
theorem resetInv_of_released {s : State} (hrst : s.pin.rst = false) (hrelease : s.pin.release = none) (hlong : s.pin.long = true)
    (hlow : s.pin.low = false) (hreq : s.pin.resetReq = s.pin.stopped) : ResetInv s :=
  ⟨fun h => by simp [hrst] at h, fun _ => ⟨hrelease, hlong, hlow⟩, hreq⟩

/-- In reset a release held, the assertion's length and the supply may change. -/
theorem resetInv_hold {s : State} (h : ResetInv s) (hrst : s.pin.rst = true) (release : Option (BitVec 896)) (long low : Bool) :
    ResetInv { s with pin := { s.pin with release := release, long := long, low := low } } := by
  obtain ⟨hin, -, hreq⟩ := h
  exact ⟨fun _ => hin hrst, fun hout => absurd (hrst.symm.trans hout) (by decide), hreq⟩

theorem resetInv_tryRelease {s : State} (h : ResetInv s) : ResetInv (tryRelease s) := by
  obtain hsame | ⟨hlong, hlow, hpin⟩ := tryRelease_cases s
  · rwa [hsame]
  · obtain ⟨-, -, hreq⟩ := h
    have hpins {α : Type} (f : Pins → α) := congrArg f hpin
    exact resetInv_of_released (hpins Pins.rst) (hpins Pins.release) ((hpins Pins.long).trans hlong) ((hpins Pins.low).trans hlow)
      ((hpins Pins.resetReq).trans (hreq.trans (hpins Pins.stopped).symm))

/-- A second reset finds the scratchpads alone. -/
theorem afterReset_ports (b : Block) :
    b.afterReset.ports.map (fun x => (x.1, { CPort.fresh with scratch := x.2.scratch })) = b.afterReset.ports := by
  simp [Block.afterReset]

theorem resetInv_assert (s : State) : ResetInv { s with pin := Pins.inReset, blk := s.blk.afterReset } := by
  refine ⟨fun _ => ⟨?_, rfl, rfl, rfl, rfl⟩, fun h => Bool.noConfusion h, rfl⟩
  show s.blk.afterReset = _
  rw [afterReset_ports]
  rfl

/-- Out of reset, what leaves the signals of the reset as they are keeps the invariant while RESET_REQ goes with the stop. -/
theorem resetInv_of_pins {s t : State} (h : ResetInv s) (hrst : s.pin.rst = false) (htrst : t.pin.rst = s.pin.rst)
    (hrelease : t.pin.release = s.pin.release) (hlong : t.pin.long = s.pin.long) (hlow : t.pin.low = s.pin.low)
    (hreq : t.pin.resetReq = t.pin.stopped) : ResetInv t := by
  obtain ⟨-, hout, -⟩ := h
  obtain ⟨hnone, hlasted, hhigh⟩ := hout hrst
  exact resetInv_of_released (htrst.trans hrst) (hrelease.trans hnone) (hlong.trans hlasted) (hlow.trans hhigh) hreq

theorem resetInv_of_frame {s t : State} (h : ResetInv s) (hpin : t.pin = s.pin) (hblk : alive s = false → t.blk = s.blk) : ResetInv t := by
  cases halive : alive s
  · obtain ⟨hin, hout, hreq⟩ := h
    rw [← hpin, ← hblk halive] at hin
    rw [← hpin] at hout hreq
    exact ⟨hin, hout, hreq⟩
  · exact resetInv_of_pins h (alive_rst halive) (by rw [hpin]) (by rw [hpin]) (by rw [hpin]) (by rw [hpin]) (by rw [hpin]; exact h.2.2)

/-- A bypass output driven is the one signal that changes (R319). -/
theorem drive_eq (p : Pins) (axis : Nat) : ∃ x y z, p.drive axis = { p with bypX := x, bypY := y, bypZ := z } := by
  unfold Pins.drive
  split_ifs
  · exact ⟨_, _, _, rfl⟩
  · exact ⟨_, _, _, rfl⟩
  · exact ⟨_, _, _, rfl⟩
  · exact ⟨_, _, _, rfl⟩

theorem gives_ite {p : Prop} [Decidable p] {a b : State} {P : State → Prop} (ha : p → P a) (hb : P b) :
    Gives (.next (if p then a else b)) P := by
  refine ⟨_, rfl, ?_⟩
  split
  · exact ha ‹_›
  · exact hb

/-- The condition of such a command is `p && q`, or `p && q && r`. -/
theorem fst_of_and {p q : Bool} (h : (p && q) = true) : p = true := by
  simp only [Bool.and_eq_true] at h
  exact h.1

/-- Every command keeps the invariant. -/
theorem exec_resetInv {s : State} (h : ResetInv s) (c : Instr) : Gives (exec c s) ResetInv := by
  cases hc : drivesPins c
  case false =>
    obtain ⟨t, ht, -, hpin, hsame⟩ := exec_frame hc s
    exact ⟨t, ht, resetInv_of_frame h hpin (fun hdead => congrArg State.blk (hsame hdead))⟩
  cases c
  case chipResetAssert => exact ⟨_, rfl, resetInv_assert s⟩
  case chipResetRelease | resetAssertionMinimum =>
    exact gives_ite (fun hgo => resetInv_tryRelease (resetInv_hold h (fst_of_and hgo) _ _ _)) h
  case supplyAboveResetLevel =>
    exact gives_ite (fun hgo => resetInv_tryRelease (resetInv_hold h (fst_of_and (fst_of_and (fst_of_and hgo))) _ _ _)) h
  case supplyReset | propagateComplete | resetReqTimer =>
    exact gives_ite (fun hgo => resetInv_of_pins h (alive_rst (fst_of_and hgo)) rfl rfl rfl rfl rfl) h
  case bypassDrive axis =>
    refine gives_ite (fun hgo => ?_) h
    obtain ⟨x, y, z, hdrive⟩ := drive_eq s.pin axis
    rw [hdrive]
    exact resetInv_of_pins h (alive_rst (fst_of_and (fst_of_and hgo))) rfl rfl rfl rfl h.2.2
  all_goals cases hc

/-- Settles O12: a command at the queue's front keeps the invariant by `exec_resetInv`, and so does an edge of the reference, which moves
no signal. -/
theorem resetInvKept : Obligations.ResetInvKept := by
  unfold Obligations.ResetInvKept
  intro s t h hstep
  unfold step at hstep
  split at hstep
  · cases hstep
    exact resetInv_of_frame h (refEdge_frame s).2 (fun hdead => by simp [refEdge, hdead])
  · rename_i c rest hpending
    obtain ⟨t', ht', hinv⟩ := exec_resetInv (s := { s with pending := rest }) h c
    cases ht'.symm.trans hstep
    exact hinv

/-- Settles O11: the block is the fresh one, and no signal is asserted but the reset. -/
theorem resetInvHolds : Obligations.ResetInvHolds := by
  unfold Obligations.ResetInvHolds
  exact ⟨fun _ => ⟨rfl, rfl, rfl, rfl, rfl⟩, fun h => Bool.noConfusion h, rfl⟩

/-! ## The queue of waiting commands (log entries 1 and 58) -/

/-- Settles O13. -/
theorem stepRunsFront : Obligations.StepRunsFront := by
  unfold Obligations.StepRunsFront
  intro s c rest hpending
  rw [step, hpending]

/-- Settles O15: a change of the block leaves the queue, and so do the commands that drive the level signals. -/
theorem execAnswers : Obligations.ExecAnswers := by
  unfold Obligations.ExecAnswers
  intro c s
  cases hc : drivesPins c
  case false =>
    obtain ⟨t, ht, hpending, -⟩ := exec_frame hc s
    exact ⟨t, ht, hpending⟩
  cases c
  case chipResetAssert => exact ⟨_, rfl, rfl⟩
  case chipResetRelease | supplyAboveResetLevel | resetAssertionMinimum => exact gives_ite (fun _ => tryRelease_pending _) rfl
  case supplyReset | propagateComplete | resetReqTimer | bypassDrive => exact gives_ite (fun _ => rfl) rfl
  all_goals cases hc

/-- Settles O16: a change of the block needs a block out of reset whose units run, and so do the commands that drive a signal, but those of
the reset. -/
theorem stoppedInert : Obligations.StoppedInert := by
  unfold Obligations.StoppedInert
  intro c s hstill hassert hrelease hsupply hminimum
  have hdead := alive_false hstill
  cases hc : drivesPins c
  case false =>
    obtain ⟨t, ht, -, -, hsame⟩ := exec_frame hc s
    rw [ht, hsame hdead]
  cases c
  case chipResetAssert => exact absurd rfl hassert
  case chipResetRelease f v => exact absurd rfl (hrelease f v)
  case supplyAboveResetLevel v => exact absurd rfl (hsupply v)
  case resetAssertionMinimum => exact absurd rfl hminimum
  case supplyReset => simp [exec, execSupplyReset, hdead]
  case propagateComplete => simp [exec, execPropagateComplete, hdead]
  case resetReqTimer => simp [exec, execResetReqTimer, hdead]
  case bypassDrive => simp [exec, execBypassDrive, hdead]
  all_goals cases hc

/-! ## The state after reset (R461) -/

theorem sGet_fresh (i : BitVec 5) : sGet CoreSt.fresh i = 0 := by simp [sGet, CoreSt.fresh, fmGet, fmGet?]

theorem aGet_fresh (i : BitVec 5) : aGet CoreSt.fresh i = 0 := by simp [aGet, CoreSt.fresh, fmGet, fmGet?]

/-- Settles O10: the maps of the fresh block are empty, so that everything read from one has its default. -/
theorem resetState : Obligations.ResetState := by
  unfold Obligations.ResetState
  refine ⟨rfl, rfl, rfl, rfl, rfl, rfl, rfl, rfl, rfl, rfl, rfl, rfl, rfl, rfl, rfl, fun _ => rfl, fun _ _ => rfl, fun _ => rfl,
    fun _ => rfl, fun c i => ⟨sGet_fresh i, aGet_fresh i⟩, fun idx sub d hd => ?_⟩
  simp [dget, State.reset, Block.fresh, fmGet?, hd]


end Sys2Proof.Machine
end

section
/-! PROOFS. What stands still in a recovery sequence and before boot: O17. -/

namespace Sys2Proof.Machine

open Sys2Proof

/-! ## Changes that wait for the microsequencers and for the end of a sequence (R329, R382)

`liftR`, `liftU` and `liftReply` with their definitions written out: each command is one of these three by `rfl`. -/

theorem liftR_still {s : State} (h : s.blk.rcv.stage ≠ .idle ∨ s.blk.mic.status ≠ 2) (b : Block) :
    Host.Outcome.next (ρ := Refusal) (φ := Fault)
      (if alive s then s.withBlk (if ready s.blk && decide (s.blk.rcv.stage = .idle) then b else s.blk) else s) = .next s := by
  have hno : (ready s.blk && decide (s.blk.rcv.stage = .idle)) = false := by
    rcases h with h | h <;> simp [ready, h]
  simp [hno, State.withBlk]

theorem liftU_still {s : State} (h : s.blk.mic.status ≠ 2) (b : Block) :
    Host.Outcome.next (ρ := Refusal) (φ := Fault) (if alive s then s.withBlk (if ready s.blk then b else s.blk) else s) = .next s := by
  simp [ready, h, State.withBlk]

/-- The reply to accesses is dropped, and a sequence that waits for them waits no longer (R331). -/
theorem liftReply_dropped {s : State} (h : s.blk.rcv.stage ≠ .idle ∨ s.blk.mic.status ≠ 2) (l : List Access) (b : Block) :
    Host.Outcome.next (ρ := Refusal) (φ := Fault)
      (if alive s then s.withBlk (if ready s.blk then (if s.blk.rcv.stage = .idle then b else retire s.blk l) else s.blk) else s) =
      .next (if alive s && ready s.blk then s.withBlk (retire s.blk l) else s) := by
  cases hready : ready s.blk
  · simp [State.withBlk]
  · have hstage : s.blk.rcv.stage ≠ .idle := h.resolve_right (fun hstatus => by simp [ready, hstatus] at hready)
    simp [hstage]

/-- Settles O17: each command of the first list is a `liftR`, each of the last a `liftU`, and each reply a `liftReply` of its access. -/
theorem recoveryInert : Obligations.RecoveryInert := by
  unfold Obligations.RecoveryInert
  constructor
  · intro s hstill
    refine ⟨fun c f => ?_, fun x => ?_, fun c => ?_, fun sq => ?_, ?_, ?_, ?_, ?_, ?_, fun m => ?_, fun run => ?_, fun part => ?_,
      fun liveId => ?_, fun unit => ?_, fun cq => ?_, fun ctx => ?_, fun src tag => ?_, fun tag => ?_, fun q => ?_, fun cq => ?_, fun port => ?_,
      fun addr value => ?_, fun r => ?_, fun part => ?_, fun c op f => ?reserved, fun part res => ?_, fun unit sig corpus => ?_, fun m r => ?_,
      fun x producer => ?_, fun x consumer => ?_, ?replies⟩
    case reserved =>
      show execReservedOpcode c op f s = .next s
      unfold execReservedOpcode
      split
      · exact liftR_still hstill _
      · rfl
    case replies =>
      refine ⟨fun q t value => ?_, fun r => ?_, fun g r => ?_, fun c h va words => ?_, fun ctx va write => ?_, fun c h d => ?_,
        fun tag h d => ?_, fun tag h hdr recs => ?_, fun ctx => ?_⟩
      all_goals exact liftReply_dropped hstill _ _
    all_goals
      and_intros
      all_goals exact liftR_still hstill _
  · intro s hstill
    refine ⟨?_, ?_, fun l => ?_, fun c => ⟨?_, ?_, ?_⟩⟩
    all_goals exact liftU_still hstill _

end Sys2Proof.Machine
end

section
/-! PROOFS. A microword of a handler (spec/15_microcode.md, R370 to R373) is a step of its microsequencer (R324), which the block notes: this
refutes O39. -/

namespace Sys2Proof.Machine

open Sys2Proof

/-- A further microword of the handler on microsequencer 0 is a step of unit 1. -/
theorem unitSame_of_ran {a b : Block} {x z : MicroSeq} (ha : fmGet? a.mic.seqs 0 = some x) (hb : fmGet? b.mic.seqs 0 = some z)
    (h : x.steps ≠ z.steps) : unitSame a b 1 = false := by
  have hne : x ≠ z := fun heq => h (congrArg MicroSeq.steps heq)
  simp [unitSame, ha, hb, hne]

/-- Where no step has been noted, a microword of the handler on microsequencer 0 changes more than that microsequencer. -/
theorem withBlk_ne_of_ran {s : State} {x z : MicroSeq} (hx : fmGet? s.blk.mic.seqs 0 = some x) (hne : x.steps ≠ z.steps)
    (hprog : s.blk.rcv.prog = []) (d : Block) :
    (s.withBlk d).blk ≠ { s.blk with mic := { s.blk.mic with seqs := fmSet s.blk.mic.seqs 0 z } } := by
  intro hblk
  have hran : fmGet? d.mic.seqs 0 = some z := by
    have hmic := congrArg (fun b : Block => fmGet? b.mic.seqs 0) hblk
    simpa using hmic
  exact prog_ne_nil_of_step (u := 1) (by simp [unitIds]) (unitSame_of_ran hx hran hne)
    ((congrArg (fun b : Block => b.rcv.prog) hblk).trans hprog)

/-! ## The counterexample -/

/-- A customer submission's handler about to run its first microword, which microsequencer 0 holds. -/
def firstWord : MicroSeq := { MicroSeq.fresh with who := some (.sub 0), pc := 0x3000, limit := 1 }

/-- The block booted, with that handler and an empty control store: its microword and nano word are 0, PASS with no service. No unit has
completed a step yet. -/
def firstWordBlk : Block :=
  let f := Block.fresh
  { f with mic := { f.mic with status := 2, selftest := 1, seqs := [(0, firstWord)] } }

/-- The chip out of reset, with that block. -/
def firstWordState : State :=
  { pending := [], pin := { Pins.inReset with rst := false, long := true }, blk := firstWordBlk }

theorem firstWordState_running : Running firstWordState := ⟨⟨⟨rfl, rfl⟩, rfl⟩, rfl⟩

/-- Refutes O39: the microword of `firstWordState` runs, but the statement has the block otherwise as it was, and the block has noted the step
that the microsequencer's unit completes with it (R324, R335; log entry 72): none was noted before. -/
theorem not_microwordRuns : ¬ Obligations.MicrowordRuns := by
  unfold Obligations.MicrowordRuns
  intro h
  obtain ⟨hplain, -⟩ := h firstWordState 0 .timeout firstWord firstWordState_running rfl rfl
  obtain ⟨t, ht, z, ⟨-, -, -, hsteps, -⟩, hblk, -⟩ := hplain rfl
  have hexec : exec (.microword 0 .timeout) firstWordState = .next (firstWordState.withBlk (finish (microStep firstWordBlk 0 .timeout))) :=
    liftRA_running firstWordState_running fun b => microStep b 0 .timeout
  cases hexec.symm.trans ht
  exact withBlk_ne_of_ran rfl (by rw [hsteps]; decide) rfl _ hblk

end Sys2Proof.Machine
end

section
/-! PROOFS. Supply, ageing and cluster power (spec/18_power.md, R422 to R431): O59. -/

namespace Sys2Proof.Machine

open Sys2Proof

/-! ## Power records (R434) -/

/-- A power record takes its number, is written, and its stamp is kept. -/
theorem powerRec_eq (b : Block) (type index a v count : Nat) : ∃ seq mem floor, powerRec b type index a v count =
    { b with pwr := { b.pwr with seq := seq }, mem := mem, tide := { b.tide with stampFloor := floor } } := by
  unfold powerRec
  split
  · exact ⟨_, _, _, rfl⟩
  · dsimp only
    unfold ringPut
    split
    · exact ⟨_, _, _, rfl⟩
    · rw [wrOwn_noteStamp]
      exact ⟨_, _, _, rfl⟩

theorem powerRec_clusters (b : Block) (type index a v count : Nat) : (powerRec b type index a v count).pwr.clusters = b.pwr.clusters := by
  obtain ⟨_, _, _, h⟩ := powerRec_eq b type index a v count
  rw [h]

theorem powerRec_tableGen (b : Block) (type index a v count : Nat) : (powerRec b type index a v count).tableGen = b.tableGen := by
  obtain ⟨_, _, _, h⟩ := powerRec_eq b type index a v count
  rw [h]

/-! ## The brownout hold (R423, R424) -/

/-- The sample is at or above the warning level, or the hold has begun. -/
theorem brownoutHold_cond (b : Block) (mv : Nat) :
    ((supplySample b mv).pwr.hold || decide (mv ≥ warnMv (supplySample b mv))) = true ↔ b.pwr.hold = true ∨ dget b 0x7000 1 ≤ mv := by
  rw [Bool.or_eq_true, decide_eq_true_eq]
  rfl

theorem brownoutHold_enters {b : Block} {mv : Nat} (hhold : b.pwr.hold = false) (hlow : mv < dget b 0x7000 1) :
    brownoutHold b mv = powerRec (cnt { b with
      pwr := { (supplySample b mv).pwr with hold := true, holdFrom := b.tide.clock, holdMin := mv, holdFrame := b.tide.frame,
                                            holdCount := b2n b.tide.inFrames },
      tide := { b.tide with holdFrames := if b.tide.inFrames then noteFrame (supplySample b mv) b.tide.holdFrames b.tide.frame
                                          else b.tide.holdFrames } } cHold) 0x01 0 mv 0 0 := by
  unfold brownoutHold
  dsimp only
  rw [if_neg ((brownoutHold_cond b mv).not.mpr (by simp [hhold, hlow]))]
  rfl

theorem brownoutHold_stays {b : Block} {mv : Nat} (h : b.pwr.hold = true ∨ dget b 0x7000 1 ≤ mv) : brownoutHold b mv = supplySample b mv := by
  unfold brownoutHold
  dsimp only
  rw [if_pos ((brownoutHold_cond b mv).mpr h)]

/-- The sample is below the release level, or no hold is in force. -/
theorem holdRelease_cond (b : Block) (mv : Nat) : (!(supplySample b mv).pwr.hold || decide (mv < releaseMv (supplySample b mv))) = true ↔
    b.pwr.hold = false ∨ mv < dget b 0x7000 1 + dget b 0x7000 3 := by
  rw [Bool.or_eq_true, decide_eq_true_eq, Bool.not_eq_true']
  rfl

/-- The hold is over, and its record is still to be written. -/
def heldOver (b : Block) (mv : Nat) : Block :=
  let d := passTo (supplySample b mv) (b.pwr.aboveFrom + dget b 0x7000 4 * 1000)
  cntAdd { d with pwr := { d.pwr with hold := false } } cHoldTime ((d.tide.clock - b.pwr.holdFrom) / 1000)

theorem holdRelease_ends {b : Block} {mv : Nat} (hhold : b.pwr.hold = true) (hhigh : dget b 0x7000 1 + dget b 0x7000 3 ≤ mv) :
    ∃ a v n, holdRelease b mv = powerRec (heldOver b mv) 0x02 0 a v n := by
  have habove : (supplySample b mv).pwr.aboveFrom = b.pwr.aboveFrom := if_neg (Nat.not_lt.mpr hhigh)
  unfold holdRelease heldOver
  dsimp only
  rw [if_neg ((holdRelease_cond b mv).not.mpr (by simp [hhold, hhigh])), habove]
  exact ⟨_, _, _, rfl⟩

theorem holdRelease_stays {b : Block} {mv : Nat} (h : b.pwr.hold = false ∨ mv < dget b 0x7000 1 + dget b 0x7000 3) :
    holdRelease b mv = supplySample b mv := by
  unfold holdRelease
  dsimp only
  rw [if_pos ((holdRelease_cond b mv).mpr h)]

/-! ## A pass of the delay monitors (R427 to R429) -/

/-- `b` differs from `a` at most in what the monitors of a pass change: their ratios, the faults counted and the records written. -/
def Monitored (a b : Block) : Prop := ∃ ratios seq ctr mem floor, b = { a with
  pwr := { a.pwr with ratios := ratios, seq := seq }, ctr := ctr, mem := mem, tide := { a.tide with stampFloor := floor } }

theorem Monitored.trans {a b c : Block} (h : Monitored a b) (h' : Monitored b c) : Monitored a c := by
  obtain ⟨_, _, _, _, _, rfl⟩ := h
  obtain ⟨_, _, _, _, _, rfl⟩ := h'
  exact ⟨_, _, _, _, _, rfl⟩

theorem monitored_monitorOne (b : Block) (i stressed ref : Nat) : Monitored b (monitorOne b i stressed ref).2 := by
  unfold monitorOne
  dsimp only
  split
  · exact ⟨_, _, _, _, _, rfl⟩
  · obtain ⟨seq, mem, floor, h⟩ := powerRec_eq (cnt b cMonitorFault) 0x05 i (ratioTop b i stressed / ref) 0 0
    exact ⟨_, _, _, _, _, h⟩

theorem monitored_monitorAll (l : List (Nat × Nat)) (b : Block) (i : Nat) (best : Option Nat) :
    Monitored b (monitorAll b i best l).2 := by
  induction l generalizing b i best with
  | nil => exact ⟨_, _, _, _, _, rfl⟩
  | cons x l ih => exact (monitored_monitorOne b i x.1 x.2).trans (ih _ _ _)

/-- What a monitor adds to the ratios depends on the dictionary and the ratios alone. -/
theorem monitorOne_congr {a b : Block} (hdict : a.dict = b.dict) (hratios : a.pwr.ratios = b.pwr.ratios) (i stressed ref : Nat) :
    (monitorOne a i stressed ref).1 = (monitorOne b i stressed ref).1 ∧
    (monitorOne a i stressed ref).2.dict = (monitorOne b i stressed ref).2.dict ∧
    (monitorOne a i stressed ref).2.pwr.ratios = (monitorOne b i stressed ref).2.pwr.ratios := by
  have htop : ratioTop a i stressed = ratioTop b i stressed := by simp only [ratioTop, monOffset, dget, hdict]
  have hvalid : ratioValid a i stressed ref = ratioValid b i stressed ref := by simp only [ratioValid, htop]
  unfold monitorOne
  dsimp only
  rw [hvalid, htop]
  split
  · exact ⟨rfl, hdict, by rw [hratios]⟩
  · obtain ⟨_, _, _, ha⟩ := powerRec_eq (cnt a cMonitorFault) 0x05 i (ratioTop b i stressed / ref) 0 0
    obtain ⟨_, _, _, hb⟩ := powerRec_eq (cnt b cMonitorFault) 0x05 i (ratioTop b i stressed / ref) 0 0
    rw [ha, hb]
    exact ⟨rfl, hdict, hratios⟩

theorem monitorAll_congr (l : List (Nat × Nat)) {a b : Block} (hdict : a.dict = b.dict) (hratios : a.pwr.ratios = b.pwr.ratios) (i : Nat)
    (best : Option Nat) : (monitorAll a i best l).1 = (monitorAll b i best l).1 := by
  induction l generalizing a b i best with
  | nil => rfl
  | cons x l ih =>
    obtain ⟨htakes, hdict', hratios'⟩ := monitorOne_congr hdict hratios i x.1 x.2
    simp only [monitorAll, htakes, hratios']
    exact ih hdict' hratios' _ _

/-- `b` has the ageing and the advisories of `a`, at the same instant. -/
structure SameAdvice (a b : Block) : Prop where
  ageing : b.pwr.ageing = a.pwr.ageing
  gen : b.pwr.gen = a.pwr.gen
  factors : b.pwr.factors = a.pwr.factors
  monAt : b.pwr.monAt = a.pwr.monAt
  clock : b.tide.clock = a.tide.clock

namespace SameAdvice

theorem of_eq {a b : Block} (hpwr : b.pwr = a.pwr) (hclock : b.tide.clock = a.tide.clock) : SameAdvice a b :=
  ⟨congrArg _ hpwr, congrArg _ hpwr, congrArg _ hpwr, congrArg _ hpwr, hclock⟩

theorem trans {a b c : Block} (h : SameAdvice a b) (h' : SameAdvice b c) : SameAdvice a c :=
  ⟨h'.ageing.trans h.ageing, h'.gen.trans h.gen, h'.factors.trans h.factors, h'.monAt.trans h.monAt, h'.clock.trans h.clock⟩

end SameAdvice

theorem sameAdvice_powerRec (b : Block) (type index a v count : Nat) : SameAdvice b (powerRec b type index a v count) := by
  obtain ⟨_, _, _, h⟩ := powerRec_eq b type index a v count
  rw [h]
  exact ⟨rfl, rfl, rfl, rfl, rfl⟩

theorem sameAdvice_askLength (b : Block) (len : Nat) : SameAdvice b (askLength b len) := by
  unfold askLength
  split
  · rw [scheduleLength_eq]
    exact .of_eq rfl rfl
  · split
    · obtain ⟨-, -, _, _, _, h⟩ := sends_gzSend b _ (.lengthRequest len)
      rw [h]
      exact .of_eq rfl rfl
    · exact .of_eq rfl rfl

theorem sameAdvice_lengthen (b : Block) : SameAdvice b (lengthen b) := by
  have hask (d : Block) (n : Nat) : SameAdvice d (askLength (if timeMaster d then d else cnt d cLengthen) n) := by
    split
    · exact sameAdvice_askLength _ _
    · exact (SameAdvice.of_eq (a := d) (b := cnt d cLengthen) rfl rfl).trans (sameAdvice_askLength _ _)
  unfold lengthen
  dsimp only
  split
  · split
    · refine SameAdvice.trans ?_ (hask _ _)
      refine SameAdvice.trans ?_ (sameAdvice_powerRec _ _ _ _ _ _)
      exact .of_eq rfl rfl
    · split
      · exact hask _ _
      · exact .of_eq rfl rfl
  · split
    · exact hask _ _
    · exact .of_eq rfl rfl

/-- The factor that a margin advisory would set (R428). -/
def newFactor (b : Block) : Nat := ceilDiv (b.pwr.ageing * (1024 + dget b 0x7020 5)) eolFactor

/-- A margin advisory is due. -/
def adviceDue (b : Block) : Prop :=
  b.pwr.ageing * 1024 * 1024 ≥ eolFactor * advFactor b * dget b 0x7020 4 ∧ advFactor b < newFactor b

/-- The block with the next generation of advisories in force. -/
def advised (b : Block) : Block :=
  { b with pwr := { b.pwr with gen := (b.pwr.gen + 1) % 2 ^ 32, factors := (newFactor b :: b.pwr.factors).take 16 } }

theorem advise_due {b : Block} (h : adviceDue b) : SameAdvice (advised b) (advise b) := by
  obtain ⟨hmargin, hrises⟩ := h
  unfold advise
  dsimp only
  rw [if_pos (by simpa using ⟨hmargin, hrises⟩)]
  have hrecord := sameAdvice_powerRec (cnt (advised b) cAdvisory) 0x03 0 b.pwr.ageing (newFactor b) ((b.pwr.gen + 1) % 2 ^ 32)
  have hcounted : SameAdvice (advised b) (cnt (advised b) cAdvisory) := .of_eq rfl rfl
  obtain ⟨hageing, hgen, hfactors, hmonAt, hclock⟩ := hcounted.trans hrecord
  exact ⟨hageing, hgen, hfactors, hmonAt, hclock⟩

theorem advise_not_due {b : Block} (h : ¬ adviceDue b) : advise b = b := by
  unfold advise
  dsimp only
  rw [if_neg]
  intro hdue
  exact h (by simpa [adviceDue, newFactor] using hdue)

/-- The block once the monitors of a pass have been read: the instant is noted and the ageing set. -/
def passRead (b : Block) (l : List (Nat × Nat)) : Block :=
  let d := passTo b (b.pwr.monAt + dget b 0x7020 7 * 1000000)
  let e := { d with pwr := { d.pwr with monAt := d.tide.clock } }
  let r := monitorAll e 0 none l
  match r.1 with
  | some a => { r.2 with pwr := { r.2.pwr with ageing := a } }
  | none => r.2

theorem monitorPass_eq {b : Block} {l : List (Nat × Nat)} (h : l.length = 32) : monitorPass b l = lengthen (advise (passRead b l)) := by
  unfold monitorPass
  rw [if_neg (by simp [h])]
  rfl

/-- A pass sets the ageing and the instant, and leaves the advisories. -/
theorem passRead_spec (b : Block) (l : List (Nat × Nat)) :
    (passRead b l).dict = b.dict ∧ (passRead b l).pwr.ageing = (monitorAll b 0 none l).1.getD b.pwr.ageing ∧
    (passRead b l).pwr.gen = b.pwr.gen ∧ (passRead b l).pwr.factors = b.pwr.factors ∧
    (passRead b l).pwr.monAt = max b.tide.clock (b.pwr.monAt + dget b 0x7020 7 * 1000000) ∧
    (passRead b l).tide.clock = max b.tide.clock (b.pwr.monAt + dget b 0x7020 7 * 1000000) := by
  unfold passRead
  dsimp only
  generalize he : ({ passTo b (b.pwr.monAt + dget b 0x7020 7 * 1000000) with
    pwr := { (passTo b (b.pwr.monAt + dget b 0x7020 7 * 1000000)).pwr with
      monAt := (passTo b (b.pwr.monAt + dget b 0x7020 7 * 1000000)).tide.clock } } : Block) = e
  have hfst : (monitorAll e 0 none l).1 = (monitorAll b 0 none l).1 := monitorAll_congr l (by rw [← he]; rfl) (by rw [← he]; rfl) 0 none
  obtain ⟨_, _, _, _, _, hsnd⟩ := monitored_monitorAll l e 0 none
  rw [hfst, hsnd, ← he]
  cases (monitorAll b 0 none l).1 with
  | none => exact ⟨rfl, rfl, rfl, rfl, rfl, rfl⟩
  | some a => exact ⟨rfl, rfl, rfl, rfl, rfl, rfl⟩

/-! ## Cluster power (R430, R431) -/

/-- An order that changes the state ordered: the cluster's record, the order driven, and where it was `OFF` a wake counted. -/
theorem orderPower_moves {b : Block} {c st : Nat} (h : (pwrOf b c).order ≠ st) :
    pwrOf (orderPower b c st) c = { pwrOf b c with order := st } ∧ (orderPower b c st).out = .power c st :: b.out ∧
    ((pwrOf b c).order = 0 → fmGet (orderPower b c st).ctr cWake 0 = satAdd 32 (fmGet b.ctr cWake 0) 1) := by
  unfold orderPower
  dsimp only
  rw [if_neg h]
  split
  · rename_i hoff
    exact ⟨by simp [pwrOf, emit, cnt, cntAdd], rfl, fun _ => fmGet_fmSet_self _ _ _ _⟩
  · rename_i hon
    exact ⟨by simp [pwrOf, emit], rfl, fun hoff => absurd hoff hon⟩

theorem orderPower_tide (b : Block) (c st : Nat) : (orderPower b c st).tide = b.tide := by
  rw [orderPower_eq]

theorem pwrOf_passTo (b : Block) (t c : Nat) : pwrOf (passTo b t) c = pwrOf b c := rfl

theorem pwrOf_passRef (b : Block) (t c : Nat) : pwrOf (passRef b t) c = pwrOf b c := by
  obtain ⟨_, _, h⟩ := passRef_eq b t
  rw [h]
  rfl

theorem passRef_time_eq (b : Block) (t : Nat) :
    (passRef b t).tide.time = if timeRuns b then max b.tide.time t % 2 ^ 64 else b.tide.time := by
  cases h : timeRuns b
  · rw [passRef_held h]; rfl
  · exact passRef_time h t

theorem clusterIdle_orders {b : Block} {c : Nat} (hpart : (clusterPart b c).isSome = true) (horder : (pwrOf b c).order = 3)
    (hunused : clusterUnused b c = true) :
    clusterIdle b c = orderPower (passTo b ((pwrOf b c).unused + dget b 0x7010 1 * 1000)) c 2 := by
  simp [clusterIdle, hpart, horder, hunused]

/-- A cluster that may be ordered `OFF` is, unless it is needed soon. -/
theorem clusterOff_eq {b : Block} {c p : Nat} (hpart : clusterPart b c = some p) (horder : (pwrOf b c).order = 2)
    (hstate : (pwrOf b c).state = 2) (hunused : clusterUnused b c = true) (hafter : dget b 0x7010 2 ≠ 0xFFFFFFFF) {t : Nat}
    (ht : max b.tide.clock ((pwrOf b c).idle + dget b 0x7010 2 * 1000) = t) :
    clusterOff b c = if (nextNeed b p c).all (fun n => decide (t + wakeOffLead b < clockAt b n)) then orderPower (passTo b t) c 0 else b := by
  simp [clusterOff, hpart, horder, hstate, hunused, hafter, ht]

theorem clusterWake_forHeat {b : Block} {c p : Nat} (hpart : clusterPart b c = some p) (horder : (pwrOf b c).order = 0)
    (hset : (wakeSet b p).contains c = true) : clusterWake b c = orderPower b c 2 := by
  simp only [clusterWake, hpart, horder, hset, decide_true, Bool.and_self, if_true]

/-- A cluster woken ahead of its next need. -/
theorem clusterWake_forNeed {b : Block} {c p n : Nat} (hpart : clusterPart b c = some p) (hset : (wakeSet b p).contains c = false)
    (hneed : nextNeed b p c = some n) : clusterWake b c =
      if (pwrOf b c).order = 0 then orderPower (passRef b (n - wakeOffLead b)) c 2
      else if (pwrOf b c).order = 2 then orderPower (passRef b (n - wakeIdleLead b)) c 3 else b := by
  simp only [clusterWake, hpart, hset, Bool.and_false, Bool.false_eq_true, if_false, hneed]

/-- The block once a report has set the state of its cluster, the record of a late wake still to be written. -/
def reported (b : Block) (c st : Nat) : Block :=
  let x := pwrOf b c
  let d := if x.state = st then b else tableChanged b
  { d with pwr := { d.pwr with clusters := fmSet d.pwr.clusters c { x with
      state := st, idle := if st = 2 ∧ x.state ≠ 2 then d.tide.clock else x.idle, late := if st = 3 then none else x.late } } }

theorem powerReport_eq {b : Block} {c st : Nat} (hc : c < 64) (hst : st ≤ 3) :
    (powerReport b c st).pwr.clusters = (reported b c st).pwr.clusters ∧ (powerReport b c st).tableGen = (reported b c st).tableGen := by
  unfold powerReport reported
  dsimp only
  rw [if_neg (by omega)]
  split
  · split
    · exact ⟨powerRec_clusters _ _ _ _ _ _, powerRec_tableGen _ _ _ _ _ _⟩
    · exact ⟨rfl, rfl⟩
  · exact ⟨rfl, rfl⟩

theorem reported_clusters (b : Block) (c st : Nat) : (reported b c st).pwr.clusters = fmSet b.pwr.clusters c { pwrOf b c with
    state := st, idle := if st = 2 ∧ (pwrOf b c).state ≠ 2 then b.tide.clock else (pwrOf b c).idle,
    late := if st = 3 then none else (pwrOf b c).late } := by
  unfold reported
  dsimp only
  split
  · rfl
  · rfl

/-- A report sets the state of its cluster alone. -/
theorem powerReport_spec {b : Block} {c st : Nat} (hc : c < 64) (hst : st ≤ 3) :
    (pwrOf (powerReport b c st) c).state = st ∧ (pwrOf (powerReport b c st) c).order = (pwrOf b c).order ∧
    (∀ e, e ≠ c → pwrOf (powerReport b c st) e = pwrOf b e) ∧
    (powerReport b c st).tableGen = (if (pwrOf b c).state = st then b.tableGen else (b.tableGen + 1) % 2 ^ 32) ∧
    (st = 3 → (pwrOf (powerReport b c st) c).late = none) := by
  obtain ⟨hclusters, hgen⟩ := powerReport_eq (b := b) hc hst
  rw [reported_clusters] at hclusters
  have hself : pwrOf (powerReport b c st) c = { pwrOf b c with
      state := st, idle := if st = 2 ∧ (pwrOf b c).state ≠ 2 then b.tide.clock else (pwrOf b c).idle,
      late := if st = 3 then none else (pwrOf b c).late } := by
    rw [pwrOf, hclusters, fmGet?_fmSet_self]; rfl
  refine ⟨by rw [hself], by rw [hself], fun e he => ?_, ?_, fun h3 => by rw [hself]; exact if_pos h3⟩
  · rw [pwrOf, hclusters, fmGet?_fmSet_ne _ _ he]; rfl
  · rw [hgen, reported]
    dsimp only
    split
    · rfl
    · rfl

/-- A pass of the monitors, with the advisory that may follow (R427, R428). -/
theorem monitorPass_spec {b : Block} {l : List (Nat × Nat)} (hlen : l.length = 32) {A at_ : Nat}
    (hA : (monitorAll b 0 none l).1.getD b.pwr.ageing = A) (hat : max b.tide.clock (b.pwr.monAt + dget b 0x7020 7 * 1000000) = at_) :
    let new := ceilDiv (A * (1024 + dget b 0x7020 5)) eolFactor
    let due := A * 1024 * 1024 ≥ eolFactor * advFactor b * dget b 0x7020 4 ∧ advFactor b < new
    let d := monitorPass b l
    d.pwr.ageing = A ∧ (d.tide.clock, d.pwr.monAt) = (at_, at_) ∧
    (due → d.pwr.gen = (b.pwr.gen + 1) % 2 ^ 32 ∧ d.pwr.factors = (new :: b.pwr.factors).take 16) ∧
    (¬ due → d.pwr.gen = b.pwr.gen ∧ d.pwr.factors = b.pwr.factors) := by
  intro new due
  obtain ⟨hdict, hageing, hgen, hfactors, hmonAt, hclock⟩ := passRead_spec b l
  have hnew : newFactor (passRead b l) = new := by simp only [new, newFactor, dget, hdict, hageing, hA]
  have hdue : adviceDue (passRead b l) ↔ due := by simp only [due, adviceDue, hnew, advFactor, dget, hdict, hageing, hA, hfactors]
  rw [monitorPass_eq hlen]
  obtain ⟨hageing', hgen', hfactors', hmonAt', hclock'⟩ := sameAdvice_lengthen (advise (passRead b l))
  dsimp only
  rw [hageing', hgen', hfactors', hmonAt', hclock']
  by_cases h : adviceDue (passRead b l)
  · obtain ⟨hageing'', hgen'', hfactors'', hmonAt'', hclock''⟩ := advise_due h
    rw [hageing'', hgen'', hfactors'', hmonAt'', hclock'']
    refine ⟨hageing.trans hA, ?_, fun _ => ⟨?_, ?_⟩, fun hno => absurd (hdue.mp h) hno⟩
    · exact Prod.ext (hclock.trans hat) (hmonAt.trans hat)
    · rw [advised, hgen]
    · rw [advised, hnew, hfactors]
  · rw [advise_not_due h]
    exact ⟨hageing.trans hA, Prod.ext (hclock.trans hat) (hmonAt.trans hat), fun hyes => absurd (hdue.mpr hyes) h, fun _ => ⟨hgen, hfactors⟩⟩

/-- Settles O59: each command is a lift of its change, whose equation in the case at hand gives the clause. -/
theorem powerEvents : Obligations.PowerEvents := by
  unfold Obligations.PowerEvents
  intro s mv c halive
  dsimp only
  refine ⟨fun hhold hlow => ?_, fun hstays => ?_, fun hhold hhigh => ?_, fun hstays => ?_, fun hlow => ?_, fun hhigh => ?_,
    fun l hboot hlen => ?_, fun hboot hpart horder hunused => ?_, fun p hboot hpart =>
      ⟨fun horder hstate hunused hafter => ⟨fun hneed => ?_, fun n hneed hfar => ?_, fun n hneed hsoon => ?_⟩,
      fun horder hset => ?_, fun n hneed hset => ⟨fun horder => ?_, fun horder => ?_⟩⟩, fun st hc hst => ?_⟩
  · refine gives_withBlk (lift_of_alive halive fun b => brownoutHold b mv) ?_
    rw [withBlk_blk, brownoutHold_enters hhold hlow]
    obtain ⟨_, _, _, h⟩ := powerRec_eq (cnt _ cHold) 0x01 0 mv 0 0
    rw [h]
    exact ⟨rfl, rfl, fmGet_fmSet_self _ _ _ _, rfl, rfl⟩
  · rw [← brownoutHold_stays hstays]
    exact lift_of_alive halive fun b => brownoutHold b mv
  · refine gives_withBlk (lift_of_alive halive fun b => holdRelease b mv) ?_
    obtain ⟨a, v, n, hends⟩ := holdRelease_ends hhold hhigh
    obtain ⟨_, _, _, h⟩ := powerRec_eq (heldOver s.blk mv) 0x02 0 a v n
    rw [withBlk_blk, hends, h]
    exact ⟨rfl, rfl, rfl, fmGet_fmSet_self _ _ _ _, rfl⟩
  · rw [← holdRelease_stays hstays]
    exact lift_of_alive halive fun b => holdRelease b mv
  · refine ⟨{ s with pin := s.pin.stop, blk := supplySample s.blk mv }, ?_, rfl, rfl, rfl⟩
    simp [exec, execSupplyReset, resetMv, alive_eq_true halive, hlow]
  · simp [exec, execSupplyReset, resetMv, Nat.not_lt.mpr hhigh]
  · exact gives_withBlk (liftU_booted ⟨halive, hboot⟩ fun b => monitorPass b l) (monitorPass_spec hlen rfl rfl)
  · refine gives_withBlk (liftU_booted ⟨halive, hboot⟩ fun b => clusterIdle b c) ?_
    rw [withBlk_blk, clusterIdle_orders hpart horder hunused]
    obtain ⟨hmoved, hout, -⟩ := orderPower_moves (b := passTo s.blk ((pwrOf s.blk c).unused + dget s.blk 0x7010 1 * 1000)) (c := c) (st := 2)
      (by rw [pwrOf_passTo, horder]; decide)
    exact ⟨hmoved, congrArg Tide.clock (orderPower_tide _ _ _), hout⟩
  · refine gives_withBlk (liftU_booted ⟨halive, hboot⟩ fun b => clusterOff b c) ?_
    rw [withBlk_blk, clusterOff_eq hpart horder hstate hunused hafter rfl, if_pos (by simp [hneed])]
    obtain ⟨hmoved, hout, -⟩ := orderPower_moves (b := passTo s.blk (max s.blk.tide.clock ((pwrOf s.blk c).idle + dget s.blk 0x7010 2 * 1000)))
      (c := c) (st := 0) (by rw [pwrOf_passTo, horder]; decide)
    exact ⟨hmoved, (congrArg Tide.clock (orderPower_tide _ _ _)).trans (max_eq_right (le_max_left _ _)), hout⟩
  · refine gives_withBlk (liftU_booted ⟨halive, hboot⟩ fun b => clusterOff b c) ?_
    rw [withBlk_blk, clusterOff_eq hpart horder hstate hunused hafter rfl, if_pos (by simpa [hneed] using hfar)]
    obtain ⟨hmoved, hout, -⟩ := orderPower_moves (b := passTo s.blk (max s.blk.tide.clock ((pwrOf s.blk c).idle + dget s.blk 0x7010 2 * 1000)))
      (c := c) (st := 0) (by rw [pwrOf_passTo, horder]; decide)
    exact ⟨hmoved, hout⟩
  · refine (liftU_booted ⟨halive, hboot⟩ fun b => clusterOff b c).trans ?_
    rw [clusterOff_eq hpart horder hstate hunused hafter rfl, if_neg (by simpa [hneed] using hsoon)]
    simp [State.withBlk]
  · refine gives_withBlk (liftU_booted ⟨halive, hboot⟩ fun b => clusterWake b c) ?_
    rw [withBlk_blk, clusterWake_forHeat hpart horder hset]
    obtain ⟨hmoved, -, hwoken⟩ := orderPower_moves (b := s.blk) (c := c) (st := 2) (by rw [horder]; decide)
    exact ⟨hmoved, hwoken horder⟩
  · refine gives_withBlk (liftU_booted ⟨halive, hboot⟩ fun b => clusterWake b c) ?_
    rw [withBlk_blk, clusterWake_forNeed hpart hset hneed, if_pos horder]
    obtain ⟨hmoved, -⟩ := orderPower_moves (b := passRef s.blk (n - wakeOffLead s.blk)) (c := c) (st := 2)
      (by rw [pwrOf_passRef, horder]; decide)
    rw [pwrOf_passRef] at hmoved
    exact ⟨hmoved, (congrArg Tide.time (orderPower_tide _ _ _)).trans (passRef_time_eq _ _)⟩
  · refine gives_withBlk (liftU_booted ⟨halive, hboot⟩ fun b => clusterWake b c) ?_
    rw [withBlk_blk, clusterWake_forNeed hpart hset hneed, if_neg (by rw [horder]; decide), if_pos horder]
    obtain ⟨hmoved, -⟩ := orderPower_moves (b := passRef s.blk (n - wakeIdleLead s.blk)) (c := c) (st := 3)
      (by rw [pwrOf_passRef, horder]; decide)
    rw [pwrOf_passRef] at hmoved
    exact ⟨hmoved, (congrArg Tide.time (orderPower_tide _ _ _)).trans (passRef_time_eq _ _)⟩
  · exact gives_withBlk (lift_of_alive halive fun b => powerReport b c st) (powerReport_spec hc hst)

end Sys2Proof.Machine
end

section
/-! PROOFS. A command whose change of the block is known. -/

namespace Sys2Proof.Machine

open Sys2Proof

section
variable {s : State} {d : Block}

theorem lift_eq (h : Alive s) {f : Block → Block} (hf : f s.blk = d) : lift f s = .next (s.withBlk d) :=
  hf ▸ lift_of_alive h f

theorem liftA_eq (h : Alive s) {f : Block → Act} (hf : f s.blk = act d) : liftA f s = .next (s.withBlk d) := by
  rw [liftA_alive h, hf, finish_act]

theorem liftR_eq (h : Running s) {f : Block → Block} (hf : f s.blk = d) : liftR f s = .next (s.withBlk d) :=
  hf ▸ liftR_running h f

theorem liftRA_eq (h : Running s) {f : Block → Act} (hf : f s.blk = act d) : liftRA f s = .next (s.withBlk d) := by
  rw [liftRA_running h, hf, finish_act]

end

end Sys2Proof.Machine
end

section
/-! PROOFS. What the sending of Grizin messages changes of the block (spec/12_fabric.md, R309 to R316): the copies, the queue and the send times
of the ports, the numbers of messages, three counters and the outputs. -/

namespace Sys2Proof.Machine

open Sys2Proof

/-- A port whose link is as it was: only what it has sent and keeps to send again differs. -/
def LinkKept (l l' : LinkPort) : Prop := ∃ copies waiting txCount lastTx packets,
  l' = { l with copies := copies, waiting := waiting, txCount := txCount, lastTx := lastTx, packets := packets }

theorem LinkKept.refl (l : LinkPort) : LinkKept l l := ⟨_, _, _, _, _, rfl⟩

theorem LinkKept.trans {l l' l'' : LinkPort} (h : LinkKept l l') (h' : LinkKept l' l'') : LinkKept l l'' := by
  obtain ⟨_, _, _, _, _, rfl⟩ := h
  obtain ⟨_, _, _, _, _, rfl⟩ := h'
  exact ⟨_, _, _, _, _, rfl⟩

@[simp] theorem linkOf_putLink (b : Block) (p : Nat) (l : LinkPort) : linkOf (putLink b p l) p = l := by
  simp [linkOf, putLink]

theorem linkOf_putLink_ne (b : Block) {p q : Nat} (l : LinkPort) (h : q ≠ p) : linkOf (putLink b p l) q = linkOf b q := by
  simp only [linkOf, putLink, fmGet?_fmSet_ne _ _ h]

theorem linkKept_putLink {b : Block} {p : Nat} {l : LinkPort} (h : LinkKept (linkOf b p) l) (q : Nat) :
    LinkKept (linkOf b q) (linkOf (putLink b p l) q) := by
  by_cases e : q = p
  · subst e; rwa [linkOf_putLink]
  · rw [linkOf_putLink_ne b l e]; exact .refl _

/-- The counters that the sending of a message may raise: messages sent, hops spent, no route. -/
def sendKeys : List Nat := [cGzTx, cGzHop, cGzNoRoute]

/-- `b` differs from `a` at most in what the sending of messages changes. -/
structure Posts (a b : Block) : Prop where
  links : ∀ p, LinkKept (linkOf a p) (linkOf b p)
  counts : ∀ key, key ∉ sendKeys → fmGet b.ctr key 0 = fmGet a.ctr key 0
  out : ∃ l, b.out = l ++ a.out
  rest : ∃ ports resend txSeq treeSeq ctr out, b = { a with
    fab := { a.fab with ports := ports, resend := resend, txSeq := txSeq, treeSeq := treeSeq }, ctr := ctr, out := out }

namespace Posts

variable {a b c : Block}

theorem refl (a : Block) : Posts a a := ⟨fun _ => .refl _, fun _ _ => rfl, ⟨[], rfl⟩, _, _, _, _, _, _, rfl⟩

theorem trans (h : Posts a b) (h' : Posts b c) : Posts a c := by
  obtain ⟨hlinks, hcounts, ⟨l, hout⟩, _, _, _, _, _, _, hb⟩ := h
  obtain ⟨hlinks', hcounts', ⟨l', hout'⟩, _, _, _, _, _, _, hc⟩ := h'
  refine ⟨fun p => (hlinks p).trans (hlinks' p), fun key hkey => (hcounts' key hkey).trans (hcounts key hkey),
    ⟨l' ++ l, by rw [hout', hout, List.append_assoc]⟩, ?_⟩
  rw [hc, hb]
  exact ⟨_, _, _, _, _, _, rfl⟩

theorem foldl {α : Type} {f : Block → α → Block} (h : ∀ b x, Posts b (f b x)) (l : List α) (b : Block) : Posts b (l.foldl f b) := by
  induction l generalizing b with
  | nil => exact refl b
  | cons x xs ih => exact (h b x).trans (ih (f b x))

end Posts

theorem posts_emit (b : Block) (e : OutEvent) : Posts b (emit b e) :=
  ⟨fun _ => .refl _, fun _ _ => rfl, ⟨[e], rfl⟩, _, _, _, _, _, _, rfl⟩

theorem posts_putLink {b : Block} {p : Nat} {l : LinkPort} (h : LinkKept (linkOf b p) l) : Posts b (putLink b p l) :=
  ⟨linkKept_putLink h, fun _ _ => rfl, ⟨[], rfl⟩, _, _, _, _, _, _, rfl⟩

theorem posts_cntAdd (b : Block) {key : Nat} (h : key ∈ sendKeys) (k : Nat) : Posts b (cntAdd b key k) :=
  ⟨fun _ => .refl _, fun _ hj => fmGet_fmSet_ne _ _ _ (fun e => hj (e ▸ h)), ⟨[], rfl⟩, _, _, _, _, _, _, rfl⟩

theorem posts_cnt (b : Block) {key : Nat} (h : key ∈ sendKeys) : Posts b (cnt b key) := posts_cntAdd b h 1

theorem posts_resend (b : Block) (l : List GzOut) : Posts b { b with fab := { b.fab with resend := l } } :=
  ⟨fun _ => .refl _, fun _ _ => rfl, ⟨[], rfl⟩, _, _, _, _, _, _, rfl⟩

theorem posts_putOnPort (b : Block) (p : Nat) (m : GzOut) : Posts b (putOnPort b p m) := by
  unfold putOnPort
  dsimp only
  split
  · split
    · exact posts_putLink ⟨_, _, _, _, _, rfl⟩
    · exact (posts_putLink ⟨_, _, _, _, _, rfl⟩).trans (posts_emit _ _)
  · exact (posts_putLink ⟨_, _, _, _, _, rfl⟩).trans (posts_emit _ _)

theorem posts_gzRoute (b : Block) (m : GzOut) : Posts b (gzRoute b m) := by
  unfold gzRoute
  split
  · split
    · exact posts_cnt b (by decide)
    · split
      · exact posts_putOnPort _ _ _
      · exact posts_resend _ _
  · exact posts_cnt b (by decide)

theorem posts_gzSend (b : Block) (dst : Nat) (msg : GzMsg) : Posts b (gzSend b dst msg) := by
  have hnumber (seqs : FMap (BitVec 32)) : Posts b { b with fab := { b.fab with txSeq := seqs } } :=
    ⟨fun _ => .refl _, fun _ _ => rfl, ⟨[], rfl⟩, _, _, _, _, _, _, rfl⟩
  exact (hnumber _).trans ((posts_cnt _ (by decide)).trans (posts_gzRoute _ _))

theorem posts_gzTree (b : Block) (msg : GzMsg) : Posts b (gzTree b msg) := by
  have hnumber (seq : BitVec 32) : Posts b { b with fab := { b.fab with treeSeq := seq } } :=
    ⟨fun _ => .refl _, fun _ _ => rfl, ⟨[], rfl⟩, _, _, _, _, _, _, rfl⟩
  unfold gzTree
  dsimp only
  split
  · exact .refl b
  · exact (hnumber _).trans ((posts_cnt _ (by decide)).trans (Posts.foldl (fun b n => posts_gzRoute b _) _ _))

theorem posts_gzLink (b : Block) (p : Nat) (msg : GzMsg) : Posts b (gzLink b p msg) :=
  (posts_putLink ⟨_, _, _, _, _, rfl⟩).trans (posts_emit _ _)

theorem posts_floodOn (b : Block) (p : Nat) (m : GzOut) : Posts b (floodOn b p m) := posts_putOnPort _ _ _

theorem Posts.abortNum {a b : Block} (h : Posts a b) : b.fab.abortNum = a.fab.abortNum := by
  obtain ⟨-, -, -, _, _, _, _, _, _, rfl⟩ := h; rfl

end Sys2Proof.Machine
end

section
/-! PROOFS. The steps of a recovery sequence (spec/13_recovery.md, R329 to R332, R337, R338): O53. -/

namespace Sys2Proof.Machine

open Sys2Proof

/-! ## The fence step (R329) -/

theorem Records.foldl {α : Type} {f : Block → α → Block} (h : ∀ b x, Records b (f b x)) (l : List α) (b : Block) :
    Records b (l.foldl f b) := by
  induction l generalizing b with
  | nil => exact .refl b
  | cons x xs ih => exact (h b x).trans (ih (f b x))

theorem records_traceResume (b : Block) (c : Nat) (k : CoreSt) (cause : Nat) : Records b (traceResume b c k cause) := by
  unfold traceResume
  split
  · exact records_traceAt _ _ _ _ _ _
  · exact .refl b

/-- An accepted L baton is cancelled; the others drain. -/
def cancelMark (x : Baton) : Baton := if isL x.ent.pos then { x with cancelled := true } else x

theorem cancelMark_idem (x : Baton) : cancelMark (cancelMark x) = cancelMark x := by
  unfold cancelMark
  split
  · simp
  · simp

/-- The cancels of a port's accepted L batons: each is marked, the others drain, and the cancels are driven. -/
theorem cancelAt_eq (b : Block) (c : Nat) : ∃ out, cancelAt (fun _ => true) b c =
    { b with ports := fmSet b.ports c { portOf b c with out := (portOf b c).out.map cancelMark }, out := out } := by
  have hmark (x : Baton) : (if (isL x.ent.pos && !x.cancelled && true) = true then { x with cancelled := true } else x) = cancelMark x := by
    unfold cancelMark
    cases hl : isL x.ent.pos
    · simp
    · cases hc : x.cancelled
      · simp
      · simp [← hc]
  have hcancels (l : List Baton) (d : Block) : ∃ out,
      l.foldl (fun b x => emit b (.cancel (batonPeer x.ent).1 (batonPeer x.ent).2)) d = { d with out := out } := by
    induction l generalizing d with
    | nil => exact ⟨d.out, rfl⟩
    | cons x xs ih => exact ih (emit d _)
  unfold cancelAt
  simp only [hmark]
  exact hcancels _ _

/-- The cancels of several ports. -/
theorem foldl_cancelAt (l : List Nat) (b : Block) : ∃ ports out, l.foldl (cancelAt (fun _ => true)) b = { b with ports := ports, out := out } ∧
    ∀ c, (portOf (l.foldl (cancelAt (fun _ => true)) b) c).out =
      if c ∈ l then (portOf b c).out.map cancelMark else (portOf b c).out := by
  induction l generalizing b with
  | nil => exact ⟨_, _, rfl, fun _ => by simp⟩
  | cons d ds ih =>
    obtain ⟨out, hd⟩ := cancelAt_eq b d
    obtain ⟨ports, out', heq, hout⟩ := ih (cancelAt (fun _ => true) b d)
    refine ⟨ports, out', by rw [List.foldl_cons, heq, hd], fun c => ?_⟩
    have hport : (portOf (cancelAt (fun _ => true) b d) c).out = if c = d then (portOf b c).out.map cancelMark else (portOf b c).out := by
      rw [hd, portOf]
      by_cases e : c = d
      · subst e; simp
      · simp [fmGet?_fmSet_ne _ _ e, e, portOf]
    rw [List.foldl_cons, hout, hport]
    by_cases e : c = d
    · simp [e, cancelMark_idem, Function.comp_def]
    · simp [e]

/-- A map with every value changed. -/
theorem fmGet?_map {α : Type} (f : α → α) (m : FMap α) (k : Nat) : fmGet? (m.map (fun x => (x.1, f x.2))) k = (fmGet? m k).map f := by
  induction m with
  | nil => rfl
  | cons x xs ih =>
    obtain ⟨j, v⟩ := x
    simp only [List.map_cons, fmGet?]
    split
    · rfl
    · exact ih

/-- The fence step strips every core and every port; accepted L batons are cancelled, the others drain, and no core waits for a fence. -/
theorem fenceAll_spec (b : Block) : (fenceAll b).rcv = b.rcv ∧ (fenceAll b).tide.clock = b.tide.clock ∧ (fenceAll b).fen.writes = b.fen.writes ∧
    (∀ c, coreOf (fenceAll b) c = coreFenced (coreOf b c)) ∧
    (∀ c, (portOf (fenceAll b) c).xq = [] ∧ (portOf (fenceAll b) c).out = (portOf b c).out.map cancelMark) ∧
    (∀ w ∈ (fenceAll b).fen.waits, ∀ c x, w.who ≠ .core c x) := by
  obtain ⟨b₁, hb₁⟩ : ∃ d, b.cores.foldl (fun b x => traceResume b x.1 x.2 3) b = d := ⟨_, rfl⟩
  have h₁ : Records b b₁ := hb₁ ▸ Records.foldl (fun b (x : Nat × CoreSt) => records_traceResume b x.1 x.2 3) b.cores b
  obtain ⟨ports, out, hb₂, hout⟩ := foldl_cancelAt (fmKeys b₁.ports) b₁
  have hports : b₁.ports = b.ports := by obtain ⟨-, _, _, _, _, rfl⟩ := h₁; rfl
  unfold fenceAll
  simp only [hb₁]
  rw [hb₂] at hout ⊢
  refine ⟨h₁.rcv, h₁.clock, ?_, fun c => ?_, fun c => ?_, fun w hw c x hwho => ?_⟩
  · show b₁.fen.writes = b.fen.writes
    rw [h₁.fen]
  · simp only [coreOf, fmGet?_map, dropWaits, h₁.cores]
    cases fmGet? b.cores c with
    | none => rfl
    | some k => rfl
  · have hfenced : (fmGet? (ports.map (fun x => (x.1, portFenced x.2))) c).getD CPort.fresh = portFenced ((fmGet? ports c).getD CPort.fresh) := by
      rw [fmGet?_map]
      cases fmGet? ports c with
      | none => rfl
      | some p => rfl
    refine ⟨congrArg CPort.xq hfenced, (congrArg CPort.out hfenced).trans ((hout c).trans ?_)⟩
    have hsame : portOf b₁ c = portOf b c := by rw [portOf, hports]; rfl
    rw [hsame]
    split
    · rfl
    · rename_i hnone
      rw [portOf, fmGet?_eq_none (hports ▸ hnone)]
      rfl
  · have hstays := (List.mem_filter.mp hw).2
    rw [hwho] at hstays
    exact absurd hstays (by simp)

/-! ## The dump (R332, R333) -/

theorem writes_of_drained {b : Block} (h : drained b = true) : b.fen.writes = [] := by
  simp only [drained, Bool.and_eq_true, List.isEmpty_iff] at h
  exact h.1.2

theorem dumpLimit_read {b : Block} {u : Nat} (hstage : b.rcv.stage = .dump) (hu : u < 0x50 ∨ (0x100 ≤ u ∧ u < 0x100 + 896))
    (hnew : u ∉ b.rcv.badUnits) : dumpLimit b (.read u) = { b with rcv := { b.rcv with badUnits := b.rcv.badUnits ++ [u] } } := by
  have hcond : ((decide (u < 0x50) || (decide (0x100 ≤ u) && decide (u < 0x100 + 896))) && !b.rcv.badUnits.contains u) = true := by
    simpa [hnew] using hu
  simp only [dumpLimit, hstage, hcond, if_true]

theorem dumpLimit_write {b : Block} {p : Nat} (hstage : b.rcv.stage = .dump) (hp : fmHas b.rcv.buffers p = true)
    (hnew : p ∉ b.rcv.badPorts) : dumpLimit b (.write p) = { b with rcv := { b.rcv with badPorts := b.rcv.badPorts ++ [p] } } := by
  simp [dumpLimit, hstage, hp, hnew]

theorem memReadBytes_length (m : Memory) (a n : Nat) : (memReadBytes m a n).length = n := by
  induction n generalizing a with
  | zero => rfl
  | succ n ih => rw [memReadBytes, List.length_cons, ih]

/-- Part of what has been written reads back. -/
theorem memReadBytes_memWriteBytes_within (m : Memory) (a : Nat) {l : List Byte} {j n : Nat} (h : j + n ≤ l.length) :
    memReadBytes (memWriteBytes m a l) (a + j) n = (l.drop j).take n := by
  have hall := memReadBytes_memWriteBytes_self m a l
  obtain ⟨k, hk⟩ := Nat.exists_eq_add_of_le h
  rw [hk, Nat.add_assoc, memReadBytes_add, memReadBytes_add] at hall
  have hpart := congrArg (fun x => (x.drop j).take n) hall
  simpa only [List.drop_left' (memReadBytes_length _ _ _), List.take_left' (memReadBytes_length _ _ _)] using hpart

theorem leBytes_drop (n v j : Nat) : (leBytes n v).drop j = leBytes (n - j) (v / 256 ^ j) := by
  induction j generalizing n v with
  | zero => simp
  | succ j ih =>
    cases n with
    | zero => simp [leBytes]
    | succ n => rw [leBytes, List.drop_succ_cons, ih, Nat.succ_sub_succ, Nat.div_div_eq_div_mul, Nat.pow_succ']

theorem leBytes_take {n k : Nat} (v : Nat) (h : k ≤ n) : (leBytes n v).take k = leBytes k v := by
  induction k generalizing n v with
  | zero => rfl
  | succ k ih =>
    cases n with
    | zero => omega
    | succ n => rw [leBytes, List.take_succ_cons, ih _ (Nat.le_of_succ_le_succ h), leBytes]

/-- A field of packed fields, as a number. -/
theorem nfield_packFields {fs : List (Nat × Nat × Nat)} {lo w v : Nat} (hmem : (lo, w, v) ∈ fs)
    (hapart : ∀ f ∈ fs, f = (lo, w, v) ∨ f.1 + f.2.1 ≤ lo ∨ lo + w ≤ f.1) : nfield (packFields fs) lo w = v % 2 ^ w := by
  have hfield := field_packFields (n := lo + w) hmem hapart (Nat.le_refl _)
  rw [← hfield]
  refine Nat.eq_of_testBit_eq fun i => ?_
  rw [nfield, field, BitVec.testBit_toNat, BitVec.getLsbD_extractLsb', BitVec.getLsbD_ofNat, Nat.testBit_mod_two_pow, Nat.testBit_shiftRight]
  by_cases hi : i < w
  · simp [hi]
  · simp [hi]

/-- The header of a dump names the dump and the cause (R333). -/
theorem dumpHeader_fields (b : Block) (p count total : Nat) (expired : Bool) :
    nfield (dumpHeader b p count total expired) 0 32 = 0x504D5544 ∧ nfield (dumpHeader b p count total expired) 72 8 = b.rcv.cause % 2 ^ 8 := by
  have hsecondary {lo w v : Nat} (hlow : lo + w ≤ 352) : ∀ f ∈ (b.rcv.secondary.take 7).zipIdx.map (fun x => (352 + 8 * x.2, 8, x.1)),
      f = (lo, w, v) ∨ f.1 + f.2.1 ≤ lo ∨ lo + w ≤ f.1 := by
    intro f hf
    obtain ⟨x, -, rfl⟩ := List.mem_map.mp hf
    exact .inr (.inr (by omega))
  constructor
  · exact nfield_packFields (v := 0x504D5544) (by simp) (List.forall_mem_append.mpr ⟨by simp, hsecondary (by decide)⟩)
  · exact nfield_packFields (v := b.rcv.cause) (by simp) (List.forall_mem_append.mpr ⟨by simp, hsecondary (by decide)⟩)

/-- What a dump's first bytes read back as: those of the header, which its CRC lies behind (R333). -/
theorem dumpImage_reads (b : Block) (m : Memory) (key p room : Nat) (expired : Bool) (secs : List (Nat × Nat × List (List Byte) × Bool))
    {j n : Nat} (h : j + n ≤ 60) : ∃ count total, memReadLE (memWriteBytes m key (dumpImage b p room expired secs)) (key + j) n =
      nfield (dumpHeader b p count total expired) (8 * j) (8 * n) := by
  unfold dumpImage
  extract_lets r heads body h crc
  refine ⟨r.1.length, 0x40 + body.length, ?_⟩
  have hlen : (leBytes 64 (h + crc.toNat * 2 ^ 480)).length = 64 := leBytes_length _ _
  rw [memReadLE, memReadBytes_memWriteBytes_within, List.drop_append_of_le_length, List.take_append_of_le_length, leBytes_drop, leBytes_take,
    leValue_leBytes]
  · have hpow (k : Nat) : (256 : Nat) ^ k = 2 ^ (8 * k) := by rw [pow_mul]; norm_num
    have hsplit : 2 ^ 480 = 256 ^ j * (256 ^ n * 256 ^ (60 - j - n)) := by
      rw [hpow, hpow, hpow, ← pow_add, ← pow_add]
      congr 1
      omega
    rw [nfield, Nat.shiftRight_eq_div_pow, ← hpow, ← hpow, hsplit, Nat.mul_left_comm,
      Nat.add_mul_div_left _ _ (by positivity), Nat.mul_left_comm, Nat.add_mul_mod_self_left]
  · omega
  · rw [List.length_drop, hlen]; omega
  · rw [hlen]; omega
  · rw [List.length_append, hlen]; omega

/-- A buffer whose writes have met no limit is written whole, when the dump has not run out of time. -/
theorem dumpPort_whole {b : Block} {p : Nat} (h : b.rcv.badPorts.contains p = false) (addr len : Nat) :
    ∃ secs, (dumpPort b false p (addr, len)).mem = memWriteBytes b.mem (hostKey p addr) (dumpImage b p len false secs) :=
  ⟨(dumpSections b p).map (fun x => (x.1, x.2.1, x.2.2, false)), by
    simp only [dumpPort, h, Bool.false_eq_true, if_false, wr]⟩

/-- A dump that has ended and whose one buffer was written whole. -/
theorem dumpEnd_header {b : Block} {p addr len : Nat} (hbuf : b.rcv.buffers = [(p, (addr, len))]) (hports : b.rcv.badPorts = [])
    (hcause : b.rcv.cause < 256) :
    memReadLE (dumpEnd b false).mem (hostKey p addr) 4 = 0x504D5544 ∧ memReadLE (dumpEnd b false).mem (hostKey p addr + 9) 1 = b.rcv.cause := by
  obtain ⟨secs, hport⟩ := dumpPort_whole (b := b) (p := p) (by rw [hports]; rfl) addr len
  have hmem : (dumpEnd b false).mem = memWriteBytes b.mem (hostKey p addr) (dumpImage b p len false secs) := by
    have hwritten : (dumpEnd b false).mem = (b.rcv.buffers.foldl (fun b x => dumpPort b false x.1 x.2) b).mem := rfl
    rw [hwritten, hbuf, List.foldl_cons, List.foldl_nil]
    exact hport
  constructor
  · obtain ⟨count, total, h⟩ := dumpImage_reads b b.mem (hostKey p addr) p len false secs (j := 0) (n := 4) (by decide)
    rw [hmem]
    exact h.trans (dumpHeader_fields b p count total false).1
  · obtain ⟨count, total, h⟩ := dumpImage_reads b b.mem (hostKey p addr) p len false secs (j := 9) (n := 1) (by decide)
    rw [hmem]
    exact (h.trans (dumpHeader_fields b p count total false).2).trans (Nat.mod_eq_of_lt hcause)

/-- With no buffer registered, the dump ends at once. -/
theorem dumpEnd_unregistered {b : Block} (h : b.rcv.buffers = []) (expired : Bool) :
    dumpEnd b expired = { noteStamp b ((b.rcv.prog.map (fun x => x.2.time)).foldl max b.rcv.t0) with
      rcv := { b.rcv with stage := .propagate, expired := expired } } := by
  have hnone : b.rcv.buffers.foldl (fun b x => dumpPort b expired x.1 x.2) b = b := by rw [h]; rfl
  unfold dumpEnd
  rw [hnone]
  rfl

/-! ## Propagation (R337) -/

theorem abortNum_peerAbortSend (b : Block) (part : Nat) (chips : List Nat) :
    (peerAbortSend b part chips).fab.abortNum = b.fab.abortNum + 1 :=
  (Posts.foldl (fun d c => posts_gzSend d c (.peerAbort (chipNo b) part b.fab.abortNum)) _ _).abortNum.trans (posts_gzTree _ _).abortNum

theorem abortNum_foldl_peerAbortSend (f : Block → Nat → List Nat) (l : List Nat) (b : Block) :
    (l.foldl (fun b p => peerAbortSend b p (f b p)) b).fab.abortNum = b.fab.abortNum + l.length := by
  induction l generalizing b with
  | nil => simp
  | cons p ps ih =>
    rw [List.foldl_cons, ih, abortNum_peerAbortSend, List.length_cons]
    push_cast
    ring

/-- Each partition concerned takes one number. -/
theorem abortNum_propagateAll (b : Block) :
    (propagateAll b).fab.abortNum = b.fab.abortNum + ((b.rcv.remote.map Prod.fst).eraseDups).length :=
  abortNum_foldl_peerAbortSend (fun b p => (b.rcv.remote.filter (fun x : Nat × List Nat => decide (x.1 = p))).flatMap Prod.snd) _ b

/-- Settles O53: each step of the sequence by the block that it leaves. -/
theorem recoverySteps : Obligations.RecoverySteps := by
  unfold Obligations.RecoverySteps
  intro s halive
  dsimp only
  have hlift (f : Block → Block) := lift_of_alive halive f
  refine ⟨fun hstage => ?_, fun hstage => ⟨fun hempty => ?_, fun hbusy => ?_, ?_⟩, fun hstage => ⟨fun u hu hnew => ?_, fun p hp hnew => ?_,
    fun hbuf => ⟨?_, ?_⟩, fun p addr len hbuf hports _ hlt => ?_⟩, fun hstage => ⟨?_, fun hnone => ?_⟩, fun hstage => ?_⟩
  · obtain ⟨hrcv, hclock, hwrites, hcores, hports, hwaits⟩ := fenceAll_spec s.blk
    refine gives_withBlk (hlift fenceComplete) ?_
    rw [withBlk_blk, fenceComplete, if_pos hstage]
    refine ⟨?_, fun c => ?_, hwaits, hwrites⟩
    · have haccess : (fenceAll s.blk).rcv.access = s.blk.rcv.access := congrArg Recovery.access hrcv
      exact Prod.ext rfl (Prod.ext hclock haccess)
    · have hcore := hcores c
      obtain ⟨hxq, hout⟩ := hports c
      have hk {α : Type} (g : CoreSt → α) := congrArg g hcore
      exact ⟨hk CoreSt.slw, hk CoreSt.hold, hk CoreSt.pushQ, hk CoreSt.held, hk CoreSt.sending, hk CoreSt.credits, hxq, hout⟩
  · refine (hlift _).trans ?_
    rw [if_pos (by simp [hstage, hempty]), dumpBegin, writes_of_drained hempty]
    rfl
  · refine (hlift _).trans ?_
    rw [if_neg (by simp [hbusy])]
  · refine (hlift _).trans ?_
    rw [if_pos hstage]
    rfl
  · exact lift_eq halive (f := fun b => dumpLimit b (.read u)) (dumpLimit_read hstage hu hnew)
  · exact lift_eq halive (f := fun b => dumpLimit b (.write p)) (dumpLimit_write hstage hp hnew)
  · refine (hlift _).trans ?_
    rw [if_pos hstage, dumpEnd_unregistered hbuf]
  · refine (hlift _).trans ?_
    rw [if_pos hstage, dumpEnd_unregistered (b := passTo _ _) hbuf]
    rfl
  · refine gives_withBlk (hlift _) ?_
    rw [withBlk_blk, if_pos hstage]
    exact ⟨rfl, dumpEnd_header hbuf hports hlt⟩
  · refine ⟨resetRequest s { propagateAll s.blk with rcv := { s.blk.rcv with stage := .done } }, ?_, rfl, rfl, rfl, abortNum_propagateAll s.blk⟩
    simp [exec, execPropagateComplete, alive_eq_true halive, hstage]
  · simp [exec, execPropagateComplete, alive_eq_true halive, hstage, propagateAll, hnone, resetRequest]
  · simp [exec, execResetReqTimer, alive_eq_true halive, hstage, resetRequest]

end Sys2Proof.Machine
end


section
/-! PROOFS. Accesses to the register views (spec/16_registers_protection.md, R388 to R394, R455): what a 4-byte write comes to. -/

namespace Sys2Proof.Machine

open Sys2Proof

variable {s : State} {r : RegAcc} {g : Region} {o v data : Nat}

theorem regParts_of_reaches (h : RegReaches s r g o v data) : regParts r = [(r.off, data)] := by
  rw [regParts, if_pos ⟨h.width, h.aligned⟩, h.value]

theorem hitsBit_of_reaches (h : RegReaches s r g o v data) (bit : Nat) : hitsBit r g o bit = data.testBit bit := by
  simp [hitsBit, regParts_of_reaches h, h.region, h.location]

theorem regWrite_of_reaches (h : RegReaches s r g o v data) : regWrite s.blk r = wordWrite s.blk r v r.off data := by
  have hin : ¬ (r.off ≥ 0x200000 ∨ s.blk.mic.selftest = 0) := not_or.2 ⟨Nat.not_le.2 h.inside, h.tested⟩
  simp only [regWrite, h.view, if_neg hin, regParts_of_reaches h, actEach, List.foldl_cons, List.foldl_nil, andThen_act]

/-- The row of a 4-byte write, where it is the access's own. -/
theorem regRow_of_reaches (h : RegReaches s r g o v data) {mine : Bool} (hmine : mine = true) :
    regRow r mine s = .next (s.withBlk (finish (wordWrite s.blk r v r.off data))) := by
  subst hmine
  rw [← regWrite_of_reaches h]
  exact liftA_alive h.alive fun b => regWrite b r

theorem noteOrigin_eq (b : Block) (x : Origin) : noteOrigin b x = { b with ctr := (noteOrigin b x).ctr } := by
  unfold noteOrigin
  split <;> rfl

/-- The block as a register write finds it differs in a count. -/
theorem regNoted_eq (b : Block) (r : RegAcc) : regNoted b r = { b with ctr := (regNoted b r).ctr } := by
  unfold regNoted
  split
  · exact noteOrigin_eq b r.org
  · rfl

theorem granted_regNoted (b : Block) (r : RegAcc) : granted (regNoted b r) r = granted b r := by
  rw [regNoted_eq]; rfl

/-- A guarded region: its registers are written by whom the guard lets pass. -/
def Region.guarded (g : Region) : Prop := g = .control ∨ g = .snap ∨ g = .debug

/-- A write that the guard lets pass. -/
theorem wordWrite_guarded (hg : (regionOf r.off).guarded) (hguard : RegGuard s r) (hbox : inMailbox r.off = true → r.path = .secure)
    (v data : Nat) : wordWrite s.blk r v r.off data = regionWrite (regNoted s.blk r) r v r.off data := by
  unfold wordWrite
  unfold RegGuard at hguard
  by_cases hdbg : r.path = .dbg
  · rw [if_pos hdbg] at hguard ⊢
    obtain ⟨hon, hmay⟩ := hguard
    simp [hon, hmay, regNoted, hdbg]
  · rw [if_neg hdbg] at hguard ⊢
    have hpass : guardPasses (regNoted s.blk r) r r.off = true := by
      unfold guardPasses
      split
      · simpa [isSecure] using hbox ‹_›
      · rw [granted_regNoted]; exact hguard
    rw [regNoted] at hpass ⊢
    obtain hc | hs | hd := hg
    · simp [hc, hpass]
    · simp [hs, hpass]
    · simp [hd, hpass]

/-- A write to the debug region that its guard lets pass. -/
theorem wordWrite_debug (h : RegReaches s r .debug o v data) (hguard : RegGuard s r) :
    wordWrite s.blk r v r.off data = debugWrite (regNoted s.blk r) r r.off data := by
  rw [wordWrite_guarded (.inr (.inr h.region)) hguard (by simp [inMailbox, h.region]), regionWrite, h.region]

theorem wordWrite_brkCmd (h : RegReaches s r .debug 0x14 v data) (hguard : RegGuard s r) :
    wordWrite s.blk r v r.off data = brkCmd (regNoted s.blk r) data := by
  rw [wordWrite_debug h hguard, debugWrite, h.location]
  rfl

end Sys2Proof.Machine
end

section
/-! PROOFS. Commands to a stopped core (spec/19_debug.md, R438, R440, R441): O60. -/

namespace Sys2Proof.Machine

open Sys2Proof

/-- Core `c` executes run `n`, which nothing ends, and stands in the stop `st` at an SLW whose only slot is `x`. -/
structure StoppedAt (b : Block) (c n : Nat) (r : Run) (x : Word) (st : Stop) : Prop where
  run : (coreOf b c).run = some n
  found : runOf b n = some r
  stays : r.abort = none
  lives : r.endedAt = none
  going : (coreOf b c).ended = false
  stop : (coreOf b c).brkStop = some st
  free : (coreOf b c).hold = .none
  unbound : (coreOf b c).bound = false
  loops : (coreOf b c).loops = []
  slw : (coreOf b c).slw = some { slwOf (coreOf b c).off 1 [x] with stage := .c1 }
  more : (coreOf b c).off + 16 < (curStream (coreOf b c)).len

/-- The core once it has left the stop and its SLW. -/
def coreLeft (k : CoreSt) (step : Bool) : CoreSt :=
  { k with brkStop := none, stepping := step, slw := none, syncCall := [], off := k.off + 16 }

/-- The end of an SLW of one slot whose stream has more, outside every loop. -/
theorem slwFlow_left {b : Block} {c n : Nat} {w : Slw} (hf : w.flow = .seq) (hh : hEnd w.hdr = false) (hl : (coreOf b c).loops = [])
    (hn : w.off + w.len < (curStream (coreOf b c)).len) :
    slwFlow b c n w = act (putCore b c { coreOf b c with slw := none, syncCall := w.sync, off := w.off + w.len }) := by
  have hmid (k : CoreSt) (hk : k.loops = []) (hlen : w.off + w.len < (curStream k).len) :
      settleAt settleFuel k (w.off + w.len) = { k with off := w.off + w.len } := by
    simp [settleFuel, settleAt, settleAt.settleEnd, hk, Nat.not_le.2 hlen]
  simp only [slwFlow, crossLoops_none b c n _ _ _ hl, coreOf_putCore, putCore_putCore, hh, hf, flowTo, Bool.false_eq_true, if_false]
  rw [hmid _ (by simpa using hl) (by simpa [curStream] using hn)]

/-- A core that nothing holds goes on with the SLW under way. -/
theorem slwIssue_resume {b : Block} {c n : Nat} {r : Run} {w : Slw} (hrun : (coreOf b c).run = some n) (hfound : runOf b n = some r)
    (hstays : r.abort = none) (hlives : r.endedAt = none) (hgoing : (coreOf b c).ended = false) (hstop : (coreOf b c).brkStop = none)
    (hfree : (coreOf b c).hold = .none) (hunbound : (coreOf b c).bound = false) (hslw : (coreOf b c).slw = some w) :
    slwIssue b c = slwResume b c n w := by
  have hissue : issuing b c = some (n, r) := by simp [issuing, hrun, hfound, hgoing, hstop, hfree, hstays, hlives]
  have hcalls : ¬ ((coreOf b c).hold = .calls && decide ((coreOf b c).calls.length < 4)) = true := by simp [hfree]
  simp only [slwIssue, if_neg hcalls, hissue, hslw, hunbound, hstays, Bool.false_and, Option.isSome_none, Bool.false_eq_true, if_false]

/-- An SLW that stands before C1 and has no slot left ends. -/
theorem slwResume_rest {b : Block} {c n : Nat} {r : Run} {w : Slw} (hfound : runOf b n = some r) (hstage : w.stage = .c1)
    (hc1 : w.c1 = none) (heng : w.eng = []) (hhdr : w.hdr = 1#64) (hflow : w.flow = .seq) (hl : (coreOf b c).loops = [])
    (hn : w.off + w.len < (curStream (coreOf b c)).len) :
    slwResume b c n w = act (putCore b c { coreOf b c with slw := none, syncCall := w.sync, off := w.off + w.len }) := by
  have hend : hEnd w.hdr = false := by rw [hhdr]; decide
  have hstart : slwResume b c n w = slwEngines b c n { w with engAt := 0 } := by
    simp only [slwResume, hstage, slwC1, hc1]
  rw [hstart, slwEngines_one b c n r { w with engAt := 0 } hfound heng hhdr rfl]
  exact slwFlow_left (w := { w with engAt := 0, stage := .engines, value := none }) hflow hend hl hn

/-- A core that leaves its stop runs the rest of its SLW, which has no slot left, and stands at the next. -/
theorem stopLeave_left {b : Block} {c n : Nat} {r : Run} {x : Word} {st : Stop} (h : StoppedAt b c n r x st) (hidle : b.rcv.stage = .idle)
    (cause : Nat) (step : Bool) :
    stopLeave b c cause step = act (putCore (traceResume b c (coreOf b c) cause) c (coreLeft (coreOf b c) step)) := by
  have hrec : Records b (traceResume b c (coreOf b c) cause) := records_traceResume b c _ cause
  have hleave : ((coreOf b c).brkStop.isSome && decide (b.rcv.stage = .idle)) = true := by simp [h.stop, hidle]
  obtain ⟨w, hw⟩ : ∃ w, { slwOf (coreOf b c).off 1 [x] with stage := .c1 } = w := ⟨_, rfl⟩
  have hslw := hw ▸ h.slw
  rw [slwOf_one] at hw
  rw [stopLeave, if_pos hleave]
  generalize traceResume b c (coreOf b c) cause = u at hrec ⊢
  obtain ⟨b₁, hb₁⟩ : ∃ d, putCore u c { coreOf b c with brkStop := none, stepping := step } = d := ⟨_, rfl⟩
  have hcore : coreOf b₁ c = { coreOf b c with brkStop := none, stepping := step } := hb₁ ▸ coreOf_putCore u c _
  have hfound : runOf b₁ n = some r := by
    obtain ⟨-, _, _, _, _, rfl⟩ := hrec
    exact hb₁ ▸ h.found
  show slwIssue _ c = _
  rw [hb₁, slwIssue_resume (by rw [hcore]; exact h.run) hfound h.stays h.lives (by rw [hcore]; exact h.going) (by rw [hcore])
    (by rw [hcore]; exact h.free) (by rw [hcore]; exact h.unbound) (by rw [hcore]; exact hslw)]
  rw [slwResume_rest hfound (hw ▸ rfl) (hw ▸ rfl) (hw ▸ rfl) (hw ▸ rfl) (hw ▸ rfl) (by rw [hcore]; exact h.loops)
    (by rw [hcore, ← hw]; exact h.more), hcore, ← hb₁, putCore_putCore, ← hw]
  rfl

/-- A core has left its stop: it stands at the next SLW, its registers and its run as they were. -/
def LeftStop (b : Block) (c n : Nat) (r : Run) (k : CoreSt) (step : Bool) : Prop :=
  (coreOf b c).brkStop = none ∧ (coreOf b c).slw = none ∧ (coreOf b c).off = k.off + 16 ∧ (coreOf b c).stepping = step ∧
    (coreOf b c).s = k.s ∧ (coreOf b c).a = k.a ∧ runOf b n = some r

theorem traceResume_counts (b : Block) (c : Nat) (k : CoreSt) (cause : Nat) {key : Nat} (hrecord : key ≠ cTraceRecord)
    (hdrop : key ≠ cTraceDrop) : fmGet (traceResume b c k cause).ctr key 0 = fmGet b.ctr key 0 := by
  unfold traceResume
  split
  · exact traceAt_counts _ _ _ _ _ _ hrecord hdrop
  · rfl

/-- The end of a stop, and what it leaves of the clock and the count of timeouts. -/
theorem stopLeave_spec {b : Block} {c n : Nat} {r : Run} {x : Word} {st : Stop} (h : StoppedAt b c n r x st) (hidle : b.rcv.stage = .idle)
    (cause : Nat) (step : Bool) :
    ∃ u, stopLeave b c cause step = act u ∧ LeftStop u c n r (coreOf b c) step ∧ u.tide.clock = b.tide.clock ∧
      fmGet u.ctr cBrkTimeout 0 = fmGet b.ctr cBrkTimeout 0 := by
  refine ⟨_, stopLeave_left h hidle cause step, ?_, ?_, traceResume_counts b c (coreOf b c) cause (by decide) (by decide)⟩
  · have hfound : runOf (traceResume b c (coreOf b c) cause) n = some r := by
      obtain ⟨-, _, _, _, _, hu⟩ := records_traceResume b c (coreOf b c) cause
      rw [hu]; exact h.found
    have hcore : coreOf (putCore (traceResume b c (coreOf b c) cause) c (coreLeft (coreOf b c) step)) c = coreLeft (coreOf b c) step :=
      coreOf_putCore _ c _
    unfold LeftStop
    rw [hcore]
    exact ⟨rfl, rfl, rfl, rfl, rfl, rfl, hfound⟩
  · obtain ⟨-, _, _, _, _, hu⟩ := records_traceResume b c (coreOf b c) cause
    rw [hu]; rfl

theorem StoppedAt.regNoted {b : Block} {c n : Nat} {r : Run} {x : Word} {st : Stop} (h : StoppedAt b c n r x st) (a : RegAcc) :
    StoppedAt (regNoted b a) c n r x st := by
  rw [regNoted_eq]
  exact ⟨h.run, h.found, h.stays, h.lives, h.going, h.stop, h.free, h.unbound, h.loops, h.slw, h.more⟩

/-- A command register's bits, one at a time (R440). -/
theorem brkCmd_continue {b : Block} {c : Nat} (hsel : b.regs.coreSel % 64 = c) : brkCmd b 1 = stopLeave b c 0 false := by
  subst hsel; rfl

theorem brkCmd_step {b : Block} {c : Nat} (hsel : b.regs.coreSel % 64 = c) : brkCmd b 2 = stopLeave b c 1 true := by
  subst hsel; exact andThen_act b fun b => brkStep b (b.regs.coreSel % 64)

theorem brkCmd_halt {b : Block} {c : Nat} (hsel : b.regs.coreSel % 64 = c) : brkCmd b 4 = brkHalt b c := by
  subst hsel; exact andThen_act b fun b => brkHalt b (b.regs.coreSel % 64)

/-- `HALT_REQ` is pending while the core runs its part of a primary run. -/
theorem brkHalt_pending {b : Block} {c n : Nat} {r : Run} (hrun : (coreOf b c).run = some n) (hfound : runOf b n = some r)
    (hkind : r.kind = .primary) (hlives : r.endedAt = none) (hpart : r.partsEnded.contains c = false) (hgoing : (coreOf b c).ended = false) :
    brkHalt b c = act (putCore b c { coreOf b c with haltReq := true }) := by
  have hbind : (coreOf b c).run.bind (runOf b) = some r := by rw [hrun]; exact hfound
  have hmay : (decide (r.kind = .primary) && r.endedAt.isNone && !r.partsEnded.contains c && !(coreOf b c).ended) = true := by
    rw [hpart, hgoing]; simp [hkind, hlives]
  unfold brkHalt
  dsimp only
  rw [hbind]
  exact if_pos hmay

/-- The timeout of a stop: counted, at the instant it is due. -/
theorem brkTimeout_leaves {b : Block} {c : Nat} {st : Stop} (hc : c < 64) (hidle : b.rcv.stage = .idle) (hstop : (coreOf b c).brkStop = some st) :
    brkTimeout b c = stopLeave (cnt (passTo b (st.since + dget b 0x8010 1 * 1000)) cBrkTimeout) c 2 false := by
  have hmay : (decide (c < 64) && decide (b.rcv.stage = .idle)) = true := by simp [hc, hidle]
  unfold brkTimeout
  rw [hstop]
  exact if_pos hmay

/-- Settles O60: a core that leaves its stop runs the rest of its SLW of one slot and stands at the next. -/
theorem debugCommands : Obligations.DebugCommands := by
  unfold Obligations.DebugCommands
  intro s c n r halive hidle k hc hrun hfound hstays hlives hgoing
  refine ⟨fun x st hstop hfree hunbound hloops _ hslw hmore => ?_, fun a v hsel hreach hguard hkind hpart => ?_⟩
  · have hat : StoppedAt s.blk c n r x st :=
      ⟨hrun, hfound, hstays, hlives, hgoing, hstop, hfree, hunbound, hloops, hslw, hmore⟩
    have hcommand (a : RegAcc) (cause : Nat) (step : Bool) {v data bit : Nat} (hreach : RegReaches s a .debug 0x14 v data)
        (hguard : RegGuard s a) (hbit : data.testBit bit = true)
        (hcmd : brkCmd (regNoted s.blk a) data = stopLeave (regNoted s.blk a) c cause step) :
        Gives (regRow a (hitsBit a .debug 0x14 bit) s) fun t => LeftStop t.blk c n r k step := by
      have hcore : coreOf (regNoted s.blk a) c = k := by rw [regNoted_eq]; rfl
      have hidle' : (regNoted s.blk a).rcv.stage = .idle := by rw [regNoted_eq]; exact hidle
      obtain ⟨u, hu, hleft, -⟩ := stopLeave_spec (hat.regNoted a) hidle' cause step
      have hwrite : wordWrite s.blk a v a.off data = act u := by
        rw [wordWrite_brkCmd hreach hguard, hcmd, hu]
      refine gives_withBlk (regRow_of_reaches hreach (by rw [hitsBit_of_reaches hreach, hbit])) ?_
      rw [hwrite]
      exact hcore ▸ hleft
    refine ⟨fun a v hsel => ⟨fun hreach hguard => ?_, fun hreach hguard => ?_⟩, ?_⟩
    · exact hcommand a 0 false hreach hguard (by decide) (brkCmd_continue (by rw [regNoted_eq]; exact hsel))
    · exact hcommand a 1 true hreach hguard (by decide) (brkCmd_step (by rw [regNoted_eq]; exact hsel))
    · obtain ⟨b, hb⟩ : ∃ d, cnt (passTo s.blk (st.since + dget s.blk 0x8010 1 * 1000)) cBrkTimeout = d := ⟨_, rfl⟩
      have hatb : StoppedAt b c n r x st := by
        subst hb; exact ⟨hrun, hfound, hstays, hlives, hgoing, hstop, hfree, hunbound, hloops, hslw, hmore⟩
      obtain ⟨u, hu, hleft, hclock, hcount⟩ := stopLeave_spec hatb (by subst hb; exact hidle) 2 false
      refine gives_withBlk (liftA_eq (f := fun b => brkTimeout b c) halive ((brkTimeout_leaves hc hidle hstop).trans (hb ▸ hu))) ?_
      subst hb
      exact ⟨hleft, hclock, hcount.trans (cnt_value _ _)⟩
  · have hcore : coreOf (regNoted s.blk a) c = k := by rw [regNoted_eq]; rfl
    have hwrite : wordWrite s.blk a v a.off 4 = act (putCore (regNoted s.blk a) c { k with haltReq := true }) := by
      have hsel' : (regNoted s.blk a).regs.coreSel % 64 = c := by rw [regNoted_eq]; exact hsel
      rw [wordWrite_brkCmd hreach hguard, ← hcore, brkCmd_halt hsel']
      exact brkHalt_pending (hcore.symm ▸ hrun) (by rw [regNoted_eq]; exact hfound) hkind hlives hpart (hcore.symm ▸ hgoing)
    refine (regRow_of_reaches hreach ((hitsBit_of_reaches hreach 2).trans (by decide))).trans ?_
    rw [hwrite, finish_act]

end Sys2Proof.Machine
end


section
/-! PROOFS. Register writes (spec/16_registers_protection.md, R388 to R403; R424, R435 to R437, R440): O58. -/

namespace Sys2Proof.Machine

open Sys2Proof

/-! ## Audit records (R418) -/

/-- `b` differs from `a` at most in what audit records change: the log, its mirror in memory, the highest stamp, NOTIFY and the outputs. -/
def Logs (a b : Block) : Prop := ∃ aud mem floor out mgt,
  b = { a with aud := aud, mem := mem, tide := { a.tide with stampFloor := floor }, out := out, mgt := mgt }

theorem Logs.refl (a : Block) : Logs a a := ⟨_, _, _, _, _, rfl⟩

theorem Logs.trans {a b c : Block} (h : Logs a b) (h' : Logs b c) : Logs a c := by
  obtain ⟨_, _, _, _, _, rfl⟩ := h
  obtain ⟨_, _, _, _, _, rfl⟩ := h'
  exact ⟨_, _, _, _, _, rfl⟩

theorem logs_audit (b : Block) (e : AuditEv) : Logs b (audit b e) := by
  obtain ⟨_, _, _, _, _, h⟩ := auditN_eq b e 1
  exact ⟨_, _, _, _, _, h⟩

theorem logs_auditLim (b : Block) (key : Nat) (e : AuditEv) : Logs b (auditLim b key e) := auditLim_eq b key e

theorem logs_wmRecord (b : Block) (r : RegAcc) (off old new : Nat) : Logs b (wmRecord b r off old new) := by
  unfold wmRecord
  split
  · exact .refl b
  · exact logs_audit b _

section
variable {a b : Block} (h : Logs a b)
include h

theorem Logs.regs : b.regs = a.regs := by obtain ⟨_, _, _, _, _, rfl⟩ := h; rfl
theorem Logs.ctr : b.ctr = a.ctr := by obtain ⟨_, _, _, _, _, rfl⟩ := h; rfl
theorem Logs.adm : b.adm = a.adm := by obtain ⟨_, _, _, _, _, rfl⟩ := h; rfl
theorem Logs.cores : b.cores = a.cores := by obtain ⟨_, _, _, _, _, rfl⟩ := h; rfl
theorem Logs.dict : b.dict = a.dict := by obtain ⟨_, _, _, _, _, rfl⟩ := h; rfl
theorem Logs.rcv : b.rcv = a.rcv := by obtain ⟨_, _, _, _, _, rfl⟩ := h; rfl
theorem Logs.viewOf (v : Nat) : viewOf b v = viewOf a v := by obtain ⟨_, _, _, _, _, rfl⟩ := h; rfl

end

/-! ## Snapshots (R398, R435 to R437) -/

theorem fmGet?_append {α : Type} (m n : FMap α) (k : Nat) : fmGet? (m ++ n) k = (fmGet? m k).or (fmGet? n k) := by
  induction m with
  | nil => rfl
  | cons x xs ih =>
    obtain ⟨j, w⟩ := x
    simp only [List.cons_append, fmGet?]
    split
    · rfl
    · exact ih

/-- A filter by keys takes none of those it lets pass. -/
theorem fmGet?_filter_key {α : Type} (m : FMap α) {k : Nat} {p : Nat → Bool} (hp : p k = true) :
    fmGet? (m.filter fun x => p x.1) k = fmGet? m k := by
  induction m with
  | nil => rfl
  | cons x xs ih =>
    obtain ⟨j, w⟩ := x
    rw [List.filter_cons]
    by_cases hj : j = k
    · subst hj; simp [hp, fmGet?]
    · split
      · simpa [fmGet?, hj] using ih
      · simpa [fmGet?, hj] using ih

/-- The heat counters lie above every other counter of a holding set. -/
theorem heatCounters_above (b : Block) {k : Nat} (hk : k < 0xE1000) :
    fmGet? (b.cores.flatMap fun x => heatCounters b x.1 x.2) k = none := by
  refine fmGet?_eq_none fun hmem => ?_
  obtain ⟨x, hx, rfl⟩ := List.mem_map.1 hmem
  obtain ⟨y, -, hy⟩ := List.mem_flatMap.1 hx
  have hkey : 0xE1000 ≤ x.1 := by
    simp only [heatCounters, heatKey, List.mem_cons, List.not_mem_nil, or_false] at hy
    obtain rfl | rfl | rfl | rfl := hy <;> exact Nat.le_trans (Nat.le_add_right _ (16 * y.1)) (Nat.le_add_right _ _)
  omega

/-- A counter of a holding set: the per-port counters take their port's, the hold time counts the hold in force, the others are as they are. -/
theorem snapSet_value (b : Block) (v : Nat) {k : Nat} (hk : k < 0x400) : fmGet (snapSet b v) k 0 =
    if k = cStaleBeat ∨ k = cDbDrop then perPortValue b v k else if k = cHoldTime then holdTimeNow b else fmGet b.ctr k 0 := by
  have hlow : fmGet? (b.ctr.filter fun x => decide (x.1 < 0x400)) k = fmGet? b.ctr k := fmGet?_filter_key (p := fun j => decide (j < 0x400)) _ (by simpa using hk)
  have hheat := heatCounters_above b (k := k) (by omega)
  simp only [fmGet, snapSet, fmGet?_append, hheat, Option.or_none, perPort, List.foldl_cons, List.foldl_nil]
  by_cases hstale : k = cStaleBeat
  · subst hstale; simp
  · rw [fmGet?_fmSet_ne _ _ hstale]
    by_cases hdrop : k = cDbDrop
    · subst hdrop; simp
    · rw [fmGet?_fmSet_ne _ _ hdrop]
      by_cases hhold : k = cHoldTime
      · subst hhold; simp [hstale, hdrop]
      · simp [fmGet?_fmSet_ne _ _ hhold, hlow, hstale, hdrop, hhold]

theorem viewOf_putView (b : Block) (v : Nat) (x : View) : viewOf (putView b v x) v = x := by simp [viewOf, putView]

theorem viewOf_putView_ne (b : Block) {v w : Nat} (x : View) (h : w ≠ v) : viewOf (putView b v x) w = viewOf b w := by
  simp [viewOf, putView, fmGet?_fmSet_ne b.regs.views x h]

theorem viewOf_snapTake (b : Block) (v : Nat) : viewOf (snapTake b v) v = { viewOf b v with
    hold := snapSet b v, snapSeq := ((viewOf b v).snapSeq + 1) % 2 ^ 32, snapTime := stamp b, seen := false, coreSeen := 0 } :=
  viewOf_putView _ _ _

/-! ## The configuration CRC (R400 to R403) -/

/-- A pass that compares and finds a difference. -/
theorem crcPass_mismatch {b : Block} (hok : b.regs.passOk = true) (hcheck : checking b = true)
    (hdiff : (crc32c (coveredBytes b)).toNat ≠ b.regs.refActive) (hidle : b.rcv.stage = .idle) :
    (crcPass b).regs.crcNow = (crc32c (coveredBytes b)).toNat ∧ (crcPass b).aud.seq = b.aud.seq + 1 ∧
      (crcPass b).rcv.stage = .fence ∧ (crcPass b).rcv.cause = 0x07 := by
  have hbad : (b.regs.passOk && checking b && decide ((crc32c (coveredBytes b)).toNat ≠ b.regs.refActive)) = true := by
    rw [hok, hcheck]; exact decide_eq_true hdiff
  obtain ⟨u, hu⟩ : ∃ u, audit { b with regs := { b.regs with crcNow := (crc32c (coveredBytes b)).toNat, passOk := checking b } }
      { type := auIntegrity, detail := b.regs.wgen } = u := ⟨_, rfl⟩
  have heq : crcPass b = trigger u rcConfigCrc 0 none := by rw [crcPass, if_pos hbad, hu]
  have hlogs := hu ▸ logs_audit _ _
  have hseq : u.aud.seq = b.aud.seq + 1 := hu ▸ (audit_spec _ _).2
  have hrest : u.rcv.stage = .idle := by rw [hlogs.rcv]; exact hidle
  rw [heq, trigger, if_pos hrest]
  exact ⟨by rw [hlogs.regs], hseq, rfl, rfl⟩

/-- A pass that does not compare, or that agrees. -/
theorem crcPass_agrees {b : Block} (h : b.regs.passOk = false ∨ checking b = false ∨ (crc32c (coveredBytes b)).toNat = b.regs.refActive) :
    crcPass b = { b with regs := { b.regs with crcNow := (crc32c (coveredBytes b)).toNat, passOk := checking b } } := by
  have hgood : ¬ (b.regs.passOk && checking b && decide ((crc32c (coveredBytes b)).toNat ≠ b.regs.refActive)) = true := by
    rw [Bool.and_eq_true, Bool.and_eq_true, decide_eq_true_eq]
    rintro ⟨⟨hok, hcheck⟩, hdiff⟩
    obtain h | h | h := h
    · rw [h] at hok; cases hok
    · rw [h] at hcheck; cases hcheck
    · exact hdiff h
  exact if_neg hgood

/-! ## Writes of the global control region (R396, R397, R402) -/

theorem inMailbox_of_low {off : Nat} (h : regionOff off < 0x800) : inMailbox off = false := by
  have hreg : smbReg (regionOff off) = false := by
    simp only [smbReg, Bool.or_eq_false_iff, Bool.and_eq_false_iff, decide_eq_false_iff_not]
    omega
  simp [inMailbox, hreg]

section
variable {s : State} {r : RegAcc} {o v data : Nat}

/-- A write to the control region that its guard lets pass; to the mailbox, the secure master's. -/
theorem wordWrite_control (h : RegReaches s r .control o v data) (hguard : RegGuard s r) (hbox : o < 0x800 ∨ r.path = .secure) :
    wordWrite s.blk r v r.off data = act (controlWrite (regNoted s.blk r) r v r.off data) := by
  have hmaster : inMailbox r.off = true → r.path = .secure := by
    intro hin
    obtain hlow | hsecure := hbox
    · rw [inMailbox_of_low (h.location ▸ hlow)] at hin; cases hin
    · exact hsecure
  rw [wordWrite_guarded (.inl h.region) hguard hmaster, regionWrite, h.region]

theorem smbReg_entry {o : Nat} (hlow : 0x800 ≤ o) (hhigh : o < 0x840) : smbReg o = true := by
  have hle : o ≤ 0x847 := by omega
  simp [smbReg, hlow, hle]

/-- A part of the mailbox entry written. -/
theorem controlWrite_entry (b : Block) {r : RegAcc} (v data : Nat) (hlow : 0x800 ≤ regionOff r.off) (hhigh : regionOff r.off < 0x840) :
    controlWrite b r v r.off data = { b with adm := { b.adm with mbRegs := fmSet b.adm.mbRegs ((regionOff r.off - 0x800) / 4) data } } := by
  simp only [controlWrite, smbReg_entry hlow hhigh, if_true, smbWrite, hhigh]

theorem controlWrite_submit (b : Block) {r : RegAcc} (v : Nat) {data : Nat} (ho : regionOff r.off = 0x840) (hodd : data % 2 = 1) :
    controlWrite b r v r.off data = smbSubmit b r r.off data := by
  have hsmb : smbReg 0x840 = true := by decide
  simp [controlWrite, ho, hsmb, smbWrite, hodd]

theorem controlWrite_commit (b : Block) {r : RegAcc} (v : Nat) {data : Nat} (ho : regionOff r.off = 0x20) (hodd : data % 2 = 1) :
    controlWrite b r v r.off data = cfgcrcCommit b r v r.off := by
  have hsmb : smbReg 0x20 = false := by decide
  simp [controlWrite, ho, hsmb, hodd]

theorem controlWrite_crc (b : Block) {r : RegAcc} (v data : Nat) (ho : regionOff r.off = 0x10) :
    controlWrite b r v r.off data = crcCtlWrite b r r.off data := by
  have hsmb : smbReg 0x10 = false := by decide
  simp [controlWrite, ho, hsmb]

theorem controlWrite_stage (b : Block) {r : RegAcc} (v data : Nat) (ho : regionOff r.off = 0x14 ∨ regionOff r.off = 0x18 ∨ regionOff r.off = 0x1C) :
    controlWrite b r v r.off data = stageWrite b r v r.off data (regionOff r.off) := by
  have hsmb : smbReg (regionOff r.off) = false := by obtain e | e | e := ho <;> rw [e] <;> decide
  have hcrc : regionOff r.off ≠ 0x10 := by omega
  simp only [controlWrite, hsmb, Bool.false_eq_true, if_false, hcrc, if_pos ho]

/-- The view's own registers after a part of the reference is staged. -/
theorem viewOf_stageWrite (b : Block) (r : RegAcc) (v off data o : Nat) : viewOf (stageWrite b r v off data o) v =
    if o = 0x14 then { viewOf b v with refLo := wmValue (viewOf b v).refLo data 0xFFFF }
    else if o = 0x18 then { viewOf b v with refHi := wmValue (viewOf b v).refHi data 0xFFFF }
    else { viewOf b v with refGen := wmValue (viewOf b v).refGen data 0xFFFF } := by
  unfold stageWrite
  dsimp only
  rw [(logs_wmRecord _ _ _ _ _).viewOf, viewOf_putView]
  by_cases h14 : o = 0x14
  · simp [h14]
  · by_cases h18 : o = 0x18
    · simp [h18]
    · simp [h14, h18]

theorem wmValue_le (old data used : Nat) : wmValue old data used ≤ used := Nat.and_le_right

/-- `CRC_ENABLE` after a write: only the secure master clears it. -/
theorem crcOn_crcCtlWrite (b : Block) (r : RegAcc) (off data : Nat) : (crcCtlWrite b r off data).regs.crcOn =
    if b.regs.crcOn = true ∧ r.path ≠ .secure then true else decide (wmValue (b2n b.regs.crcOn) data 1 = 1) := by
  have hle := wmValue_le (b2n b.regs.crcOn) data 1
  unfold crcCtlWrite
  dsimp only
  split
  · next h =>
    obtain ⟨hon, -, hother⟩ := h
    have hon' : b.regs.crcOn = true := by
      cases hc : b.regs.crcOn
      · rw [hc] at hon; cases hon
      · rfl
    have hpath : r.path ≠ .secure := by simpa [isSecure] using hother
    rw [(logs_audit b _).regs, if_pos ⟨hon', hpath⟩, hon']
  · next h =>
    rw [(logs_wmRecord _ _ _ _ _).regs]
    split
    · next hkept =>
      obtain ⟨hon, hpath⟩ := hkept
      have hset : wmValue (b2n b.regs.crcOn) data 1 ≠ 0 := fun h0 => h ⟨by rw [hon]; rfl, h0, by simpa [isSecure] using hpath⟩
      exact decide_eq_true (by omega)
    · rfl

/-- A commit for the generation in force: two records, and the reference taken. -/
theorem cfgcrcCommit_accepted {b : Block} {v : Nat} (h : (viewOf b v).refGen = b.regs.wgen) (r : RegAcc) (off : Nat) :
    (cfgcrcCommit b r v off).aud.seq = b.aud.seq + 2 ∧ (cfgcrcCommit b r v off).regs = { b.regs with
      refActive := (viewOf b v).refLo + 2 ^ 16 * (viewOf b v).refHi, refGen := (viewOf b v).refGen, refValid := true, refused := false } := by
  unfold cfgcrcCommit
  dsimp only
  rw [if_pos h]
  exact ⟨(audit_spec _ _).2.trans (congrArg (· + 1) (audit_spec b _).2), (logs_audit _ _).regs.trans
    (congrArg (fun g : Regs => { g with
      refActive := (viewOf b v).refLo + 2 ^ 16 * (viewOf b v).refHi, refGen := (viewOf b v).refGen, refValid := true, refused := false })
      (logs_audit b _).regs)⟩

/-- A commit for another generation is refused, with a record. -/
theorem cfgcrcCommit_refused {b : Block} {v : Nat} (h : (viewOf b v).refGen ≠ b.regs.wgen) (r : RegAcc) (off : Nat) :
    (cfgcrcCommit b r v off).aud.seq = b.aud.seq + 1 ∧ (cfgcrcCommit b r v off).regs = { b.regs with refused := true } := by
  unfold cfgcrcCommit
  dsimp only
  rw [if_neg h, (audit_spec _ _).2, (logs_audit _ _).regs]
  exact ⟨rfl, rfl⟩

end

/-! ## Writes of the debug region (R440) -/

/-- The 16 bits replaced are the new ones. -/
theorem field_brkSet (b : Block) {k new : Nat} (hk : k < 4) (hnew : new < 2 ^ 16) :
    field (brkSet b k new).regs.brkEnable (16 * k) 16 = new := by
  refine Nat.eq_of_testBit_eq fun i => ?_
  simp only [field, brkSet, BitVec.testBit_toNat, BitVec.getLsbD_extractLsb', BitVec.getLsbD_or, BitVec.getLsbD_and, BitVec.getLsbD_not,
    BitVec.getLsbD_shiftLeft, BitVec.getLsbD_ofNat]
  by_cases hi : i < 16
  · have hin : 16 * k + i < 64 := by omega
    have hlow : i < 64 := by omega
    have hones : ∀ j < 16, Nat.testBit 65535 j = true := by decide
    have hafter : ¬ 16 * k + i < 16 * k := by omega
    have hback : 16 * k + i - 16 * k = i := by omega
    simp [hi, hin, hafter, hback, hones i hi, hlow]
  · have hzero : new.testBit i = false :=
      Nat.testBit_lt_two_pow (Nat.lt_of_lt_of_le hnew (Nat.pow_le_pow_right (by decide) (Nat.not_lt.1 hi)))
    simp [hi, hzero]

theorem debugWrite_enable (b : Block) {r : RegAcc} {o : Nat} (data : Nat) (ho : regionOff r.off = o) (hlow : o < 0x10) :
    field (finish (debugWrite b r r.off data)).regs.brkEnable (16 * (o / 4)) 16 =
      wmValue (field b.regs.brkEnable (16 * (o / 4)) 16) data 0xFFFF := by
  have hle := wmValue_le (field b.regs.brkEnable (16 * (o / 4)) 16) data 0xFFFF
  simp only [debugWrite, ho, if_pos hlow, finish_act]
  rw [(logs_wmRecord _ _ _ _ _).regs]
  exact field_brkSet b (by omega) (by omega)

theorem debugWrite_select (b : Block) {r : RegAcc} (data : Nat) (ho : regionOff r.off = 0x10) :
    (finish (debugWrite b r r.off data)).regs.coreSel = wmValue b.regs.coreSel data 0x3F := by
  rw [debugWrite, ho]
  exact congrArg Regs.coreSel (logs_wmRecord _ r _ _ _).regs

theorem debugWrite_page (b : Block) {r : RegAcc} (data : Nat) (ho : regionOff r.off = 0x30) :
    (finish (debugWrite b r r.off data)).regs.page = wmValue b.regs.page data 0x3FF := by
  rw [debugWrite, ho]
  exact congrArg Regs.page (logs_wmRecord _ r _ _ _).regs

/-! ## Writes of the dictionary window (R410) -/

/-- The window of an access. -/
def windowOf (b : Block) (r : RegAcc) : DictWin := (fmGet? b.regs.wins (winKey r.path r.org)).getD DictWin.fresh

theorem windowWrite_index (b : Block) (r : RegAcc) (data : Nat) : fmGet? (windowWrite b r data 0).regs.wins (winKey r.path r.org) =
    some { windowOf b r with index := wmValue (windowOf b r).index data 0xFFFF } := fmGet?_fmSet_self _ _ _

theorem windowWrite_sub (b : Block) (r : RegAcc) (data : Nat) : fmGet? (windowWrite b r data 4).regs.wins (winKey r.path r.org) =
    some { windowOf b r with sub := wmValue (windowOf b r).sub data 0xFF } := fmGet?_fmSet_self _ _ _

theorem windowWrite_len (b : Block) (r : RegAcc) (data : Nat) : fmGet? (windowWrite b r data 8).regs.wins (winKey r.path r.org) =
    some { windowOf b r with len := wmValue (windowOf b r).len data 0x7F } := fmGet?_fmSet_self _ _ _

/-- The index, then the subindex written. -/
theorem windowWrite_pair (b : Block) (r : RegAcc) (i j : Nat) :
    (fmGet? (windowWrite (regNoted (windowWrite (regNoted b r) r i 0) r) r j 4).regs.wins (winKey r.path r.org)).map
        (fun x => (x.index, x.sub, x.len)) =
      some (wmValue (windowOf (regNoted b r) r).index i 0xFFFF, wmValue (windowOf (regNoted b r) r).sub j 0xFF, (windowOf (regNoted b r) r).len) := by
  have hkept (d : Block) : windowOf (regNoted d r) r = windowOf d r := by rw [regNoted_eq]; rfl
  have hfirst : windowOf (windowWrite (regNoted b r) r i 0) r =
      { windowOf (regNoted b r) r with index := wmValue (windowOf (regNoted b r) r).index i 0xFFFF } := by
    rw [windowOf, windowWrite_index]; rfl
  rw [windowWrite_sub, hkept, hfirst]
  rfl

/-- A write to the dictionary region reaches the window, whoever makes it on a path but the debug/trace port's. -/
theorem wordWrite_dict (b : Block) {r : RegAcc} {off : Nat} (hdbg : r.path ≠ .dbg) (hregion : regionOf off = .dict) (v data : Nat) :
    wordWrite b r v off data = act (windowWrite (regNoted b r) r data (regionOff off)) := by
  unfold wordWrite
  rw [if_neg hdbg, hregion]
  rfl

/-! ## Writes that change nothing (R390, R391, R393) -/

/-- A write is dropped: no register changes, and it is counted. -/
structure Dropped (a b : Block) : Prop where
  regs : b.regs = a.regs
  adm : b.adm = a.adm
  cores : b.cores = a.cores
  dict : b.dict = a.dict
  counted : fmGet b.ctr cAccessDrop 0 = satAdd 32 (fmGet a.ctr cAccessDrop 0) 1

theorem dropped_cnt (b : Block) : Dropped b (cnt b cAccessDrop) := ⟨rfl, rfl, rfl, rfl, cnt_value b _⟩

theorem dropped_dropRecord (b : Block) (r : RegAcc) (type who off data : Nat) : Dropped b (dropRecord b r type who off data) := by
  have h := logs_auditLim (cnt b cAccessDrop) (limitKey type who) { type := type, path := r.path, org := r.org, new := data, detail := off }
  exact ⟨h.regs, h.adm, h.cores, h.dict, (congrArg (fmGet · cAccessDrop 0) h.ctr).trans (cnt_value b _)⟩

theorem dropped_guardDrop (b : Block) (r : RegAcc) (off data : Nat) : Dropped b (guardDrop b r off data) := dropped_dropRecord b r _ _ off data

theorem dropped_narrowWrite (b : Block) (r : RegAcc) : Dropped (regNoted b r) (narrowWrite b r) := by
  unfold narrowWrite
  by_cases hdbg : r.path = .dbg
  · rw [if_pos hdbg, regNoted, if_neg (by rw [hdbg]; decide)]
    exact dropped_cnt b
  · rw [if_neg hdbg, ← regNoted]
    dsimp only
    split
    · exact dropped_dropRecord _ _ _ _ _ _
    · exact dropped_cnt _
    · exact dropped_cnt _
    · exact dropped_cnt _
    · split
      · exact dropped_cnt _
      · exact dropped_guardDrop _ _ _ _

/-- The guard refuses a write of one without the right, and a write to the mailbox by another than the secure master. -/
theorem guardPasses_refused {b : Block} {r : RegAcc} {off : Nat}
    (h : granted b r = false ∨ (inMailbox off = true ∧ r.path ≠ .secure)) : guardPasses b r off = false := by
  unfold guardPasses
  split
  · next hin =>
    obtain hgrant | ⟨-, hpath⟩ := h
    · have hpath : r.path ≠ .secure := by intro e; simp [granted, e] at hgrant
      simpa [isSecure] using hpath
    · simpa [isSecure] using hpath
  · next hout =>
    obtain hgrant | ⟨hin, -⟩ := h
    · exact hgrant
    · exact absurd hin hout

/-- A write that the guard refuses, or to an undecoded region, is dropped. -/
theorem wordWrite_dropped {b : Block} {r : RegAcc} {off : Nat} (hdbg : r.path ≠ .dbg)
    (h : regionOf off = .none ∨ (granted b r = false ∨ (inMailbox off = true ∧ r.path ≠ .secure)) ∧ (regionOf off).guarded) (v data : Nat) :
    ∃ u, wordWrite b r v off data = act u ∧ Dropped (regNoted b r) u := by
  unfold wordWrite
  rw [if_neg hdbg, ← regNoted]
  dsimp only
  obtain hnone | ⟨hrefuse, hguarded⟩ := h
  · rw [hnone]
    exact ⟨_, rfl, dropped_dropRecord _ _ _ _ _ _⟩
  · have hpass : guardPasses (regNoted b r) r off = false := guardPasses_refused (by rw [granted_regNoted]; exact hrefuse)
    obtain hc | hs | hd := hguarded
    · rw [hc, hpass]
      exact ⟨_, rfl, dropped_guardDrop _ _ _ _⟩
    · rw [hs, hpass]
      exact ⟨_, rfl, dropped_guardDrop _ _ _ _⟩
    · rw [hd, hpass]
      exact ⟨_, rfl, dropped_guardDrop _ _ _ _⟩

/-! ## The rows of the register accesses -/

section
variable {s : State} {r : RegAcc} {g : Region} {o v data : Nat}

theorem registerWrite_of_reaches (h : RegReaches s r g o v data) (hown : regOwnRow r = false) :
    exec (.registerWrite r) s = .next (s.withBlk (finish (wordWrite s.blk r v r.off data))) :=
  regRow_of_reaches h (by rw [hown]; rfl)

theorem testBit_zero_of_odd {n : Nat} (h : n % 2 = 1) : n.testBit 0 = true := by simp [Nat.testBit_zero, h]

/-- A submission by the secure mailbox. -/
theorem exec_smbSubmit (h : RegReaches s r .control 0x840 v data) (hguard : RegGuard s r) (hodd : data % 2 = 1) (hpath : r.path = .secure) :
    exec (.smbSubmit r) s = .next (s.withBlk (smbSubmit (regNoted s.blk r) r r.off data)) := by
  refine (regRow_of_reaches h ((hitsBit_of_reaches h 0).trans (testBit_zero_of_odd hodd))).trans ?_
  rw [wordWrite_control h hguard (.inr hpath), controlWrite_submit _ _ h.location hodd, finish_act]

theorem exec_snapshot (h : RegReaches s r .snap 0 v data) (hguard : RegGuard s r) (hodd : data % 2 = 1) :
    exec (.snapshot r) s = .next (s.withBlk (snapTake (regNoted s.blk r) v)) := by
  have hbox : inMailbox r.off = true → r.path = .secure := by simp [inMailbox, h.region]
  refine (regRow_of_reaches h ((hitsBit_of_reaches h 0).trans (testBit_zero_of_odd hodd))).trans ?_
  rw [wordWrite_guarded (.inr (.inl h.region)) hguard hbox, regionWrite, h.region]
  simp only [h.location, hodd, and_self, if_true, finish_act]

/-- A commit of the reference, by either of its rows. -/
theorem exec_commit (h : RegReaches s r .control 0x20 v data) (hguard : RegGuard s r) (hodd : data % 2 = 1) {row : Instr}
    (hrow : row = .cfgcrcCommit r ∨ row = .wideCommit r) :
    exec row s = .next (s.withBlk (cfgcrcCommit (regNoted s.blk r) r v r.off)) := by
  have hwrite : regRow r (hitsBit r .control 0x20 0) s = .next (s.withBlk (cfgcrcCommit (regNoted s.blk r) r v r.off)) := by
    refine (regRow_of_reaches h ((hitsBit_of_reaches h 0).trans (testBit_zero_of_odd hodd))).trans ?_
    rw [wordWrite_control h hguard (.inl (by decide)), controlWrite_commit _ _ h.location hodd, finish_act]
  obtain rfl | rfl := hrow
  · exact hwrite
  · exact hwrite

/-- A row REGISTER_WRITE to the control region. -/
theorem exec_registerWrite_control (h : RegReaches s r .control o v data) (hguard : RegGuard s r) (hown : regOwnRow r = false)
    (hbox : o < 0x800 ∨ r.path = .secure) :
    exec (.registerWrite r) s = .next (s.withBlk (controlWrite (regNoted s.blk r) r v r.off data)) := by
  rw [registerWrite_of_reaches h hown, wordWrite_control h hguard hbox, finish_act]

/-- A row REGISTER_WRITE that stages a part of the reference. -/
theorem gives_stage (h : RegReaches s r .control o v data) (hguard : RegGuard s r) (hown : regOwnRow r = false)
    (ho : o = 0x14 ∨ o = 0x18 ∨ o = 0x1C) {x : View} (hx : viewOf (stageWrite (regNoted s.blk r) r v r.off data o) v = x) :
    Gives (exec (.registerWrite r) s) fun t => viewOf t.blk v = x := by
  refine gives_withBlk (exec_registerWrite_control h hguard hown (.inl (by omega))) ?_
  rw [controlWrite_stage _ _ _ (h.location.symm ▸ ho), h.location]
  exact hx

/-- A row REGISTER_WRITE to the debug region. -/
theorem exec_registerWrite_debug (h : RegReaches s r .debug o v data) (hguard : RegGuard s r) (hown : regOwnRow r = false) :
    exec (.registerWrite r) s = .next (s.withBlk (finish (debugWrite (regNoted s.blk r) r r.off data))) := by
  rw [registerWrite_of_reaches h hown, wordWrite_debug h hguard]

/-- A row REGISTER_WRITE to the window. -/
theorem exec_registerWrite_dict (h : RegReaches s r .dict o v data) (hown : regOwnRow r = false) (hdbg : r.path ≠ .dbg) :
    exec (.registerWrite r) s = .next (s.withBlk (windowWrite (regNoted s.blk r) r data o)) := by
  rw [registerWrite_of_reaches h hown, wordWrite_dict _ hdbg h.region, h.location, finish_act]

/-- An access of 8 bytes to the window writes its index, then its subindex. -/
theorem regWrite_window {b : Block} (hdbg : r.path ≠ .dbg) (hview : viewIdx r = some v) (htested : b.mic.selftest ≠ 0)
    (hin : r.off < 0x200000) (hregion : regionOf r.off = .dict) (hloc : regionOff r.off = 0) (hwidth : r.width = 8) (halign : r.off % 8 = 0) :
    regWrite b r = act (windowWrite (regNoted (windowWrite (regNoted b r) r (r.data.toNat % 2 ^ 32) 0) r) r (r.data.toNat / 2 ^ 32) 4) := by
  have hreach : ¬ (r.off ≥ 0x200000 ∨ b.mic.selftest = 0) := not_or.2 ⟨Nat.not_le.2 hin, htested⟩
  have hparts : regParts r = [(r.off, r.data.toNat % 2 ^ 32), (r.off + 4, r.data.toNat / 2 ^ 32)] := by
    rw [regParts, if_neg (by omega), if_pos ⟨hwidth, halign⟩]
  have hregion' : regionOf (r.off + 4) = .dict := by
    have hdiv : (r.off + 4) / 0x10000 = r.off / 0x10000 := by omega
    rw [← hregion, regionOf, regionOf, hdiv]
  have hloc' : regionOff (r.off + 4) = 4 := by
    rw [regionOff, hregion] at hloc
    rw [regionOff, hregion']
    dsimp only at hloc ⊢
    omega
  simp only [regWrite, hview, if_neg hreach, hparts, actEach, List.foldl_cons, List.foldl_nil, andThen_act,
    wordWrite_dict _ hdbg hregion, wordWrite_dict _ hdbg hregion', hloc, hloc']

/-- A row REGISTER_WRITE, of whatever width. -/
theorem exec_registerWrite (halive : Alive s) (hown : regOwnRow r = false) :
    exec (.registerWrite r) s = .next (s.withBlk (finish (regWrite s.blk r))) := by
  have hmine : regRow r (!regOwnRow r) s = regRow r true s := by rw [hown]; rfl
  exact hmine.trans (liftA_alive halive fun b => regWrite b r)

theorem regWrite_narrow {b : Block} (hview : viewIdx r = some v) (htested : b.mic.selftest ≠ 0) (hin : r.off < 0x200000)
    (h4 : ¬ (r.width = 4 ∧ r.off % 4 = 0)) (h8 : ¬ (r.width = 8 ∧ r.off % 8 = 0)) : regWrite b r = act (narrowWrite b r) := by
  have hreach : ¬ (r.off ≥ 0x200000 ∨ b.mic.selftest = 0) := not_or.2 ⟨Nat.not_le.2 hin, htested⟩
  have hparts : regParts r = [] := by rw [regParts, if_neg h4, if_neg h8]
  simp only [regWrite, hview, if_neg hreach, hparts]

end

/-- Settles O58: each clause is the region's own write, taken where the guard lets it pass. -/
theorem registerWrites : Obligations.RegisterWrites := by
  unfold Obligations.RegisterWrites
  refine ⟨fun b v => ?_, fun s halive => ?_, fun s r g o v data h => ?_, fun s r v halive htested hview hin hown => ?_⟩
  · have hview := viewOf_snapTake b v
    refine ⟨by rw [hview], by rw [hview], rfl, fun w hw => viewOf_putView_ne _ _ hw, fun k hk h40 h48 h344 => ?_, ?_, fun hv => ?_⟩
    · rw [hview, snapSet_value b v hk, if_neg (show ¬ (k = cStaleBeat ∨ k = cDbDrop) from not_or.2 ⟨h48, h40⟩), if_neg (show k ≠ cHoldTime from h344)]
    · rw [hview, snapSet_value b v (by decide)]
      rfl
    · rw [hview, snapSet_value b v (by decide), if_pos (.inr rfl), perPortValue, if_pos hv]
      rfl
  · exact ⟨fun hagree => lift_eq halive (crcPass_agrees hagree),
      fun hok hcheck hdiff hidle => gives_withBlk (lift_of_alive halive crcPass) (crcPass_mismatch hok hcheck hdiff hidle)⟩
  · refine ⟨fun hguard => ⟨?_, ?_, ?_, fun hown => ⟨?_, ?_, ?_, ?_, ?_, ?_, ?_, ?_⟩⟩, fun hown hdbg => ⟨?_, ?_, ?_⟩⟩
    · rintro rfl rfl hodd hpath
      refine ⟨fun hfree => ?_, fun hbusy => gives_withBlk (exec_smbSubmit h hguard hodd hpath) ?_⟩
      · rw [exec_smbSubmit h hguard hodd hpath, smbSubmit, if_neg (by rw [hfree]; decide)]
      · rw [smbSubmit, if_pos hbusy]
        exact ⟨(logs_audit _ _).adm, (audit_spec _ _).2⟩
    · rintro rfl rfl hodd
      exact exec_snapshot h hguard hodd
    · rintro rfl rfl hodd row hrow
      exact ⟨fun hgen => gives_withBlk (exec_commit h hguard hodd hrow) (cfgcrcCommit_accepted hgen r r.off),
        fun hgen => gives_withBlk (exec_commit h hguard hodd hrow) (cfgcrcCommit_refused hgen r r.off)⟩
    · rintro rfl rfl
      exact gives_stage h hguard hown (.inl rfl) ((viewOf_stageWrite _ r v r.off data _).trans (if_pos rfl))
    · rintro rfl rfl
      exact gives_stage h hguard hown (.inr (.inl rfl)) ((viewOf_stageWrite _ r v r.off data _).trans ((if_neg (by decide)).trans (if_pos rfl)))
    · rintro rfl rfl
      exact gives_stage h hguard hown (.inr (.inr rfl)) ((viewOf_stageWrite _ r v r.off data _).trans ((if_neg (by decide)).trans (if_neg (by decide))))
    · rintro rfl rfl
      refine gives_withBlk (exec_registerWrite_control h hguard hown (.inl (by decide))) ?_
      rw [controlWrite_crc _ _ _ h.location]
      exact crcOn_crcCtlWrite _ r r.off data
    · rintro rfl hlow hhigh hpath
      rw [exec_registerWrite_control h hguard hown (.inr hpath),
        controlWrite_entry _ _ _ (h.location.symm ▸ hlow) (h.location.symm ▸ hhigh), h.location]
    · rintro rfl ho
      exact gives_withBlk (exec_registerWrite_debug h hguard hown) (debugWrite_enable _ data h.location ho)
    · rintro rfl rfl
      exact gives_withBlk (exec_registerWrite_debug h hguard hown) (debugWrite_select _ data h.location)
    · rintro rfl rfl
      exact gives_withBlk (exec_registerWrite_debug h hguard hown) (debugWrite_page _ data h.location)
    · rintro rfl
      refine gives_withBlk (exec_registerWrite_dict h hown hdbg) ⟨?_, ?_, ?_⟩
      · rintro rfl; exact windowWrite_index _ r data
      · rintro rfl; exact windowWrite_sub _ r data
      · rintro rfl; exact windowWrite_len _ r data
    · rintro rfl
      rw [registerWrite_of_reaches h hown, wordWrite, if_neg hdbg, h.region]
      rfl
    · intro hrefused
      obtain ⟨u, hu, hdrop⟩ := wordWrite_dropped hdbg (by rw [h.region]; exact hrefused) v data
      refine gives_withBlk (registerWrite_of_reaches h hown) ?_
      rw [hu]
      exact ⟨hdrop.regs, hdrop.adm, hdrop.cores, hdrop.dict, hdrop.counted⟩
  · refine ⟨fun h4 h8 => ?_, fun hdbg hregion hloc hwidth halign => ?_⟩
    · have hdrop := dropped_narrowWrite s.blk r
      refine gives_withBlk (exec_registerWrite halive hown) ?_
      rw [regWrite_narrow hview htested hin h4 h8]
      exact ⟨hdrop.regs, hdrop.adm, hdrop.cores, hdrop.dict, hdrop.counted⟩
    · refine gives_withBlk (exec_registerWrite halive hown) ?_
      rw [regWrite_window hdbg hview htested hin hregion hloc hwidth halign]
      rw [withBlk_blk, finish_act]
      exact windowWrite_pair s.blk r _ _

end Sys2Proof.Machine
end


section
/-! PROOFS. What the end of a run leaves alone (spec/12_fabric.md, R316; R134, R170): the recovery state, the registers, the clock, the links but
for what they carry, and the counters but for those of messages and trace records. -/

namespace Sys2Proof.Machine

open Sys2Proof

/-- The counters that the end of a run may raise: those of messages sent and of trace records. -/
def quietKeys : List Nat := [cGzTx, cGzHop, cGzNoRoute, cTraceRecord, cTraceDrop]

/-- Besides, the heats that propagation ends. -/
def abortKeys : List Nat := cPeerAbort :: quietKeys

/-- `b` differs from `a` at most in what the ends of runs change, the counters among `keys`; unless the heats that propagation ends are
among them, no propagation is acted on. -/
structure Calm (keys : List Nat) (a b : Block) : Prop where
  rcv : b.rcv = a.rcv
  regs : b.regs = a.regs
  dict : b.dict = a.dict
  clock : b.tide.clock = a.tide.clock
  links : ∀ p, LinkKept (linkOf a p) (linkOf b p)
  counts : ∀ key, key ∉ keys → fmGet b.ctr key 0 = fmGet a.ctr key 0
  out : ∃ l, b.out = l ++ a.out
  peers : cPeerAbort ∉ keys → b.fab.aborts = a.fab.aborts
  fab : ∃ ports resend txSeq treeSeq abortNum aborts seq, b.fab = { a.fab with
    ports := ports, resend := resend, txSeq := txSeq, treeSeq := treeSeq, abortNum := abortNum, aborts := aborts, seq := seq }

namespace Calm

variable {keys : List Nat} {a b c : Block}

theorem refl (a : Block) : Calm keys a a :=
  ⟨rfl, rfl, rfl, rfl, fun _ => .refl _, fun _ _ => rfl, ⟨[], rfl⟩, fun _ => rfl, _, _, _, _, _, _, _, rfl⟩

theorem trans (h : Calm keys a b) (h' : Calm keys b c) : Calm keys a c where
  rcv := h'.rcv.trans h.rcv
  regs := h'.regs.trans h.regs
  dict := h'.dict.trans h.dict
  clock := h'.clock.trans h.clock
  links p := (h.links p).trans (h'.links p)
  counts key hkey := (h'.counts key hkey).trans (h.counts key hkey)
  out := by
    obtain ⟨l, hl⟩ := h.out
    obtain ⟨l', hl'⟩ := h'.out
    exact ⟨l' ++ l, by rw [hl', hl, List.append_assoc]⟩
  peers hkey := (h'.peers hkey).trans (h.peers hkey)
  fab := by
    obtain ⟨_, _, _, _, _, _, _, hb⟩ := h.fab
    obtain ⟨_, _, _, _, _, _, _, hc⟩ := h'.fab
    exact ⟨_, _, _, _, _, _, _, by rw [hc, hb]⟩

theorem foldl {α : Type} {f : Block → α → Block} (h : ∀ b x, Calm keys b (f b x)) (l : List α) (b : Block) : Calm keys b (l.foldl f b) := by
  induction l generalizing b with
  | nil => exact refl b
  | cons x xs ih => exact (h b x).trans (ih (f b x))

theorem mono {keys' : List Nat} (h : Calm keys a b) (hsub : keys ⊆ keys') : Calm keys' a b :=
  ⟨h.rcv, h.regs, h.dict, h.clock, h.links, fun key hkey => h.counts key fun hk => hkey (hsub hk), h.out, fun hkey => h.peers fun hk => hkey (hsub hk),
    h.fab⟩

/-- A change of other parts alone. -/
theorem of_parts (hrcv : b.rcv = a.rcv) (hregs : b.regs = a.regs) (hdict : b.dict = a.dict) (hclock : b.tide.clock = a.tide.clock)
    (hfab : b.fab = a.fab) (hctr : b.ctr = a.ctr) (hout : b.out = a.out) : Calm keys a b where
  rcv := hrcv
  regs := hregs
  dict := hdict
  clock := hclock
  links p := by rw [linkOf, linkOf, hfab]; exact .refl _
  counts _ _ := by rw [hctr]
  out := ⟨[], hout⟩
  peers _ := by rw [hfab]
  fab := ⟨_, _, _, _, _, _, _, hfab⟩

end Calm

/-- Messages sent. -/
theorem Posts.calm {a b : Block} (h : Posts a b) : Calm quietKeys a b := by
  obtain ⟨hlinks, hcounts, hout, _, _, _, _, _, _, rfl⟩ := h
  have hkeys : sendKeys ⊆ quietKeys := by decide
  exact ⟨rfl, rfl, rfl, rfl, hlinks, fun key hkey => hcounts key fun hk => hkey (hkeys hk), hout, fun _ => rfl, _, _, _, _, _, _, _, rfl⟩

theorem calm_emit (b : Block) (e : OutEvent) : Calm quietKeys b (emit b e) := (posts_emit b e).calm

/-- Trace records written. -/
theorem calm_traceAt (b : Block) (t kind bit : Nat) (cluster : Option Nat) (payload : List (Nat × Nat × Nat)) :
    Calm quietKeys b (traceAt b t kind bit cluster payload) := by
  have hcounts (key : Nat) (hkey : key ∉ quietKeys) := traceAt_counts b t kind bit cluster payload (key := key)
    (fun e => hkey (e ▸ by decide)) (fun e => hkey (e ▸ by decide))
  have hout : (traceAt b t kind bit cluster payload).out = b.out := by
    obtain ⟨-, _, _, _, _, h⟩ := records_traceAt b t kind bit cluster payload
    rw [h]
  have hrest := records_traceAt b t kind bit cluster payload
  generalize traceAt b t kind bit cluster payload = d at hcounts hout hrest
  obtain ⟨-, _, _, _, _, rfl⟩ := hrest
  exact ⟨rfl, rfl, rfl, rfl, fun _ => .refl _, hcounts, ⟨[], rfl⟩, fun _ => rfl, _, _, _, _, _, _, _, rfl⟩

theorem calm_putCore (b : Block) (c : Nat) (k : CoreSt) : Calm quietKeys b (putCore b c k) := .of_parts rfl rfl rfl rfl rfl rfl rfl

theorem calm_putRun (b : Block) (n : Nat) (r : Run) : Calm quietKeys b (putRun b n r) := .of_parts rfl rfl rfl rfl rfl rfl rfl

theorem calm_fen (b : Block) (f : Fences) : Calm quietKeys b { b with fen := f } := .of_parts rfl rfl rfl rfl rfl rfl rfl

theorem calm_unwatchIdle (b : Block) : Calm quietKeys b (unwatchIdle b) := by
  refine (calm_fen b _).trans (Calm.foldl (fun b w => ?_) _ _)
  split
  · exact (posts_gzSend _ _ _).calm
  · exact .refl b

theorem calm_cancelWaits (b : Block) (p : Waiter → Bool) : Calm quietKeys b (cancelWaits b p) :=
  (calm_fen b _).trans (calm_unwatchIdle (fenceSweep (dropWaits b p)))

theorem calm_dropCalls (b : Block) (c : Nat) : Calm quietKeys b (dropCalls b c) := .of_parts rfl rfl rfl rfl rfl rfl rfl

theorem calm_traceResume (b : Block) (c : Nat) (k : CoreSt) (cause : Nat) : Calm quietKeys b (traceResume b c k cause) := by
  unfold traceResume
  split
  · exact calm_traceAt _ _ _ _ _ _
  · exact .refl b

theorem calm_endStream (b : Block) (c : Nat) : Calm quietKeys b (endStream b c) := by
  let b₁ := dropCalls (putCore b c (holdClosed (coreOf b c) b.tide.clock)) c
  have h₁ : Calm quietKeys b b₁ := (calm_putCore b c _).trans (calm_dropCalls _ c)
  have h₂ : Calm quietKeys b₁ (traceResume b₁ c (coreOf b₁ c) 3) := calm_traceResume _ _ _ _
  refine h₁.trans (h₂.trans (Calm.trans ?_ (calm_cancelWaits _ _)))
  exact .of_parts rfl rfl rfl rfl rfl rfl rfl

theorem calm_endAtBoundary (b : Block) (c : Nat) : Calm quietKeys b (endAtBoundary b c) := by
  unfold endAtBoundary
  split
  · exact calm_endStream b c
  · exact .refl b

theorem calm_abortRun (b : Block) (n st : Nat) : Calm quietKeys b (abortRun b n st) := by
  unfold abortRun
  split
  · exact .refl b
  · split
    · exact .refl b
    · split
      · split
        · exact calm_putRun _ _ _
        · exact .refl b
      · exact (calm_putRun b n _).trans (Calm.foldl (fun b c => (calm_dropCalls b c).trans (calm_endAtBoundary _ c)) _ _)

theorem calm_cancelL (b : Block) (n : Nat) : Calm quietKeys b (cancelL b n) := by
  unfold cancelL
  split
  · exact .refl b
  · refine Calm.foldl (fun b c => ?_) _ _
    exact Calm.trans (b := putPort b c _) (.of_parts rfl rfl rfl rfl rfl rfl rfl) (Calm.foldl (fun b x => calm_emit b _) _ _)

theorem calm_killRun (b : Block) (n st : Nat) : Calm quietKeys b (killRun b n st) := by
  unfold killRun
  split
  · exact .refl b
  · split
    · exact .refl b
    · exact (calm_putRun b n _).trans ((Calm.foldl calm_endStream _ _).trans
        ((Calm.foldl (fun b c => calm_putCore b c _) _ _).trans ((calm_fen _ _).trans (calm_cancelL _ n))))

/-! ## Propagation (R316) -/

theorem quietKeys_sub : quietKeys ⊆ abortKeys := List.subset_cons_self _ _

/-- A fabric record: its number and its place in the ring. -/
theorem fabRec_eq (b : Block) (type port peer result a v count : Nat) : ∃ seq mem floor, fabRec b type port peer result a v count =
    { b with fab := { b.fab with seq := seq }, mem := mem, tide := { b.tide with stampFloor := floor } } := by
  unfold fabRec ringPut
  dsimp only
  split
  · exact ⟨_, _, _, rfl⟩
  · rw [wrOwn_noteStamp]
    exact ⟨_, _, _, rfl⟩

theorem calm_fabRec (b : Block) (type port peer result a v count : Nat) : Calm quietKeys b (fabRec b type port peer result a v count) := by
  obtain ⟨_, _, _, h⟩ := fabRec_eq b type port peer result a v count
  rw [h]
  exact ⟨rfl, rfl, rfl, rfl, fun _ => .refl _, fun _ _ => rfl, ⟨[], rfl⟩, fun _ => rfl, _, _, _, _, _, _, _, rfl⟩

/-- A run or a core replaced, records written and messages sent raise no propagation; this does. -/
theorem calm_peerAct (b : Block) (chip part : Nat) (num : BitVec 32) : Calm abortKeys b (peerAct b chip part num).1 := by
  have hkey : cPeerAbort ∈ abortKeys := List.mem_cons_self
  have hcount (k : Nat) : Calm abortKeys b (cntAdd { b with fab := { b.fab with aborts := b.fab.aborts ++ [(chip, num)] } } cPeerAbort k) :=
    ⟨rfl, rfl, rfl, rfl, fun _ => .refl _, fun key hk => fmGet_fmSet_ne _ _ _ (fun e => hk (e ▸ hkey)), ⟨[], rfl⟩, fun hk => absurd hkey hk,
      _, _, _, _, _, _, _, rfl⟩
  unfold peerAct
  split
  · exact .refl b
  · exact (hcount _).trans ((calm_fabRec _ _ _ _ _ _ _ _).mono quietKeys_sub)

theorem calm_doPropagate (b : Block) (part : Nat) (chips : List Nat) : Calm abortKeys b (doPropagate b part chips).1 := by
  have hnum : Calm quietKeys b { b with fab := { b.fab with abortNum := b.fab.abortNum + 1 } } :=
    ⟨rfl, rfl, rfl, rfl, fun _ => .refl _, fun _ _ => rfl, ⟨[], rfl⟩, fun _ => rfl, _, _, _, _, _, _, _, rfl⟩
  exact ((hnum.trans ((posts_gzTree _ _).calm.trans (Calm.foldl (fun b c => (posts_gzSend b c _).calm) _ _))).mono quietKeys_sub).trans
    (calm_peerAct _ _ _ _)

/-! ## The effects in order -/

/-- An effect that ends a run, or propagates where `keys` allow it. -/
def Task.calms (keys : List Nat) : Task → Prop
  | .abort _ _ | .kill _ _ => True
  | .propagate _ _ => abortKeys ⊆ keys
  | .work _ _ | .fence _ _ | .satisfied _ _ _ | .ready _ | .after _ | .lose _ _ | .endRun _ | .settle _ => False

theorem doTask_calms {keys : List Nat} {t : Task} (hkeys : quietKeys ⊆ keys) (h : t.calms keys) (b : Block) :
    Calm keys b (doTask b t).1 ∧ ∀ u ∈ (doTask b t).2, u.calms keys := by
  cases t with
  | abort n st => exact ⟨(calm_abortRun b n st).mono hkeys, by simp [doTask, act]⟩
  | kill n st => exact ⟨(calm_killRun b n st).mono hkeys, by simp [doTask, act]⟩
  | propagate p cs =>
    refine ⟨(calm_doPropagate b p cs).mono h, fun u hu => ?_⟩
    simp only [doTask, doPropagate, peerAct] at hu
    split at hu
    · simp [act] at hu
    · obtain ⟨x, -, rfl⟩ := List.mem_map.mp hu
      trivial
  | work | fence | satisfied | ready | after | lose | endRun | settle => exact absurd h id

theorem runTasks_calms {keys : List Nat} (hkeys : quietKeys ⊆ keys) (n : Nat) {ts : List Task} (h : ∀ t ∈ ts, t.calms keys) (b : Block) :
    Calm keys b (runTasks n ts b) := by
  induction n generalizing ts b with
  | zero => cases ts <;> exact .refl b
  | succ n ih =>
    cases ts with
    | nil => exact .refl b
    | cons t ts =>
      obtain ⟨ht, hts⟩ := List.forall_mem_cons.mp h
      obtain ⟨hcalm, hmore⟩ := doTask_calms hkeys ht b
      exact hcalm.trans (ih (fun u hu => (List.mem_append.mp hu).elim (hts u) (hmore u)) _)

/-- A change whose effects end runs and propagate. -/
theorem finish_calms {keys : List Nat} (hkeys : quietKeys ⊆ keys) {a : Act} (h : ∀ t ∈ a.2, t.calms keys) : Calm keys a.1 (finish a) := by
  unfold finish
  split
  · exact .refl _
  · refine Calm.trans (b := numbered a.1) (.of_parts rfl rfl rfl rfl rfl rfl rfl) (runTasks_calms hkeys _ (fun t ht => h t ?_) _)
    unfold followUps at ht
    split at ht
    · exact ht
    · exact (List.mem_filter.1 ht).1

end Sys2Proof.Machine
end


section
/-! PROOFS. Accepted and refused writes of dictionary entries (R407): what they leave alone, for the rows that a write carries out. -/

namespace Sys2Proof.Machine

open Sys2Proof

/-- The counters change by the count of an origin alone, which is that of the dropped accesses (R384). -/
theorem noted_count (b : Block) (a : DictAcc) {key : Nat} (h : key ≠ cAccessDrop) : fmGet (noted b a).ctr key 0 = fmGet b.ctr key 0 := by
  have counted (o : Origin) : fmGet (noteOrigin b o).ctr key 0 = fmGet b.ctr key 0 := by
    unfold noteOrigin
    split
    · exact fmGet_fmSet_ne _ _ _ h
    · rfl
  unfold noted
  split
  · exact counted _
  · exact counted _
  · rfl

/-- The end of a window's operation writes the window. -/
theorem winDone_eq (b : Block) (a : DictAcc) (data status : Nat) : ∃ wins, winDone b a data status = { b with regs := { b.regs with wins := wins } } := by
  unfold winDone
  split
  · exact ⟨_, rfl⟩
  · exact ⟨_, rfl⟩

/-- All that an accepted write changes. -/
theorem dictStore_frame (b : Block) (a : DictAcc) (d : Desc) : ∃ dict regs pwr gen mgt out aud mem floor, dictStore b a d =
    { b with dict := dict, regs := regs, pwr := pwr, tableGen := gen, mgt := mgt, out := out, aud := aud, mem := mem
             tide := { b.tide with stampFloor := floor } } := by
  obtain ⟨_, _, _, _, _, _, _, h⟩ := recorded_eq b a d
  rw [dictStore_eq, h]
  obtain ⟨_, hwin⟩ := winDone_eq (dictReply _ a drOk []) a a.value (winStatus drOk 0 0 false false 0)
  rw [hwin]
  exact ⟨_, _, _, _, _, _, _, _, _, rfl⟩

/-- All that an accepted write changes, its origin counted. -/
theorem dictStore_noted (b : Block) (a : DictAcc) (d : Desc) : ∃ dict regs pwr gen mgt out aud mem floor, dictStore (noted b a) a d =
    { b with dict := dict, regs := regs, pwr := pwr, tableGen := gen, mgt := mgt, out := out, aud := aud, mem := mem
             tide := { b.tide with stampFloor := floor }, ctr := (noted b a).ctr } := by
  obtain ⟨_, _, _, _, _, _, _, _, _, h⟩ := dictStore_frame (noted b a) a d
  have hnoted : noted b a = { b with ctr := (noted b a).ctr } := by obtain ⟨_, hn⟩ := noted_eq b a; rw [hn]
  rw [h, hnoted]
  exact ⟨_, _, _, _, _, _, _, _, _, rfl⟩

/-- The row's own write, ready, whose condition is not met, is refused. -/
theorem dictRow_refuses {s : State} {a : DictAcc} {d : Desc} {row : DictRow} (h : DictReady s a d) (hmine : row.mine = true)
    {e : Nat × Nat} (hcond : row.cond (noted s.blk a) = some e) :
    dictRow .write a row s = .next (s.withBlk (dictRefuse (noted s.blk a) a true e.1 e.2)) := by
  refine (liftA_alive h.alive fun b => if row.mine then dictTurn b .write a (fun b => rowWrite b a row) else act b).trans ?_
  simp only [hmine, if_true, dictTurn_free h.arrives, rowWrite, dictWrite, writeCheck_noted, h.checks, hcond, finish_act]

theorem stateIf_true {ok : Bool} (h : ok = true) : stateIf ok = none := by rw [h]; rfl

theorem stateIf_false {ok : Bool} (h : ok = false) : stateIf ok = some (0x05, 7) := by rw [h]; rfl

end Sys2Proof.Machine
end

section
/-! PROOFS. What triggers a recovery sequence (spec/13_recovery.md, R323 to R328, R343): O52. -/

namespace Sys2Proof.Machine

open Sys2Proof

/-! ## The watchdogs (R323, R333) -/

theorem batonDetail_eq {c pos id : Nat} (hc : c < 64) (hpos : pos < 16) (hid : id < 65536) :
    batonDetail c pos id = c + 256 * pos + 65536 * id := by
  have hrest : pos <<< 8 ||| id <<< 16 = (256 * id + pos) <<< 8 := by
    have hor : pos ||| id <<< 8 = 256 * id + pos := by
      rw [Nat.or_comm, ← Nat.shiftLeft_add_eq_or_of_lt (show pos < 2 ^ 8 by omega), Nat.shiftLeft_eq]; omega
    have hsplit : id <<< 16 = (id <<< 8) <<< 8 := (Nat.shiftLeft_add id 8 8).symm
    rw [hsplit, ← Nat.shiftLeft_or_distrib, hor]
  have hall : c ||| (256 * id + pos) <<< 8 = c + 256 * pos + 65536 * id := by
    rw [Nat.or_comm, ← Nat.shiftLeft_add_eq_or_of_lt (show c < 2 ^ 8 by omega), Nat.shiftLeft_eq]; omega
  simp only [batonDetail, packFields, Nat.or_zero, Nat.shiftLeft_zero, Nat.mod_eq_of_lt (show c < 2 ^ 6 from hc),
    Nat.mod_eq_of_lt (show pos < 2 ^ 4 from hpos), Nat.mod_eq_of_lt (show id < 2 ^ 16 from hid), hrest, hall]

theorem isL_false {pos : Nat} (h12 : pos ≠ 12) (h13 : pos ≠ 13) : isL pos = false := by simp [isL, h12, h13]

/-! ## The steps of units (R324, R343) -/

/-- A map whose keys of a list are set holds at each of them what was set. -/
theorem fmGet?_foldl_fmSet {α : Type} (f : Nat → α) (l : List Nat) (m : FMap α) {u : Nat} (hu : u ∈ l) :
    fmGet? (l.foldl (fun m n => fmSet m n (f n)) m) u = some (f u) := by
  have hkept (l : List Nat) (m : FMap α) (h : fmGet? m u = some (f u)) : fmGet? (l.foldl (fun m n => fmSet m n (f n)) m) u = some (f u) := by
    induction l generalizing m with
    | nil => exact h
    | cons n ns ih =>
      refine ih _ ?_
      by_cases e : u = n
      · subst e; exact fmGet?_fmSet_self _ _ _
      · rw [fmGet?_fmSet_ne _ _ e]; exact h
  obtain ⟨l₁, l₂, rfl⟩ := List.append_of_mem hu
  rw [List.foldl_append, List.foldl_cons]
  exact hkept _ _ (fmGet?_fmSet_self _ _ _)

/-- A unit that completed a step has its watchdog's interval from now on. -/
theorem lastStep_noteSteps (o : Block) {b : Block} {u : Nat} (hu : u < 0x90) (hstep : unitSame o b u = false) :
    lastStep (noteSteps o b) u = unitStepNow b u := by
  have hmem : u ∈ unitIds.filter fun n => !unitSame o b n := List.mem_filter.2 ⟨List.mem_range.2 hu, by rw [hstep]; rfl⟩
  rw [lastStep, noteSteps]
  dsimp only
  rw [fmGet?_foldl_fmSet (unitStepNow b) _ _ hmem]
  rfl

/-! ## Events against a unit (R358, R363) -/

/-- `b` differs from `a` at most in what the history of units changes: their records, the ring of the history and NOTIFY. -/
def Marks (a b : Block) : Prop := ∃ seq units mem floor notes out, b = { a with
  rel := { a.rel with histSeq := seq, units := units }, mem := mem, tide := { a.tide with stampFloor := floor }
  mgt := { a.mgt with notify := notes }, out := out }

theorem Marks.trans {a b c : Block} (h : Marks a b) (h' : Marks b c) : Marks a c := by
  obtain ⟨_, _, _, _, _, _, rfl⟩ := h
  obtain ⟨_, _, _, _, _, _, rfl⟩ := h'
  exact ⟨_, _, _, _, _, _, rfl⟩

theorem marks_putUnit (b : Block) (u : Nat) (x : UnitRec) : Marks b (putUnit b u x) := ⟨_, _, _, _, _, _, rfl⟩

/-- A history record leaves every unit's record. -/
theorem histRec_eq (b : Block) (type cls unit : Nat) (ctx : Option (BitVec 24)) (status a v : Nat) : ∃ seq mem floor notes out,
    histRec b type cls unit ctx status a v = { b with
      rel := { b.rel with histSeq := seq }, mem := mem, tide := { b.tide with stampFloor := floor }
      mgt := { b.mgt with notify := notes }, out := out } := by
  unfold histRec
  split
  · exact ⟨_, _, _, _, _, rfl⟩
  · dsimp only
    obtain ⟨_, _, _, _, h⟩ := notify_ringPut_eq { b with rel := { b.rel with histSeq := (b.rel.histSeq + 1) % 2 ^ 32 } } _ _ _ _ _ _ _ _
    rw [h]
    exact ⟨_, _, _, _, _, rfl⟩

theorem marks_histRec (b : Block) (type cls unit : Nat) (ctx : Option (BitVec 24)) (status a v : Nat) :
    Marks b (histRec b type cls unit ctx status a v) := by
  obtain ⟨_, _, _, _, _, h⟩ := histRec_eq b type cls unit ctx status a v
  exact ⟨_, _, _, _, _, _, h⟩

@[simp] theorem unitOf_histRec (b : Block) (type cls unit : Nat) (ctx : Option (BitVec 24)) (status a v u : Nat) :
    unitOf (histRec b type cls unit ctx status a v) u = unitOf b u := by
  obtain ⟨_, _, _, _, _, h⟩ := histRec_eq b type cls unit ctx status a v
  rw [h]; rfl

@[simp] theorem unitOf_putUnit (b : Block) (u : Nat) (x : UnitRec) : unitOf (putUnit b u x) u = x := by simp [unitOf, putUnit]

theorem unitOf_putUnit_ne (b : Block) {u w : Nat} (x : UnitRec) (h : w ≠ u) : unitOf (putUnit b u x) w = unitOf b w := by
  simp [unitOf, putUnit, fmGet?_fmSet_ne _ _ h]

/-- A unit that becomes Suspect is not absent: nothing else follows. -/
theorem setUnit_suspect {b : Block} {u : Nat} (h : (unitOf b u).state = 0) (cls : Nat) (ctx : Option (BitVec 24)) :
    ∃ d, setUnit b u 1 cls ctx = act d ∧ (unitOf d u).state = 1 ∧ Marks b d := by
  refine ⟨_, ?_, ?_, (marks_putUnit b u { unitOf b u with state := 1, passes := 0, structOk := false, agreed := 0 }).trans
    (marks_histRec _ htState cls u ctx 0 (unitOf b u).state 1)⟩
  · simp [setUnit, h]
  · simp

/-- An event against a Healthy unit makes it Suspect. -/
theorem unitEvent_healthy {b : Block} {u : Nat} (h : (unitOf b u).state = 0) (type : Nat) (ctx : Option (BitVec 24)) (status a v : Nat) :
    ∃ d, unitEvent b u type ctx status a v = act d ∧ (unitOf d u).state = 1 ∧ Marks b d := by
  let b₁ := putUnit b u { unitOf b u with events := b.tide.clock :: (unitOf b u).events, passes := 0, structOk := false, agreed := 0 }
  let b₂ := histRec (putUnit b₁ u { unitOf b₁ u with state := 1 }) type hcPending u ctx status a v
  let b₃ := putUnit b₂ u { unitOf b₂ u with state := 0 }
  have hmarks : Marks b b₃ := (marks_putUnit b u _).trans ((marks_putUnit b₁ u _).trans ((marks_histRec _ _ _ _ _ _ _ _).trans (marks_putUnit b₂ u _)))
  obtain ⟨d, hd, hstate, hset⟩ := setUnit_suspect (b := b₃) (u := u) (by simp [b₃]) hcPending ctx
  refine ⟨d, ?_, hstate, hmarks.trans hset⟩
  rw [← hd]
  simp [unitEvent, h, b₁, b₂, b₃]

/-- A run with no sample that meets a detected fault is only marked. -/
theorem faultRun_marked {b : Block} {n : Nat} {r : Run} (hfound : runOf b n = some r) (hsample : sampleOf b n = none) :
    faultRun b n = act (putRun b n { r with faulted := true }) := by
  have hsample' : sampleOf (putRun b n { r with faulted := true }) n = none := hsample
  simp only [faultRun, hfound, hsample']
  split
  · rfl
  · next h _ => cases h
  · rfl

/-- State of a heat lost on a cluster: the unit becomes Suspect, and the run meets a detected fault (R326, R351). -/
theorem heatStateBad_marks {b : Block} {c code n : Nat} {r : Run} (hrun : (coreOf b c).run = some n) (hfound : runOf b n = some r)
    (hlives : r.endedAt = none) (hsample : sampleOf b n = none) (hunit : (unitOf b (if code ≤ 4 then unitNo c 15 else unitXp)).state = 0) :
    ∃ d, heatStateBad b c code = act d ∧ (unitOf d (if code ≤ 4 then unitNo c 15 else unitXp)).state = 1 ∧
      runOf d n = some { r with faulted := true } ∧ d.rcv.stage = b.rcv.stage := by
  obtain ⟨b₁, hb₁⟩ : ∃ d, (if code = 1 then putCore b c { coreOf b c with wipe := true } else b) = d := ⟨_, rfl⟩
  have hcore : (coreOf b₁ c).run = some n := by
    subst hb₁
    split
    · rw [coreOf_putCore]; exact hrun
    · exact hrun
  have hrest : b₁.comp = b.comp ∧ b₁.rel = b.rel ∧ b₁.rcv = b.rcv := by
    subst hb₁
    split
    · exact ⟨rfl, rfl, rfl⟩
    · exact ⟨rfl, rfl, rfl⟩
  obtain ⟨hcomp, hrel, hrcv⟩ := hrest
  have hfound₁ : runOf b₁ n = some r := by rw [runOf, hcomp]; exact hfound
  obtain ⟨d, hd, hstate, hmarks⟩ := unitEvent_healthy (b := b₁) (by rw [unitOf, hrel]; exact hunit) htHeatState (some r.ctx) 0 code r.tag
  have hfound' : runOf d n = some r := by obtain ⟨_, _, _, _, _, _, rfl⟩ := hmarks; exact hfound₁
  have hsample' : sampleOf d n = none := by
    have hsame : sampleOf b₁ n = none := by rw [← hsample, sampleOf, sampleOf, hrel]
    obtain ⟨_, _, _, _, _, _, rfl⟩ := hmarks
    exact hsame
  refine ⟨putRun d n { r with faulted := true }, ?_, hstate, runOf_putRun _ _ _, ?_⟩
  · simp only [heatStateBad, hb₁, hcore, hfound₁, hlives, Option.isSome_none, Bool.false_eq_true, if_false, hd, andThen_act,
      faultRun_marked hfound' hsample']
  · obtain ⟨_, _, _, _, _, _, rfl⟩ := hmarks
    exact congrArg Recovery.stage hrcv

/-! ## A core that waits too long (R325) -/

/-- The end of a stream ends no run. -/
theorem comp_endStream (b : Block) (c : Nat) : (endStream b c).comp = b.comp := by
  have hwaits (d : Block) (p : Waiter → Bool) : (cancelWaits d p).comp = d.comp := by
    unfold cancelWaits unwatchIdle
    refine (foldl_keeps Block.comp (fun d w => ?_) _ _).trans rfl
    split
    · obtain ⟨-, -, _, _, _, h⟩ := sends_gzSend d (gchip w.addr.toNat) (.fenceUnwatch w.addr w.value)
      rw [h]
    · rfl
  unfold endStream
  refine (hwaits _ _).trans ?_
  exact (records_traceResume (dropCalls (putCore b c (holdClosed (coreOf b c) b.tide.clock)) c) c _ 3).comp

/-- The block once a wait that has lasted too long is counted and traced, at the instant it is due. -/
def waitNoted (b : Block) (c : Nat) (r : Run) (a v : Word) (cr : Bool) : Block :=
  let b := passTo b (coreOf b c).waitBy
  let now := match fenceEnt b a with
    | some e => e.value
    | none => BitVec.ofNat 64 (rdLE b a.toNat 8)
  trace (cnt b cCoreWaitHang) 2 1 (some c) [(0, 24, r.ctx.toNat), (32, 17, r.tag), (64, 64, a.toNat),
    (128, 64, v.toNat), (192, 64, now.toNat), (256, 1, b2n cr)]

theorem waitNoted_spec (b : Block) (c : Nat) (r : Run) (a v : Word) (cr : Bool) :
    (waitNoted b c r a v cr).tide.clock = max b.tide.clock (coreOf b c).waitBy ∧
    fmGet (waitNoted b c r a v cr).ctr cCoreWaitHang 0 = satAdd 32 (fmGet b.ctr cCoreWaitHang 0) 1 ∧
    (waitNoted b c r a v cr).comp = b.comp ∧ (waitNoted b c r a v cr).rcv = b.rcv := by
  obtain ⟨b₁, hb₁⟩ : ∃ d, cnt (passTo b (coreOf b c).waitBy) cCoreWaitHang = d := ⟨_, rfl⟩
  have hrec (payload : List (Nat × Nat × Nat)) : Records b₁ (trace b₁ 2 1 (some c) payload) := records_traceAt _ _ _ _ _ _
  have hkept (payload : List (Nat × Nat × Nat)) : fmGet (trace b₁ 2 1 (some c) payload).ctr cCoreWaitHang 0 = fmGet b₁.ctr cCoreWaitHang 0 :=
    traceAt_counts _ _ _ _ _ _ (by decide) (by decide)
  unfold waitNoted
  dsimp only
  rw [hb₁]
  refine ⟨(hrec _).clock.trans (hb₁ ▸ rfl), (hkept _).trans (hb₁ ▸ cnt_value _ _), (hrec _).comp.trans (hb₁ ▸ rfl),
    (hrec _).rcv.trans (hb₁ ▸ rfl)⟩

theorem coreWaitHang_ends {b : Block} {c n : Nat} {r : Run} {a v : Word} {cr : Bool} (hwait : localWait (coreOf b c) = some (a, v, cr))
    (hrun : (coreOf b c).run = some n) (hfound : runOf b n = some r) :
    coreWaitHang b c = (endStream (waitNoted b c r a v cr) c, [.abort n stHang]) := by
  simp only [coreWaitHang, hwait, hrun, hfound]
  rfl

/-- The core's stream ends, and its heat is aborted with ABORT_HANG. -/
theorem coreWaitHang_gives {b : Block} {c n : Nat} {r : Run} {a v : Word} {cr : Bool} (hidle : b.rcv.stage = .idle)
    (hwait : localWait (coreOf b c) = some (a, v, cr)) (hrun : (coreOf b c).run = some n) (hfound : runOf b n = some r)
    (hstays : r.abort = none) (hlives : r.endedAt = none) :
    Aborted (finish (coreWaitHang b c)) n stHang ∧ (coreOf (finish (coreWaitHang b c)) c).ended = true ∧
      (finish (coreWaitHang b c)).tide.clock = max b.tide.clock (coreOf b c).waitBy ∧
      fmGet (finish (coreWaitHang b c)).ctr cCoreWaitHang 0 = satAdd 32 (fmGet b.ctr cCoreWaitHang 0) 1 ∧
      (finish (coreWaitHang b c)).rcv.stage = .idle := by
  obtain ⟨hclock, hcount, hcomp, hrcv⟩ := waitNoted_spec b c r a v cr
  rw [coreWaitHang_ends hwait hrun hfound]
  obtain ⟨b₁, hb₁⟩ : ∃ d, waitNoted b c r a v cr = d := ⟨_, rfl⟩
  rw [hb₁] at hclock hcount hcomp hrcv ⊢
  obtain ⟨hquiet, hended⟩ := endStream_spec b₁ c
  have hcalm := calm_endStream b₁ c
  have hfinish : finish (endStream b₁ c, [.abort n stHang]) = abortRun (numbered (endStream b₁ c)) n stHang :=
    finish_single (by rw [hcalm.rcv, hrcv]; exact hidle) rfl
  have hfound' : runOf (numbered (endStream b₁ c)) n = some r := by
    show runOf (endStream b₁ c) n = some r
    rw [runOf, comp_endStream, hcomp]; exact hfound
  have habort : Quiet (endStream b₁ c) (abortRun (numbered (endStream b₁ c)) n stHang) :=
    (quiet_sb _ _).trans (quiet_abortRun _ n stHang)
  have hcalm' : Calm quietKeys (endStream b₁ c) (abortRun (numbered (endStream b₁ c)) n stHang) :=
    Calm.trans (b := numbered (endStream b₁ c)) (.of_parts rfl rfl rfl rfl rfl rfl rfl) (calm_abortRun _ n stHang)
  have hkey : cCoreWaitHang ∉ quietKeys := by decide
  rw [hfinish]
  refine ⟨abortRun_aborted hfound' hlives hstays ⟨by decide, by decide⟩, habort.ended c hended, ?_, ?_, ?_⟩
  · rw [hcalm'.clock, hcalm.clock, hclock]
  · rw [hcalm'.counts _ hkey, hcalm.counts _ hkey, hcount]
  · rw [hcalm'.rcv, hcalm.rcv, hrcv]; exact hidle

/-! ## Writes that start a sequence or set the generation (R327, R340) -/

/-- The generation written while no port is trained. -/
theorem genWrite_untrained {b : Block} (h : ∀ p, p < 6 → (linkOf b p).trained = false) (g : BitVec 6) :
    genWrite b g = { b with rcv := { b.rcv with resetGen := g, genWritten := true } } := by
  have hnone : sixPorts.filter (fun p => (linkOf { b with rcv := { b.rcv with resetGen := g, genWritten := true } } p).trained) = [] := by
    refine List.filter_eq_nil_iff.2 fun p hp => ?_
    have hlt : p < 6 := by
      simp only [sixPorts, List.mem_cons, List.not_mem_nil, or_false] at hp
      omega
    have huntrained : (linkOf { b with rcv := { b.rcv with resetGen := g, genWritten := true } } p).trained = false := h p hlt
    rw [huntrained]
    decide
  rw [genWrite, hnone]
  rfl

/-- The sequence that a trigger starts from rest. -/
theorem trigger_rest {b : Block} (hidle : b.rcv.stage = .idle) (cause detail : Nat) (hung : Option Nat) : trigger b cause detail hung =
    { b with rcv := { b.rcv with stage := .fence, cause := cause, detail := detail, t0 := stamp b, from_ := b.tide.clock,
                                 frame := b.tide.frame, secondary := [], secCount := 0, buffers := b.adm.dumpBufs, remote := remoteParts b,
                                 access := openAccesses b, hungTag := hung, badUnits := [], badPorts := [], drainExp := false, lost := [] } } :=
  if_pos hidle

/-- Settles O52: each watchdog passes to its instant and triggers with its cause; a heat that waits too long is aborted alone. -/
theorem recoveryTriggers : Obligations.RecoveryTriggers := by
  unfold Obligations.RecoveryTriggers
  refine ⟨fun b cause detail hung => ⟨fun hidle => ⟨_, trigger_rest hidle cause detail hung, ?_⟩, fun hrun => if_neg hrun⟩, fun s halive => ?_⟩
  · and_intros <;> rfl
  refine ⟨fun u hu => ⟨fun hpend => lift_eq (f := fun b => unitHang b u) halive ?_,
      fun hpend => lift_eq (f := fun b => unitHang b u) halive ?_, liftA_eq (f := fun b => sramBad b (.other u)) halive ?_⟩,
    fun c id x hx h12 h13 hc hpos hid => lift_eq (f := fun b => batonHang b c id) halive ?_,
    fun c e id he hc hpos hid hfree => lift_eq (f := fun b => if c < 64 then portHang b c else b) halive ?_,
    fun a w hw => lift_eq (f := fun b => ackHang b a none) halive ?_,
    fun a issued hissued => lift_eq (f := fun b => ackHang b a (some issued)) halive (if_pos hissued), fun _ => rfl,
    fun o u hu hstep => lastStep_noteSteps o hu hstep, fun id c hc hstate => lift_eq (f := fun b => destroyHang b id) halive ?_,
    liftA_eq (f := fun b => sramBad b .corrected) halive rfl,
    fun key hkey hpin => liftA_eq (f := fun b => sramBad b (.copy 0 key)) halive ?_, fun c code n r hc hlow hhigh hrun hfound hlives hsample hunit => ?_,
    fun c n r a v cr hrunning hwait hrun hfound hstays hlives => ?_, fun a d hready hidx hsub hvalue => ?_,
    fun a d hready hidx hsub => ⟨fun hwritten => ?_, fun hfree huntrained => ?_⟩⟩
  · simp only [unitHang, hu, hpend, decide_true, Bool.and_self, if_true]
    rfl
  · simp only [unitHang, hpend, Bool.and_false, Bool.false_eq_true, if_false]
  · simp only [sramBad, hu, if_true]
    rfl
  · simp only [batonHang, hx, isL_false h12 h13, Bool.false_eq_true, if_false, batonDetail_eq hc hpos hid]
    rfl
  · simp only [if_pos hc, portHang, he, hfree, Option.getD_some, batonDetail_eq hc hpos hid]
    rfl
  · simp only [ackHang, hw]
    rfl
  · simp only [destroyHang, hc, hstate, if_true]
    rfl
  · simp only [sramBad, copyDrop, hkey, hpin, Bool.not_false, Bool.and_self, if_true]
    rfl
  · obtain ⟨d, hd, hstate, hmarked, hrcv⟩ := heatStateBad_marks hrun hfound hlives hsample hunit
    exact gives_withBlk (liftA_eq halive (f := fun b => sramBad b (.heatState c code)) ((if_pos ⟨hc, hlow, hhigh⟩).trans hd))
      ⟨hstate, hmarked, hrcv⟩
  · exact gives_withBlk (liftRA_running hrunning fun b => coreWaitHang b c)
      (coreWaitHang_gives hrunning.2 hwait hrun hfound hstays hlives)
  · have hrcv : (dictStore (noted s.blk a) a d).rcv = s.blk.rcv := by
      obtain ⟨_, _, _, _, _, _, _, _, _, h⟩ := dictStore_noted s.blk a d
      rw [h]
    refine (dictRow_stores (row := rowRecoveryStart a) hready (by simp [rowRecoveryStart, hidx, hsub, hvalue]) rfl).trans ?_
    simp only [rowRecoveryStart, hrcv, finish_act]
    rfl
  · have hcond : (rowResetGeneration a).cond (noted s.blk a) = some (0x05, 7) := stateIf_false (by rw [noted_rcv, hwritten]; rfl)
    exact dictRow_refuses hready (by simp [rowResetGeneration, hidx, hsub]) hcond
  · have hcond : (rowResetGeneration a).cond (noted s.blk a) = none := stateIf_true (by rw [noted_rcv, hfree]; rfl)
    have hrcv : (dictStore (noted s.blk a) a d).rcv = s.blk.rcv ∧ (dictStore (noted s.blk a) a d).fab = s.blk.fab := by
      obtain ⟨_, _, _, _, _, _, _, _, _, h⟩ := dictStore_noted s.blk a d
      rw [h]; exact ⟨rfl, rfl⟩
    have huntrained' (p : Nat) (hp : p < 6) : (linkOf (dictStore (noted s.blk a) a d) p).trained = false := by
      rw [linkOf, hrcv.2]; exact huntrained p hp
    refine (dictRow_stores hready (by simp [rowResetGeneration, hidx, hsub]) hcond).trans ?_
    simp only [rowResetGeneration, genWrite_untrained huntrained', hrcv.1, finish_act]

end Sys2Proof.Machine
end


section
/-! PROOFS. Shadow, third and capture runs (spec/14_silent_errors.md, R349, R353, R355): O55. -/

namespace Sys2Proof.Machine

open Sys2Proof

/-! ## Another run starts -/

/-- Cores that start are all that changes. -/
theorem foldl_coreStart (n : Nat) (ctx : BitVec 24) (e : BitVec 512) (l : List Nat) (b : Block) :
    ∃ cores, l.foldl (fun b c => coreStart b n ctx e c) b = { b with cores := cores } := by
  induction l generalizing b with
  | nil => exact ⟨_, rfl⟩
  | cons c cs ih =>
    obtain ⟨cores, h⟩ := ih (coreStart b n ctx e c)
    exact ⟨cores, by rw [List.foldl_cons, h]; rfl⟩

theorem invalidate_eq (b : Block) (ctx : BitVec 24) (e : BitVec 512) : ∃ cores, invalidate b ctx e = { b with cores := cores } := by
  unfold invalidate
  split
  · exact ⟨_, rfl⟩
  · exact ⟨_, rfl⟩

/-- A run begins on its cores; the parts of withdrawn clusters are over at once. -/
theorem coresStart_eq {b : Block} {n : Nat} {r : Run} {i : Item} (hrun : runOf b n = some r) (hitem : itemOf b r.tag = some i) :
    ∃ cores parts skips, coresStart b n = { putRun b n { r with partsEnded := parts, skips := skips } with cores := cores } := by
  obtain ⟨gone, hgone⟩ : ∃ l, r.clusters.filter (withdrawn b) = l := ⟨_, rfl⟩
  obtain ⟨b₁, hb₁⟩ : ∃ d, putRun b n { r with partsEnded := gone, skips := r.skips || !gone.isEmpty } = d := ⟨_, rfl⟩
  obtain ⟨_, hinv⟩ := invalidate_eq b₁ r.ctx i.entry
  obtain ⟨cores, hstart⟩ := foldl_coreStart n r.ctx i.entry (r.clusters.filter fun c => !gone.contains c) (invalidate b₁ r.ctx i.entry)
  refine ⟨cores, gone, r.skips || !gone.isEmpty, ?_⟩
  simp only [coresStart, hrun, hitem, hgone, hb₁]
  rw [hstart, hinv]

/-- A run that starts takes the next number. -/
theorem addRun_eq (b : Block) (r : Run) : ∃ cores parts skips, addRun b r = (b.comp.nextRun, { b with
    comp := { b.comp with
      nextRun := b.comp.nextRun + 1
      runs := fmSet b.comp.runs b.comp.nextRun { r with partsEnded := parts, skips := skips } }
    cores := cores }) := by
  obtain ⟨b₁, hb₁⟩ : ∃ d, { b with comp := { b.comp with
      nextRun := b.comp.nextRun + 1, runs := fmSet b.comp.runs b.comp.nextRun r } } = d := ⟨_, rfl⟩
  have hrun : runOf b₁ b.comp.nextRun = some r := by subst hb₁; exact fmGet?_fmSet_self _ _ _
  have hadd : addRun b r = (b.comp.nextRun, coresStart b₁ b.comp.nextRun) := by subst hb₁; rfl
  rw [hadd]
  cases hitem : itemOf b₁ r.tag with
  | none =>
    have hstart : coresStart b₁ b.comp.nextRun = b₁ := by simp only [coresStart, hrun, hitem]
    rw [hstart, ← hb₁]
    exact ⟨b.cores, r.partsEnded, r.skips, rfl⟩
  | some i =>
    obtain ⟨cores, parts, skips, hstart⟩ := coresStart_eq hrun hitem
    rw [hstart, ← hb₁]
    refine ⟨cores, parts, skips, ?_⟩
    simp only [putRun, fmSet_fmSet]

/-- Run `m` is another run of primary run `n`, whose sample is `y` now. -/
def Started (t : Block) (n m : Nat) (r : Run) (kind : RunKind) (part : Nat) (cs : List Nat) (y : Sample) : Prop :=
  (runOf t m).map (fun z => (z.kind, z.tag, z.part, z.clusters, z.lc)) = some (kind, r.tag, part, cs, false) ∧
    t.comp.nextRun = m + 1 ∧ fmGet? t.rel.samples n = some y

/-- Another run of a primary's heat takes the next number, and the primary's sample is replaced. -/
theorem startOther_starts (b : Block) (kind : RunKind) (r : Run) (i : Item) (part : Nat) (cs : List Nat) (n : Nat) (y : Sample) :
    (startOther b kind r i part cs).1 = b.comp.nextRun ∧
    Started (putSample (startOther b kind r i part cs).2 n y) n b.comp.nextRun r kind part cs y ∧
    (startOther b kind r i part cs).2.ctr = b.ctr ∧ (startOther b kind r i part cs).2.rel = b.rel := by
  obtain ⟨_, parts, skips, h⟩ := addRun_eq b { newRun b kind r.tag i part false cs with chunk := r.chunk, res := r.res }
  rw [startOther, h]
  refine ⟨rfl, ⟨?_, rfl, fmGet?_fmSet_self _ _ _⟩, rfl, rfl⟩
  have hrun (cores : FMap CoreSt) (x : Run) : runOf (putSample { b with
      comp := { b.comp with nextRun := b.comp.nextRun + 1, runs := fmSet b.comp.runs b.comp.nextRun x }, cores := cores } n y) b.comp.nextRun =
      some x := fmGet?_fmSet_self _ _ _
  rw [hrun]
  rfl

section
variable {b : Block} {n : Nat} {x : Sample} {r : Run} {i : Item}

/-- A shadow run starts on clusters of the shadow partition, in its time. -/
theorem shadowStart_starts (hsample : fmGet? b.rel.samples n = some x) (hrun : runOf b n = some r) (hitem : itemOf b r.tag = some i)
    (hstage : x.stage = .runs) (hnone : x.shadow = none) (hwithin : b.tide.clock ≤ x.since + shadowNs b) {cs : List Nat}
    (hplace : placeOther b (shadowPart b r.part) r i x.budget [] = some cs) :
    ∃ t, shadowStart b n = act t ∧ Started t n b.comp.nextRun r .shadow (shadowPart b r.part) cs { x with shadow := some b.comp.nextRun } := by
  obtain ⟨hnum, hstarts, -⟩ := startOther_starts b .shadow r i (shadowPart b r.part) cs n { x with shadow := some b.comp.nextRun }
  refine ⟨_, ?_, hstarts⟩
  simp only [shadowStart, hsample, hrun, hstage, hnone, hwithin, Option.isNone_none, decide_true, Bool.and_self, if_true, hitem, hplace, hnum]

/-- A sample with one run that is given up is forgotten, and the run goes on. -/
theorem doSettle_alone (hsample : fmGet? b.rel.samples n = some x) (hrun : runOf b n = some r) (hstage : x.stage = .runs)
    (hshadow : x.shadow = none) (hthird : x.third = none) (hcapture : x.captureRun = none) (hlives : r.endedAt = none) :
    doSettle b n = act { cnt b cShadowAbandon with rel := { b.rel with samples := fmErase b.rel.samples n } } := by
  have hdrop : dropSample (cnt b cShadowAbandon) n = { cnt b cShadowAbandon with rel := { b.rel with samples := fmErase b.rel.samples n } } := by
    have hsample' : fmGet? (cnt b cShadowAbandon).rel.samples n = some x := hsample
    simp only [dropSample, hsample', hshadow, hthird, hcapture]
    rfl
  simp only [doSettle, hsample, hrun, hshadow, hthird, hcapture, hstage, hlives, abandonRun, Option.isSome_none, Bool.false_eq_true, if_false,
    hdrop]

/-- A third run starts in the partition of the first placement that succeeds, and counts with the replays. -/
theorem arbitrationStart_starts (hsample : fmGet? b.rel.samples n = some x) (hrun : runOf b n = some r) (hitem : itemOf b r.tag = some i)
    (hstage : x.stage = .arbitrate) {k : Nat} {q : Run} (hshadow : x.shadow = some k) (hq : runOf b k = some q) (hnone : x.third = none)
    (hwithin : b.tide.clock ≤ x.since + shadowNs b) {part : Nat} {cs : List Nat}
    (hplace : ((placeOther b (shadowPart b r.part) r i x.budget (r.clusters ++ q.clusters)).map fun cs => (shadowPart b r.part, cs)).orElse
      (fun _ => (placeOther b r.part r i x.budget (r.clusters ++ q.clusters)).map fun cs => (r.part, cs)) = some (part, cs)) :
    ∃ t, arbitrationStart b n = act t ∧ Started t n b.comp.nextRun r .arbitration part cs { x with third := some b.comp.nextRun } ∧
      fmGet t.ctr cReplayRun 0 = satAdd 32 (fmGet b.ctr cReplayRun 0) 1 := by
  obtain ⟨hnum, hstarts, hctr, -⟩ := startOther_starts (cnt b cReplayRun) .arbitration r i part cs n { x with third := some b.comp.nextRun }
  refine ⟨_, ?_, hstarts, (congrArg (fmGet · cReplayRun 0) hctr).trans (cnt_value b _)⟩
  have hbind : x.shadow.bind (runOf b) = some q := by rw [hshadow]; exact hq
  simp only [arbitrationStart, hsample, hrun, hstage, hnone, hwithin, Option.isNone_none, decide_true, Bool.and_self, if_true, hitem, hbind,
    hplace, hnum]
  rfl

/-- The block once a capture's record has its place in the ring: the records that it overwrites are gone (R355). -/
def placeTaken (b : Block) (z : Corpus) : Block :=
  { b with rel := { b.rel with corpusPos := z.base + z.limit, corpora := b.rel.corpora.filter fun y => !overlaps y.2 z.base z.limit } }

/-- A capture run starts on the third run's clusters, into the record that the ring's next place gives; the records that it overwrites go. -/
theorem corpusCapture_starts (hsample : fmGet? b.rel.samples n = some x) (hrun : runOf b n = some r) (hitem : itemOf b r.tag = some i)
    {st u rank pos k : Nat} {q : Run} (hstage : x.stage = .capture st) (hnone : x.captureRun = none) (hunit : x.unit = some (u, rank, pos))
    (hthird : x.third = some k) (hq : runOf b k = some q) (hopen : startsOpen b = true) (hbars : applyBars b q.part = false)
    (hfree : ∀ y ∈ b.comp.runs, y.1 ≠ k → y.2.released = false → ∀ c ∈ q.clusters, c ∉ y.2.clusters) :
    ∃ t, corpusCapture b n = act t ∧ Started t n b.comp.nextRun r .capture q.part q.clusters
        { x with captureRun := some b.comp.nextRun, corpus := some (newCorpus b q u rank pos) } ∧
      t.rel.corpusPos = (newCorpus b q u rank pos).base + (newCorpus b q u rank pos).limit ∧
      t.rel.corpora = b.rel.corpora.filter fun y => !overlaps y.2 (newCorpus b q u rank pos).base (newCorpus b q u rank pos).limit := by
  obtain ⟨z, hz⟩ : ∃ z, newCorpus b q u rank pos = z := ⟨_, rfl⟩
  obtain ⟨b₁, hb₁⟩ : ∃ d, placeTaken b z = d := ⟨_, rfl⟩
  have hplace : { b with rel := { b.rel with corpusPos := z.base + z.limit, corpora := b.rel.corpora.filter fun y => !overlaps y.2 z.base z.limit } } =
    b₁ := hb₁
  obtain ⟨hnum, hstarts, -, hrel⟩ := startOther_starts b₁ .capture r i q.part q.clusters n
    { x with captureRun := some b.comp.nextRun, corpus := some z }
  have hnext : b₁.comp.nextRun = b.comp.nextRun := by subst hb₁; rfl
  rw [hnext] at hnum hstarts
  have hclear : (q.clusters.any fun c => b.comp.runs.any fun y => decide (some y.1 ≠ x.third) && !y.2.released && y.2.clusters.contains c) = false := by
    refine List.any_eq_false.2 fun c hc hany => ?_
    obtain ⟨y, hy, htaken⟩ := List.any_eq_true.1 hany
    simp only [hthird, Bool.and_eq_true, decide_eq_true_eq, Bool.not_eq_true', List.contains_iff_mem] at htaken
    obtain ⟨⟨hother, hheld⟩, hin⟩ := htaken
    exact hfree y hy (fun e => hother (congrArg some e)) hheld c hc hin
  have hbind : x.third.bind (runOf b) = some q := by rw [hthird]; exact hq
  rw [hz]
  refine ⟨_, ?_, hstarts, ?_, ?_⟩
  · simp only [corpusCapture, hsample, hrun, hstage, hnone, hunit, hbind, hopen, hclear, hbars, Bool.not_false, Bool.and_self, if_true, hitem,
      hz, hplace, hnum]
  · exact (congrArg Reliab.corpusPos hrel).trans (hb₁ ▸ rfl)
  · exact (congrArg Reliab.corpora hrel).trans (hb₁ ▸ rfl)

end

/-- Settles O55: each run starts under the next number, on the clusters that its placement gives. -/
theorem sampledHeats : Obligations.SampledHeats := by
  unfold Obligations.SampledHeats
  intro s n x r i hrunning
  dsimp only
  intro hsample hrun hitem
  refine ⟨fun cs hstage hnone hwithin hplace => ?_, fun hstage hshadow hthird hcapture hlives => ?_,
    fun k q cs hstage hshadow hq hnone hwithin => ⟨fun hplace => ?_, fun hfull hplace => ?_⟩,
    fun st k u rank pos q hstage hnone hunit hthird hq hopen hbars hfree => ?_⟩
  · obtain ⟨t, ht, hstarts⟩ := shadowStart_starts hsample hrun hitem hstage hnone hwithin hplace
    exact gives_withBlk (liftRA_eq hrunning (f := fun b => shadowStart b n) ht) hstarts
  · have htimeout : shadowTimeout s.blk n = (passTo s.blk (x.since + shadowNs s.blk), [.settle n]) := by
      simp only [shadowTimeout, hsample, hrun, hstage, hshadow, Option.isNone_none, if_true]
    have hfinish := finish_single (b := passTo s.blk (x.since + shadowNs s.blk)) (x := .settle n) hrunning.2
      (doSettle_alone (b := numbered (passTo s.blk (x.since + shadowNs s.blk))) hsample hrun hstage hshadow hthird hcapture hlives)
    refine gives_withBlk (liftRA_running hrunning fun b => shadowTimeout b n) ?_
    rw [htimeout, hfinish]
    exact ⟨fmGet?_fmErase_self _ _, hrun, rfl, cnt_value _ _⟩
  · obtain ⟨t, ht, hstarts, hcount⟩ := arbitrationStart_starts hsample hrun hitem hstage hshadow hq hnone hwithin
      (part := shadowPart s.blk r.part) (cs := cs) (by rw [hplace]; rfl)
    exact gives_withBlk (liftRA_eq hrunning (f := fun b => arbitrationStart b n) ht) ⟨hstarts, hcount⟩
  · obtain ⟨t, ht, hstarts, -⟩ := arbitrationStart_starts hsample hrun hitem hstage hshadow hq hnone hwithin
      (part := r.part) (cs := cs) (by rw [hfull, hplace]; rfl)
    exact gives_withBlk (liftRA_eq hrunning (f := fun b => arbitrationStart b n) ht) hstarts
  · obtain ⟨t, ht, hstarts, hpos, hcorpora⟩ :=
      corpusCapture_starts hsample hrun hitem hstage hnone hunit hthird hq hopen hbars hfree
    refine gives_withBlk (liftRA_eq hrunning (f := fun b => corpusCapture b n) ht) ⟨hstarts, hpos, fun y hy => ?_⟩
    rw [withBlk_blk] at hy
    obtain ⟨hold, hclear⟩ := List.mem_filter.1 (hcorpora ▸ hy)
    refine ⟨hold, ?_⟩
    simp only [overlaps, Bool.not_eq_true', Bool.and_eq_false_iff, decide_eq_false_iff_not] at hclear
    exact hclear.symm.imp (fun h => by omega) (fun h => by omega)

end Sys2Proof.Machine
end


section
/-! PROOFS. Structural tests and unit states (spec/14_silent_errors.md, R357, R358, R360 to R362): O56. -/

namespace Sys2Proof.Machine

open Sys2Proof

/-! ## Units change state (R358 to R360) -/

/-- `b` differs from `a` at most in what the states of units change: their records, the history, the capability table and NOTIFY. -/
def Judges (a b : Block) : Prop := ∃ seq units mem floor notes out gen, b = { a with
  rel := { a.rel with histSeq := seq, units := units }, mem := mem, tide := { a.tide with stampFloor := floor }
  mgt := { a.mgt with notify := notes }, out := out, tableGen := gen }

theorem Judges.refl (a : Block) : Judges a a := ⟨_, _, _, _, _, _, _, rfl⟩

theorem Judges.trans {a b c : Block} (h : Judges a b) (h' : Judges b c) : Judges a c := by
  obtain ⟨_, _, _, _, _, _, _, rfl⟩ := h
  obtain ⟨_, _, _, _, _, _, _, rfl⟩ := h'
  exact ⟨_, _, _, _, _, _, _, rfl⟩

theorem Marks.judges {a b : Block} (h : Marks a b) : Judges a b := by
  obtain ⟨_, _, _, _, _, _, rfl⟩ := h
  exact ⟨_, _, _, _, _, _, _, rfl⟩

theorem judges_tableChanged (b : Block) : Judges b (tableChanged b) := ⟨_, _, _, _, _, _, _, rfl⟩

/-- A unit's new state, while no heat is sampled: nothing else follows. -/
theorem setUnit_spec {b : Block} (u st cls : Nat) (ctx : Option (BitVec 24)) (hsamples : b.rel.samples = []) :
    ∃ d, setUnit b u st cls ctx = act d ∧ (unitOf d u).state = st ∧ (unitOf d u).testing = (unitOf b u).testing ∧
      (∀ v, v ≠ u → unitOf d v = unitOf b v) ∧ Judges b d := by
  by_cases hsame : (unitOf b u).state = st
  · exact ⟨b, by simp [setUnit, hsame], hsame, rfl, fun _ _ => rfl, .refl b⟩
  · obtain ⟨x, hx⟩ : ∃ x, { unitOf b u with state := st, passes := 0, structOk := false, agreed := 0 } = x := ⟨_, rfl⟩
    obtain ⟨d, hd⟩ : ∃ d, histRec (putUnit b u x) htState cls u ctx 0 (unitOf b u).state st = d := ⟨_, rfl⟩
    have hmarks : Judges b d := (hd ▸ (marks_putUnit b u x).trans (marks_histRec _ _ _ _ _ _ _ _)).judges
    have hself : unitOf d u = x := by rw [← hd]; simp
    have hothers (v : Nat) (hv : v ≠ u) : unitOf d v = unitOf b v := by rw [← hd]; simp [unitOf_putUnit_ne _ _ hv]
    have hstate : (unitOf d u).state = st := by rw [hself, ← hx]
    have htesting : (unitOf d u).testing = (unitOf b u).testing := by rw [hself, ← hx]
    have hnone (c : Nat) : samplesOn d c = [] := by
      obtain ⟨_, _, _, _, _, _, _, rfl⟩ := hmarks
      simp [samplesOn, hsamples]
    have hset : setUnit b u st cls ctx =
        if st = 2 || (unitOf b u).state = 2 then (tableChanged d, if st = 2 then (samplesOn d (unitCluster u)).map Task.settle else [])
        else act d := by
      rw [setUnit, if_neg hsame]
      simp only [hx, hd]
    rw [hset, hnone]
    by_cases habsent : (st = 2 || (unitOf b u).state = 2) = true
    · exact ⟨tableChanged d, by simp [habsent, act], hstate, htesting, hothers, hmarks.trans (judges_tableChanged d)⟩
    · exact ⟨d, if_neg habsent, hstate, htesting, hothers, hmarks⟩

/-! ## Tests (R361, R362) -/

/-- A test takes its cluster: the run of no heat that holds it, on a core whose counters begin anew. -/
theorem testStart_starts {b : Block} {u off len budget expected p : Nat} (hscan : scanOf b u = some (off, len, budget, expected))
    (hpart : clusterPart b (unitCluster u) = some p) (hdue : (unitOf b u).due = true) (hnone : (unitOf b u).testing = none)
    (htestable : testable b u = true) (hopen : beOpen b p = true) (hfits : beFits b p (unitCluster u) budget = true)
    (hfree : clusterHeld b (unitCluster u) = false) (hpower : (pwrOf b (unitCluster u)).state ≥ 2)
    (hclaims : (starveClaims b p (fun _ => true) ++ lateClaims b).contains (unitCluster u) = false) :
    ((unitOf (testStart b u) u).testing, (unitOf (testStart b u) u).due) = (some b.comp.nextRun, false) ∧
      (runOf (testStart b u) b.comp.nextRun).map (fun z => (z.kind, z.part, z.clusters)) = some (.test, p, [unitCluster u]) ∧
      fmGet (testStart b u).ctr cStructTest 0 = satAdd 32 (fmGet b.ctr cStructTest 0) 1 ∧
      (unitPos u ≠ 15 → (testStart b u).out = .scan (unitCluster u) (unitPos u) (len / 8) :: b.out) := by
  obtain ⟨k, hk⟩ : ∃ k, { coreOf b (unitCluster u) with
    slwCnt := 0, batonCnt := 0, holdNs := 0, heatSeq := ((coreOf b (unitCluster u)).heatSeq + 1) % 2 ^ 32 } = k := ⟨_, rfl⟩
  obtain ⟨cores, parts, skips, hadd⟩ := addRun_eq (putCore b (unitCluster u) k) (testRun b p (unitCluster u))
  obtain ⟨d, hd⟩ : ∃ d, (addRun (putCore b (unitCluster u) k) (testRun b p (unitCluster u))).2 = d := ⟨_, rfl⟩
  have hnum : (addRun (putCore b (unitCluster u) k) (testRun b p (unitCluster u))).1 = b.comp.nextRun := by rw [hadd]; rfl
  have hrun : runOf d b.comp.nextRun = some { testRun b p (unitCluster u) with partsEnded := parts, skips := skips } := by
    rw [← hd, hadd]; exact fmGet?_fmSet_self _ _ _
  have hkept : d.ctr = b.ctr ∧ d.out = b.out := by rw [← hd, hadd]; exact ⟨rfl, rfl⟩
  obtain ⟨e, he⟩ : ∃ e, putUnit (cnt d cStructTest) u { unitOf b u with testing := some b.comp.nextRun, due := false } = e := ⟨_, rfl⟩
  have htest : testStart b u = if unitPos u = 15 then e else emit e (.scan (unitCluster u) (unitPos u) (len / 8)) := by
    simp only [testStart, hscan, hpart, hdue, hnone, htestable, hopen, hfits, hfree, hpower, hclaims, Option.isNone_none, Bool.not_false,
      decide_true, Bool.and_self, if_true, hk, hd, hnum, he]
  have hunit : unitOf e u = { unitOf b u with testing := some b.comp.nextRun, due := false } := he ▸ unitOf_putUnit _ _ _
  have hrun' : runOf e b.comp.nextRun = runOf d b.comp.nextRun := he ▸ rfl
  have hcount : fmGet e.ctr cStructTest 0 = satAdd 32 (fmGet b.ctr cStructTest 0) 1 := by
    rw [← he]
    exact (cnt_value d _).trans (by rw [hkept.1])
  have hout : e.out = b.out := he ▸ hkept.2
  rw [htest]
  split
  · next hcore => exact ⟨by rw [hunit], by rw [hrun', hrun]; rfl, hcount, fun h => absurd hcore h⟩
  · next hengine =>
    refine ⟨?_, ?_, hcount, fun _ => congrArg _ hout⟩
    · show ((unitOf e u).testing, (unitOf e u).due) = _
      rw [hunit]
    · show (runOf e b.comp.nextRun).map _ = _
      rw [hrun', hrun]; rfl

/-- A test that is over frees its cluster, where no late heat waits for one. -/
theorem testOver_spec {b : Block} {u n : Nat} (hlate : b.comp.lateWait = []) : ∃ d, testOver b u n = act d ∧ runOf d n = none ∧
    unitOf d u = { unitOf b u with testing := none, lastTest := b.tide.clock } ∧ d.ctr = b.ctr ∧ d.tide.clock = b.tide.clock := by
  obtain ⟨b₁, hb₁⟩ : ∃ d, putUnit b u { unitOf b u with testing := none, lastTest := b.tide.clock } = d := ⟨_, rfl⟩
  obtain ⟨b₂, hb₂⟩ : ∃ d, (if unitPos u = 15 then
      putCore b₁ (unitCluster u) { coreOf b₁ (unitCluster u) with data := [], lastCtx := none } else b₁) = d :=
    ⟨_, rfl⟩
  have hcores : ∃ cores, b₂ = { b₁ with cores := cores } := by
    subst hb₂
    split
    · exact ⟨_, rfl⟩
    · exact ⟨_, rfl⟩
  obtain ⟨d, hd⟩ : ∃ d, noteUnused { b₂ with comp := { b₂.comp with runs := fmErase b₂.comp.runs n } } (unitCluster u) = d := ⟨_, rfl⟩
  obtain ⟨_, hcores⟩ := hcores
  have hunused := noteUnused_eq { b₂ with comp := { b₂.comp with runs := fmErase b₂.comp.runs n } } (unitCluster u)
  rw [hd] at hunused
  have hwait : d.comp.lateWait = [] := by rw [hunused, hcores, ← hb₁]; exact hlate
  have hstart : lateStart d = act d := by
    unfold lateStart
    split
    · rfl
    · rw [hwait]; rfl
  refine ⟨d, ?_, ?_, ?_, ?_, ?_⟩
  · rw [← hstart, ← hd, ← hb₂, ← hb₁]; rfl
  · rw [hunused]; exact fmGet?_fmErase_self _ _
  · have hunit : unitOf d u = unitOf b₁ u := by rw [hunused, hcores]; rfl
    rw [hunit, ← hb₁, unitOf_putUnit]
  · rw [hunused, hcores, ← hb₁]; rfl
  · rw [hunused, hcores, ← hb₁]; rfl

/-- A failed test quarantines its unit, where no heat is sampled and no late heat waits. -/
theorem testFail_spec {b : Block} {u n : Nat} (hlate : b.comp.lateWait = []) (hsamples : b.rel.samples = []) (sig expected : Nat) :
    ∃ d, testFail b u n sig expected = act d ∧ runOf d n = none ∧
      ((unitOf d u).state, (unitOf d u).testing, (unitOf d u).lastTest) = (2, none, b.tide.clock) ∧
      fmGet d.ctr cStructFail 0 = satAdd 32 (fmGet b.ctr cStructFail 0) 1 ∧ d.tide.clock = b.tide.clock := by
  obtain ⟨b₁, hb₁⟩ : ∃ d, putUnit (histRec (putUnit (cnt b cStructFail) u { unitOf b u with state := 2 }) htTestFail hcPending u none 0 sig expected)
    u (unitOf b u) = d := ⟨_, rfl⟩
  have hmarks : Marks (cnt b cStructFail) b₁ :=
    hb₁ ▸ (marks_putUnit _ u _).trans ((marks_histRec _ _ _ _ _ _ _ _).trans (marks_putUnit _ u _))
  have hkept : b₁.rel.samples = [] ∧ b₁.comp = b.comp ∧ b₁.ctr = (cnt b cStructFail).ctr ∧ b₁.tide.clock = b.tide.clock := by
    obtain ⟨_, _, _, _, _, _, rfl⟩ := hmarks
    exact ⟨hsamples, rfl, rfl, rfl⟩
  obtain ⟨hsamples₁, hcomp₁, hctr₁, hclock₁⟩ := hkept
  obtain ⟨d, hd, hstate, -, -, hjudges⟩ := setUnit_spec u 2 hcPermanent none hsamples₁
  have hkept' : d.comp = b₁.comp ∧ d.ctr = b₁.ctr ∧ d.tide.clock = b₁.tide.clock := by
    obtain ⟨_, _, _, _, _, _, _, rfl⟩ := hjudges
    exact ⟨rfl, rfl, rfl⟩
  obtain ⟨hcomp, hctr, hclock⟩ := hkept'
  obtain ⟨e, he, hrun, hunit, hctr', hclock'⟩ := testOver_spec (b := d) (u := u) (n := n) (by rw [hcomp, hcomp₁]; exact hlate)
  refine ⟨e, ?_, hrun, ?_, ?_, ?_⟩
  · simp only [testFail, hb₁, hd, andThen_act, he]
  · rw [hunit, hclock, hclock₁, hstate]
  · rw [hctr', hctr, hctr₁]; exact cnt_value b _
  · rw [hclock', hclock, hclock₁]

/-- A signature that agrees: a pass of a Healthy unit without captured inputs. -/
theorem testReturn_passes {b : Block} {u n off len budget expected : Nat} (hscan : scanOf b u = some (off, len, budget, expected))
    (htesting : (unitOf b u).testing = some n) (hlate : b.comp.lateWait = []) (hcorpora : corporaOf b u = []) (hstate : (unitOf b u).state = 0) :
    ∃ d, testReturn b u expected [] = act d ∧ runOf d n = none ∧ unitOf d u = { unitOf b u with
      passes := (unitOf b u).passes + 1, structOk := true, testing := none, lastTest := b.tide.clock } := by
  obtain ⟨b₁, hb₁⟩ : ∃ d, histRec b htTestPass hcPending u none 0 expected 0 = d := ⟨_, rfl⟩
  obtain ⟨seq, mem, floor, notes, out, hhist⟩ := histRec_eq b htTestPass hcPending u none 0 expected 0
  rw [hb₁] at hhist
  have hcorpora₁ : corporaOf b₁ u = [] := by rw [hhist]; exact hcorpora
  have hunit₁ : unitOf b₁ u = unitOf b u := by rw [hhist]; rfl
  have htests : corpusTests b₁ u [] = (true, act b₁) := by
    simp only [corpusTests, hcorpora₁]
    rfl
  obtain ⟨b₂, hb₂⟩ : ∃ d, putUnit b₁ u { unitOf b u with passes := (unitOf b u).passes + 1, structOk := true } = d := ⟨_, rfl⟩
  have hunit₂ : unitOf b₂ u = { unitOf b u with passes := (unitOf b u).passes + 1, structOk := true } := hb₂ ▸ unitOf_putUnit _ _ _
  have hclear : unitClear b₂ u = b₂ := by
    simp [unitClear, hunit₂, hstate]
  have hkept : b₂.comp = b.comp ∧ b₂.tide.clock = b.tide.clock := by rw [← hb₂, hhist]; exact ⟨rfl, rfl⟩
  obtain ⟨d, hd, hrun, hunit, -⟩ := testOver_spec (b := b₂) (u := u) (n := n) (by rw [hkept.1]; exact hlate)
  refine ⟨d, ?_, hrun, by rw [hunit, hunit₂, hkept.2]⟩
  rw [← hd, ← hclear, ← hb₂]
  simp only [testReturn, htesting, hscan, if_true, hb₁, htests, andThen_act, hunit₁]

/-- A signature that differs fails the test, whatever the reports. -/
theorem testReturn_fails {b : Block} {u n off len budget expected sig : Nat} (hscan : scanOf b u = some (off, len, budget, expected))
    (htesting : (unitOf b u).testing = some n) (hdiff : sig ≠ expected) (reports : List (List (Nat × BitVec 32))) :
    testReturn b u sig reports = testFail b u n sig expected := by
  simp only [testReturn, htesting, hscan, if_neg hdiff]

/-- A test whose budget runs out fails at that instant. -/
theorem testExpiry_fails {b : Block} {u n off len budget expected : Nat} (hscan : scanOf b u = some (off, len, budget, expected))
    (htesting : (unitOf b u).testing = some n) {r : Run} (hrun : runOf b n = some r) :
    testExpiry b u = testFail (passTo b (r.from_ + budget)) u n 0 expected := by
  simp only [testExpiry, htesting, hscan, hrun]

/-! ## Entries of chapter 14 (R358, R360 to R362) -/

/-- A unit that may be tested is one that the scan set has a kind for. -/
theorem isUnit_of_testable {b : Block} {u : Nat} (h : testable b u = true) : isUnit u = true := by
  simp only [testable, Bool.and_eq_true, decide_eq_true_eq] at h
  obtain ⟨⟨⟨hlow, hscan⟩, -⟩, -⟩ := h
  have hpos : unitPos u ≠ 14 := by
    intro e
    have hkind : unitKind u = none := by simp [unitKind, e]
    unfold scanOf at hscan
    rw [hkind] at hscan
    split at hscan
    · next hk => cases hk
    · cases hscan
  simp [isUnit, hlow, hpos]

/-- An operation in its turn carries out the row's own write, whichever operation brings it. -/
theorem dictRow_op {s : State} {a : DictAcc} {d : Desc} (h : DictReady s a d) (op : DictOp) (row : DictRow) :
    dictRow op a row s = dictRow .write a row s := by
  have hturn (o : DictOp) : dictRow o a row s =
      .next (s.withBlk (finish (if row.mine then rowWrite (noted s.blk a) a row else act s.blk))) := by
    refine (liftA_alive h.alive fun b => if row.mine then dictTurn b o a (fun b => rowWrite b a row) else act b).trans ?_
    rw [dictTurn_free h.arrives]
  rw [hturn op, hturn .write]

/-- Settles O56: a test holds its cluster as a run, and its end judges the unit. -/
theorem unitTests : Obligations.UnitTests := by
  unfold Obligations.UnitTests
  intro s u
  refine ⟨fun hrunning htestable hdue hnone => liftR_eq hrunning (f := fun b => testDue b u) ?_, fun off len budget expected p hrunning hscan =>
    ⟨fun hpart hdue hnone htestable hopen hfits hfree hpower hclaims => ?_, fun n htesting hlate hsamples => ⟨fun sig hsig hcorpora hstate => ?_,
      fun sig l hsig => ?_, fun r hrun => ?_⟩⟩, fun a d hready => ⟨fun hidx hsub => ⟨fun hvalue htestable hnone => ?_, fun hno => ?_⟩,
      fun hunit hentry hsamples => ?_, fun hidx hsub bytes => ⟨fun hzero => ?_, fun hset hlen hgood => ?_, fun hset hbad => ?_⟩⟩⟩
  · simp only [testDue, htestable, hdue, hnone, Option.isNone_none, Bool.not_false, Bool.and_self, if_true]
  · exact gives_withBlk (liftR_running hrunning fun b => testStart b u)
      (testStart_starts hscan hpart hdue hnone htestable hopen hfits hfree hpower hclaims)
  · obtain ⟨d, hd, hgone, hunit⟩ := testReturn_passes hscan htesting hlate hcorpora hstate
    exact gives_withBlk (liftRA_eq hrunning (f := fun b => testReturn b u sig.toNat []) (hsig ▸ hd)) ⟨hgone, hunit⟩
  · obtain ⟨d, hd, hgone, hunit, hcount, -⟩ := testFail_spec (u := u) (n := n) hlate hsamples sig.toNat expected
    exact gives_withBlk (liftRA_eq hrunning (f := fun b => testReturn b u sig.toNat l) ((testReturn_fails hscan htesting hsig l).trans hd))
      ⟨hgone, hunit, hcount⟩
  · obtain ⟨d, hd, hgone, hunit, hcount, hclock⟩ :=
      testFail_spec (b := passTo s.blk (r.from_ + budget)) (u := u) (n := n) hlate hsamples 0 expected
    refine gives_withBlk (liftRA_eq hrunning (f := fun b => testExpiry b u) ((testExpiry_fails hscan htesting hrun).trans hd))
      ⟨hgone, ?_, hclock, hcount⟩
    exact congrArg (fun x : Nat × Option Nat × Nat => (x.1, x.2.1)) hunit
  · have hcond : (rowTestCmd a).cond (noted s.blk a) = none := if_pos (by rw [hvalue]; exact isUnit_of_testable htestable)
    refine (dictRow_stores (row := rowTestCmd a) hready (by simp [rowTestCmd, hidx, hsub]) hcond).trans ?_
    simp only [rowTestCmd, hvalue, htestable, hnone, Option.isNone_none, Bool.and_self, if_true, finish_act]
  · have hcond : (rowTestCmd a).cond (noted s.blk a) = some (0x04, 6) := if_neg (by rw [hno]; decide)
    exact dictRow_refuses hready (by simp [rowTestCmd, hidx, hsub]) hcond
  · have hrel : (dictStore (noted s.blk a) a d).rel = s.blk.rel := by
      obtain ⟨_, _, _, _, _, _, _, _, _, h⟩ := dictStore_noted s.blk a d
      rw [h]
    obtain ⟨e, he, hstate, -, hothers, -⟩ := setUnit_spec (b := dictStore (noted s.blk a) a d) u (a.value % 256) hcOperator none
      (by rw [hrel]; exact hsamples)
    refine gives_withBlk (dictRow_stores (row := rowUnitState a u) hready (by simp [rowUnitState, hunit, hentry]) rfl) ?_
    have hrunRow : (rowUnitState a u).run (dictStore (noted s.blk a) a d) = act e := he
    rw [hrunRow, finish_act]
    exact ⟨hstate, fun v hv => (hothers v hv).trans (by rw [unitOf, hrel]; rfl)⟩
  · have hcond : (rowScanBase a bytes).cond (noted s.blk a) = none := stateIf_true (by rw [decide_eq_true hzero]; rfl)
    refine (dictRow_op hready _ _).trans ((dictRow_stores hready (by simp [rowScanBase, hidx, hsub]) hcond).trans ?_)
    simp only [rowScanBase, if_pos hzero, finish_act]
  · have hlen' : bytes.length = dget (noted s.blk a) 0x6040 2 := by
      obtain ⟨_, h⟩ := noted_eq s.blk a
      rw [h]; exact hlen
    have hcond : (rowScanBase a bytes).cond (noted s.blk a) = none :=
      stateIf_true (by rw [decide_eq_true hlen', hgood, Bool.and_self, Bool.or_true])
    refine (dictRow_op hready _ _).trans ((dictRow_stores hready (by simp [rowScanBase, hidx, hsub]) hcond).trans ?_)
    simp only [rowScanBase, if_neg hset, finish_act]
  · have hfail : (decide (bytes.length = dget (noted s.blk a) 0x6040 2) && (scanSet bytes).isSome) = false := by
      obtain hlen | hnone := hbad
      · have hlen' : bytes.length ≠ dget (noted s.blk a) 0x6040 2 := by
          obtain ⟨_, h⟩ := noted_eq s.blk a
          rw [h]; exact hlen
        rw [decide_eq_false hlen']; rfl
      · rw [hnone]; exact Bool.and_false _
    have hcond : (rowScanBase a bytes).cond (noted s.blk a) = some (0x05, 7) :=
      stateIf_false (by rw [decide_eq_false hset, hfail]; rfl)
    exact (dictRow_op hready _ _).trans (dictRow_refuses hready (by simp [rowScanBase, hidx, hsub]) hcond)

end Sys2Proof.Machine
end


section
/-! PROOFS. Link ports (spec/12_fabric.md, R301, R305, R306, R308, R315, R320): O50. -/

namespace Sys2Proof.Machine

open Sys2Proof

/-! ## Sending again, and announcing an admission (R309, R315) -/

theorem posts_packetsName (b : Block) (p : Nat) : Posts b (packetsName b p) := by
  refine (posts_putLink (l := { linkOf b p with packets := [] }) ⟨_, _, _, _, _, rfl⟩).trans (Posts.foldl (fun b d => ?_) _ _)
  split
  · exact posts_emit _ _
  · exact .refl _

theorem posts_resendAll (b : Block) : Posts b (resendAll b) := by
  refine Posts.trans (Posts.foldl (fun b p => ?_) _ _) ((posts_resend _ _).trans (Posts.foldl posts_gzRoute _ _))
  split
  · exact .refl b
  · exact posts_packetsName b p

theorem posts_reinject (b : Block) (l : List GzOut) : Posts b (reinject b l) := by
  refine (posts_resend b (bySeq l ++ b.fab.resend)).trans ?_
  unfold reinject
  dsimp only
  split
  · exact .refl _
  · exact posts_resendAll _

/-- The block once a change of this chip's admission has its version (R309). -/
def versioned (b : Block) : Block :=
  { b with fab := { b.fab with version := b.fab.version + 1, stale := true, cause := (chipNo b, b.fab.version + 1) } }

theorem posts_linkStateSend (b : Block) : Posts (versioned b) (linkStateSend b) :=
  (posts_cnt (versioned b) (by decide)).trans (Posts.foldl (fun b p => posts_floodOn b p _) _ _)

theorem linkKept_linkStateSend (b : Block) (p : Nat) : LinkKept (linkOf b p) (linkOf (linkStateSend b) p) := (posts_linkStateSend b).links p

/-! ## The plan check (R305, R306, R340) -/

theorem linkOf_fabRec (b : Block) (type port peer result a v count p : Nat) : linkOf (fabRec b type port peer result a v count) p = linkOf b p := by
  obtain ⟨_, _, _, h⟩ := fabRec_eq b type port peer result a v count
  rw [h]; rfl

theorem linkOf_audit (b : Block) (e : AuditEv) (p : Nat) : linkOf (audit b e) p = linkOf b p := by
  obtain ⟨_, _, _, _, _, h⟩ := logs_audit b e
  rw [h]; rfl

/-- A port after a check with outcome `o`. -/
def checkedLink (l : LinkPort) (o : Nat) (ok : Bool) : LinkPort :=
  { l with result := o, state := if ok then 3 else 4, admitted := ok, passed := ok,
           lower := decide (idClass l.ident / 16 = ownClass / 16) && decide (idClass l.ident < ownClass) }

theorem linkOf_noteOutcome (b : Block) (p o : Nat) (ok : Bool) (q : Nat) :
    linkOf (noteOutcome b p o ok) q = if q = p then checkedLink (linkOf b p) o ok else linkOf b q := by
  have hput : linkOf (putLink b p (checkedLink (linkOf b p) o ok)) q = if q = p then checkedLink (linkOf b p) o ok else linkOf b q := by
    split
    · next e => subst e; exact linkOf_putLink b q _
    · next e => exact linkOf_putLink_ne b _ e
  rw [← hput]
  unfold noteOutcome
  dsimp only
  split
  · rfl
  · split
    · rw [linkOf_audit, linkOf_fabRec]; rfl
    · rw [linkOf_fabRec]; rfl

theorem linkOf_noteSwap (b : Block) {p q : Nat} (h : q ≠ p) (pass : Bool) : linkOf (noteSwap b p q pass) p = checkedLink (linkOf b p) crSwapped false := by
  obtain ⟨both, hboth⟩ : ∃ x, decide (checkOutcome b q (linkOf b q).ident = crSwapped) = x := ⟨_, rfl⟩
  have hkept : linkOf (if both then noteOutcome b q crSwapped false else b) p = linkOf b p := by
    split
    · rw [linkOf_noteOutcome, if_neg h.symm]
    · rfl
  unfold noteSwap
  simp only [hboth]
  split
  · rw [linkOf_noteOutcome, if_pos rfl, hkept]
  · rw [linkOf_fabRec, linkOf_noteOutcome, if_pos rfl, hkept]

theorem swappedWith_ne {b : Block} {p q : Nat} {w : Word} (h : swappedWith b p w = some q) : q ≠ p := by
  have hq := List.find?_some h
  simp only [Bool.and_eq_true, decide_eq_true_eq] at hq
  exact hq.1.1.1.1

/-- The check of a trained port that has heard its neighbour. -/
theorem linkKept_checkPort {b : Block} {p : Nat} (htrained : (linkOf b p).trained = true) (hheard : (linkOf b p).heardId = true) (pass : Bool) :
    LinkKept (checkedLink (linkOf b p) (checkOutcome b p (linkOf b p).ident)
      (admits (checkOutcome b p (linkOf b p).ident) (overrideOf b p) && b.rcv.genWritten)) (linkOf (checkPort b pass p) p) := by
  obtain ⟨o, ho⟩ : ∃ o, checkOutcome b p (linkOf b p).ident = o := ⟨_, rfl⟩
  have hready : ¬ (!(linkOf b p).trained || !(linkOf b p).heardId) = true := by simp [htrained, hheard]
  have hsend (c : Block) (P : Prop) [Decidable P] : LinkKept (linkOf c p) (linkOf (if P then c else linkStateSend c) p) := by
    split
    · exact .refl _
    · exact linkKept_linkStateSend c p
  unfold checkPort
  simp only [if_neg hready, ho]
  refine LinkKept.trans ?_ (hsend _ _)
  split
  · next q hswapped hwith =>
    have hso : o = crSwapped := by simpa using hswapped
    have hrefused : (admits o (overrideOf b p) && b.rcv.genWritten) = false := by
      rw [hso]
      have : admits crSwapped (overrideOf b p) = false := by cases overrideOf b p <;> rfl
      rw [this]; rfl
    rw [linkOf_noteSwap b (swappedWith_ne hwith), hrefused, hso]
    exact .refl _
  · rw [linkOf_noteOutcome, if_pos rfl]
    exact .refl _

/-- What the statement asks of a checked port, which later messages leave. -/
theorem LinkKept.checked {l l' : LinkPort} {o : Nat} {ok : Bool} (h : LinkKept (checkedLink l o ok) l') :
    l'.ident = l.ident ∧ l'.result = o ∧ l'.admitted = ok ∧ l'.state = if ok then 3 else 4 := by
  obtain ⟨_, _, _, _, _, rfl⟩ := h
  exact ⟨rfl, rfl, rfl, rfl⟩

/-- The outcome of a check reads the plan, this chip's number and the other ports. -/
theorem checkOutcome_congr {a b : Block} {p : Nat} (hplan : b.fab.plan = a.fab.plan) (hchip : chipNo b = chipNo a)
    (hlinks : ∀ q, q ≠ p → linkOf b q = linkOf a q) (w : Word) : checkOutcome b p w = checkOutcome a p w := by
  have hplanChip : planChip b = planChip a := by funext c; rw [planChip, planChip, hplan]
  have hreach (q : Nat) : reachOf b q = reachOf a q := by rw [reachOf, reachOf, hplanChip, hchip]
  have hexpected (q : Nat) : expected b q = expected a q := by rw [expected, expected, hreach, hchip]
  have hbypassed : bypassed b p w = bypassed a p w := by unfold bypassed; rw [hchip, hplanChip]
  have hswapped : swappedWith b p w = swappedWith a p w := by
    have hpred : (fun q => decide (q ≠ p) && (linkOf b q).trained && (linkOf b q).heardId &&
          decide (expected b p = some (idChip (linkOf b q).ident, idPort (linkOf b q).ident)) && decide (expected b q = some (idChip w, idPort w))) =
        fun q => decide (q ≠ p) && (linkOf a q).trained && (linkOf a q).heardId &&
          decide (expected a p = some (idChip (linkOf a q).ident, idPort (linkOf a q).ident)) && decide (expected a q = some (idChip w, idPort w)) := by
      funext q
      by_cases e : q = p
      · simp [e]
      · rw [hlinks q e, hexpected, hexpected]
    exact congrArg sixPorts.find? hpred
  unfold checkOutcome
  rw [hplan, hreach, hswapped, hbypassed, hexpected]

/-! ## A port goes down (R308, R315) -/

/-- The times of a second's downs of a port, the one now among them. -/
def downTimes (b : Block) (p : Nat) : List Nat :=
  b.tide.clock :: (linkOf b p).downs.filter fun t => decide (b.tide.clock < t + 1000000000)

/-- A port as it goes down; the 16th time within a second it is held. -/
def downLink (b : Block) (p : Nat) : LinkPort :=
  { linkOf b p with trained := false, state := if decide ((downTimes b p).length ≥ 16) then 6 else idleState b p, admitted := false,
                    downs := downTimes b p, copies := [], waiting := [] }

/-- `d` is what port `p` of `b` going down leaves. -/
structure Down (b : Block) (p : Nat) (d : Block) : Prop where
  link : LinkKept (downLink b p) (linkOf d p)
  clock : d.tide.clock = b.tide.clock
  count : fmGet d.ctr cLinkDown 0 = satAdd 32 (fmGet b.ctr cLinkDown 0) 1
  others : ∀ key, key ≠ cLinkDown → key ∉ abortKeys → fmGet d.ctr key 0 = fmGet b.ctr key 0
  news : (linkOf b p).admitted = true → d.fab.version = b.fab.version + 1 ∧ d.fab.stale = true
  out : ∃ l, d.out = l ++ b.out

theorem Calm.news {keys : List Nat} {a b : Block} (h : Calm keys a b) : b.fab.version = a.fab.version ∧ b.fab.stale = a.fab.stale := by
  obtain ⟨_, _, _, _, _, _, _, hfab⟩ := h.fab
  rw [hfab]; exact ⟨rfl, rfl⟩

/-- What follows ends runs alone. -/
theorem Down.calm {b d e : Block} {p : Nat} (h : Down b p d) (h' : Calm abortKeys d e) : Down b p e where
  link := h.link.trans (h'.links p)
  clock := h'.clock.trans h.clock
  count := (h'.counts _ (by decide)).trans h.count
  others key hdown hkey := (h'.counts key hkey).trans (h.others key hdown hkey)
  news hadm := ⟨h'.news.1.trans (h.news hadm).1, h'.news.2.trans (h.news hadm).2⟩
  out := by
    obtain ⟨l, hl⟩ := h.out
    obtain ⟨l', hl'⟩ := h'.out
    exact ⟨l' ++ l, by rw [hl', hl, List.append_assoc]⟩

/-- The heats whose data crossed a failed PACKAGE link end, and propagate. -/
theorem packageLost_calms (b : Block) (p : Nat) : ∀ t ∈ packageLost b p, t.calms abortKeys := by
  intro t ht
  obtain ⟨x, -, hx⟩ := List.mem_flatMap.1 ht
  simp only [List.mem_cons, List.not_mem_nil, or_false] at hx
  obtain rfl | rfl := hx
  · trivial
  · exact List.Subset.refl _

/-- The records of a port that has gone down. -/
def downNoted (b : Block) (p cause : Nat) : Block :=
  let c := fabRec (cnt (putLink b p (downLink b p)) cLinkDown) 0x01 p (idChip (linkOf b p).ident) 0 cause 0 (downTimes b p).length
  if decide ((downTimes b p).length ≥ 16) then fabRec c 0x0A p (idChip (linkOf b p).ident) 0 0 0 (downTimes b p).length else c

theorem calm_downNoted (b : Block) (p cause : Nat) : Calm quietKeys (cnt (putLink b p (downLink b p)) cLinkDown) (downNoted b p cause) := by
  unfold downNoted
  dsimp only
  split
  · exact (calm_fabRec _ _ _ _ _ _ _ _).trans (calm_fabRec _ _ _ _ _ _ _ _)
  · exact calm_fabRec _ _ _ _ _ _ _ _

/-- The port's admission announced, where it had one, and its messages sent again. -/
def downAnswered (b : Block) (p : Nat) (c : Block) : Block :=
  let c := if (linkOf b p).admitted then linkStateSend c else c
  if ((linkOf b p).copies.map Prod.snd ++ (linkOf b p).waiting).isEmpty then c
  else reinject c ((linkOf b p).copies.map Prod.snd ++ (linkOf b p).waiting)

theorem portDown_eq {b : Block} {p : Nat} (hp : p < 6) (htrained : (linkOf b p).trained = true) (cause : Nat) :
    portDown b p cause = (downAnswered b p (downNoted b p cause), if reachOf b p = 1 then packageLost b p else []) := by
  have hmay : (decide (p < 6) && (linkOf b p).trained) = true := by rw [htrained]; simpa using hp
  unfold portDown
  dsimp only
  rw [if_pos hmay]
  rfl

theorem down_downAnswered (b : Block) (p cause : Nat) : Down b p (downAnswered b p (downNoted b p cause)) := by
  have hcalm := calm_downNoted b p cause
  have hlink : linkOf (cnt (putLink b p (downLink b p)) cLinkDown) p = downLink b p := linkOf_putLink b p _
  generalize downNoted b p cause = c at hcalm
  have hsent (d : Block) : Posts d (if ((linkOf b p).copies.map Prod.snd ++ (linkOf b p).waiting).isEmpty then d
      else reinject d ((linkOf b p).copies.map Prod.snd ++ (linkOf b p).waiting)) := by
    split
    · exact .refl d
    · exact posts_reinject d _
  have hcount : fmGet c.ctr cLinkDown 0 = satAdd 32 (fmGet b.ctr cLinkDown 0) 1 :=
    (hcalm.counts _ (by decide)).trans (cnt_value (putLink b p (downLink b p)) cLinkDown)
  have hothers (key : Nat) (hdown : key ≠ cLinkDown) (hkey : key ∉ abortKeys) : fmGet c.ctr key 0 = fmGet b.ctr key 0 :=
    (hcalm.counts _ fun hk => hkey (quietKeys_sub hk)).trans (fmGet_fmSet_ne _ _ _ hdown)
  unfold downAnswered
  dsimp only
  cases hadm : (linkOf b p).admitted with
  | true =>
    have hposts : Posts (versioned c) _ := (posts_linkStateSend c).trans (hsent (linkStateSend c))
    have hcalm' := hposts.calm
    simp only [if_true]
    refine ⟨(hlink ▸ hcalm.links p).trans (hposts.links p), hcalm'.clock.trans hcalm.clock, (hcalm'.counts _ (by decide)).trans hcount,
      fun key hdown hkey => (hcalm'.counts _ fun hk => hkey (quietKeys_sub hk)).trans (hothers key hdown hkey),
      fun _ => ⟨hcalm'.news.1.trans ?_, hcalm'.news.2.trans rfl⟩, ?_⟩
    · exact congrArg (· + 1) hcalm.news.1
    · obtain ⟨l, hl⟩ := hcalm.out
      obtain ⟨l', hl'⟩ := hposts.out
      exact ⟨l' ++ l, by rw [hl', List.append_assoc]; exact congrArg (l' ++ ·) hl⟩
  | false =>
    have hcalm' := (hsent c).calm
    simp only [Bool.false_eq_true, if_false]
    refine ⟨(hlink ▸ hcalm.links p).trans ((hsent c).links p), hcalm'.clock.trans hcalm.clock, (hcalm'.counts _ (by decide)).trans hcount,
      fun key hdown hkey => (hcalm'.counts _ fun hk => hkey (quietKeys_sub hk)).trans (hothers key hdown hkey),
      fun h => absurd (hadm.symm.trans h) (by decide), ?_⟩
    obtain ⟨l, hl⟩ := hcalm.out
    obtain ⟨l', hl'⟩ := (hsent c).out
    exact ⟨l' ++ l, by rw [hl', List.append_assoc]; exact congrArg (l' ++ ·) hl⟩

/-- What follows a port that goes down ends runs. -/
theorem portDown_spec {b : Block} {p : Nat} (hp : p < 6) (htrained : (linkOf b p).trained = true) (cause : Nat) :
    Down b p (portDown b p cause).1 ∧ ∀ t ∈ (portDown b p cause).2, t.calms abortKeys := by
  rw [portDown_eq hp htrained]
  refine ⟨down_downAnswered b p cause, fun t ht => ?_⟩
  split at ht
  · exact packageLost_calms b p t ht
  · cases ht

theorem down_finish {b : Block} {p : Nat} (hp : p < 6) (htrained : (linkOf b p).trained = true) (cause : Nat) :
    Down b p (finish (portDown b p cause)) := by
  obtain ⟨hdown, htasks⟩ := portDown_spec hp htrained cause
  exact hdown.calm (finish_calms quietKeys_sub htasks)

/-! ## Link tests (R320) -/

/-- The block once a port that has gone down enters its test, unless it is held down. -/
def testEntered (p pattern : Nat) (d : Block) : Block :=
  if (linkOf d p).state = 6 then d
  else emit (putLink d p { linkOf d p with state := 5, pattern := pattern, testFrom := d.tide.clock, bits := 0, errors := 0, sync := false })
    (.prbs p pattern)

theorem testEnter_eq (b : Block) (p pattern : Nat) :
    testEnter b p pattern = (testEntered p pattern (portDown b p 3).1, (portDown b p 3).2) := by
  simp only [testEnter, andThen, act, List.append_nil]
  rfl

/-- The port tests, or was held down. -/
theorem testEnter_finish {b : Block} {p : Nat} (hp : p < 6) (htrained : (linkOf b p).trained = true) (pattern : Nat) :
    (16 ≤ (downTimes b p).length → Down b p (finish (testEnter b p pattern))) ∧
    (¬ 16 ≤ (downTimes b p).length → (linkOf (finish (testEnter b p pattern)) p).state = 5 ∧
      (linkOf (finish (testEnter b p pattern)) p).pattern = pattern ∧
      (linkOf (finish (testEnter b p pattern)) p).testFrom = b.tide.clock ∧
      (linkOf (finish (testEnter b p pattern)) p).admitted = false ∧ (linkOf (finish (testEnter b p pattern)) p).trained = false) ∧
    ∃ l, (finish (testEnter b p pattern)).out = l ++ b.out := by
  obtain ⟨hdown, htasks⟩ := portDown_spec hp htrained 3
  have hcalm := finish_calms (a := (testEntered p pattern (portDown b p 3).1, (portDown b p 3).2)) quietKeys_sub htasks
  rw [testEnter_eq]
  generalize finish (testEntered p pattern (portDown b p 3).1, (portDown b p 3).2) = e at hcalm ⊢
  generalize (portDown b p 3).1 = d at hdown hcalm
  dsimp only at hcalm
  have hstate : (linkOf d p).state = if 16 ≤ (downTimes b p).length then 6 else idleState b p := by
    obtain ⟨_, _, _, _, _, h⟩ := hdown.link
    rw [h]
    simp only [downLink, ge_iff_le, decide_eq_true_eq]
  have hidle : idleState b p ≠ 6 := by unfold idleState; split <;> decide
  by_cases hheld : 16 ≤ (downTimes b p).length
  · have hsix : (linkOf d p).state = 6 := hstate.trans (if_pos hheld)
    rw [testEntered, if_pos hsix] at hcalm
    have hdown' := hdown.calm hcalm
    exact ⟨fun _ => hdown', fun h => absurd hheld h, hdown'.out⟩
  · have hsix : (linkOf d p).state ≠ 6 := by rw [hstate, if_neg hheld]; exact hidle
    rw [testEntered, if_neg hsix] at hcalm
    refine ⟨fun h => absurd h hheld, fun _ => ?_, ?_⟩
    · obtain ⟨_, _, _, _, _, hlink⟩ := hdown.link
      have hkept := hcalm.links p
      have hput : linkOf (emit (putLink d p { linkOf d p with
          state := 5, pattern := pattern, testFrom := d.tide.clock, bits := 0, errors := 0, sync := false }) (.prbs p pattern)) p = _ :=
        linkOf_putLink d p _
      obtain ⟨_, _, _, _, _, h⟩ := hput ▸ hkept
      rw [h]
      refine ⟨rfl, rfl, hdown.clock, ?_, ?_⟩
      · rw [hlink]; rfl
      · rw [hlink]; rfl
    · obtain ⟨l, hl⟩ := hdown.out
      obtain ⟨l', hl'⟩ := hcalm.out
      exact ⟨l' ++ .prbs p pattern :: l, by rw [hl', List.append_assoc]; exact congrArg (fun x => l' ++ .prbs p pattern :: x) hl⟩

/-- A test that ends leaves what its checker counted. -/
theorem linkOf_testLeave {b : Block} {p : Nat} (hstate : (linkOf b p).state = 5) : linkOf (testLeave b p) p = { linkOf b p with
    state := idleState b p, bits := (testNow b p).1, errors := (testNow b p).2.1, sync := (testNow b p).2.2 } := by
  unfold testLeave
  dsimp only
  rw [if_pos hstate, linkOf_fabRec, linkOf_putLink]

theorem clock_testLeave (b : Block) (p : Nat) : (testLeave b p).tide.clock = b.tide.clock ∧ (testLeave b p).out = b.out := by
  have hrec (c : Block) (type port peer result a v count : Nat) : (fabRec c type port peer result a v count).tide.clock = c.tide.clock ∧
      (fabRec c type port peer result a v count).out = c.out := by
    obtain ⟨_, _, _, h⟩ := fabRec_eq c type port peer result a v count
    rw [h]; exact ⟨rfl, rfl⟩
  unfold testLeave
  dsimp only
  split
  · exact hrec _ _ _ _ _ _ _ _
  · exact ⟨rfl, rfl⟩

/-! ## Training and heartbeats (R301, R305, R308, R315) -/

/-- A port as it trains, before LINK_IDENT is sent. -/
def trainingLink (l : LinkPort) (now : Nat) : LinkPort :=
  { l with trained := true, state := 2, heardId := false, rxCount := 0, txCount := 0, copies := [], waiting := [],
           lastRx := now, lastHb := now }

theorem linkTrained_trains {b : Block} {p : Nat} (hp : p < 6) (hdown : (linkOf b p).trained = false) (h5 : (linkOf b p).state ≠ 5)
    (h6 : (linkOf b p).state ≠ 6) (hidle : idleState b p ≠ 7) :
    linkOf (linkTrained b p) p = { trainingLink (linkOf b p) b.tide.clock with lastTx := b.tide.clock } ∧
      (linkTrained b p).out = .gz p (gzBytes (linkMsg b p (.linkIdent (identWord b p)))) :: b.out := by
  have hmay : (decide (p < 6) && !(linkOf b p).trained && decide ((linkOf b p).state ≠ 6) && decide ((linkOf b p).state ≠ 5) &&
      decide (idleState b p ≠ 7)) = true := by
    simp [hp, hdown, h5, h6, hidle]
  obtain ⟨c, hc⟩ : ∃ c, putLink b p (trainingLink (linkOf b p) b.tide.clock) = c := ⟨_, rfl⟩
  have hlink : linkOf c p = trainingLink (linkOf b p) b.tide.clock := hc ▸ linkOf_putLink _ _ _
  have hrun : linkTrained b p = gzLink c p (.linkIdent (identWord c p)) := (if_pos hmay).trans (hc ▸ rfl)
  have hmsg : linkMsg c p (.linkIdent (identWord c p)) = linkMsg b p (.linkIdent (identWord b p)) := by
    unfold linkMsg
    rw [hlink]
    exact hc ▸ rfl
  have hclock : c.tide.clock = b.tide.clock := hc ▸ rfl
  have hout : c.out = b.out := hc ▸ rfl
  rw [hrun]
  refine ⟨(linkOf_putLink _ _ _).trans ?_, ?_⟩
  · rw [hlink, hclock]
  · show OutEvent.gz p (gzBytes (linkMsg c p (.linkIdent (identWord c p)))) :: c.out = _
    rw [hmsg, hout]

theorem linkTrained_unused {b : Block} {p : Nat} (hidle : idleState b p = 7) : linkTrained b p = b := by
  simp [linkTrained, hidle]

/-- A port as a message finds it. -/
theorem heard_link (b : Block) (p : Nat) (counts : Bool) : linkOf (heard b p counts) p =
    { linkOf b p with lastRx := b.tide.clock, rxCount := if counts then (linkOf b p).rxCount + 1 else (linkOf b p).rxCount } :=
  linkOf_putLink _ _ _

theorem putLink_putLink (b : Block) (p : Nat) (l l' : LinkPort) : putLink (putLink b p l) p l' = putLink b p l' := by
  simp only [putLink, fmSet_fmSet]

/-- A heartbeat releases the copies that the neighbour has received; nothing waits for their room. -/
theorem heartbeatRead_eq {b : Block} {p : Nat} (hp : p < 6) (htrained : (linkOf b p).trained = true) (hnone : (linkOf b p).waiting = [])
    (count : BitVec 32) : heartbeatRead b p count = putLink b p { linkOf b p with
      lastRx := b.tide.clock, copies := (linkOf b p).copies.filter (fun x => decide ((count - x.1 - 1).toNat ≥ 2 ^ 31)) } := by
  have hmay : (decide (p < 6) && (linkOf b p).trained) = true := by rw [htrained]; simpa using hp
  have hempty : (linkOf (heard b p false) p).waiting.length = 0 := by rw [heard_link]; exact congrArg List.length hnone
  unfold heartbeatRead
  dsimp only
  rw [if_pos hmay, hempty]
  show putLink (heard b p false) p _ = _
  rw [heard_link]
  exact putLink_putLink b p _ _

/-- A heartbeat is sent when it is due. -/
theorem heartbeatSend_sends {b : Block} {p : Nat} (hp : p < 6) (htrained : (linkOf b p).trained = true) :
    let now := max b.tide.clock ((if reachOf b p = 1 then (linkOf b p).lastHb else max (linkOf b p).lastHb (linkOf b p).lastTx) + 1000)
    (heartbeatSend b p).tide.clock = now ∧ linkOf (heartbeatSend b p) p = { linkOf b p with lastTx := now, lastHb := now } ∧
      (heartbeatSend b p).out = .gz p (gzBytes (linkMsg b p (.heartbeat (linkOf b p).rxCount))) :: b.out := by
  have hmay : (decide (p < 6) && (linkOf b p).trained) = true := by rw [htrained]; simpa using hp
  unfold heartbeatSend
  dsimp only
  rw [if_pos hmay]
  obtain ⟨u, hu⟩ : ∃ u, passTo b ((if reachOf b p = 1 then (linkOf b p).lastHb else max (linkOf b p).lastHb (linkOf b p).lastTx) + 1000) = u :=
    ⟨_, rfl⟩
  have hlink : linkOf u p = linkOf b p := hu ▸ rfl
  have hclock : u.tide.clock =
      max b.tide.clock ((if reachOf b p = 1 then (linkOf b p).lastHb else max (linkOf b p).lastHb (linkOf b p).lastTx) + 1000) := hu ▸ rfl
  have hmsg : linkMsg u p (.heartbeat (linkOf u p).rxCount) = linkMsg b p (.heartbeat (linkOf b p).rxCount) := hu ▸ rfl
  have hout : u.out = b.out := hu ▸ rfl
  have hsent : linkOf (gzLink u p (.heartbeat (linkOf u p).rxCount)) p = { linkOf u p with lastTx := u.tide.clock } := linkOf_putLink _ _ _
  rw [hu]
  refine ⟨hclock, (linkOf_putLink _ _ _).trans ?_, ?_⟩
  · rw [hsent, hlink, ← hclock]
    rfl
  · show OutEvent.gz p (gzBytes (linkMsg u p (.heartbeat (linkOf u p).rxCount))) :: u.out = _
    rw [hmsg, hout]

/-- What a retry link's controller returns waits for the routes that are due. -/
theorem retryReturn_waits {b : Block} {p : Nat} (hp : p < 6) (hdown : (linkOf b p).trained = false) (hreach : reachOf b p ≠ 1)
    (hstale : b.fab.stale = true) (msgs : List GzOut) (packets : List Nat) :
    retryReturn b p msgs packets =
      { putLink b p { linkOf b p with packets := (linkOf b p).packets ++ packets } with
        fab := { (putLink b p { linkOf b p with packets := (linkOf b p).packets ++ packets }).fab with
          resend := bySeq (msgs.map (fun m => { m with hops := m.hops - 1 })) ++ b.fab.resend } } := by
  have hmay : (decide (p < 6) && !(linkOf b p).trained && decide (reachOf b p ≠ 1)) = true := by simp [hp, hdown, hreach]
  unfold retryReturn
  rw [if_pos hmay]
  exact if_pos hstale

/-! ## A port's state, as the statement gives it -/

theorem withBlk_self (s : State) : s.withBlk s.blk = s := by rw [State.withBlk, noteSteps_self]

/-- A check brought about by block `c`, which differs from `b` in what it says of port `p`. -/
theorem checkPort_checks {b c : Block} {p : Nat} {w : Word} (hplan : c.fab.plan = b.fab.plan) (hchip : chipNo c = chipNo b)
    (hlinks : ∀ q, q ≠ p → linkOf c q = linkOf b q) (hgen : c.rcv.genWritten = b.rcv.genWritten) (htrained : (linkOf c p).trained = true)
    (hheard : (linkOf c p).heardId = true) (hident : (linkOf c p).ident = w) :
    let o := checkOutcome b p w
    let ok := admits o (overrideOf c p) && b.rcv.genWritten
    (linkOf (checkPort c false p) p).ident = w ∧ (linkOf (checkPort c false p) p).result = o ∧
      (linkOf (checkPort c false p) p).admitted = ok ∧ (linkOf (checkPort c false p) p).state = if ok then 3 else 4 := by
  have hkept := (linkKept_checkPort htrained hheard false).checked
  rw [hident, checkOutcome_congr hplan hchip hlinks, hgen] at hkept
  exact hkept

/-- LINK_IDENT on a trained port. -/
theorem linkIdent_checks {b : Block} {p : Nat} (htrained : (linkOf b p).trained = true) (w : Word) :
    let o := checkOutcome b p w
    let ok := admits o (overrideOf b p) && b.rcv.genWritten
    let d := checkPort (putLink (heard b p false) p { linkOf (heard b p false) p with ident := w, heardId := true }) false p
    (linkOf d p).ident = w ∧ (linkOf d p).result = o ∧ (linkOf d p).admitted = ok ∧ (linkOf d p).state = if ok then 3 else 4 := by
  refine checkPort_checks rfl rfl (fun q hq => ?_) rfl ?_ ?_ ?_
  · rw [linkOf_putLink_ne _ _ hq]; exact linkOf_putLink_ne _ _ hq
  · rw [linkOf_putLink, heard_link]; exact htrained
  · rw [linkOf_putLink]
  · rw [linkOf_putLink]

/-- What a port's going down needs of block `u`, which comes from `b`. -/
structure PortSame (b u : Block) (p : Nat) : Prop where
  downs : (linkOf u p).downs = (linkOf b p).downs
  admitted : (linkOf u p).admitted = (linkOf b p).admitted
  idle : idleState u p = idleState b p
  count : fmGet u.ctr cLinkDown 0 = fmGet b.ctr cLinkDown 0
  version : u.fab.version = b.fab.version

/-- Port `p` of `b` went down at `T`, by the statement's terms. -/
def WentDown (b : Block) (p T : Nat) (d : Block) : Prop :=
  let downs := T :: (linkOf b p).downs.filter (fun u => decide (T < u + 1000000000))
  (linkOf d p).trained = false ∧ (linkOf d p).admitted = false ∧ (linkOf d p).downs = downs ∧
    (linkOf d p).state = (if 16 ≤ downs.length then 6 else idleState b p) ∧ d.tide.clock = T ∧
    fmGet d.ctr 0x25C 0 = satAdd 32 (fmGet b.ctr 0x25C 0) 1 ∧
    ((linkOf b p).admitted = true → d.fab.version = b.fab.version + 1 ∧ d.fab.stale = true)

theorem Down.went {b u d : Block} {p : Nat} (h : Down u p d) (hsame : PortSame b u p) : WentDown b p u.tide.clock d := by
  have htimes : downTimes u p = u.tide.clock :: (linkOf b p).downs.filter (fun t => decide (u.tide.clock < t + 1000000000)) := by
    rw [downTimes, hsame.downs]
  obtain ⟨_, _, _, _, _, hlink⟩ := h.link
  refine ⟨hlink ▸ rfl, hlink ▸ rfl, ?_, ?_, h.clock, h.count.trans (congrArg (satAdd 32 · 1) hsame.count), fun hadm => ?_⟩
  · rw [hlink, ← htimes]; rfl
  · rw [hlink, ← htimes, ← hsame.idle]
    simp only [downLink, ge_iff_le, decide_eq_true_eq]
  · rw [← hsame.version]
    exact h.news (hsame.admitted.trans hadm)

theorem PortSame.refl (b : Block) (p : Nat) : PortSame b b p := ⟨rfl, rfl, rfl, rfl, rfl⟩

/-- Port `p` of `b` began a test of `pattern`, by the statement's terms. -/
def TestBegan (b : Block) (p pattern : Nat) (d : Block) : Prop :=
  if 16 ≤ ((linkOf b p).downs.filter (fun u => decide (b.tide.clock < u + 1000000000))).length + 1 then WentDown b p b.tide.clock d
  else (linkOf d p).state = 5 ∧ (linkOf d p).pattern = pattern ∧ (linkOf d p).testFrom = b.tide.clock ∧
    (linkOf d p).admitted = false ∧ (linkOf d p).trained = false

theorem testEnter_begins {b u : Block} {p : Nat} (hp : p < 6) (htrained : (linkOf u p).trained = true) (hsame : PortSame b u p)
    (hclock : u.tide.clock = b.tide.clock) (pattern : Nat) : TestBegan b p pattern (finish (testEnter u p pattern)) := by
  obtain ⟨hheld, htests, -⟩ := testEnter_finish hp htrained pattern
  have htimes : (downTimes u p).length = ((linkOf b p).downs.filter (fun t => decide (b.tide.clock < t + 1000000000))).length + 1 := by
    rw [downTimes, hsame.downs, hclock, List.length_cons]
  rw [htimes] at hheld htests
  unfold TestBegan
  split
  · next h => exact hclock ▸ (hheld h).went hsame
  · next h => exact hclock ▸ htests h

theorem portSame_heard (b : Block) (p : Nat) : PortSame b (heard b p false) p :=
  ⟨(congrArg LinkPort.downs (heard_link b p false)).trans rfl, (congrArg LinkPort.admitted (heard_link b p false)).trans rfl, rfl, rfl, rfl⟩

/-! ## Writes of a port's entries (R306, R308, R320) -/

/-- What an accepted write of an entry of port `p` leaves of the fabric. -/
structure PortStored (b : Block) (p sub : Nat) (c : Block) : Prop where
  fab : c.fab = b.fab
  rcv : c.rcv = b.rcv
  clock : c.tide.clock = b.tide.clock
  count : fmGet c.ctr cLinkDown 0 = fmGet b.ctr cLinkDown 0
  chip : chipNo c = chipNo b
  others : ∀ k, k < 256 → k ≠ sub → dget c (0x5010 + p) k = dget b (0x5010 + p) k

theorem portStored {a : DictAcc} {p : Nat} (hidx : a.idx = 0x5010 + p) (hsub : a.sub < 256) (b : Block) (d : Desc) :
    PortStored b p a.sub (dictStore (noted b a) a d) := by
  obtain ⟨_, _, _, _, _, _, _, _, _, h⟩ := dictStore_noted b a d
  have hother {i k : Nat} (hk : k < 256) (hne : i ≠ a.idx ∨ k ≠ a.sub) : dget (dictStore (noted b a) a d) i k = dget b i k := by
    have hkey : dkey i k ≠ dkey a.idx a.sub := by unfold dkey; omega
    rw [dget_dictStore_ne _ _ _ hkey]
    obtain ⟨_, hn⟩ := noted_eq b a
    rw [hn]; rfl
  have hfields : ∀ c, c = dictStore (noted b a) a d → c.fab = b.fab ∧ c.rcv = b.rcv ∧ c.tide.clock = b.tide.clock ∧
      fmGet c.ctr cLinkDown 0 = fmGet b.ctr cLinkDown 0 := by
    rintro c rfl
    rw [h]; exact ⟨rfl, rfl, rfl, noted_count b a (by decide)⟩
  obtain ⟨hfab, hrcv, hclock, hcount⟩ := hfields _ rfl
  exact ⟨hfab, hrcv, hclock, hcount, hother (by decide) (.inl (by omega)), fun k hk hne => hidx ▸ hother hk (.inr hne)⟩

section
variable {b c : Block} {p sub : Nat}

theorem PortStored.link (h : PortStored b p sub c) (q : Nat) : linkOf c q = linkOf b q := by rw [linkOf, h.fab]; rfl

theorem PortStored.idle (h : PortStored b p sub c) : idleState c p = idleState b p := by
  have hreach : reachOf c p = reachOf b p := by rw [reachOf, h.chip, planChip, h.fab]; rfl
  rw [idleState, h.fab, hreach]; rfl

theorem PortStored.release (h : PortStored b p sub c) :
    testRelease c p = if (linkOf b p).state = 6 then putLink c p { linkOf b p with state := idleState b p, downs := [] } else c := by
  rw [testRelease, h.link, h.idle]

theorem PortStored.message (h : PortStored b p sub c) (msg : GzMsg) : linkMsg c p msg = linkMsg b p msg := by
  rw [linkMsg, h.link, gzOwn, h.chip, h.rcv]; rfl

/-- The block once the neighbour is told of the test. -/
theorem PortStored.told (h : PortStored b p sub c) (msg : GzMsg) : PortSame b (gzLink c p msg) p ∧
    linkOf (gzLink c p msg) p = { linkOf b p with lastTx := b.tide.clock } ∧ (gzLink c p msg).tide.clock = b.tide.clock ∧
    (gzLink c p msg).out = .gz p (gzBytes (linkMsg b p msg)) :: c.out := by
  have hlink : linkOf (gzLink c p msg) p = { linkOf b p with lastTx := b.tide.clock } := by
    refine (linkOf_putLink _ _ _).trans ?_
    rw [h.link, h.clock]
  refine ⟨⟨by rw [hlink], by rw [hlink], h.idle, h.count, Eq.trans (b := c.fab.version) rfl (congrArg Fabric.version h.fab)⟩, hlink, h.clock, ?_⟩
  rw [← h.message]
  rfl

end

/-- A test that ends at a write tells the neighbour, and leaves what the checker counted. -/
theorem testLeave_stored {b c : Block} {p sub : Nat} (h : PortStored b p sub c) (hstate : (linkOf b p).state = 5) (msg : GzMsg) :
    let d := testLeave (gzLink c p msg) p
    (linkOf d p).state = idleState b p ∧ ((linkOf d p).bits, (linkOf d p).errors, (linkOf d p).sync) = testNow b p ∧
      .gz p (gzBytes (linkMsg b p msg)) ∈ d.out := by
  obtain ⟨hsame, hlink, hclock, hout⟩ := h.told msg
  have hnow : testNow (gzLink c p msg) p = testNow b p := by simp only [testNow, hlink, hclock]
  have hleft := linkOf_testLeave (b := gzLink c p msg) (p := p) (by rw [hlink]; exact hstate)
  refine ⟨?_, ?_, ?_⟩
  · rw [hleft]; exact hsame.idle
  · rw [hleft, hnow]
  · rw [(clock_testLeave _ _).2, hout]
    exact List.mem_cons_self

/-- A test start that a minor-0 neighbour can follow. -/
theorem testStart_allowed {b : Block} {a : DictAcc} {p : Nat} (hidx : a.idx = 0x5010 + p)
    (hfits : ¬((linkOf b p).lower = true ∧ dget b a.idx 6 = 2)) : (rowLinkTestStart a p).cond (noted b a) = none := by
  obtain ⟨_, hn⟩ := noted_eq b a
  have hlower : (linkOf (noted b a) p).lower = (linkOf b p).lower := hn ▸ rfl
  have hpattern : dget (noted b a) (0x5010 + p) 6 = dget b a.idx 6 := by rw [hn, ← hidx]; rfl
  refine stateIf_true ?_
  rw [hlower, hpattern, Bool.not_eq_true', Bool.eq_false_iff, Ne, Bool.and_eq_true, decide_eq_true_eq]
  exact hfits

/-- Settles O50: a check of a port decides its admission, and whatever takes a port down leaves the same port. -/
theorem linkPorts : Obligations.LinkPorts := by
  unfold Obligations.LinkPorts
  intro s p halive hp
  dsimp only
  have hmay : (linkOf s.blk p).trained = true → (decide (p < 6) && (linkOf s.blk p).trained) = true := fun h => by rw [h]; simpa using hp
  have hdown (u : Block) (cause : Nat) (htrained : (linkOf u p).trained = true) (hsame : PortSame s.blk u p) :
      WentDown s.blk p u.tide.clock (finish (portDown u p cause)) := (down_finish hp htrained cause).went hsame
  refine ⟨fun huntrained h5 h6 => ⟨fun hunused => ?_, fun hused => ?_⟩, fun w htrained => ?_, fun count htrained hnone => ?_,
    fun htrained => ⟨?_, ?_, ?_, fun hpackage => ?_, fun pattern => ?_⟩, fun hretry => ?_, fun msgs packets huntrained hretry hstale => ?_,
    fun pattern htest => ⟨?_, ?_⟩, fun a d hready hidx => ⟨fun hsub hno => ?_, fun hsub hyes => ?_, fun hsub hvalue => ⟨fun hlower hprbs => ?_,
      fun hfits huntrained => ?_, fun hfits htrained => ?_⟩, fun hsub hvalue => ⟨fun htest => ?_, fun htest => ?_⟩⟩⟩
  · exact (lift_eq (f := fun b => linkTrained b p) halive (linkTrained_unused hunused)).trans
      (congrArg Host.Outcome.next (withBlk_self s))
  · exact gives_withBlk (lift_eq (f := fun b => linkTrained b p) halive rfl) (linkTrained_trains hp huntrained h5 h6 hused)
  · exact gives_withBlk (lift_eq (f := fun b => if p < 6 && (linkOf b p).trained then
      checkPort (putLink (heard b p false) p { linkOf (heard b p false) p with ident := w, heardId := true }) false p else b) halive
      (if_pos (hmay htrained))) (linkIdent_checks htrained w)
  · exact lift_eq (f := fun b => heartbeatRead b p count) halive (heartbeatRead_eq hp htrained hnone count)
  · obtain ⟨hclock, hlink, hout⟩ := heartbeatSend_sends hp htrained
    refine gives_withBlk (lift_eq (f := fun b => heartbeatSend b p) halive rfl) ⟨hclock, ?_, hout⟩
    show linkOf (heartbeatSend s.blk p) p = { linkOf s.blk p with
      lastTx := (heartbeatSend s.blk p).tide.clock, lastHb := (heartbeatSend s.blk p).tide.clock }
    rw [hlink, hclock]
  · exact gives_withBlk (liftA_alive halive fun b => portDown b p 0) (hdown _ 0 htrained (.refl _ _))
  · refine gives_withBlk (liftA_alive halive fun b => portDown (if p < 6 && (linkOf b p).trained then
      passTo b ((linkOf b p).lastRx + dget b 0x5020 1 * 1000) else b) p 1) ?_
    rw [if_pos (hmay htrained)]
    exact hdown (passTo s.blk _) 1 htrained ⟨rfl, rfl, rfl, rfl, rfl⟩
  · refine gives_withBlk (liftA_alive halive fun b => if reachOf b p = 1 then portDown b p 2 else act b) ?_
    rw [if_pos hpackage]
    exact hdown _ 2 htrained (.refl _ _)
  · refine gives_withBlk (liftA_alive halive fun b => if true then
      (if p < 6 && (linkOf b p).trained then testEnter (heard b p false) p pattern else act b) else act (testLeave b p)) ?_
    rw [if_pos rfl, if_pos (hmay htrained)]
    exact testEnter_begins hp (by rw [heard_link]; exact htrained) (portSame_heard _ _) rfl pattern
  · exact (liftA_eq (f := fun b => if reachOf b p = 1 then portDown b p 2 else act b) halive (if_neg hretry)).trans
      (congrArg Host.Outcome.next (withBlk_self s))
  · exact lift_eq (f := fun b => retryReturn b p msgs packets) halive (retryReturn_waits hp huntrained hretry hstale msgs packets)
  · exact gives_withBlk (liftA_eq (f := fun b => if false then
      (if p < 6 && (linkOf b p).trained then testEnter (heard b p false) p pattern else act b) else act (testLeave b p)) halive rfl)
      (linkOf_testLeave htest)
  · exact gives_withBlk (lift_eq (f := fun b => if (linkOf b p).state = 5 then
      testLeave (passTo b ((linkOf b p).testFrom + dget b 0x5020 3 * 1000000)) p else b) halive (if_pos htest))
      ⟨linkOf_testLeave (b := passTo s.blk _) htest, (clock_testLeave _ _).1⟩
  · have hstored := portStored hidx (by omega) s.blk d
    refine (dictRow_stores (row := rowLinkOverride a p) hready (by simp [rowLinkOverride, hp, hidx, hsub]) rfl).trans ?_
    have hnot : (!(linkOf s.blk p).trained || !(linkOf s.blk p).heardId) = true := by rw [← Bool.not_and, hno]; rfl
    simp only [rowLinkOverride, checkPort, hstored.link, hnot, if_true, finish_act]
  · have hstored := portStored hidx (by omega) s.blk d
    refine gives_withBlk (dictRow_stores (row := rowLinkOverride a p) hready (by simp [rowLinkOverride, hp, hidx, hsub]) rfl) ?_
    obtain ⟨htrained, hheard⟩ := Bool.and_eq_true_iff.1 hyes
    have hcmd : isCmdEntry a.idx a.sub = false := by simp [isCmdEntry, hidx, hsub]; omega
    have hoverride : overrideOf (dictStore (noted s.blk a) a d) p = decide (writeValue a d ≠ 0) := by
      have hself := dget_dictStore_self (noted s.blk a) a d hcmd
      rw [hidx, hsub] at hself
      rw [overrideOf, hself]
    have hchecks := checkPort_checks (congrArg Fabric.plan hstored.fab) hstored.chip (fun q _ => hstored.link q) (congrArg Recovery.genWritten hstored.rcv)
      (by rw [hstored.link]; exact htrained) (by rw [hstored.link]; exact hheard) (congrArg LinkPort.ident (hstored.link p))
    rw [hoverride] at hchecks
    exact hchecks
  · have hcond : (rowLinkTestStart a p).cond (noted s.blk a) = some (0x05, 7) := by
      obtain ⟨_, hn⟩ := noted_eq s.blk a
      have hlower' : (linkOf (noted s.blk a) p).lower = true := hn ▸ hlower
      have hprbs' : dget (noted s.blk a) (0x5010 + p) 6 = 2 := by rw [hn, ← hidx]; exact hprbs
      exact stateIf_false (by rw [hlower', decide_eq_true hprbs']; rfl)
    exact dictRow_refuses hready (by simp [rowLinkTestStart, hp, hidx, hsub, hvalue]) hcond
  · have hstored := portStored hidx (by omega) s.blk d
    refine (dictRow_stores (row := rowLinkTestStart a p) hready (by simp [rowLinkTestStart, hp, hidx, hsub, hvalue])
      (testStart_allowed hidx hfits)).trans ?_
    simp only [rowLinkTestStart, hstored.link, huntrained, Bool.false_eq_true, if_false, finish_act, hstored.release]
  · have hstored := portStored hidx (by omega) s.blk d
    have hpattern : dget (dictStore (noted s.blk a) a d) (0x5010 + p) 6 = dget s.blk a.idx 6 := by
      rw [hidx]; exact hstored.others 6 (by decide) (by omega)
    obtain ⟨hsame, hlink, hclock, hout⟩ := hstored.told (.testCtl (dget s.blk a.idx 6) true)
    have htold := (congrArg LinkPort.trained hlink).trans htrained
    obtain ⟨-, -, l, hl⟩ := testEnter_finish hp htold (dget s.blk a.idx 6)
    refine gives_withBlk (dictRow_stores (row := rowLinkTestStart a p) hready (by simp [rowLinkTestStart, hp, hidx, hsub, hvalue])
      (testStart_allowed hidx hfits)) ?_
    simp only [rowLinkTestStart, hstored.link, htrained, if_true, hpattern]
    refine ⟨testEnter_begins hp htold hsame hclock _, ?_⟩
    show _ ∈ (finish _).out
    rw [hl, hout]
    exact List.mem_append_right _ List.mem_cons_self
  · have hstored := portStored hidx (by omega) s.blk d
    refine (dictRow_stores (row := rowLinkTestStop a p) hready (by simp [rowLinkTestStop, hp, hidx, hsub, hvalue]) rfl).trans ?_
    simp only [rowLinkTestStop, hstored.link, htest, if_false, finish_act, hstored.release]
  · have hstored := portStored hidx (by omega) s.blk d
    refine gives_withBlk (dictRow_stores (row := rowLinkTestStop a p) hready (by simp [rowLinkTestStop, hp, hidx, hsub, hvalue]) rfl) ?_
    simp only [rowLinkTestStop, hstored.link, htest, if_true, finish_act]
    exact testLeave_stored hstored htest _

end Sys2Proof.Machine
end


section
/-! PROOFS. What messages and the effects of a step leave alone (spec/12_fabric.md, R312): the sequence spaces of the originators, the clock and
the count of gaps. Stated in the order of the model's definitions. -/

namespace Sys2Proof.Machine

open Sys2Proof

/-- `b` has the sequence spaces, the clock and the count of gaps of `a`. -/
structure Still (a b : Block) : Prop where
  rx : b.fab.rx = a.fab.rx
  clock : b.tide.clock = a.tide.clock
  gaps : fmGet b.ctr cGzGap 0 = fmGet a.ctr cGzGap 0

namespace Still

variable {a b c : Block}

theorem refl (a : Block) : Still a a := ⟨rfl, rfl, rfl⟩

theorem trans (h : Still a b) (h' : Still b c) : Still a c := ⟨h'.rx.trans h.rx, h'.clock.trans h.clock, h'.gaps.trans h.gaps⟩

theorem foldl {α : Type} {f : Block → α → Block} (h : ∀ b x, Still b (f b x)) (l : List α) (b : Block) : Still b (l.foldl f b) := by
  induction l generalizing b with
  | nil => exact refl b
  | cons x xs ih => exact (h b x).trans (ih (f b x))

theorem ite {p : Prop} [Decidable p] (h : Still a b) (h' : Still a c) : Still a (if p then b else c) := by
  split
  · exact h
  · exact h'

end Still

theorem WritesBack.still {a b : Block} (h : WritesBack a b) : Still a b := by
  obtain ⟨_, _, _, _, _, rfl⟩ := h
  exact ⟨rfl, rfl, rfl⟩

theorem Posts.still {a b : Block} (h : Posts a b) : Still a b := by
  obtain ⟨-, hcounts, -, _, _, _, _, _, _, rfl⟩ := h
  exact ⟨rfl, rfl, hcounts _ (by decide)⟩

theorem Calm.still {keys : List Nat} {a b : Block} (h : Calm keys a b) (hkeys : cGzGap ∉ keys) : Still a b := by
  obtain ⟨_, _, _, _, _, _, _, hfab⟩ := h.fab
  exact ⟨by rw [hfab], h.clock, h.counts _ hkeys⟩

theorem still_cnt (b : Block) {key : Nat} (h : key ≠ cGzGap) : Still b (cnt b key) := ⟨rfl, rfl, fmGet_fmSet_ne _ _ _ h.symm⟩

theorem still_gzSend (b : Block) (dst : Nat) (msg : GzMsg) : Still b (gzSend b dst msg) := (posts_gzSend b dst msg).still

theorem still_putCtx (b : Block) (c : Ctx) : Still b (putCtx b c) := by
  obtain ⟨_, _, _, h⟩ := putCtx_eq b c
  rw [h]; exact ⟨rfl, rfl, rfl⟩

theorem still_putItem (b : Block) (t : Nat) (i : Item) : Still b (putItem b t i) := ⟨rfl, rfl, rfl⟩
theorem still_putCore (b : Block) (c : Nat) (k : CoreSt) : Still b (putCore b c k) := ⟨rfl, rfl, rfl⟩
theorem still_putRun (b : Block) (n : Nat) (r : Run) : Still b (putRun b n r) := ⟨rfl, rfl, rfl⟩
theorem still_putUnit (b : Block) (u : Nat) (x : UnitRec) : Still b (putUnit b u x) := ⟨rfl, rfl, rfl⟩
theorem still_putSample (b : Block) (n : Nat) (x : Sample) : Still b (putSample b n x) := ⟨rfl, rfl, rfl⟩
theorem still_fen (b : Block) (f : Fences) : Still b { b with fen := f } := ⟨rfl, rfl, rfl⟩

/-! ## Work items (R34 to R46, R125 to R128) -/

theorem still_freeTag (b : Block) (t : Nat) : Still b (freeTag b t) := by
  unfold freeTag
  split
  · exact .refl b
  · exact ⟨rfl, rfl, rfl⟩

theorem still_settleCtx (b : Block) (h : BitVec 24) (heat : Bool) : Still b (settleCtx b h heat) := by
  unfold settleCtx
  split
  · exact .refl b
  · split
    · dsimp only
      split
      · exact .ite ⟨rfl, rfl, rfl⟩ (.refl b)
      · exact .ite (still_putCtx _ _) (.refl b)
    · exact .ite (still_putCtx _ _) (.refl b)
    · exact .ite (still_putCtx _ _) (.refl b)
    · exact .refl b

theorem still_account (b : Block) (h : BitVec 24) (status : Nat) (started replayed : Bool) : Still b (account b h status started replayed) := by
  unfold account
  split
  · exact .refl b
  · exact still_putCtx _ _

theorem still_completeItem (b : Block) (t : Nat) : Still b (completeItem b t) := by
  unfold completeItem
  split
  · exact .refl b
  · exact Still.trans (Still.trans (b := unwait (putItem b t _) t) ⟨rfl, rfl, rfl⟩ (.ite (.refl _) (still_freeTag _ _))) (still_settleCtx _ _ _)

theorem still_cancelWaits (b : Block) (p : Waiter → Bool) : Still b (cancelWaits b p) := (calm_cancelWaits b p).still (by decide)

theorem still_traceAt (b : Block) (t kind bit : Nat) (cluster : Option Nat) (payload : List (Nat × Nat × Nat)) :
    Still b (traceAt b t kind bit cluster payload) := (calm_traceAt b t kind bit cluster payload).still (by decide)

theorem still_traceHeatEnd (b : Block) (t : Nat) (i : Item) (status time : Nat) : Still b (traceHeatEnd b t i status time) :=
  .ite (still_traceAt _ _ _ _ _ _) (.refl b)

theorem still_depRec (b : Block) (type chip : Nat) (cluster : Option Nat) (ctx addr cur val tag part extra : Nat) :
    Still b (depRec b type chip cluster ctx addr cur val tag part extra) :=
  still_traceAt _ _ _ _ _ _

theorem still_endItem (b : Block) (t : Nat) (i : Item) (status : Nat) (wait : Bool) : Still b (endItem b t i status wait) := by
  obtain ⟨b₁, hb₁⟩ : ∃ x, cancelWaits { b with upd := fmErase b.upd t } (waiterOfItem t) = x := ⟨_, rfl⟩
  have h₁ : Still b b₁ := hb₁ ▸ Still.trans (b := { b with upd := fmErase b.upd t }) ⟨rfl, rfl, rfl⟩ (still_cancelWaits _ _)
  unfold endItem
  dsimp only
  rw [hb₁]
  refine h₁.trans (Still.trans ?_ (writesBack_entryOver _ _ _ _ _ _ _ _).still)
  have h₂ (c : Block) (x : Item) : Still c (match fmGet? (putItem c t x).q.sqs i.sq with
      | some s => if status = stDone then putItem c t x else cqPush (putItem c t x) s.cq
          (itemEnt i.entry i.sq status (i.endAt.getD (stamp b)) i.frame (some t) (if wait then some t else none).toList)
      | none => putItem c t x) := by
    split
    · exact .ite (still_putItem _ _ _) ((still_putItem _ _ _).trans (writesBack_cqPush _ _ _).still)
    · exact still_putItem _ _ _
  refine Still.trans ?_ (h₂ _ _)
  refine Still.trans ?_ (.ite (.refl _) (still_traceHeatEnd _ _ _ _ _))
  exact .ite (.refl _) (still_account _ _ _ _ _)

/-! ## Changes with the effects that follow -/

/-- An effect other than the end of a run, which no message and no fence brings about. -/
def Task.onward : Task → Prop
  | .endRun _ => False
  | .fence _ _ | .satisfied _ _ _ | .ready _ | .work _ _ | .after _ | .lose _ _ | .abort _ _ | .kill _ _ | .propagate _ _ | .settle _ => True

theorem Task.calms.onward {keys : List Nat} {t : Task} (h : t.calms keys) : t.onward := by
  cases t with
  | endRun n => exact h
  | _ => trivial

/-- A change that leaves `Still`'s parts of `b` alone, and from which no end of a run follows. -/
structure Onward (b : Block) (r : Act) : Prop where
  still : Still b r.1
  tasks : ∀ t ∈ r.2, t.onward

theorem onward_act {b c : Block} (h : Still b c) : Onward b (act c) := ⟨h, fun _ ht => absurd ht List.not_mem_nil⟩

theorem onward_one {b c : Block} (h : Still b c) {t : Task} (ht : t.onward) : Onward b (c, [t]) :=
  ⟨h, fun _ hu => List.mem_singleton.1 hu ▸ ht⟩

theorem onward_if {b c : Block} {p : Prop} [Decidable p] (h : Still b c) {t : Task} (ht : t.onward) : Onward b (c, if p then [t] else []) := by
  split
  · exact onward_one h ht
  · exact onward_act h

theorem onward_map {α : Type} {b c : Block} (h : Still b c) {f : α → Task} (l : List α) (ht : ∀ x, (f x).onward) : Onward b (c, l.map f) := by
  refine ⟨h, fun t hmem => ?_⟩
  obtain ⟨x, -, rfl⟩ := List.mem_map.1 hmem
  exact ht x

theorem Still.onward {a b : Block} {r : Act} (h : Still a b) (hr : Onward b r) : Onward a r := ⟨h.trans hr.still, hr.tasks⟩

theorem Onward.andThen {b : Block} {r : Act} {f : Block → Act} (h : Onward b r) (hf : ∀ c, Onward c (f c)) : Onward b (andThen r f) :=
  ⟨h.still.trans (hf r.1).still, fun t ht => (List.mem_append.1 ht).elim (h.tasks t) ((hf r.1).tasks t)⟩

theorem onward_actEach {α : Type} {f : Block → α → Act} (h : ∀ b x, Onward b (f b x)) (l : List α) (b : Block) : Onward b (actEach b l f) := by
  have hfold (r : Act) (hr : Onward b r) : Onward b (l.foldl (fun a x => Machine.andThen a (fun b => f b x)) r) := by
    induction l generalizing r with
    | nil => exact hr
    | cons x xs ih => exact ih _ (hr.andThen fun c => h c x)
  exact hfold _ (onward_act (.refl b))

theorem Onward.ite {b : Block} {p : Prop} [Decidable p] {r r' : Act} (h : Onward b r) (h' : Onward b r') : Onward b (if p then r else r') := by
  split
  · exact h
  · exact h'

theorem onward_doWork (b : Block) (t status : Nat) : Onward b (doWork b t status) := by
  unfold doWork
  split
  · exact onward_act (.refl b)
  · next i _ =>
    refine .ite (onward_act (.refl b)) ?_
    have hmore : ∀ u ∈ (if endStatus b i status = status then [] else if endStatus b i status = stPageFault then
        [Task.lose i.ctx stPageFault] else [Task.propagate i.part []]), u.onward := by
      intro u hu
      split at hu
      · cases hu
      · split at hu <;> (rw [List.mem_singleton.1 hu]; trivial)
    dsimp only
    split
    · exact ⟨still_endItem _ _ _ _ _, fun u hu => (List.mem_cons.1 hu).elim (fun e => e ▸ trivial) (hmore u)⟩
    · split
      · exact ⟨(still_endItem _ _ _ _ _).trans (still_completeItem _ _), hmore⟩
      · exact ⟨(still_endItem _ _ _ _ _).trans (still_fen _ _), hmore⟩

theorem onward_doLose (b : Block) (h : BitVec 24) (cause : Nat) : Onward b (doLose b h cause) := by
  have hsamples (c : Block) : ∀ t ∈ ctxSamples c h, t.onward := by
    intro t ht
    obtain ⟨x, -, rfl⟩ := List.mem_map.1 ht
    trivial
  unfold doLose
  split
  · exact onward_act (.refl b)
  · next c _ =>
    have hlost (d : Block) (hd : Still b d) : Onward b (settleCtx d h false, (ctxRuns d h).map (fun x => Task.abort x.1 stCtxLost) ++
        (d.sb.items.filter (fun x => x.2.ctx = h && (decide (x.2.stage = .waiting) || decide (x.2.stage = .composer)))).map
          (fun x => Task.work x.1 stCtxLost) ++ ctxSamples d h) := by
      refine ⟨hd.trans (still_settleCtx _ _ _), fun t ht => ?_⟩
      obtain hmem | hmem := List.mem_append.1 ht
      · obtain hmem | hmem := List.mem_append.1 hmem
        · obtain ⟨x, -, rfl⟩ := List.mem_map.1 hmem
          trivial
        · obtain ⟨x, -, rfl⟩ := List.mem_map.1 hmem
          trivial
      · exact hsamples d t hmem
    dsimp only
    split
    · exact hlost _ (still_putCtx _ _)
    · exact hlost _ (still_putCtx _ _)
    · exact hlost _ (still_putCtx _ _)
    · exact onward_act (.refl b)

/-! ## Fences (R111 to R135) -/

theorem still_fenceTouch (b : Block) (a : Word) : Still b (fenceTouch b a) := ⟨rfl, rfl, rfl⟩

theorem onward_afterWrite (b : Block) (a : Word) (x : AfterSignal) : Onward b (afterWrite b a x) := by
  unfold afterWrite
  split
  · exact onward_one (.refl b) trivial
  · exact onward_act (still_fen _ _)

theorem still_regressive (b : Block) (a value cur : Word) (s : SigBy) : Still b (regressive b a value cur s) := by
  have hcount : Still b (cnt b cFenceRegress) := still_cnt b (by decide)
  unfold regressive
  dsimp only
  split
  · exact .ite (hcount.trans (still_fen _ _)) (hcount.trans ((still_fen _ _).trans (still_depRec _ _ _ _ _ _ _ _ _ _ _)))
  · exact hcount.trans ((still_fen _ _).trans (still_depRec _ _ _ _ _ _ _ _ _ _ _))

theorem onward_applySignal (b : Block) (a v c : Word) (s : SigBy) : Onward b (applySignal b a v c s) := by
  unfold applySignal
  split
  · exact onward_afterWrite _ _ _
  · exact (onward_act (still_regressive _ _ _ _ _)).andThen fun d => onward_afterWrite _ _ _
  · refine onward_map (f := fun (w : FWaitRec) => Task.satisfied w.who a v) ?_ _ fun _ => trivial
    exact Still.trans (b := cnt b cFenceSignal) (still_cnt b (by decide)) ⟨rfl, rfl, rfl⟩

theorem still_noteRegistered (b : Block) (w : Waiter) (a v : Word) : Still b (noteRegistered b w a v) := by
  unfold noteRegistered
  split
  · split
    · exact .refl b
    · exact still_putItem _ _ _
  · dsimp only
    split
    · exact still_putCore _ _ _
    · exact .refl b
  · exact .refl b

theorem onward_applyWait (b : Block) (a v c : Word) (w : Waiter) (held : Bool) : Onward b (applyWait b a v c w held) := by
  unfold applyWait
  refine .ite (onward_one (.refl b) trivial) (.ite (onward_act ((still_fen _ _).trans (still_noteRegistered _ _ _ _))) ?_)
  dsimp only
  split
  · exact onward_act (still_gzSend _ _ _)
  · exact onward_act (Still.trans (.ite (.refl b) (still_cnt b (by decide))) (still_fen _ _))
  · exact onward_act (still_fen _ _)
  · exact onward_act (still_fen _ _)
  · exact onward_act (still_fen _ _)

theorem onward_applyFence (b : Block) (a c : Word) (op : FOp) (held : Bool) : Onward b (applyFence b a c op held) := by
  cases op with
  | wait w v => exact onward_applyWait _ _ _ _ _ _
  | read d => exact onward_one (.refl b) trivial
  | probe n => exact onward_act ⟨rfl, rfl, rfl⟩
  | signal v s => exact onward_applySignal _ _ _ _ _

theorem still_remoteWait (b : Block) (a v : Word) (w : Waiter) : Still b (remoteWait b a v w) := by
  unfold remoteWait
  dsimp only
  refine Still.trans ((still_fen b _).trans (still_noteRegistered _ w a v)) (.ite (.refl _) ?_)
  exact .ite ((still_fen _ _).trans (still_gzSend _ _ _)) (still_fen _ _)

theorem still_remoteSignal (b : Block) (a v : Word) (s : SigBy) : Still b (remoteSignal b a v s) :=
  .ite ((still_fen _ _).trans (still_gzSend _ _ _)) (still_fen _ _)

theorem onward_doFence (b : Block) (a : Word) (op : FOp) : Onward b (doFence b a op) := by
  unfold doFence
  dsimp only
  split
  · split
    · exact .ite (onward_act (still_fen _ _)) ((still_fenceTouch b a).onward (onward_applyFence _ _ _ _ _))
    · exact onward_act (Still.trans (.ite (.refl b) (still_cnt b (by decide))) (still_fen _ _))
  · cases op with
    | wait w v => exact onward_act (still_remoteWait _ _ _ _)
    | read d => exact onward_act (still_remoteWait _ _ _ _)
    | probe n => exact onward_act (.refl b)
    | signal v s => exact onward_act (still_remoteSignal _ _ _ _)

theorem still_noteFreed (b : Block) (c : Nat) (a v : Word) : Still b (noteFreed b c a v) := by
  unfold noteFreed
  dsimp only
  split
  · split
    · exact still_putItem _ _ _
    · exact .refl b
  · exact .refl b

theorem onward_doSatisfied (b : Block) (w : Waiter) (a v : Word) : Onward b (doSatisfied b w a v) := by
  unfold doSatisfied
  split
  · split
    · exact onward_act (.refl b)
    · exact onward_if (still_putItem _ _ _) trivial
  · exact onward_act ((still_noteFreed _ _ _ _).trans ((still_putCore _ _ _).trans ((calm_endAtBoundary _ _).still (by decide))))
  · exact onward_afterWrite _ _ _
  · exact onward_act (.refl b)
  · exact onward_act (.refl b)

theorem still_doAfter (b : Block) (x : AfterSignal) : Still b (doAfter b x) := by
  cases x with
  | nothing => exact .refl b
  | itemDone t => exact still_completeItem _ _
  | heldDone c => exact still_putCore _ _ _
  | applied chip seq o => exact still_gzSend _ _ _
  | reached chip a v => exact still_gzSend _ _ _

theorem onward_descIssue (b : Block) (t : Nat) : Onward b (descIssue b t) := by
  unfold descIssue
  split
  · exact onward_act (.refl b)
  · refine .ite ?_ (onward_act (.refl b))
    split
    · refine ⟨.refl b, fun u hu => ?_⟩
      simp only [List.mem_cons, List.not_mem_nil, or_false] at hu
      obtain rfl | rfl := hu <;> trivial
    · exact .ite (onward_act ((still_putItem _ _ _).trans (.foldl (fun b c => (writesBack_bktTake b _ _ _).still) _ _))) (onward_act (.refl b))

theorem still_slotAsk (b : Block) (c : Ctx) (no : Nat) : Still b (slotAsk b c no) :=
  (still_putCtx b _).trans (.ite (.refl _) (still_cnt _ (by decide)))

theorem onward_doReady (b : Block) (t : Nat) : Onward b (doReady b t) := by
  unfold doReady
  split
  · exact onward_act (.refl b)
  · next i _ =>
    dsimp only
    split
    · exact onward_one (still_putItem _ _ _) trivial
    · exact onward_act (still_putItem _ _ _)
    · obtain ⟨x, hx⟩ : ∃ x, putItem b t { i with
          readyNo := b.sb.readySeq, stage := .composer, starveBy := b.tide.clock + dget b 0x3010 3 * 1000
          descRd := if (!eLc i.entry && hasProgram i.entry) = true then .wanted else .idle } = x := ⟨_, rfl⟩
      have hput : Still b x := hx ▸ still_putItem _ _ _
      rw [hx]
      obtain ⟨r, hr⟩ : ∃ r, (if (!eLc i.entry && hasProgram i.entry) = true then descIssue x t else act x) = r := ⟨_, rfl⟩
      have hissue : Onward x r := hr ▸ .ite (onward_descIssue _ _) (onward_act (.refl x))
      rw [hr]
      obtain ⟨d, hd⟩ : ∃ d, (if (!eLc i.entry && hasProgram i.entry && (itemOf r.1 t).any (fun x => decide (x.descRd = .wanted)) && r.2.isEmpty) = true
          then cnt r.1 cBwHold else r.1) = d := ⟨_, rfl⟩
      have hheld : Still b d := hd ▸ (hput.trans hissue.still).trans (.ite (still_cnt _ (by decide)) (.refl _))
      rw [hd]
      have hmore {e : Block} (he : Still b e) : Onward b (e, r.2) := ⟨he, hissue.tasks⟩
      split
      · exact hmore hheld
      · have hstate (c : Ctx) : Still b (if c.state = .blocked then putCtx d { c with state := .resident } else d) :=
          hheld.trans (.ite (still_putCtx _ _) (.refl _))
        refine .ite ⟨hstate _, fun u hu => ?_⟩ (.ite (hmore (hstate _)) (hmore ((hstate _).trans (still_slotAsk _ _ _))))
        obtain hmem | hmem := List.mem_append.1 hu
        · exact hissue.tasks u hmem
        · split at hmem
          · cases hmem
          · rw [List.mem_singleton.1 hmem]; trivial

/-! ## Units and samples (R349, R353, R358) -/

theorem still_histRec (b : Block) (type cls unit : Nat) (ctx : Option (BitVec 24)) (status a v : Nat) :
    Still b (histRec b type cls unit ctx status a v) := by
  obtain ⟨_, _, _, _, _, h⟩ := histRec_eq b type cls unit ctx status a v
  rw [h]; exact ⟨rfl, rfl, rfl⟩

theorem onward_setUnit (b : Block) (u st cls : Nat) (ctx : Option (BitVec 24)) : Onward b (setUnit b u st cls ctx) := by
  have hmark (x : UnitRec) : Still b (histRec (putUnit b u x) htState cls u ctx 0 (unitOf b u).state st) :=
    (still_putUnit b u x).trans (still_histRec _ _ _ _ _ _ _ _)
  unfold setUnit
  dsimp only
  refine .ite (onward_act (.refl b)) (.ite ⟨Still.trans (hmark _) ⟨rfl, rfl, rfl⟩, fun t ht => ?_⟩ (onward_act (hmark _)))
  split at ht
  · obtain ⟨x, -, rfl⟩ := List.mem_map.1 ht
    trivial
  · cases ht

theorem onward_unitEvent (b : Block) (u type : Nat) (ctx : Option (BitVec 24)) (status a v : Nat) :
    Onward b (unitEvent b u type ctx status a v) := by
  have hnoted (x y z : UnitRec) : Still b (putUnit (histRec (putUnit (putUnit b u x) u y) type hcPending u ctx status a v) u z) :=
    ((still_putUnit b u x).trans (still_putUnit _ u y)).trans ((still_histRec _ _ _ _ _ _ _ _).trans (still_putUnit _ u z))
  unfold unitEvent
  dsimp only
  exact .ite (onward_act ((hnoted _ _ _).trans (still_histRec _ _ _ _ _ _ _ _))) ((hnoted _ _ _).onward (onward_setUnit _ _ _ _ _))

theorem still_dropRun (b : Block) (n : Nat) : Still b (dropRun b n) := by
  unfold dropRun
  split
  · exact .ite ⟨rfl, rfl, rfl⟩ (.refl b)
  · exact .refl b

theorem still_settleRun (b : Block) (n : Nat) : Still b (settleRun b n) := by
  unfold settleRun
  split
  · exact (still_putRun _ _ _).trans (still_dropRun _ _)
  · exact .refl b

theorem still_dropSample (b : Block) (n : Nat) : Still b (dropSample b n) := by
  unfold dropSample
  split
  · exact .refl b
  · next x _ =>
    exact Still.trans (b := { b with rel := { b.rel with samples := fmErase b.rel.samples n } }) ⟨rfl, rfl, rfl⟩
      (.foldl (fun b m => still_settleRun b m) _ _)

theorem onward_docNote (b : Block) (tag : Nat) (i : Item) (d : Doc) : Onward b (docNote b tag i d) := onward_if (still_putItem _ _ _) trivial

theorem onward_chunkOver (b : Block) (tag status : Nat) : Onward b (chunkOver b tag status) := by
  unfold chunkOver
  split
  · exact onward_act (.refl b)
  · split
    · exact onward_act (.refl b)
    · exact onward_docNote _ _ _ _

theorem onward_boundOver (b : Block) (r : Run) (status : Nat) : Onward b (boundOver b r status) := by
  unfold boundOver
  split
  · refine .ite (onward_chunkOver _ _ _) ?_
    split
    · exact onward_chunkOver _ _ _
    · exact onward_docNote _ _ _ _
    · exact onward_act (.refl b)
  · exact onward_act (.refl b)

theorem still_creditsEnd (b : Block) (r : Run) (status : Nat) : Still b (creditsEnd b r status) := ⟨rfl, rfl, rfl⟩

theorem onward_finishRun (b : Block) (n status : Nat) : Onward b (finishRun b n status) := by
  unfold finishRun
  split
  · exact onward_act (.refl b)
  · next r _ =>
    refine ((still_dropSample b n).trans (still_settleRun _ n)).onward ((onward_boundOver _ r status).andThen fun c => ?_)
    split
    · exact onward_act (still_creditsEnd _ _ _)
    · refine .ite (Still.onward ?_ (onward_chunkOver _ _ _)) (onward_one ((still_creditsEnd _ _ _).trans (still_putItem _ _ _)) trivial)
      exact (still_creditsEnd c r status).trans ((still_account _ _ _ _ _).trans ((still_traceHeatEnd _ _ _ _ _).trans (still_settleCtx _ _ _)))

theorem onward_unresolved (b : Block) (n : Nat) (x : Sample) (p q : Run) (third : Option Run) (split : Bool) :
    Onward b (unresolved b n x p q third split) := by
  have hlost (c : Block) (units : List (Nat × (Nat × Nat × Nat) × Nat)) :
      Onward c (andThen (lossEvents c units p.ctx stReplayExhausted) (fun b => finishRun b n stReplayExhausted)) :=
    (onward_actEach (fun b u => onward_unitEvent b _ _ _ _ _ _) units c).andThen fun d => onward_finishRun d _ _
  unfold unresolved
  dsimp only
  split
  · exact Still.onward (.foldl (fun b d => still_histRec b _ _ _ _ _ _ _) _ _) (hlost _ _)
  · exact (still_histRec b _ _ _ _ _ _ _).onward (hlost _ _)

theorem still_abandonRun (b : Block) (o : Option Nat) : Still b (abandonRun b o) := by
  cases o with
  | none => exact .refl b
  | some n => exact (calm_abortRun b n stDestroyed).still (by decide)

theorem onward_doSettle (b : Block) (n : Nat) : Onward b (doSettle b n) := by
  unfold doSettle
  split
  · next x p _ _ =>
    refine Still.onward (b := abandonRun (abandonRun (abandonRun (cnt b cShadowAbandon) x.shadow) x.third) x.captureRun) ?_ ?_
    · exact (still_cnt b (by decide)).trans ((still_abandonRun _ _).trans ((still_abandonRun _ _).trans (still_abandonRun _ _)))
    · dsimp only
      split
      · exact onward_finishRun _ _ _
      · split
        · exact onward_unresolved _ _ _ _ _ _ _
        · exact onward_finishRun _ _ _
      · exact .ite (onward_finishRun _ _ _) (onward_act (still_dropSample _ _))
  · exact onward_act (.refl b)

/-! ## The effects in order -/

theorem onward_doTask (b : Block) {t : Task} (h : t.onward) : Onward b (doTask b t) := by
  cases t with
  | fence a op => exact onward_doFence b a op
  | satisfied w a v => exact onward_doSatisfied b w a v
  | ready t => exact onward_doReady b t
  | work t st => exact onward_doWork b t st
  | after x => exact onward_act (still_doAfter b x)
  | lose x cause => exact onward_doLose b x cause
  | abort n st => exact onward_act ((calm_abortRun b n st).still (by decide))
  | kill n st => exact onward_act ((calm_killRun b n st).still (by decide))
  | propagate p cs =>
    obtain ⟨hcalm, htasks⟩ := doTask_calms (t := .propagate p cs) quietKeys_sub (List.Subset.refl _) b
    exact ⟨hcalm.still (by decide), fun u hu => (htasks u hu).onward⟩
  | settle n => exact onward_doSettle b n
  | endRun n => exact absurd h id

theorem still_runTasks (n : Nat) {ts : List Task} (h : ∀ t ∈ ts, t.onward) (b : Block) : Still b (runTasks n ts b) := by
  induction n generalizing ts b with
  | zero => cases ts <;> exact .refl b
  | succ n ih =>
    cases ts with
    | nil => exact .refl b
    | cons t ts =>
      obtain ⟨ht, hts⟩ := List.forall_mem_cons.mp h
      obtain ⟨hstill, hmore⟩ := onward_doTask b ht
      exact hstill.trans (ih (fun u hu => (List.mem_append.mp hu).elim (hts u) (hmore u)) _)

theorem Onward.finish {b : Block} {r : Act} (h : Onward b r) : Still b (finish r) := by
  refine h.still.trans ?_
  unfold Machine.finish
  refine .ite (.refl _) (Still.trans (b := numbered r.1) ⟨rfl, rfl, rfl⟩ (still_runTasks _ (fun t ht => h.tasks t ?_) _))
  unfold followUps at ht
  split at ht
  · exact ht
  · exact (List.mem_filter.1 ht).1

/-! ## What messages do (R313) -/

theorem still_gzTree (b : Block) (msg : GzMsg) : Still b (gzTree b msg) := (posts_gzTree b msg).still

theorem still_tideRec (b : Block) (e : TideEv) : Still b (tideRec b e) :=
  .ite (.refl b) (Still.trans (b := { b with tide := { b.tide with seq := (b.tide.seq + 1) % 2 ^ 32 } }) ⟨rfl, rfl, rfl⟩
    (writesBack_ringPut _ _ _ _ _ _ _).still)

theorem still_putLive (b : Block) (id : Nat) (l : Live) : Still b (putLive b id l) :=
  Still.trans (b := { b with live := fmSet b.live id l }) ⟨rfl, rfl, rfl⟩ (writesBack_wrOwn _ _ _).still

theorem still_suspendSource (b : Block) (id : Nat) (l : Live) : Still b (suspendSource b id l) :=
  .ite ((still_putLive _ _ _).trans (still_gzTree _ _)) (.refl b)

theorem still_suspendSources (b : Block) : Still b (b.live.foldl (fun b x => suspendSource b x.1 x.2) b) :=
  .foldl (f := fun b (x : Nat × Live) => suspendSource b x.1 x.2) (fun b x => still_suspendSource b x.1 x.2) _ b

theorem still_tide (b : Block) {t : Tide} (h : t.clock = b.tide.clock) : Still b { b with tide := t } := ⟨rfl, h, rfl⟩

theorem Still.tideRec {b c : Block} (h : Still b c) {t : Tide} (ht : t.clock = c.tide.clock) (e : TideEv) :
    Still b (tideRec { c with tide := t } e) := (h.trans (still_tide c ht)).trans (still_tideRec _ e)

theorem still_leaveDomain (b : Block) (cause : Nat) : Still b (leaveDomain b cause) := by
  unfold leaveDomain
  dsimp only
  refine .ite (Still.tideRec ?_ ?_ _) (.refl b)
  · exact (still_suspendSources b).trans (still_gzTree _ _)
  · rfl

theorem still_rackLeave (b : Block) (cause : Nat) : Still b (rackLeave b cause) := by
  unfold rackLeave
  dsimp only
  refine .ite (Still.tideRec ?_ ?_ _) (.refl b)
  · exact (still_suspendSources b).trans (still_gzTree _ _)
  · rfl

theorem still_rackJoin (b : Block) : Still b (rackJoin b) := by
  unfold rackJoin
  split
  · exact .refl b
  · refine Still.trans ?_ (.foldl (fun b c => still_gzSend b _ _) _ _)
    exact still_tide b rfl

theorem still_onTimeAnnounce (b : Block) (h : GzHdr) (a : Announce) : Still b (onTimeAnnounce b h a) := by
  unfold onTimeAnnounce
  split
  · exact .refl b
  · refine .ite (.ite ?_ (.ite (still_tide b rfl) (.refl b))) (.ite (still_tide b rfl) (.refl b))
    exact .ite (still_tide b rfl) ((still_tide b rfl).trans (still_tide _ rfl))

theorem still_onTimeBeaconReply (b : Block) (t1 t2 t3 t4 : Nat) : Still b (onTimeBeaconReply b t1 t2 t3 t4) := by
  unfold onTimeBeaconReply
  dsimp only
  have hafter {c : Block} (hc : Still b c) (p q : Prop) [Decidable p] [Decidable q] (cause : Nat) :
      Still b (if p then rackLeave c cause else if q then rackJoin c else c) :=
    hc.trans (.ite (still_rackLeave _ _) (.ite (still_rackJoin _) (.refl _)))
  refine .ite (hafter (Still.trans ?_ (still_gzTree _ _)) _ _ _) (.refl b)
  exact ⟨rfl, rfl, rfl⟩

theorem still_onLateFrame (b : Block) (frame chip cause : Nat) : Still b (onLateFrame b frame chip cause) := by
  unfold onLateFrame
  dsimp only
  refine .ite (.refl b) (.ite (Still.trans ?_ (still_leaveDomain _ _)) ⟨rfl, rfl, rfl⟩)
  refine Still.trans (Still.trans ?_ (still_cnt _ (by decide))) (still_tideRec _ _)
  exact ⟨rfl, rfl, rfl⟩

theorem still_onLengthRequest (b : Block) (len : Nat) : Still b (onLengthRequest b len) :=
  .ite (.ite ((still_tide b rfl).trans (still_tide _ rfl)) (still_tide b rfl)) (.refl b)

theorem still_onTideLeave (b : Block) (chip : Nat) (rack : Bool) (cause : Nat) : Still b (onTideLeave b chip rack cause) := by
  unfold onTideLeave
  dsimp only
  refine .ite (Still.tideRec ?_ ?_ _) (.refl b)
  · exact still_suspendSources b
  · rfl

theorem still_onTideJoinAccept (b : Block) (frame : Nat) : Still b (onTideJoinAccept b frame) :=
  .ite (.refl b) (.ite (still_tide b rfl) (still_tide b rfl))

theorem still_stagePut {b c : Block} {data : List Byte} {pos : Nat} (h : stagePut b data = some (pos, c)) : Still b c := by
  have hput (at_ : Nat) : Still b (wrOwn { b with stagePos := at_ + stageSize data } (dget b 0x3040 3 + at_) data) :=
    Still.trans (b := { b with stagePos := at_ + stageSize data }) ⟨rfl, rfl, rfl⟩ (writesBack_wrOwn _ _ _).still
  unfold stagePut at h
  dsimp only at h
  split at h
  · cases h
  · split at h
    · cases h; exact hput _
    · split at h
      · cases h; exact hput _
      · cases h

theorem still_onUpdateData (b : Block) (id : Nat) (add : Bool) (recs : List UpdRec) : Still b (onUpdateData b id add recs) := by
  refine .foldl (fun b r => ?_) _ _
  split
  · exact .refl b
  · refine .ite ?_ (.refl b)
    split
    · next h => exact (still_stagePut h).trans (still_putLive _ _ _)
    · exact .refl b

theorem still_onReplica (b : Block) (id : Nat) (f : Live → Live) : Still b (onReplica b id f) := by
  unfold onReplica
  split
  · exact .ite (still_putLive _ _ _) (.refl b)
  · exact .refl b

theorem onward_onFenceWatch (b : Block) (h : GzHdr) (a v : Word) : Onward b (onFenceWatch b h a v) :=
  .ite (onward_act (.refl b)) (.ite (onward_act (.refl b)) (.ite (onward_act (still_gzSend _ _ _)) (onward_one (.refl b) trivial)))

theorem onward_onFenceReached (b : Block) (h : GzHdr) (a v : Word) : Onward b (onFenceReached b h a v) :=
  .ite (onward_act (.refl b)) (onward_map (f := fun (w : FWaitRec) => Task.satisfied w.who a v) (still_fen b _) _ fun _ => trivial)

theorem onward_peerAct (b : Block) (chip part : Nat) (num : BitVec 32) : Onward b (peerAct b chip part num) := by
  refine ⟨(calm_peerAct b chip part num).still (by decide), ?_⟩
  unfold peerAct
  split
  · exact fun _ ht => absurd ht List.not_mem_nil
  · intro t ht
    obtain ⟨x, -, rfl⟩ := List.mem_map.1 ht
    trivial

theorem onward_deliverMsg (b : Block) (h : GzHdr) (m : GzMsg) : Onward b (deliverMsg b h m) := by
  cases m with
  | fenceSignal a v ctx => exact .ite (onward_one (.refl b) trivial) (onward_act (.refl b))
  | fenceApplied seq o => exact onward_map (f := fun (x : RSignal) => Task.after x.after) (still_fen b _) _ fun _ => trivial
  | fenceWatch a v => exact onward_onFenceWatch b h a v
  | fenceReached a v => exact onward_onFenceReached b h a v
  | fenceBusy a => exact .ite (onward_act ((still_fen b _).trans (still_cnt _ (by decide)))) (onward_act (.refl b))
  | fenceUnwatch a v => exact onward_act (still_fen b _)
  | announce a => exact onward_act (still_onTimeAnnounce b h a)
  | beacon t1 t2 => exact onward_act (still_gzSend b _ _)
  | beaconReply t1 t2 t3 t4 => exact onward_act (still_onTimeBeaconReply b t1 t2 t3 t4)
  | lateFrame f c cause _ => exact onward_act (still_onLateFrame b f c cause)
  | lengthRequest len => exact onward_act (still_onLengthRequest b len)
  | tideLeave c rack cause => exact onward_act (still_onTideLeave b c rack cause)
  | tideJoin c => exact onward_act (.ite (still_gzSend b _ _) (.refl b))
  | tideJoinAccept f => exact onward_act (still_onTideJoinAccept b f)
  | updateData l add recs => exact onward_act (still_onUpdateData b l add recs)
  | epochSeal e => exact onward_act (still_onReplica b _ _)
  | sourceSuspend l f => exact onward_act (still_onReplica b _ _)
  | sourceResume l e f => exact onward_act (still_onReplica b _ _)
  | peerAbort c p n => exact onward_peerAct b c p n
  | linkState | linkIdent | heartbeat | testCtl | transit => exact onward_act (.refl b)

theorem posts_treeForward (b : Block) (h : GzHdr) (m : GzMsg) : Posts b (treeForward b h m) := by
  unfold treeForward
  split
  · exact .refl b
  · exact Posts.foldl (fun b n => posts_gzRoute b _) _ _

theorem onward_deliver (b : Block) (h : GzHdr) (m : GzMsg) : Onward b (deliver b h m) := by
  unfold deliver
  dsimp only
  refine Still.onward (b := if h.tree = true then treeForward b h m else b) (.ite (posts_treeForward b h m).still (.refl b)) ?_
  exact .ite (onward_deliverMsg _ _ _) (onward_act (still_cnt _ (by decide)))

end Sys2Proof.Machine
end


section
/-! PROOFS. Messages, routes and the plan (spec/12_fabric.md, R300, R303, R304, R309 to R312, R316, R318): O51. -/

namespace Sys2Proof.Machine

open Sys2Proof

/-! ## LINK_STATE (R309, R312) -/

theorem Posts.graph {a b : Block} (h : Posts a b) : b.fab.graph = a.fab.graph ∧ b.fab.stale = a.fab.stale ∧ b.fab.cause = a.fab.cause := by
  obtain ⟨-, -, -, _, _, _, _, _, _, rfl⟩ := h
  exact ⟨rfl, rfl, rfl⟩

section
variable {b : Block} {h : GzHdr} (hport : h.port < 6) (htrained : (linkOf b h.port).trained = true) (c : Nat) (v : BitVec 32) (mask : BitVec 6)
include hport htrained

/-- A newer LINK_STATE is kept, and goes on. -/
theorem linkStateRead_newer (hhops : h.hops < 63) (hother : c ≠ chipNo b) (hnewer : newerState b c h.gen v = true) :
    (linkStateRead b h c v mask).fab.graph = fmSet b.fab.graph c (h.gen, v, mask) ∧ (linkStateRead b h c v mask).fab.stale = true ∧
      (linkStateRead b h c v mask).fab.cause = (c, v) := by
  have hmay : (decide (h.port < 6) && (linkOf b h.port).trained) = true := by simp [hport, htrained]
  have htake : (decide (c ≠ chipNo (heard b h.port true)) && newerState (heard b h.port true) c h.gen v) = true := by
    have hnewer' : newerState (heard b h.port true) c h.gen v = true := hnewer
    have hother' : c ≠ chipNo (heard b h.port true) := hother
    simp [hnewer', hother']
  unfold linkStateRead
  dsimp only
  rw [if_pos hmay, if_neg (Nat.not_le.2 hhops), if_pos htake]
  have hsent {d e : Block} (hd : d.fab.graph = fmSet b.fab.graph c (h.gen, v, mask) ∧ d.fab.stale = true ∧ d.fab.cause = (c, v)) (hp : Posts d e) :
      e.fab.graph = fmSet b.fab.graph c (h.gen, v, mask) ∧ e.fab.stale = true ∧ e.fab.cause = (c, v) := by
    obtain ⟨hgraph, hstale, hcause⟩ := hp.graph
    exact ⟨hgraph.trans hd.1, hstale.trans hd.2.1, hcause.trans hd.2.2⟩
  refine hsent (d := { heard b h.port true with
    fab := { (heard b h.port true).fab with graph := fmSet b.fab.graph c (h.gen, v, mask), stale := true, cause := (c, v) } }) ⟨rfl, rfl, rfl⟩ ?_
  split
  · exact posts_cntAdd _ (by decide) _
  · exact Posts.foldl (fun b p => posts_floodOn b p _) _ _

theorem linkStateRead_known (hhops : h.hops < 63) (hknown : c = chipNo b ∨ newerState b c h.gen v = false) :
    linkStateRead b h c v mask = heard b h.port true := by
  have hmay : (decide (h.port < 6) && (linkOf b h.port).trained) = true := by simp [hport, htrained]
  have hleft : ¬ (decide (c ≠ chipNo (heard b h.port true)) && newerState (heard b h.port true) c h.gen v) = true := by
    have hknown' : c = chipNo (heard b h.port true) ∨ newerState (heard b h.port true) c h.gen v = false := hknown
    rw [Bool.and_eq_true, decide_eq_true_eq]
    rintro ⟨hother, hnewer⟩
    exact hknown'.elim hother fun hno => Bool.false_ne_true (hno.symm.trans hnewer)
  unfold linkStateRead
  dsimp only
  rw [if_pos hmay, if_neg (Nat.not_le.2 hhops), if_neg hleft]

theorem linkStateRead_spent (hhops : 63 ≤ h.hops) : linkStateRead b h c v mask = cnt (heard b h.port true) cGzHop := by
  have hmay : (decide (h.port < 6) && (linkOf b h.port).trained) = true := by simp [hport, htrained]
  unfold linkStateRead
  dsimp only
  rw [if_pos hmay, if_pos hhops]

end

/-! ## Forwarding (R310 to R314) -/

section
variable {b : Block} {h : GzHdr} {type : BitVec 8} {bytes : List Byte} (hport : h.port < 6) (hadmitted : (linkOf b h.port).admitted = true)
  (hother : h.dst ≠ chipNo b) (heven : oddPort b h.port = false)
include hport hadmitted hother heven

theorem forward_unknown (hknown : gzKnown type.toNat = false) : forward b h type bytes = cnt (heard b h.port true) cGzCrcDrop := by
  have hmay : (decide (h.port < 6) && (linkOf b h.port).admitted && decide (h.dst ≠ chipNo b) && !oddPort b h.port) = true := by
    simp [hport, hadmitted, hother, heven]
  unfold forward
  dsimp only
  rw [if_pos hmay, hknown]
  rfl

/-- A message in transit takes the route to its destination. -/
theorem forward_known (hknown : gzKnown type.toNat = true) : forward b h type bytes = gzRoute (heard b h.port true)
    { src := h.src, gen := h.gen, dst := h.dst, tree := h.tree, hops := h.hops, detoured := h.detoured, seq := h.seq, msg := .transit type bytes } := by
  have hmay : (decide (h.port < 6) && (linkOf b h.port).admitted && decide (h.dst ≠ chipNo b) && !oddPort b h.port) = true := by
    simp [hport, hadmitted, hother, heven]
  unfold forward
  dsimp only
  rw [if_pos hmay, hknown]
  rfl

end

theorem gzRoute_spent {b : Block} {m : GzOut} (hroute : nextPort b m.dst ≠ none) (hhops : 63 ≤ m.hops + 1) : gzRoute b m = cnt b cGzHop := by
  obtain ⟨p, hp⟩ := Option.ne_none_iff_exists'.1 hroute
  unfold gzRoute
  simp only [hp, ge_iff_le, hhops, if_true]

theorem gzRoute_lost {b : Block} {m : GzOut} (hroute : nextPort b m.dst = none) : gzRoute b m = cnt b cGzNoRoute := by
  unfold gzRoute
  simp only [hroute]

/-- A message for which nothing waits goes out on the port of its route with one hop more; on a retry link no copy is kept. -/
theorem gzRoute_out {b : Block} {m : GzOut} {q : Nat} (hroute : nextPort b m.dst = some q) (hhops : m.hops + 1 < 63)
    (hadmitted : (linkOf b q).admitted = true) (hretry : reachOf b q ≠ 1) (hfirst : ∀ x ∈ b.fab.resend, x.dst ≠ m.dst) :
    (gzRoute b m).out = .gz q (gzBytes { m with
      hops := m.hops + 1, detoured := m.detoured || (decide (gzType m.msg ≠ 0x31) && decide (freePort b m.dst ≠ some q)) }) :: b.out := by
  have hfree : waitsBefore b m = false := by
    simp only [waitsBefore, List.any_eq_false, decide_eq_true_eq]
    exact hfirst
  have hopen : ((linkOf b q).admitted && !waitsBefore b m) = true := by rw [hadmitted, hfree]; rfl
  unfold gzRoute
  simp only [hroute]
  rw [if_neg (by omega), if_pos hopen]
  unfold putOnPort
  dsimp only
  rw [if_neg hretry]
  rfl

theorem heard_admitted (b : Block) (p : Nat) (counts : Bool) (q : Nat) : (linkOf (heard b p counts) q).admitted = (linkOf b q).admitted := by
  by_cases e : q = p
  · rw [e, heard_link]
  · exact congrArg LinkPort.admitted (linkOf_putLink_ne b _ e)

/-! ## Bad frames (R312, R313) -/

theorem crcDrop_heard {b : Block} {p : Nat} {type : BitVec 8} {ok : Bool} (hp : p < 6) (htrained : (linkOf b p).trained = true)
    (hbad : ok = false ∨ gzKnown type.toNat = false) (hup : ok = true ∨ reachOf b p ≠ 1) :
    crcDrop b p type ok = act (heard (cnt b cGzCrcDrop) p ok) := by
  have hmay : (decide (p < 6) && (linkOf b p).trained && (!ok || !gzKnown type.toNat)) = true := by
    obtain h | h := hbad <;> simp [hp, htrained, h]
  have hkeeps : ¬ (!ok && decide (reachOf (cnt b cGzCrcDrop) p = 1)) = true := by
    rw [Bool.and_eq_true, decide_eq_true_eq, Bool.not_eq_true']
    rintro ⟨hok, hpackage⟩
    exact hup.elim (fun h => Bool.false_ne_true (hok.symm.trans h)) fun h => h hpackage
  unfold crcDrop
  dsimp only
  rw [if_pos hmay, if_neg hkeeps]

theorem crcDrop_down {b : Block} {p : Nat} (type : BitVec 8) (hp : p < 6) (htrained : (linkOf b p).trained = true) (hpackage : reachOf b p = 1) :
    crcDrop b p type false = portDown (cnt b cGzCrcDrop) p 2 := by
  have hmay : (decide (p < 6) && (linkOf b p).trained && (!false || !gzKnown type.toNat)) = true := by simp [hp, htrained]
  have hdown : (!false && decide (reachOf (cnt b cGzCrcDrop) p = 1)) = true := by
    rw [decide_eq_true (show reachOf (cnt b cGzCrcDrop) p = 1 from hpackage)]; rfl
  unfold crcDrop
  dsimp only
  rw [if_pos hmay, if_pos hdown]

/-- A bad frame is counted, and the port is heard or goes down. -/
theorem crcDrop_gives {b : Block} {p : Nat} {type : BitVec 8} {ok : Bool} (hp : p < 6) (htrained : (linkOf b p).trained = true)
    (hbad : ok = false ∨ gzKnown type.toNat = false) :
    fmGet (finish (crcDrop b p type ok)).ctr 0x244 0 = satAdd 32 (fmGet b.ctr 0x244 0) 1 ∧
    (ok = true ∨ reachOf b p ≠ 1 → linkOf (finish (crcDrop b p type ok)) p = { linkOf b p with
      lastRx := b.tide.clock, rxCount := if ok then (linkOf b p).rxCount + 1 else (linkOf b p).rxCount }) ∧
    (ok = false → reachOf b p = 1 → (linkOf (finish (crcDrop b p type ok)) p).trained = false ∧
      (linkOf (finish (crcDrop b p type ok)) p).admitted = false) := by
  by_cases hup : ok = true ∨ reachOf b p ≠ 1
  · rw [crcDrop_heard hp htrained hbad hup, finish_act]
    refine ⟨cnt_value b cGzCrcDrop, fun _ => heard_link _ _ _, fun hok hpackage => ?_⟩
    exact hup.elim (fun h => absurd (hok.symm.trans h) Bool.false_ne_true) fun h => absurd hpackage h
  · obtain ⟨hok, hpackage⟩ := not_or.1 hup
    obtain rfl := Bool.eq_false_iff.2 hok
    rw [crcDrop_down type hp htrained (not_not.1 hpackage)]
    have hdown := down_finish (b := cnt b cGzCrcDrop) hp htrained 2
    obtain ⟨_, _, _, _, _, hlink⟩ := hdown.link
    refine ⟨(hdown.others _ (by decide) (by decide)).trans (cnt_value b cGzCrcDrop), fun h => absurd h hup, fun _ _ => ?_⟩
    rw [hlink]
    exact ⟨rfl, rfl⟩

/-! ## Gaps (R312) -/

/-- The heats that depend on a peer end, and propagate. -/
theorem endDependents_calms (b : Block) (f : Nat → Bool) : ∀ t ∈ endDependents b f, t.calms abortKeys := by
  intro t ht
  obtain ⟨x, -, hx⟩ := List.mem_flatMap.1 ht
  simp only [List.mem_cons, List.not_mem_nil, or_false] at hx
  obtain rfl | rfl := hx
  · trivial
  · exact List.Subset.refl _

/-- A space once its one held message has been delivered. -/
theorem drainSpace_last {b : Block} {k : Nat} {x : RxSpace} {m : GzMsg} {h : GzHdr} (hx : fmGet? b.fab.rx k = some x)
    (hheld : x.held = [(x.next, m, h)]) (hgen : h.gen = x.gen) (fuel : Nat) :
    ∃ e l, drainSpace k (fuel + 2) b = (putSpace e k { x with next := x.next + 1, gap := none, held := [] }, l) ∧
      Onward (putSpace b k { x with next := x.next + 1, gap := none, held := [] }) (e, l) := by
  obtain ⟨y, hy⟩ : ∃ y : RxSpace, { x with next := x.next + 1, gap := none, held := [] } = y := ⟨_, rfl⟩
  have hdeliver := onward_deliver (putSpace b k y) h m
  obtain ⟨⟨e, l⟩, he⟩ : ∃ r, deliver (putSpace b k y) h m = r := ⟨_, rfl⟩
  rw [he] at hdeliver
  have hspace : fmGet? e.fab.rx k = some y := by rw [hdeliver.still.rx]; exact fmGet?_fmSet_self _ _ _
  have hrest := drainSpace_empty hspace (by rw [← hy]) fuel
  refine ⟨e, l, ?_, hy ▸ hdeliver⟩
  have hfind : x.held.find? (fun y => decide (y.1 = x.next) && decide (y.2.2.gen = x.gen)) = some (x.next, m, h) := by simp [hheld, hgen]
  have hleft : x.held.filter (fun y => !(decide (y.1 = x.next) && decide (y.2.2.gen = x.gen))) = [] := by simp [hheld, hgen]
  rw [drainSpace]
  simp only [hx, hfind, hleft, hy, he, andThen, hrest, act, List.append_nil]
  rw [← hy]

theorem gapTimeout_skips {b : Block} {src u : Nat} {tree : Bool} {x : RxSpace} {n : BitVec 32} {m : GzMsg} {h : GzHdr}
    (hx : fmGet? b.fab.rx (spaceKey src tree) = some x) (hgap : x.gap = some u) (hheld : x.held = [(n, m, h)]) (hgen : h.gen = x.gen) :
    (fmGet? (finish (gapTimeout b src tree)).fab.rx (spaceKey src tree)).map (fun y => (y.gen, y.next, y.held, y.gap)) =
        some (x.gen, n + 1, [], none) ∧
      fmGet (finish (gapTimeout b src tree)).ctr 0x258 0 = satAdd 32 (fmGet b.ctr 0x258 0) 1 ∧
      (finish (gapTimeout b src tree)).tide.clock = max b.tide.clock (u + dget b 0x5020 2 * 1000) := by
  have hnext : x.next + BitVec.ofNat 32 (n - x.next).toNat = n := by
    rw [BitVec.ofNat_toNat, BitVec.setWidth_eq, BitVec.add_comm, BitVec.sub_add_cancel]
  have hleast : least ((x.held.filter (fun y => decide (y.2.2.gen = x.gen))).map (fun y => (y.1 - x.next).toNat)) = some (n - x.next).toNat := by
    simp [hheld, hgen, least]
  obtain ⟨d, hd⟩ : ∃ d, fabRec (cnt (passTo b (u + dget b 0x5020 2 * 1000)) cGzGap) 0x07 7 src 0 src x.next.toNat (n - x.next).toNat = d := ⟨_, rfl⟩
  have hcalm : Calm quietKeys (cnt (passTo b (u + dget b 0x5020 2 * 1000)) cGzGap) d := hd ▸ calm_fabRec _ _ _ _ _ _ _ _
  obtain ⟨x', hx'⟩ : ∃ x' : RxSpace, { x with next := n, gap := none } = x' := ⟨_, rfl⟩
  have hspace : fmGet? (putSpace d (spaceKey src tree) x').fab.rx (spaceKey src tree) = some x' := fmGet?_fmSet_self _ _ _
  obtain ⟨e, l, hdrain, honward⟩ := drainSpace_last hspace (by rw [← hx']; exact hheld) (by rw [← hx']; exact hgen) 63
  obtain ⟨y, hy⟩ : ∃ y : RxSpace, { x' with next := x'.next + 1, gap := none, held := [] } = y := ⟨_, rfl⟩
  rw [hy] at hdrain honward
  have hrun : gapTimeout b src tree = (putSpace e (spaceKey src tree) y, endDependents d (fun c => decide (c = src)) ++ l) := by
    unfold gapTimeout
    simp only [hx, hgap, hleast, hnext, hd, hx', hdrain]
  have hfinish : Still (putSpace e (spaceKey src tree) y) (finish (gapTimeout b src tree)) := by
    rw [hrun]
    exact Onward.finish ⟨.refl _, fun t ht => (List.mem_append.1 ht).elim (fun hmem => (endDependents_calms _ _ t hmem).onward) (honward.tasks t)⟩
  have hlast : fmGet? (putSpace e (spaceKey src tree) y).fab.rx (spaceKey src tree) = some y := fmGet?_fmSet_self _ _ _
  refine ⟨?_, ?_, ?_⟩
  · rw [hfinish.rx, hlast, ← hy, ← hx']; rfl
  · exact hfinish.gaps.trans (honward.still.gaps.trans ((hcalm.counts _ (by decide)).trans (cnt_value (passTo b _) cGzGap)))
  · exact hfinish.clock.trans (honward.still.clock.trans hcalm.clock)

/-! ## PEER_ABORT (R316) -/

theorem comp_killRun (b : Block) (n st : Nat) {m : Nat} (h : m ≠ n) : runOf (killRun b n st) m = runOf b m := by
  have hcancel (d : Block) : (cancelL d n).comp = d.comp := by
    unfold cancelL
    split
    · rfl
    · refine foldl_keeps Block.comp (fun d c => ?_) _ _
      unfold cancelAt
      dsimp only
      refine (foldl_keeps Block.comp (fun d x => ?_) _ _).trans ?_
      · rfl
      · rfl
  have hcores (l : List Nat) (d : Block) : (l.foldl (fun b c => putCore b c { coreOf b c with sending := 0 }) d).comp = d.comp := by
    refine foldl_keeps Block.comp (fun d c => ?_) l d
    rfl
  have hstreams (l : List Nat) (d : Block) : (l.foldl endStream d).comp = d.comp := foldl_keeps Block.comp comp_endStream l d
  unfold killRun
  split
  · rfl
  · split
    · rfl
    · dsimp only
      rw [runOf, hcancel]
      dsimp only
      rw [hcores, hstreams]
      exact fmGet?_fmSet_ne _ _ h

/-- A run killed in its turn, among others, must end with that status. -/
theorem runTasks_kills {n st : Nat} (hst : Stands st) (fuel : Nat) {ns : List Nat} (hmem : n ∈ ns) (hfuel : ns.length ≤ fuel) {b : Block} {r : Run}
    (hr : runOf b n = some r) (hlive : r.endedAt = none) (hfree : r.abort = none) :
    Aborted (runTasks fuel (ns.map (fun m => Task.kill m st)) b) n st := by
  induction ns generalizing b fuel with
  | nil => cases hmem
  | cons m ms ih =>
    obtain ⟨k, rfl⟩ : ∃ k, fuel = k + 1 := ⟨fuel - 1, by simp at hfuel; omega⟩
    have hstep : runTasks (k + 1) ((m :: ms).map (fun m => Task.kill m st)) b = runTasks k (ms.map (fun m => Task.kill m st)) (killRun b m st) := by
      simp only [List.map_cons, runTasks, doTask, act, List.append_nil]
    rw [hstep]
    by_cases e : n = m
    · have hsteady := runTasks_ends k (ts := ms.map (fun m => Task.kill m st)) (fun t ht => by
        obtain ⟨x, -, rfl⟩ := List.mem_map.1 ht
        trivial) (killRun b m st)
      exact hsteady.stands n st hst (e ▸ killRun_aborted hr hlive hfree hst)
    · exact ih k ((List.mem_cons.1 hmem).resolve_left e) (by simpa using hfuel) ((comp_killRun b m st e).trans hr)

/-- What the arrival of a message leaves of the block: only the fabric, the counters of messages and the outputs may differ, and no propagation
has been acted on. -/
theorem arrived_eq (b : Block) (h : GzHdr) (m : GzMsg) : ∃ fab ctr out, arrived b h m = { b with fab := fab, ctr := ctr, out := out } ∧
    fab.aborts = b.fab.aborts ∧ fmGet ctr cPeerAbort 0 = fmGet b.ctr cPeerAbort 0 := by
  have hsent (d : Block) (hd : ∃ fab, d = { b with fab := fab } ∧ fab.aborts = b.fab.aborts) : ∃ fab ctr out,
      (if h.tree then treeForward d h m else d) = { b with fab := fab, ctr := ctr, out := out } ∧ fab.aborts = b.fab.aborts ∧
        fmGet ctr cPeerAbort 0 = fmGet b.ctr cPeerAbort 0 := by
    obtain ⟨fab, rfl, haborts⟩ := hd
    split
    · obtain ⟨-, hcounts, -, _, _, _, _, _, _, hrest⟩ := posts_treeForward { b with fab := fab } h m
      have hcount := hcounts cPeerAbort (by decide)
      rw [hrest] at hcount
      rw [hrest]
      exact ⟨_, _, _, rfl, haborts, hcount⟩
    · exact ⟨_, _, _, rfl, haborts, rfl⟩
  exact hsent _ ⟨_, rfl, rfl⟩

/-- A message that arrives in its turn is delivered to the block it has arrived in, and nothing is held behind it. -/
theorem receive_inTurn {s : State} {h : GzHdr} (ht : InTurn s h h.tree) (m : GzMsg) : ∃ x : RxSpace,
    fmGet? (arrived s.blk h m).fab.rx (spaceKey h.src h.tree) = some x ∧ x.gen = h.gen ∧ x.next = h.seq + 1 ∧ x.held = [] ∧
    receive h m s.blk = andThen (deliverMsg (arrived s.blk h m) h m) (drainSpace (spaceKey h.src h.tree) 65) := by
  obtain ⟨-, hidle, hport, hadmitted, hhere, hhops, hturn⟩ := ht
  obtain ⟨y, hy, hgen, hnext, hheld⟩ : ∃ y, (fmGet? s.blk.fab.rx (spaceKey h.src h.tree)).getD { gen := h.gen, next := 0, held := [], gap := none } = y ∧
      h.gen = y.gen ∧ h.seq = y.next ∧ y.held = [] := by
    cases hrx : fmGet? s.blk.fab.rx (spaceKey h.src h.tree) with
    | none =>
      have hseq : h.seq = 0 := by simpa [hrx] using hturn
      exact ⟨_, rfl, rfl, hseq, rfl⟩
    | some z =>
      obtain ⟨hgen, hnext, hheld⟩ : z.gen = h.gen ∧ z.next = h.seq ∧ z.held = [] := by simpa [hrx] using hturn
      exact ⟨z, rfl, hgen.symm, hnext.symm, hheld⟩
  obtain ⟨c, hc⟩ : ∃ c, putSpace (heard s.blk h.port true) (spaceKey h.src h.tree) { y with next := y.next + 1, gap := none } = c := ⟨_, rfl⟩
  have harrived : arrived s.blk h m = if h.tree then treeForward c h m else c := by
    unfold arrived
    dsimp only
    rw [hy, hc]
  have hdeliver : deliver c h m = deliverMsg (arrived s.blk h m) h m := by
    have hstage : (arrived s.blk h m).rcv.stage = .idle := by
      obtain ⟨_, _, _, hrest, -⟩ := arrived_eq s.blk h m
      rw [hrest]; exact hidle
    unfold deliver
    dsimp only
    rw [← harrived, if_pos hstage]
  have hspace : (arrived s.blk h m).fab.rx = c.fab.rx := by
    rw [harrived]
    split
    · exact (posts_treeForward c h m).still.rx
    · rfl
  refine ⟨{ y with next := y.next + 1, gap := none }, ?_, hgen.symm, congrArg (· + 1) hnext.symm, hheld, ?_⟩
  · rw [hspace, ← hc]
    exact fmGet?_fmSet_self _ _ _
  · have hopen : (decide (h.port < 6) && (linkOf s.blk h.port).admitted && decide (h.dst = chipNo s.blk)) = true := by
      simp [hport, hadmitted, hhere]
    have hy' : (fmGet? (heard s.blk h.port true).fab.rx (spaceKey h.src h.tree)).getD { gen := h.gen, next := 0, held := [], gap := none } = y := hy
    unfold receive
    dsimp only
    rw [if_pos hopen, if_neg (Nat.not_le.mpr hhops)]
    unfold sequence
    dsimp only
    rw [hy', if_pos hgen, if_pos hnext, hc, hdeliver]

/-- The heats of a partition that propagation ends. -/
theorem mem_remoteRuns {b : Block} {n part : Nat} {r : Run} (hr : runOf b n = some r) (hpart : r.part = part) (hlive : r.endedAt = none)
    (hfree : r.abort = none) (hdeps : remoteDeps b n ≠ []) : (n, r) ∈ remoteRuns b (some part) (fun _ => true) := by
  obtain ⟨c, hc⟩ := List.exists_mem_of_ne_nil _ hdeps
  refine List.mem_filter.2 ⟨mem_of_fmGet? hr, ?_⟩
  have hany : (remoteDeps b n).any (fun _ => true) = true := List.any_eq_true.2 ⟨c, hc, rfl⟩
  simp [hlive, liveForPeers, hfree, hpart, hany]

theorem peerAbort_ends {s : State} {h : GzHdr} (ht : InTurn s h h.tree) {c part : Nat} {num : BitVec 32} (hfirst : (c, num) ∉ s.blk.fab.aborts) :
    let d := finish (receive h (.peerAbort c part num) s.blk)
    (fmGet? d.fab.rx (spaceKey h.src h.tree)).map (fun x => (x.gen, x.next, x.held)) = some (h.gen, h.seq + 1, []) ∧
      d.fab.aborts = s.blk.fab.aborts ++ [(c, num)] ∧
      fmGet d.ctr 0x264 0 = satAdd 32 (fmGet s.blk.ctr 0x264 0) (remoteRuns s.blk (some part) (fun _ => true)).length ∧
      ∀ n r, runOf s.blk n = some r → r.part = part → r.endedAt = none → r.abort = none → remoteDeps s.blk n ≠ [] →
        Aborted d n 0x16 := by
  obtain ⟨x, hx, hgen, hnext, hheld, hreceive⟩ := receive_inTurn ht (.peerAbort c part num)
  obtain ⟨fab, ctr, out, harrived, haborts, hcount⟩ := arrived_eq s.blk h (.peerAbort c part num)
  obtain ⟨runs, hruns⟩ : ∃ l, remoteRuns s.blk (some part) (fun _ => true) = l := ⟨_, rfl⟩
  obtain ⟨b, hb⟩ : ∃ b, arrived s.blk h (.peerAbort c part num) = b := ⟨_, rfl⟩
  rw [hb] at hx hreceive harrived
  have hruns' : remoteRuns b (some part) (fun _ => true) = runs := by rw [harrived]; exact hruns
  obtain ⟨acted, hacted⟩ : ∃ a, cntAdd { b with fab := { b.fab with aborts := b.fab.aborts ++ [(c, num)] } } cPeerAbort runs.length = a := ⟨_, rfl⟩
  obtain ⟨e, he⟩ : ∃ e, fabRec acted 0x08 7 c 0 c num.toNat runs.length = e := ⟨_, rfl⟩
  have hpeer : peerAct b c part num = (e, runs.map (fun x => Task.kill x.1 stPeerFault)) := by
    have hnew : ¬ b.fab.aborts.contains (c, num) = true := by rw [harrived, List.contains_iff_mem]; exact haborts ▸ hfirst
    unfold peerAct
    rw [if_neg hnew, hruns']
    dsimp only
    rw [hacted, he]
  have hcalm : Calm quietKeys acted e := he ▸ calm_fabRec _ _ _ _ _ _ _ _
  have hrcv : e.rcv = s.blk.rcv := by rw [hcalm.rcv, ← hacted, harrived]; rfl
  have hrx : e.fab.rx = b.fab.rx := (hcalm.still (by decide)).rx.trans (hacted ▸ rfl)
  obtain ⟨g, hg⟩ : ∃ g, putSpace e (spaceKey h.src h.tree) { x with gap := none } = g := ⟨_, rfl⟩
  have hfinal : receive h (.peerAbort c part num) s.blk =
      (g, runs.map (fun x => Task.kill x.1 stPeerFault)) := by
    have hdeliver : deliverMsg b h (.peerAbort c part num) = peerAct b c part num := rfl
    rw [hreceive, hdeliver, hpeer]
    simp only [andThen, drainSpace_empty (hrx ▸ hx) hheld, act, List.append_nil, hg]
  have hkills : ∀ t ∈ runs.map (fun x => Task.kill x.1 stPeerFault), t.calms quietKeys := by
    intro t hmem
    obtain ⟨y, -, rfl⟩ := List.mem_map.1 hmem
    trivial
  have hends : Calm quietKeys g (finish (receive h (.peerAbort c part num) s.blk)) := by
    rw [hfinal]
    exact finish_calms (a := (g, runs.map (fun x => Task.kill x.1 stPeerFault))) (List.Subset.refl _) hkills
  refine ⟨?_, ?_, ?_, fun n r hr hpart hlive hfree hdeps => ?_⟩
  · have hspace : fmGet? g.fab.rx (spaceKey h.src h.tree) = some { x with gap := none } := hg ▸ fmGet?_fmSet_self _ _ _
    rw [(hends.still (by decide)).rx, hspace, Option.map_some, hgen, hnext, hheld]
  · have hnumbered : acted.fab.aborts = s.blk.fab.aborts ++ [(c, num)] := by
      rw [← hacted, harrived]; exact congrArg (· ++ [(c, num)]) haborts
    have hkept : g.fab.aborts = e.fab.aborts := hg ▸ rfl
    exact (hends.peers (by decide)).trans (hkept.trans ((hcalm.peers (by decide)).trans hnumbered))
  · have hcounted : fmGet acted.ctr cPeerAbort 0 = satAdd 32 (fmGet s.blk.ctr cPeerAbort 0) runs.length := by
      rw [← hacted, harrived]
      exact (fmGet_fmSet_self _ _ _ _).trans (congrArg (satAdd 32 · runs.length) hcount)
    have hkept : g.ctr = e.ctr := hg ▸ rfl
    rw [hruns]
    exact (hends.counts _ (by decide)).trans (hkept ▸ (hcalm.counts _ (by decide)).trans hcounted)
  · have hmem : n ∈ runs.map Prod.fst := List.mem_map.2 ⟨_, hruns ▸ mem_remoteRuns hr hpart hlive hfree hdeps, rfl⟩
    have hsize : runs.length ≤ s.blk.comp.runs.length := hruns ▸ List.length_filter_le _ _
    have hcomp : g.comp = s.blk.comp := by
      obtain ⟨_, _, _, hrec⟩ := fabRec_eq acted 0x08 7 c 0 c num.toNat runs.length
      rw [← hg, ← he, hrec, ← hacted, harrived]
      rfl
    have hstage : g.rcv.stage = .idle := by rw [← hg, ← ht.idle, ← congrArg Recovery.stage hrcv]; rfl
    have hne : runs.map (fun x => Task.kill x.1 stPeerFault) ≠ [] := by
      intro hnil
      rw [List.map_eq_nil_iff.1 hnil] at hmem
      cases hmem
    have hfuel : (runs.map Prod.fst).length ≤ taskFuel g := by rw [List.length_map, taskFuel, hcomp]; omega
    have hkilled := runTasks_kills (st := stPeerFault) ⟨by decide, by decide⟩ (taskFuel g) hmem hfuel (b := numbered g) (r := r)
      (by rw [← hr, runOf, runOf, ← hcomp]; rfl) hlive hfree
    rw [List.map_map] at hkilled
    rw [hfinal, finish_tasks hstage hne]
    exact hkilled

/-! ## Routes (R309, R310, R318, R468) -/

/-- From `a` to `b`, the plan, the routes and the graph, the registers and the count of route changes are the same. -/
structure Carries (a b : Block) : Prop where
  fab : ∃ ports resend txSeq treeSeq abortNum aborts flood seq, b.fab = { a.fab with
    ports := ports, resend := resend, txSeq := txSeq, treeSeq := treeSeq, abortNum := abortNum, aborts := aborts, flood := flood, seq := seq }
  regs : b.regs = a.regs
  changes : fmGet b.ctr cRouteChange 0 = fmGet a.ctr cRouteChange 0

theorem Carries.trans {a b c : Block} (h : Carries a b) (h' : Carries b c) : Carries a c := by
  obtain ⟨_, _, _, _, _, _, _, _, hb⟩ := h.fab
  obtain ⟨_, _, _, _, _, _, _, _, hc⟩ := h'.fab
  exact ⟨⟨_, _, _, _, _, _, _, _, by rw [hc, hb]⟩, h'.regs.trans h.regs, h'.changes.trans h.changes⟩

theorem Calm.carries {keys : List Nat} {a b : Block} (h : Calm keys a b) (hkeys : cRouteChange ∉ keys) : Carries a b := by
  obtain ⟨_, _, _, _, _, _, _, hfab⟩ := h.fab
  exact ⟨⟨_, _, _, _, _, _, _, _, hfab⟩, h.regs, h.counts _ hkeys⟩

theorem Posts.carries {a b : Block} (h : Posts a b) : Carries a b := h.calm.carries (by decide)

theorem carries_askLength (b : Block) (len : Nat) : Carries b (askLength b len) := by
  unfold askLength
  split
  · unfold scheduleLength
    dsimp only
    split
    · exact ⟨⟨_, _, _, _, _, _, _, _, rfl⟩, rfl, rfl⟩
    · exact ⟨⟨_, _, _, _, _, _, _, _, rfl⟩, rfl, rfl⟩
  · split
    · exact (posts_gzSend _ _ _).carries
    · exact (Posts.refl b).carries

theorem carries_newBound (b : Block) : Carries b (newBound b) := by
  have hbound : Carries b { b with fab := { b.fab with flood := floodBound b } } := ⟨⟨_, _, _, _, _, _, _, _, rfl⟩, rfl, rfl⟩
  unfold newBound
  dsimp only
  split
  · exact hbound.trans (carries_askLength _ _)
  · exact hbound

theorem calm_watchesSend (b : Block) : Calm quietKeys b (watchesSend b) :=
  Calm.foldl (fun b _ => (calm_fen b _).trans (posts_gzSend _ _ _).calm) _ _

/-- The block with its routes computed anew. -/
def rerouted (b : Block) : Block := { b with fab := { b.fab with routes := allRoutes b, stale := false } }

/-- New routes are kept, and counted. -/
theorem recompute_spec (b : Block) : ∃ d, Posts (rerouted b) d ∧ Carries (cnt d cRouteChange) (finish (recompute b)) := by
  obtain ⟨d, hd⟩ : ∃ d, sixPorts.foldl (fun b p => if (linkOf b p).trained then emit b (.routes p) else b) (rerouted b) = d := ⟨_, rfl⟩
  have hposts : Posts (rerouted b) d := hd ▸ Posts.foldl (fun b p => by
    split
    · exact posts_emit _ _
    · exact .refl b) _ _
  refine ⟨d, hposts, ?_⟩
  obtain ⟨gone, hgone⟩ : ∃ l, (fmKeys b.fab.routes).filter (fun c => !fmHas (rerouted b).fab.routes c) = l := ⟨_, rfl⟩
  obtain ⟨e, he⟩ : ∃ e, newBound (cnt d cRouteChange) = e := ⟨_, rfl⟩
  obtain ⟨f, hf⟩ : ∃ f, fabRec e 0x06 7 e.fab.cause.1 0 (e.fab.cause.1 + e.fab.cause.2.toNat * 2 ^ 32) e.fab.flood (unreachable e) = f := ⟨_, rfl⟩
  have hrun : recompute b = (watchesSend (resendAll f), endDependents f gone.contains) := by
    subst hf he hd hgone
    rfl
  have hends := endDependents_calms f gone.contains
  have hbound : Carries (cnt d cRouteChange) e := he ▸ carries_newBound _
  have hrecorded : Carries e f := hf ▸ (calm_fabRec _ _ _ _ _ _ _ _).carries (by decide)
  have hsent : Carries f (watchesSend (resendAll f)) := (posts_resendAll f).carries.trans ((calm_watchesSend _).carries (by decide))
  rw [hrun]
  exact hbound.trans (hrecorded.trans (hsent.trans
    ((finish_calms (a := (watchesSend (resendAll f), endDependents f gone.contains)) quietKeys_sub hends).carries (by decide))))

theorem recompute_routes (b : Block) : (finish (recompute b)).fab.routes = allRoutes b ∧ (finish (recompute b)).fab.stale = false ∧
    fmGet (finish (recompute b)).ctr 0x260 0 = satAdd 32 (fmGet b.ctr 0x260 0) 1 ∧ (finish (recompute b)).regs = b.regs ∧
    (finish (recompute b)).fab.plan = b.fab.plan ∧ (finish (recompute b)).fab.status = b.fab.status ∧
    (finish (recompute b)).fab.loading = b.fab.loading := by
  obtain ⟨d, hposts, ⟨_, _, _, _, _, _, _, _, hfab⟩, hregs, hcount⟩ := recompute_spec b
  have hbefore : fmGet d.ctr cRouteChange 0 = fmGet b.ctr cRouteChange 0 := hposts.counts _ (by decide)
  obtain ⟨-, -, -, _, _, _, _, _, _, rfl⟩ := hposts
  rw [hfab]
  exact ⟨rfl, rfl, hcount.trans ((cnt_value _ cRouteChange).trans (congrArg (satAdd 32 · 1) hbefore)), hregs, rfl, rfl, rfl⟩

/-! ## The plan (R300, R303, R304) -/

/-- From `a` to `b`, the plan, its status and the registers are the same. -/
structure Planned (a b : Block) : Prop where
  plan : b.fab.plan = a.fab.plan
  status : b.fab.status = a.fab.status
  loading : b.fab.loading = a.fab.loading
  regs : b.regs = a.regs

namespace Planned

variable {a b c : Block}

theorem refl (a : Block) : Planned a a := ⟨rfl, rfl, rfl, rfl⟩

theorem trans (h : Planned a b) (h' : Planned b c) : Planned a c :=
  ⟨h'.plan.trans h.plan, h'.status.trans h.status, h'.loading.trans h.loading, h'.regs.trans h.regs⟩

theorem foldl {α : Type} {f : Block → α → Block} (h : ∀ b x, Planned b (f b x)) (l : List α) (b : Block) : Planned b (l.foldl f b) := by
  induction l generalizing b with
  | nil => exact refl b
  | cons x xs ih => exact (h b x).trans (ih (f b x))

theorem ite {p : Prop} [Decidable p] (h : Planned a b) (h' : Planned a c) : Planned a (if p then b else c) := by
  split
  · exact h
  · exact h'

end Planned

theorem Calm.planned {keys : List Nat} {a b : Block} (h : Calm keys a b) : Planned a b := by
  obtain ⟨_, _, _, _, _, _, _, hfab⟩ := h.fab
  exact ⟨by rw [hfab], by rw [hfab], by rw [hfab], h.regs⟩

theorem Posts.planned {a b : Block} (h : Posts a b) : Planned a b := h.calm.planned

theorem WritesBack.planned {a b : Block} (h : WritesBack a b) : Planned a b := by
  obtain ⟨_, _, _, _, _, rfl⟩ := h
  exact ⟨rfl, rfl, rfl, rfl⟩

theorem planned_tideRec (b : Block) (e : TideEv) : Planned b (tideRec b e) := by
  unfold tideRec
  dsimp only
  refine .ite (.refl b) (Planned.trans ?_ (writesBack_ringPut _ _ _ _ _ _ _).planned)
  exact ⟨rfl, rfl, rfl, rfl⟩

theorem planned_suspendSource (b : Block) (id : Nat) (l : Live) : Planned b (suspendSource b id l) := by
  have hput (x : Live) : Planned b (putLive b id x) :=
    Planned.trans (b := { b with live := fmSet b.live id x }) ⟨rfl, rfl, rfl, rfl⟩ (writesBack_wrOwn _ _ _).planned
  exact .ite ((hput _).trans (posts_gzTree _ _).planned) (.refl b)

theorem Planned.tideRec {b c : Block} (h : Planned b c) (t : Tide) (e : TideEv) : Planned b (tideRec { c with tide := t } e) :=
  h.trans (Planned.trans (b := { c with tide := t }) ⟨rfl, rfl, rfl, rfl⟩ (planned_tideRec _ e))

theorem planned_leaveDomain (b : Block) (cause : Nat) : Planned b (leaveDomain b cause) := by
  unfold leaveDomain
  dsimp only
  refine .ite (Planned.tideRec ?_ _ _) (.refl b)
  exact (Planned.foldl (f := fun b (x : Nat × Live) => suspendSource b x.1 x.2) (fun b x => planned_suspendSource b x.1 x.2) _ b).trans
    (posts_gzTree _ _).planned

theorem planned_putLink (b : Block) (p : Nat) (l : LinkPort) : Planned b (putLink b p l) := ⟨rfl, rfl, rfl, rfl⟩

theorem planned_audit (b : Block) (e : AuditEv) : Planned b (audit b e) := by
  obtain ⟨_, _, _, _, _, h⟩ := logs_audit b e
  rw [h]; exact ⟨rfl, rfl, rfl, rfl⟩

theorem planned_fabRec (b : Block) (type port peer result a v count : Nat) : Planned b (fabRec b type port peer result a v count) :=
  (calm_fabRec _ _ _ _ _ _ _ _).planned

theorem planned_noteOutcome (b : Block) (p o : Nat) (ok : Bool) : Planned b (noteOutcome b p o ok) := by
  unfold noteOutcome
  dsimp only
  exact (planned_putLink b p _).trans (.ite (.refl _) (.ite ((planned_fabRec _ _ _ _ _ _ _ _).trans (planned_audit _ _)) (planned_fabRec _ _ _ _ _ _ _ _)))

theorem planned_noteSwap (b : Block) (p q : Nat) (pass : Bool) : Planned b (noteSwap b p q pass) := by
  unfold noteSwap
  dsimp only
  exact Planned.trans ((Planned.ite (planned_noteOutcome _ _ _ _) (.refl b)).trans (planned_noteOutcome _ _ _ _))
    (.ite (.refl _) (planned_fabRec _ _ _ _ _ _ _ _))

theorem planned_checkPort (b : Block) (pass : Bool) (p : Nat) : Planned b (checkPort b pass p) := by
  have hsend (c : Block) (P : Prop) [Decidable P] : Planned c (if P then c else linkStateSend c) :=
    .ite (.refl c) (Planned.trans (b := versioned c) ⟨rfl, rfl, rfl, rfl⟩ (posts_linkStateSend c).planned)
  unfold checkPort
  dsimp only
  refine .ite (.refl b) (Planned.trans ?_ (hsend _ _))
  split
  · exact planned_noteSwap _ _ _ _
  · exact planned_noteOutcome _ _ _ _

/-- The block with a plan in force, before anything follows from it. -/
def planSet (b : Block) (p : Plan) : Block := wgenUp { b with fab := { b.fab with plan := some p, status := psActive, loading := none } }

/-- A chip that the plan leaves out of its domain leaves it; one that may not join is recorded. -/
def domainSettled (b : Block) (p : Plan) : Block :=
  if b.tide.member && (!memberOf b (chipNo b) || !slackHolds b) then leaveDomain b tcPlan
  else if p.twoRack && memberOf b (chipNo b) && !slackHolds b then tideRec b { type := tyLeave, cause := tcPlan, frame := b.tide.frame }
  else b

theorem planned_domainSettled (b : Block) (p : Plan) : Planned b (domainSettled b p) :=
  .ite (planned_leaveDomain _ _) (.ite (planned_tideRec _ _) (.refl b))

/-- What a plan means for a port: its class, and the neighbour told, or the port shown as it is. -/
def portPlanned (b : Block) (i : Nat) : Block :=
  let l := linkOf b i
  let b := emit b (.reach i (reachOf b i))
  if l.trained then gzLink b i (.linkIdent (identWord b i))
  else if l.state = 5 then putLink b i { l with passed := false }
  else putLink b i { l with state := idleState b i, passed := false, downs := if l.state = 6 then [] else l.downs }

theorem planned_portPlanned (b : Block) (i : Nat) : Planned b (portPlanned b i) :=
  Planned.trans (b := emit b (.reach i (reachOf b i))) ⟨rfl, rfl, rfl, rfl⟩
    (.ite (posts_gzLink _ _ _).planned (.ite (planned_putLink _ _ _) (planned_putLink _ _ _)))

/-- Routes are computed once the plan has settled the domain and the ports. -/
theorem planTake_eq (b : Block) (p : Plan) : ∃ d, Planned (planSet b p) d ∧ planTake b p = recompute d := by
  obtain ⟨c, hc⟩ : ∃ c, domainSettled (planSet b p) p = c := ⟨_, rfl⟩
  obtain ⟨d, hd⟩ : ∃ d, fabRec c 0x0B 7 (chipNo c) 0 p.version psActive 0 = d := ⟨_, rfl⟩
  refine ⟨sixPorts.foldl (fun b i => checkPort b true i) (sixPorts.foldl portPlanned d), ?_, ?_⟩
  · exact (hc ▸ planned_domainSettled _ _).trans ((hd ▸ planned_fabRec _ _ _ _ _ _ _ _).trans
      ((Planned.foldl planned_portPlanned _ d).trans (Planned.foldl (fun b i => planned_checkPort b true i) _ _)))
  · subst hd hc
    rfl

theorem planTake_finish (b : Block) (p : Plan) : (finish (planTake b p)).fab.plan = some p ∧ (finish (planTake b p)).fab.status = 2 ∧
    (finish (planTake b p)).fab.loading = none ∧ (finish (planTake b p)).fab.stale = false ∧
    (finish (planTake b p)).regs.wgen = (b.regs.wgen + 1) % 2 ^ 16 := by
  obtain ⟨d, hplanned, hrun⟩ := planTake_eq b p
  obtain ⟨-, hstale, -, hregs, hplan, hstatus, hloading⟩ := recompute_routes d
  rw [hrun]
  refine ⟨hplan.trans hplanned.plan, hstatus.trans hplanned.status, hloading.trans hplanned.loading, hstale, ?_⟩
  rw [hregs, hplanned.regs]
  rfl

theorem planRefuse_spec (b : Block) (a : DictAcc) (st : Nat) : (planRefuse b a st).fab = { b.fab with status := st, loading := none } ∧
    (planRefuse b a st).aud.seq = b.aud.seq + 1 := by
  refine ⟨?_, (audit_spec _ _).2⟩
  unfold planRefuse
  obtain ⟨_, _, _, _, _, h⟩ := logs_audit { b with fab := { b.fab with status := st, loading := none } }
    { type := auActionRefused, result := drState, path := a.path, org := a.org, idx := a.idx, sub := a.sub, detail := st }
  rw [h]

/-- INSTALL reads a plan in this chip's memory; elsewhere it has failed. -/
theorem planInstall_reads {b : Block} {a : DictAcc} {d : Desc} (hidx : a.idx = 0x5000) (hsub : a.sub = 3) :
    let c := finish ((rowPlanInstall a).run (dictStore (noted b a) a d))
    (isLocal b (dget b 0x5000 1) = true → c.fab = { b.fab with status := 1, loading := some (a, dget b 0x5000 1, dget b 0x5000 2) }) ∧
    (isLocal b (dget b 0x5000 1) = false → c.fab = { b.fab with status := 3, loading := none }) := by
  have hother {k : Nat} (hk : k < 256) (hne : k ≠ 3) : dget (dictStore (noted b a) a d) 0x5000 k = dget b 0x5000 k := by
    have hkey : dkey 0x5000 k ≠ dkey a.idx a.sub := by unfold dkey; omega
    rw [dget_dictStore_ne _ _ _ hkey]
    obtain ⟨_, hn⟩ := noted_eq b a
    rw [hn]; rfl
  have hfab : (dictStore (noted b a) a d).fab = b.fab := by
    obtain ⟨_, _, _, _, _, _, _, _, _, h⟩ := dictStore_noted b a d
    rw [h]
  have hlocal (g : Nat) : isLocal (dictStore (noted b a) a d) g = isLocal b g := by rw [isLocal, chipNo, hother (by decide) (by decide)]; rfl
  intro c
  obtain ⟨e, he⟩ : ∃ e, dictStore (noted b a) a d = e := ⟨_, rfl⟩
  rw [he] at hother hfab hlocal
  have haddr : dget e 0x5000 1 = dget b 0x5000 1 := hother (by decide) (by decide)
  have hlen : dget e 0x5000 2 = dget b 0x5000 2 := hother (by decide) (by decide)
  have hrun : c = if isLocal b (dget b 0x5000 1) then
      { e with fab := { e.fab with status := psLoading, loading := some (a, dget b 0x5000 1, dget b 0x5000 2) } } else planRefuse e a psRead := by
    show finish ((rowPlanInstall a).run (dictStore (noted b a) a d)) = _
    simp only [rowPlanInstall, he, haddr, hlen, hlocal]
    split
    · rfl
    · rfl
  refine ⟨fun h => ?_, fun h => ?_⟩
  · rw [hrun, if_pos h]
    exact hfab ▸ rfl
  · rw [hrun, if_neg (by rw [h]; decide), (planRefuse_spec e a psRead).1, hfab]
    rfl

/-- Settles O51: each message and each report leaves the fabric as its rule says; what follows from it ends runs. -/
theorem fabricRouting : Obligations.FabricRouting := by
  unfold Obligations.FabricRouting
  intro s halive
  dsimp only
  refine ⟨fun h c v mask hport htrained => ⟨fun hhops hother hnewer => ?_, fun hhops hknown => ?_, fun hhops => ?_⟩, fun hbooted hstale => ?_,
    fun h type bytes hport hadmitted hother heven => ⟨fun q hknown hhops hroute hopen hretry hfirst => ?_, fun hknown hroute hhops => ?_,
      fun hknown hroute => ?_, fun hknown => ?_⟩, fun p type crcOk hp htrained hbad => ?_, fun src u tree x n m h hx hgap hheld hgen => ?_,
    fun h c part num hturn hfirst => ?_, fun a d hready hidx => ⟨fun hsub hvalue => ⟨fun hfree => ?_, fun hbusy => ?_⟩,
      fun hsub => ⟨fun hnone => ?_, fun hsome => ?_⟩⟩, fun a addr len hloading => ⟨?_, fun bytes => ?_⟩⟩
  · exact gives_withBlk (lift_eq (f := fun b => linkStateRead b h c v mask) halive rfl)
      (linkStateRead_newer hport htrained c v mask hhops hother hnewer)
  · exact gives_withBlk (lift_eq (f := fun b => linkStateRead b h c v mask) halive (linkStateRead_known hport htrained c v mask hhops hknown))
      ⟨rfl, rfl, rfl⟩
  · exact gives_withBlk (lift_eq (f := fun b => linkStateRead b h c v mask) halive (linkStateRead_spent hport htrained c v mask hhops))
      ⟨rfl, rfl, cnt_value (heard s.blk h.port true) cGzHop⟩
  · have hrun : exec .routeRecompute s = .next (s.withBlk (finish (recompute s.blk))) := by
      refine (liftU_booted hbooted fun b => finish (if b.fab.stale then recompute b else act b)).trans ?_
      rw [if_pos hstale]
    obtain ⟨hroutes, hfresh, hcount, -⟩ := recompute_routes s.blk
    generalize finish (recompute s.blk) = d at hrun hroutes hfresh hcount
    refine gives_withBlk hrun ⟨hroutes, hfresh, hcount, fun hnone => ?_⟩
    refine hroutes.trans ?_
    rw [allRoutes, hnone]
    rfl
  · exact gives_withBlk (lift_eq (f := fun b => forward b h type bytes) halive (forward_known hport hadmitted hother heven hknown))
      (gzRoute_out (b := heard s.blk h.port true) hroute hhops ((heard_admitted _ _ _ _).trans hopen) hretry hfirst)
  · refine gives_withBlk (lift_eq (f := fun b => forward b h type bytes) halive ((forward_known hport hadmitted hother heven hknown).trans
      (gzRoute_spent (b := heard s.blk h.port true) hroute hhops))) ⟨rfl, cnt_value (heard s.blk h.port true) cGzHop⟩
  · refine gives_withBlk (lift_eq (f := fun b => forward b h type bytes) halive ((forward_known hport hadmitted hother heven hknown).trans
      (gzRoute_lost (b := heard s.blk h.port true) hroute))) ⟨rfl, cnt_value (heard s.blk h.port true) cGzNoRoute⟩
  · exact gives_withBlk (lift_eq (f := fun b => forward b h type bytes) halive (forward_unknown hport hadmitted hother heven hknown))
      ⟨rfl, cnt_value (heard s.blk h.port true) cGzCrcDrop⟩
  · exact gives_withBlk (liftA_alive halive fun b => crcDrop b p type crcOk) (crcDrop_gives hp htrained hbad)
  · exact gives_withBlk (liftA_alive halive fun b => gapTimeout b src tree) (gapTimeout_skips hx hgap hheld hgen)
  · exact gives_withBlk (liftA_alive halive (receive h (.peerAbort c part num))) (peerAbort_ends hturn hfirst)
  · have hstatus : (noted s.blk a).fab.status = s.blk.fab.status := by obtain ⟨_, hn⟩ := noted_eq s.blk a; rw [hn]
    have hcond : (rowPlanInstall a).cond (noted s.blk a) = none := stateIf_true (decide_eq_true (by rw [hstatus]; exact hfree))
    exact gives_withBlk (dictRow_stores (row := rowPlanInstall a) hready (by simp [rowPlanInstall, hidx, hsub, hvalue]) hcond)
      (planInstall_reads hidx hsub)
  · have hstatus : (noted s.blk a).fab.status = s.blk.fab.status := by obtain ⟨_, hn⟩ := noted_eq s.blk a; rw [hn]
    have hcond : (rowPlanInstall a).cond (noted s.blk a) = some (0x05, 7) :=
      stateIf_false (decide_eq_false (by rw [hstatus, not_not]; exact hbusy))
    exact dictRow_refuses hready (by simp [rowPlanInstall, hidx, hsub, hvalue]) hcond
  · have hmask : ownMask (noted s.blk a) = ownMask s.blk := by obtain ⟨_, hn⟩ := noted_eq s.blk a; rw [hn]; rfl
    have hcond : (rowChipNumber a).cond (noted s.blk a) = none := stateIf_true (decide_eq_true (hmask.trans hnone))
    have hself := dget_dictStore_self (noted s.blk a) a d (by rw [hidx, hsub]; decide)
    rw [hidx, hsub] at hself
    exact ⟨dictRow_stores (row := rowChipNumber a) hready (by simp [rowChipNumber, hidx, hsub]) hcond, hself⟩
  · have hmask : ownMask (noted s.blk a) = ownMask s.blk := by obtain ⟨_, hn⟩ := noted_eq s.blk a; rw [hn]; rfl
    have hcond : (rowChipNumber a).cond (noted s.blk a) = some (0x05, 7) := stateIf_false (decide_eq_false (by rw [hmask]; exact hsome))
    exact dictRow_refuses hready (by simp [rowChipNumber, hidx, hsub]) hcond
  · refine gives_withBlk (lift_eq (f := fun b => retire (finish (planRead b none)) [.plan]) halive rfl) ?_
    have hread : planRead s.blk none = act (planRefuse s.blk a psRead) := by simp only [planRead, hloading]
    rw [hread]
    exact planRefuse_spec s.blk a psRead
  · refine gives_withBlk (lift_eq (f := fun b => retire (finish (planRead b (some bytes))) [.plan]) halive rfl) ?_
    cases hcheck : planCheck s.blk len bytes with
    | error st =>
      have hread : planRead s.blk (some bytes) = act (planRefuse s.blk a st) := by simp only [planRead, hloading, hcheck]
      rw [hread]
      exact planRefuse_spec s.blk a st
    | ok p =>
      have hread : planRead s.blk (some bytes) = planTake s.blk p := by simp only [planRead, hloading, hcheck]
      have htaken := planTake_finish s.blk p
      rw [hread]
      generalize finish (planTake s.blk p) = d at htaken
      exact htaken

end Sys2Proof.Machine
end
